-- ==== Sys2Proof/Word.lean ====
section
/-! DEFINITION. The plain word types of the model: bytes, instruction words, digests. -/

namespace Sys2Proof

/-- One byte. -/
abbrev Byte := BitVec 8

/-- One 128-bit instruction word (03 R91). -/
abbrev Word128 := BitVec 128

/-- A SHA-256 value, written as the big-endian reading of its 32 bytes. -/
abbrev Digest := BitVec 256

/-- A finite table of instances keyed by a number: strictly rising keys, no entry equal to the
value an unlisted key reads as (see `tget` and `tput` in Machine/Ops.lean). -/
abbrev Table (α : Type) := List (Nat × α)

end Sys2Proof
end

