-- ==== Sys2Proof/Syntax.lean ====
section
/-! DEFINITION. The commands the module takes: one constructor of `Instr` for each row of
spec/opcode_table.json, and the types of their operands. Numbers are the manual's; what an operand
stands for is said beside it. Whether a signature, an AES-256-GCM tag or a link CRC verifies is an
operand (see the assumption log). -/

namespace Sys2Proof

/-- The three instruction queues of a station (03 R87). -/
inductive Queue where
  | mx | vx | mv
  deriving DecidableEq, Repr

/-- A queue of a virtual station of a die (00 R43, 03 R87). -/
structure At where
  die : Fin 4
  unit : Fin 128
  q : Queue
  deriving DecidableEq, Repr

/-- Who a command comes from (17 Table 17-6); `journal` is firmware that applies an entry of the journal in replay
(15 R662). -/
inductive Caller where
  | pwin (p : Fin 4)
  | mwin
  | mgmt
  | journal
  deriving DecidableEq, Repr

/-- The mailbox slot a command was taken from and the partition a window-4 command names (17 R736, R737). -/
structure Via where
  caller : Caller
  slot : Fin 32
  deriving DecidableEq, Repr

/-- Grid class (02 R42). -/
inductive GridClass where
  | g512 | g448
  deriving DecidableEq, Repr

/-- Latency profile (07 R309). -/
inductive LProf where
  | lpC | lpA1 | lpB0
  deriving DecidableEq, Repr

/-- Schedule profile (06, The H6 schedule profile). -/
inductive SProf where
  | standard | h6
  deriving DecidableEq, Repr

/-- A refresh window: first cycle and length (08 R359). -/
structure RWindow where
  start : Nat
  len : Nat
  deriving DecidableEq, Repr

/-- One of the two window sets of a wellhead (08 R359). -/
inductive WinSet where
  | unused
  | windows (l : List RWindow)
  deriving DecidableEq, Repr

/-- The refresh windows of one wellhead in one step class (08 R359). -/
structure WellWindows where
  wh : Nat
  normal : WinSet
  hot : WinSet
  deriving DecidableEq, Repr

/-- A step class: W cycles, T nanoseconds, refresh windows (07 Table 7-1). -/
structure StepClass where
  w : Nat
  t : Nat
  wins : List WellWindows
  deriving DecidableEq, Repr

/-- A header template (11 Table 11-4). -/
structure Template where
  dstMod : Nat
  dstDie : Nat
  dstUnit : Nat
  op : Nat
  cls : Nat
  keyslot : Nat
  flags : Nat
  addr : Nat
  deriving DecidableEq, Repr

/-- A tier-map entry (08 Table 8-9); `resv` is the value of its reserved bytes. -/
structure TierEntry where
  tensor : Nat
  place : Nat
  wh : Nat
  home : Nat
  blocks : Nat
  back : Nat
  resv : Nat
  deriving DecidableEq, Repr

/-- Base and length, in beats, of one instruction buffer (03 Table 3-14). -/
structure IBuf where
  base : Nat
  len : Nat
  deriving DecidableEq, Repr

/-- The instruction buffers of one virtual station of a plan (03 R99). -/
structure StationBufs where
  die : Nat
  unit : Nat
  mx : IBuf
  vx : IBuf
  mv : IBuf
  deriving DecidableEq, Repr

/-- Bytes the loader places in a station's scratchpad, from a beat on (03 R99). -/
structure StationData where
  die : Nat
  unit : Nat
  beat : Nat
  bytes : List Byte
  deriving DecidableEq, Repr

/-- A header template of a die (11 R473). -/
structure DieTemplate where
  die : Nat
  idx : Nat
  tmpl : Template
  deriving DecidableEq, Repr

/-- One variant of a plan (19 R828); variant 0 runs from PLAN_START. -/
structure VariantImage where
  lprof : LProf
  classes : List StepClass
  pattern : List Nat
  bufs : List StationBufs
  tmpls : List DieTemplate
  deriving DecidableEq, Repr

/-- A collective of the plan header (11 R504). -/
structure Collective where
  index : Nat
  firstXfer : Nat
  count : Nat
  members : List (Nat × Nat)
  deriving DecidableEq, Repr

/-- A rung of a serving plan (13 R567): its variant, slots per micro-batch, prefill budget, commit
cycle and layer boundaries of each member. -/
structure Rung where
  variant : Nat
  s : Nat
  p : Nat
  commit : Nat
  bounds : List (List Nat)
  deriving DecidableEq, Repr

/-- The SERVE section of a plan header (13 Table 13-3). `home` says that this partition is HOME. -/
structure Serve where
  home : Bool
  stages : Nat
  rungs : List Rung
  maxCtx : Nat
  draftK : Nat
  preds : Nat
  lead : Nat
  deriving DecidableEq, Repr

/-- The WSWAP section of a plan header (14 R630): swap rung and the tensors of this member's layer groups. -/
structure WSwap where
  swapRung : Nat
  groups : List (List Nat)
  deriving DecidableEq, Repr

/-- An INPUT range of the plan header (15 Table 15-6): source kind, first address, length. -/
structure InputRange where
  kind : Nat
  addr : Nat
  len : Nat
  deriving DecidableEq, Repr

/-- A plan image (07 Table 7-1 and the sections other chapters add). `valid` says whether digest,
signature and header format hold; `digest` is the program digest; `members` names the member partitions by module and
lowest die, this one among them. -/
structure PlanImage where
  valid : Bool
  digest : Digest
  dies : List Nat
  grid : GridClass
  sprof : SProf
  variants : List VariantImage
  vlead : Nat
  rtt : List (Nat × Nat)
  weights : Bool
  seed : BitVec 64
  tierMap : List TierEntry
  data : List StationData
  collectives : List Collective
  peers : List (Nat × Nat)
  members : List (Nat × Nat)
  serve : Option Serve
  wswap : Option WSwap
  timeAddr : Option Nat
  inputs : List InputRange
  deriving DecidableEq, Repr

/-- A packet header (11 Table 11-1). -/
structure Header where
  resv : Nat
  hcrc : Nat
  hops : Nat
  xfer : Nat
  step : Nat
  keyEpoch : Nat
  keyslot : Nat
  pseq : Nat
  tag : Nat
  len : Nat
  addr : Nat
  srcUnit : Nat
  srcDie : Nat
  srcMod : Nat
  dstUnit : Nat
  dstDie : Nat
  dstMod : Nat
  flags : Nat
  epoch : Nat
  cls : Nat
  op : Nat
  deriving DecidableEq, Repr

/-- A packet (11 R466): its header, its payload in the clear, and whether its GCM tag verifies under
the key, nonce and header it names. -/
structure Packet where
  hdr : Header
  payload : List Byte
  tagOk : Bool
  deriving DecidableEq, Repr

/-- A link unit (10 Table 10-2). `lcrcOk` and `fecOk` say whether its LCRC holds and whether every
FEC codeword of it was corrected. `arg` is LSEQ on a PKT. -/
structure LinkUnit where
  kind : Nat
  cls : Nat
  arg : Nat
  ack : Nat
  crCls : Nat
  cr : Nat
  len16 : Nat
  want : Nat
  resv : Nat
  lcrcOk : Bool
  fecOk : Bool
  pkt : Option Packet
  deriving DecidableEq, Repr

/-- What the peer of a port sends in LOCK_ALIGN (10 R446), and the lanes this end finds usable. -/
structure PeerIdent where
  mod : Nat
  port : Nat
  lanes : BitVec 8
  width : Nat
  ownLanes : BitVec 8
  deriving DecidableEq, Repr

/-- Error counts of one 1 ms window of a port (10 R453). -/
structure LaneWindow where
  sym : List Nat
  fecCorr : Nat
  fecUnc : Nat
  deriving DecidableEq, Repr

/-- One entry of a route table (11 Table 11-14). -/
structure RouteEntry where
  secondKind : Nat
  secondPort : Nat
  escValid : Bool
  escPort : Nat
  firstValid : Bool
  firstPort : Nat
  deriving DecidableEq, Repr

/-- A remote window (11 Table 11-15). -/
structure RWin where
  enable : Bool
  ops : Nat
  unit : Nat
  keyslot : Nat
  srcMod : Nat
  base : Nat
  len : Nat
  deriving DecidableEq, Repr

/-- A route table: a partition's or the module's (11 R476). -/
inductive TableId where
  | part (p : Fin 4)
  | module
  deriving DecidableEq, Repr

/-- The parameters of REQ_SUBMIT (13 Table 13-9); `resv` is the OR of its reserved bytes. -/
structure ReqParams where
  session : Nat
  promptLen : Nat
  promptAddr : Nat
  ringAddr : Nat
  ringEntries : Nat
  maxNew : Nat
  seed : Nat
  temp : Nat
  topK : Nat
  nStopId : Nat
  nStopSeq : Nat
  pred : Nat
  rflags : Nat
  resv : Nat
  stopIds : List Nat
  stopSeqs : List (List Nat)
  stopLens : List Nat
  deriving DecidableEq, Repr

/-- What the candidate block holds of one request (13 R571, R574): the prompt tokens of completed chunk ranges, the
tokens that a draft model proposed, and the target tokens from the slot's next position on, each with its log-probability
and whether the compiled predicate holds for it. -/
structure Candidate where
  req : Nat
  chunk : Nat
  drafts : List Nat
  targets : List (Nat × Nat × Bool)
  deriving DecidableEq, Repr

/-- A sealed manifest (13 R568): its step, rung, the request of each slot, the prefill ranges. -/
structure Manifest where
  step : Nat
  rung : Nat
  slots : List (Option Nat)
  prefill : List (Nat × Nat)
  deriving DecidableEq, Repr

/-- An entry of a shard manifest (14 Table 14-2); `resv` is the OR of its reserved and unused fields. -/
structure WEntry where
  tensor : Nat
  chunk : Nat
  length : Nat
  srcKind : Nat
  target : Nat
  nsid : Nat
  saddr : Nat
  nonce : BitVec 96
  tag : BitVec 128
  digest : Digest
  resv : Nat
  deriving DecidableEq, Repr

/-- A shard manifest (14 R615). -/
structure WManifest where
  format : Nat
  shard : Nat
  shards : Nat
  modelId : BitVec 128
  wset : Digest
  shardRoot : Digest
  resv : Nat
  roots : List Digest
  entries : List WEntry
  byteLen : Nat
  deriving DecidableEq, Repr

/-- The payload of WEIGHTS_FETCH and WEIGHTS_STAGE (14 Table 14-6). -/
structure WPayload where
  manAddr : Nat
  manLen : Nat
  mkey : Nat
  maxOut : Nat
  rateCap : Nat
  dest : Nat
  destAddr : Nat
  destLen : Nat
  resv : Nat
  deriving DecidableEq, Repr

/-- A journal destination (15 R654). -/
inductive JDest where
  | host (addr : Nat) (len : Nat)
  | cistern (block : Nat) (blocks : Nat)
  deriving DecidableEq, Repr

/-- The payload of PROV_CONFIG (15 Table 15-9). -/
structure ProvCfg where
  enable : Bool
  span : Nat
  batch : Nat
  ringAddr : Nat
  ringEntries : Nat
  batchRing : Nat
  batchEntries : Nat
  deriving DecidableEq, Repr

/-- The journal that DET_REPLAY reads (15 R660 to R664): its PLAN and first WEIGHTS entries and whether the CHAIN
of the PLAN entry holds; the step of its last entry and whether a later CHAIN check fails there; the numbers and
digests of its FETCH entries, its TIME records (STEP, RELEASE, NOW), its manifests. Its COMMAND entries arrive as
commands of the caller `journal`. -/
structure JHead where
  program : Digest
  config : Digest
  seed : BitVec 64
  chainOk : Bool
  wset : Option Digest
  endStep : Nat
  badChain : Bool
  fetches : List (Nat × Digest)
  times : List (Nat × Nat × Nat)
  manifests : List Manifest
  deriving DecidableEq, Repr

/-- A region of a dump (15 Table 15-8). -/
structure DumpRegion where
  kind : Nat
  die : Nat
  unit : Nat
  start : Nat
  len : Nat
  deriving DecidableEq, Repr

/-- The payload of DET_TRUNCATE (15 Table 15-8). -/
structure TruncPayload where
  step : Nat
  cycle : Nat
  settleUs : Nat
  regions : List DumpRegion
  dumpAddr : Nat
  dumpLen : Nat
  resv : Nat
  deriving DecidableEq, Repr

/-- A change statement (16 Table 16-4): the fields firmware checks, whether BODY matches the body,
and whether the first and the second signature verify under the keys of R685 or R687. -/
structure Statement where
  op : Nat
  mod : Nat
  changeCtr : Nat
  partition : Nat
  bodyOk : Bool
  sig1 : Bool
  sig2 : Bool
  deriving DecidableEq, Repr

/-- A PARTITION_SET body (16 Table 16-3); `tenantKey` names the tenant's key. -/
structure PartBody where
  dies : List Nat
  nsBlocks : Nat
  hwinBase : Nat
  hwinLen : Nat
  sealedLen : Nat
  tenantKey : Nat
  restZero : Bool
  deriving DecidableEq, Repr

/-- A session policy (16 Table 16-5). -/
structure Policy where
  consent : Nat
  maxChannels : Nat
  nonce : BitVec 256
  digest : Digest
  wellFormed : Bool
  deriving DecidableEq, Repr

/-- A wrapped key's plaintext (16 Table 16-7) as the security processor unwraps it; `decrypts` and
`sigOk` say whether the blob decrypts and the required signature verifies; `blob` names the blob. -/
structure KeyBlob where
  decrypts : Bool
  sigOk : Bool
  blob : Nat
  kind : Nat
  epoch : Nat
  slot : Nat
  resv : Nat
  session : BitVec 64
  key : BitVec 256
  wset : Digest
  modelId : BitVec 128
  peers : List (Nat × Nat)
  deriving DecidableEq, Repr

/-- A key named by SEC_KEY_DESTROY (16 R711). -/
inductive KeyName where
  | model (slot : Fin 4)
  | fabric (slot : Fin 256) (epoch : Fin 2)
  | park
  | debug
  | channel (n : Nat)
  deriving DecidableEq, Repr

/-- A slot image that host software posts (17 Table 17-3). -/
structure SlotPost where
  slot : Fin 32
  own : Nat
  code : Nat
  flags : Nat
  plen : Nat
  tag : Nat
  resv : Nat
  payload : List Byte
  deriving DecidableEq, Repr

/-- A store of host software to host memory. -/
structure HostStore where
  addr : Nat
  bytes : List Byte
  deriving DecidableEq, Repr

/-- A firmware image as verified under R754 and R692 (17 Table 17-14). -/
structure FwImage where
  svn : Nat
  version : Nat
  digest : Digest
  certOk : Bool
  sigOk : Bool
  bodyOk : Bool
  reservedZero : Bool
  deriving DecidableEq, Repr

/-- A Wiluc frame (17 Table 17-16). -/
structure Frame where
  dst : Nat
  src : Nat
  typ : Nat
  seq : Nat
  len : Nat
  resv : Nat
  payload : List Byte
  crc : Nat
  deriving DecidableEq, Repr

/-- A temperature sensor (18 Table 18-11). -/
structure Sensor where
  kind : Nat
  index : Nat
  deriving DecidableEq, Repr

/-- The target kinds of the integrity commands (09, SCRUB_RANGE). -/
inductive Target where
  | station (die : Fin 4) (unit : Fin 128)
  | wellhead (w : Fin 16)
  | cistern
  deriving DecidableEq, Repr

/-- The side of a die through which a crossing leaves it (02 R63). -/
inductive Side where
  | east | west
  deriving DecidableEq, Repr

/-- An edge station that carries long-running transfers (08 R333). -/
inductive Edge where
  | well (w : Fin 16)
  | host (die : Fin 4)
  deriving DecidableEq, Repr

/-- A rail named by RAIL_FAULT (18 Table 18-2): one die's VCORE or another rail by its order. -/
inductive Rail where
  | vcore (die : Fin 4)
  | other (order : Nat)
  deriving DecidableEq, Repr

/-- The commands: one constructor for each row of spec/opcode_table.json. -/
inductive Instr where
  -- instructions of the station queues (03, 04, 06, 08, 11)
  | mxLoadw (a : At)
  | mxMma (a : At)
  | mxDrain (a : At)
  | vxOp (a : At)
  | vxCvtConv (a : At)
  | vxCvtBfsplit (a : At)
  | vxCvtExpscan (a : At)
  | vxCvtSplit (a : At)
  | vxFunc (a : At)
  | vxRedSumall (a : At)
  | vxRedRowsum (a : At)
  | vxTopkSelect (a : At)
  | vxTopkMerge (a : At)
  | vxStop (a : At)
  | vxOcldLoad (a : At)
  | vxOcldKey (a : At)
  | vxCntld (a : At)
  | vxAmaxScan (a : At)
  | vxAmaxLoad (a : At)
  | mvSend (a : At)
  | mvRecv (a : At)
  | mvDmaCopy (a : At)
  | mvDmaDecode (a : At)
  | mvDmaGather (a : At)
  | mvDmaScore (a : At)
  | mvDmaQload (a : At)
  | mvDmaSgather (a : At)
  | mvHost (a : At)
  | mvCist (a : At)
  | sbClose (a : At)
  | ctWait (a : At)
  | ctLoop (a : At)
  | ctLoopr (a : At)
  | ctEndloop (a : At)
  | ctGateOpen (a : At)
  | ctGateClose (a : At)
  | ctStamp (a : At)
  | ctSetcnt (a : At)
  | ctFetch (a : At)
  | ctStepend (a : At)
  | lkInject (a : At)
  | lkExpect (a : At)
  -- sequencing, steps, holds (03, 07)
  | queueUnderrun (a : At)
  | stepOpen (a : At)
  | holdCheck (a : At)
  | holdRelease (p : Fin 4)
  | holdLimit (p : Fin 4)
  | gateHold (a : At)
  | gateTimeout (a : At)
  | stepStart (p : Fin 4)
  | stepEnd (p : Fin 4)
  -- streams and long-running transfers (02, 07, 08)
  | beatReceive (die : Fin 4) (unit : Fin 128) (cycle : Nat)
  | routerForward (die : Fin 4) (unit : Fin 128) (port : Fin 5) (cycle : Nat)
  | crossingAdmit (die : Fin 4) (side : Side) (cycle : Nat) (slipped : List Nat)
  | descriptorReady (die : Fin 4) (unit : Fin 128) (desc : Fin 64) (wall : Int)
  | laneBeatAccess (die : Fin 4) (unit : Fin 128) (desc : Fin 64) (cycle : Nat)
  | wellheadRequestStart (e : Edge) (cycle : Nat)
  | refreshTick (w : Fin 16) (cycle : Int) (wall : Int)
  | refreshUnit (w : Fin 16) (cycle : Nat) (wall : Int)
  | pageReencrypt (w : Fin 16)
  -- plan commands (07, 19)
  | planLoad (v : Via) (p : Fin 4) (image : PlanImage)
  | planStart (v : Via) (p : Fin 4) (anchor : Nat)
  | planStop (v : Via) (p : Fin 4)
  | planStatus (v : Via) (p : Fin 4)
  | planUnload (v : Via) (p : Fin 4)
  | faultRead (v : Via) (p : Fin 4)
  | planVariant (v : Via) (p : Fin 4) (variant : Nat) (step : Nat)
  -- integrity commands (09)
  | scrubRange (v : Via) (p : Fin 4) (t : Target) (start : Nat) (length : Nat)
  | eccFlipArm (v : Via) (p : Fin 4) (t : Target) (mask : BitVec 72)
  | eccRemapAdd (v : Via) (p : Fin 4) (t : Target) (loc : Nat)
  | eccCounts (v : Via) (p : Fin 4)
  -- the Lerek link (10)
  | pkt (port : Fin 16) (u : LinkUnit)
  | link (port : Fin 16) (u : LinkUnit)
  | keepalive (port : Fin 16)
  | unitTransmit (port : Fin 16)
  | widthReq (port : Fin 16) (u : LinkUnit)
  | retrainReq (port : Fin 16) (u : LinkUnit)
  | reqAck (port : Fin 16) (u : LinkUnit)
  | widthMark (port : Fin 16) (u : LinkUnit)
  | laneRealign (port : Fin 16)
  | doze (port : Fin 16) (u : LinkUnit)
  | dozeAck (port : Fin 16) (u : LinkUnit)
  | replayTimeout (port : Fin 16)
  | silence (port : Fin 16)
  | lockLoss (port : Fin 16) (lane : Fin 8)
  | primeRetry (port : Fin 16)
  | primeFail (port : Fin 16)
  | detect (port : Fin 16)
  | equalise (port : Fin 16)
  | lockAlign (port : Fin 16) (peer : PeerIdent)
  | time (port : Fin 16) (markers : List (Nat × Nat)) (offset : Int)
  | auth (port : Fin 16) (peerOk : Bool)
  | laneWindow (port : Fin 16) (w : LaneWindow)
  | reqTimeout (port : Fin 16)
  | widthChangeTimeout (port : Fin 16)
  | linkStatus (v : Via) (port : Fin 16)
  | linkPrime (v : Via) (port : Fin 16)
  | linkDisable (v : Via) (port : Fin 16)
  | linkEnable (v : Via) (port : Fin 16)
  | linkWidth (v : Via) (port : Fin 16) (mask : BitVec 8)
  | linkCounters (v : Via) (port : Fin 16)
  -- packets, routing, collectives (11, 19)
  | packetReceive (port : Fin 16)
  | write (die : Fin 4)
  | readReq (die : Fin 4)
  | readResp (die : Fin 4)
  | laAdd (die : Fin 4) (cycle : Nat)
  | timeMarker (die : Fin 4)
  | drain (die : Fin 4)
  | collAbortPacket (die : Fin 4)
  | variant (die : Fin 4)
  | delivered (die : Fin 4)
  | forwardStart (port : Fin 16)
  | escape (port : Fin 16)
  | noRoute (die : Fin 4)
  | pseqGap (die : Fin 4)
  | deliveredSend (die : Fin 4) (peerMod : Nat) (peerDie : Fin 4)
  | requestReplay (die : Fin 4) (tag : Nat)
  | responseCacheExpire (die : Fin 4)
  | drainSend (port : Fin 16)
  | epochRelease (t : TableId)
  | routeWrite (v : Via) (t : TableId) (bank : Fin 2) (entries : List (Nat × RouteEntry)) (commit : Bool)
  | routeFlip (v : Via) (t : TableId) (step : Nat)
  | routeStatus (v : Via) (t : TableId)
  | rwinSet (v : Via) (die : Fin 4) (idx : Fin 8) (win : RWin)
  | collAbort (v : Via) (p : Fin 4) (coll : Nat)
  -- clocks and module time (12)
  | refLoss
  | refValid
  | clkTargetWrite (p : Fin 4) (target : Fin 4)
  | pllLock (p : Fin 4)
  | droop (die : Fin 4) (stretches : List Nat)
  | sympatheticStretch (die : Fin 4) (periods : Nat)
  | clkMonitorWindow (die : Fin 4) (region : Fin 13) (hist : List Nat) (duty : Nat)
  | servoUpdate
  | timeMarkerSend (port : Fin 16)
  | ptpSync (offset : Int)
  -- serving (13)
  | sessOpen (v : Via) (p : Fin 4) (channel : Option Nat)
  | sessClose (v : Via) (p : Fin 4) (sid : Nat)
  | reqSubmit (v : Via) (p : Fin 4) (r : ReqParams) (tokens : List Nat)
  | reqCancel (v : Via) (p : Fin 4) (rid : Nat)
  | reqStatus (v : Via) (p : Fin 4) (rid : Nat)
  | sessTruncate (v : Via) (p : Fin 4) (sid : Nat) (newL : Nat)
  | park (v : Via) (p : Fin 4) (sid : Nat) (dest : Fin 2) (blocks : List Nat)
  | parkCommit (p : Fin 4) (sid : Nat) (members : List Digest)
  | unpark (v : Via) (p : Fin 4) (sid : Nat) (program : Digest) (wset : Digest)
  | unparkCheck (p : Fin 4) (sid : Nat) (readable : Bool) (members : List Digest)
  | sessStatus (v : Via) (p : Fin 4) (sid : Nat)
  | commitPoint (p : Fin 4) (block : List Candidate)
  | manifestReceive (p : Fin 4) (m : Manifest) (wall : Nat)
  | layerBoundary (p : Fin 4) (cycle : Nat)
  | outputRecordWrite (p : Fin 4) (rid : Nat)
  -- weights (14)
  | weightsFetch (v : Via) (p : Fin 4) (w : WPayload) (m : WManifest)
  | weightsStage (v : Via) (p : Fin 4) (w : WPayload) (m : WManifest)
  | weightsSwap (v : Via) (p : Fin 4) (barrier : Nat) (ctx : Nat)
  | weightsPace (v : Via) (p : Fin 4) (maxOut : Nat) (rateCap : Nat)
  | weightsAbort (v : Via) (p : Fin 4)
  | weightsStatus (v : Via) (p : Fin 4)
  | weightsTarget (v : Via) (p : Fin 4) (target : Fin 16) (addr : Nat) (service : Nat) (nqn : List Byte)
  | chunkIssue (p : Fin 4)
  | chunkVerify (p : Fin 4) (entry : Nat) (readOk : Bool) (cipher : List Byte)
  | readTimeout (p : Fin 4) (entry : Nat)
  | layerGroupDone (p : Fin 4)
  -- determinism (15)
  | detJournal (v : Via) (p : Fin 4) (dest : Option JDest)
  | detReplay (v : Via) (p : Fin 4) (j : JHead)
  | provConfig (v : Via) (p : Fin 4) (c : ProvCfg)
  | provSeal (v : Via) (p : Fin 4)
  | detTruncate (v : Via) (p : Fin 4) (t : TruncPayload)
  | detStatus (v : Via) (p : Fin 4)
  | detDisarm (v : Via) (p : Fin 4)
  | truncatePoint (p : Fin 4)
  | truncateSettle (p : Fin 4)
  -- partitions and security (16)
  | secIdentity (v : Via)
  | secAttest (v : Via) (p : Fin 4) (nonce : BitVec 256)
  | partitionSetAssign (v : Via) (st : Statement) (b : PartBody)
  | partitionSetRelease (v : Via) (st : Statement) (b : PartBody)
  | secEnroll (v : Via) (st : Statement) (operatorKey : Nat) (custodianKey : Nat)
  | secSessionOpen (v : Via) (p : Fin 4) (policy : Policy) (sigOk : Bool)
  | secPolicySet (v : Via) (p : Fin 4) (st : Statement) (policy : Policy)
  | secKeyLoad (v : Via) (p : Fin 4) (k : KeyBlob)
  | secKeyDestroy (v : Via) (p : Fin 4) (k : KeyName)
  | secKeySwitch (v : Via) (p : Fin 4) (slot : Fin 256) (step : Nat)
  | secMemkeyRotate (v : Via) (p : Fin 4)
  | memkeyLoaded (p : Fin 4)
  | secTeardown (v : Via) (p : Fin 4) (st : Statement) (mode : Fin 2)
  | teardownDrainEnd (p : Fin 4)
  | teardownScrubDone (p : Fin 4)
  | secStatus (v : Via) (p : Fin 4)
  -- control, mailboxes, management (17)
  | mailboxScan (w : Fin 5) (posts : List SlotPost) (stores : List HostStore)
  | mgmtCommand (clientOk : Bool) (post : SlotPost)
  | regDir (v : Via) (first : Nat)
  | regRead (v : Via) (num : Nat) (elem : Nat) (count : Nat) (inst : BitVec 32) (bank : Nat)
  | regWrite (v : Via) (num : Nat) (elem : Nat) (inst : BitVec 32) (value : BitVec 256)
  | evtRead (v : Via) (max : Nat)
  | telemConfig (v : Via) (p : Fin 4) (addr : Nat) (entries : Nat) (pushEvery : Nat)
  | health (v : Via)
  | fwStage (v : Via) (addr : Nat) (len : Nat) (image : FwImage)
  | fwCommit (v : Via)
  | fwActivate (v : Via)
  | fwStatus (v : Via)
  | fwSvnAdvance (v : Via)
  | wdogControl (p : Fin 4)
  | wdogMgmt
  | wdogSecurity
  | powerOn (image : FwImage) (alignFail : List (Fin 4 × Fin 4))
  | fillComplete (spFail : Nat) (whFail : Nat)
  | recoveryStart (image : FwImage)
  | wilucForward (f : Frame)
  | chainTakeover
  | enum (f : Frame)
  | setLocation (f : Frame)
  | power (f : Frame)
  | healthFrame (f : Frame)
  | holdup (f : Frame)
  | rcvBegin (f : Frame)
  | rcvData (f : Frame)
  | rcvEnd (f : Frame) (image : FwImage)
  -- power, hold-up, cooling (18)
  | pwrSet (v : Via) (target : Nat)
  | powerTransitionDone
  | pwrStatus (v : Via)
  | holdupTest (v : Via)
  | holdupTestDaily
  | holdupTestDone (deltaMv : Nat) (v0Mv : Nat)
  | pwrLimit (v : Via) (watts : Nat)
  | inputFail
  | inputOvervoltage
  | inputReturn
  | tankExhausted
  | powerSample (vinMv : Nat) (iinMa : Nat) (pinDw : Nat) (pavgDw : Nat)
  | powerStepUpdate (avg100Dw : Nat) (avg1sMaxDw : Nat)
  | thermalStepUpdate (p : Fin 4)
  | thmTrip (sensor : Sensor) (temp : Int)
  | railFault (r : Rail)
  | coolFlow (flow : Nat)
  | coolInlet (temp : Int)
  | machineError (addr : Nat)
  | edgeCheck (die : Fin 4) (failed : Option (Fin 256))
  | illegalOpcode (a : At)
  | lossOfSignal (port : Fin 16)
  | thmWarn (sensor : Sensor) (temp : Int)
  | tankReady
  deriving DecidableEq, Repr

end Sys2Proof
end

