-- ==== Sys2Proof/Decode.lean ====
section
/-! DEFINITION. The command a word of spec/opcode_table.json spells. No row of the table gives its
command bits (every "bits", "fixed" and "fields" entry is absent), so no word spells a command. -/

namespace Sys2Proof

/-- The command that the `nbits`-bit word `w` spells by the table's bits: none, as no row has bits. -/
def decodeTableWord (_nbits _w : Nat) : Option Instr := none

end Sys2Proof
end

