-- ==== Sys2Proof/Machine/Bits.lean ====
section
/-! DEFINITION. Bit fields, byte order (R9), checksums and digests: what the layouts of every chapter
are read and written with. -/

namespace Sys2Proof.Machine

/-! ### Bit fields -/

/-- Bits [hi:lo] of a number. -/
def field (x hi lo : Nat) : Nat := x / 2 ^ lo % 2 ^ (hi + 1 - lo)

/-- Bit i of a number. -/
def bitAt (x i : Nat) : Bool := x / 2 ^ i % 2 == 1

/-- A Boolean as a bit. -/
def b2n (b : Bool) : Nat := if b then 1 else 0

/-- The low n bits of x read as a two's complement number. -/
def sext (n x : Nat) : Int :=
  let y := x % 2 ^ n
  if y < 2 ^ (n - 1) then (y : Int) else (y : Int) - (2 ^ n : Nat)

/-- The n-bit two's complement form of an integer. -/
def twos (n : Nat) (x : Int) : Nat := (x % ((2 ^ n : Nat) : Int)).toNat

/-- Fields (width, value), most significant first, packed into one number. -/
def pack : List (Nat × Nat) → Nat → Nat
  | [], acc => acc
  | (w, v) :: r, acc => pack r (acc * 2 ^ w + v % 2 ^ w)

/-- The lowest set bit of x among bits i, i+1, …, i+n-1. -/
def lowestBit (x : Nat) : Nat → Nat → Option Nat
  | 0, _ => none
  | n + 1, i => if bitAt x i then some i else lowestBit x n (i + 1)

/-- x with the bits of the mask kept (both below 2^n). -/
def maskBits (n x mask : Nat) : Nat := ((BitVec.ofNat n x) &&& (BitVec.ofNat n mask)).toNat

/-- A mask of bits [hi:lo]. -/
def span (hi lo : Nat) : Nat := 2 ^ (hi + 1) - 2 ^ lo

/-- Saturation at a limit. -/
def satN (limit x : Nat) : Nat := if x ≤ limit then x else limit

/-! ### Bytes (R9: little-endian) -/

/-- The n bytes of x, lowest first. -/
def leBytes : Nat → Nat → List Byte
  | 0, _ => []
  | n + 1, x => BitVec.ofNat 8 x :: leBytes n (x / 256)

/-- The number that bytes spell, lowest first. -/
def ofLe : List Byte → Nat
  | [] => 0
  | b :: r => b.toNat + 256 * ofLe r

/-- Bytes i … i+n-1 of a list, as a number; bytes beyond its end are zero. -/
def leAt (l : List Byte) (i n : Nat) : Nat := ofLe ((l.drop i).take n)

/-- n zero bytes. -/
def zeros (n : Nat) : List Byte := List.replicate n 0

/-- A list cut or filled with zeros to n bytes. -/
def fitTo (n : Nat) (l : List Byte) : List Byte := (l ++ zeros n).take n

/-- The bytes of a digest, most significant first. -/
def digestBytes (d : Digest) : List Byte := (leBytes 32 d.toNat).reverse

/-- A list cut into pieces of n elements; `fuel` bounds the number of pieces. -/
def chunks {α : Type} (n : Nat) : Nat → List α → List (List α)
  | 0, _ => []
  | _ + 1, [] => []
  | fuel + 1, l => l.take n :: chunks n fuel (l.drop n)

/-- The lowest element of a list of numbers. -/
def minOf : List Nat → Option Nat
  | [] => none
  | x :: r =>
    match minOf r with
    | none => some x
    | some y => some (if x ≤ y then x else y)

/-! ### CRC-32C (R377, R485, R768), polynomial 0x1EDC_6F41, reflected -/

/-- One bit of the reflected CRC. -/
def crcBit (c : BitVec 32) : BitVec 32 :=
  if c.getLsbD 0 then (c >>> 1) ^^^ 0x82F63B78#32 else c >>> 1

/-- One byte of the reflected CRC. -/
def crcByte (c : BitVec 32) (b : Byte) : BitVec 32 :=
  let c := c ^^^ b.setWidth 32
  crcBit (crcBit (crcBit (crcBit (crcBit (crcBit (crcBit (crcBit c)))))))

/-- CRC-32C of a byte string. -/
def crc32c (l : List Byte) : Nat := (~~~ (l.foldl crcByte 0xFFFFFFFF#32)).toNat

/-! ### SHA-256 -/

/-- The k-th root of n, rounded down: bits are tried from the highest of `b` down. -/
def rootOf (k n : Nat) : (b r : Nat) → Nat
  | 0, r => r
  | b + 1, r => rootOf k n b (if (r + 2 ^ b) ^ k ≤ n then r + 2 ^ b else r)

/-- The first 64 primes. -/
def somePrimes : List Nat :=
  (List.range 312).filter (fun n => decide (2 ≤ n) && [2, 3, 5, 7, 11, 13, 17].all (fun d => n == d || n % d != 0))

/-- The first 32 bits of the fraction of the k-th root of n. -/
def rootFraction (k n : Nat) : BitVec 32 := BitVec.ofNat 32 (rootOf k (n * 2 ^ (32 * k)) 40 0)

/-- Word i of a chaining value, which is held as one number with word 0 at its top. -/
def shaWord (s : Digest) (i : Nat) : BitVec 32 := s.extractLsb' (224 - 32 * i) 32

/-- A chaining value from its words. -/
def shaJoin (l : List (BitVec 32)) : Digest := BitVec.ofNat 256 (pack (l.map (fun x => (32, x.toNat))) 0)

/-- The value before the first block: fractions of square roots. -/
def shaStart : Digest := shaJoin ((somePrimes.take 8).map (rootFraction 2))

/-- The sum modulo 2 of rotations of a word to the right. -/
def turned (x : BitVec 32) (l : List Nat) : BitVec 32 := l.foldl (fun y n => y ^^^ x.rotateRight n) 0

/-- The word of the message schedule that follows those of a list, newest first. -/
def shaNext (w : List (BitVec 32)) : BitVec 32 :=
  let near := w.getD 1 0
  let far := w.getD 14 0
  w.getD 15 0 + w.getD 6 0 + (turned near [17, 19] ^^^ near >>> 10) + (turned far [7, 18] ^^^ far >>> 3)

/-- The message schedule of a block, oldest word first. -/
def shaSchedule (block : List Byte) : List (BitVec 32) :=
  let w := (chunks 4 16 block).foldl (fun w l => BitVec.ofNat 32 (ofLe l.reverse) :: w) []
  ((List.range 48).foldl (fun w _ => shaNext w :: w) w).reverse

/-- One round: the words move on by one place, with a new first and a new fifth one. -/
def shaTurn (s : Digest) (y : BitVec 32 × Nat) : Digest :=
  let w := shaWord s
  let t := w 7 + turned (w 4) [6, 11, 25] + (w 4 &&& w 5 ||| ~~~ w 4 &&& w 6) + rootFraction 3 y.2 + y.1
  (t + turned (w 0) [2, 13, 22] + (w 0 &&& w 1 ||| (w 0 ||| w 1) &&& w 2))
    ++ s.extractLsb' 160 96 ++ (w 3 + t) ++ s.extractLsb' 32 96

/-- A chaining value after one block of 64 bytes. -/
def shaAdd (s : Digest) (block : List Byte) : Digest :=
  let r := ((shaSchedule block).zip somePrimes).foldl shaTurn s
  shaJoin ((List.range 8).map (fun i => shaWord s i + shaWord r i))

/-- SHA-256 of a byte string: the message, a one bit, zeros, and its length in bits. -/
def sha256 (l : List Byte) : Digest :=
  let tail := (leBytes 8 (8 * l.length)).reverse
  let m := l ++ 0x80 :: zeros ((119 - l.length % 64) % 64) ++ tail
  (chunks 64 (m.length / 64) m).foldl shaAdd shaStart

end Sys2Proof.Machine
end

