-- ==== Sys2Proof/Machine/Cipher.lean ====
section
/-! DEFINITION. AES-256-XTS (08 R349) and AES-256-GCM (14 R616, 16 R697, R703), as the standards that the manual names give
them: AES of FIPS 197, the XTS mode of IEEE 1619 on one data unit of eight blocks, the GCM mode with a nonce of 96 bits (log
191). Blocks are 16 bytes, held as numbers. -/

namespace Sys2Proof.Machine

/-- The substitution table: entry b in bits [8b + 7:8b]. -/
def aesBox : Nat :=
    0xc072a49cafa2d4adf04759fa7dc982ca76abd7fe2b670130c56f6bf27b777c63
    + 0x75b227ebe28012079a059618c323c7041531d871f1e5a534ccf73f362693fdb7 * 2 ^ 256
    + 0xcf584c4a39becb6a5bb1fc20ed00d153842fe329b3d63b52a05a6e1b1a2c8309 * 2 ^ 512
    + 0xd2f3ff1021dab6bcf5389d928f40a351a89f3c507f02f94585334d43fbaaefd0 * 2 ^ 768
    + 0xdb0b5ede14b8ee4688902a22dc4f816073195d643d7ea7c41744975fec130ccd * 2 ^ 1024
    + 0x08ae7a65eaf4566ca94ed58d6d37c8e779e4959162acd3c25c2406490a3a32e0 * 2 ^ 1280
    + 0x9e1dc186b95735610ef6034866b53e708a8bbd4b1f74dde8c6b4a61c2e2578ba * 2 ^ 1536
    + 0x16bb54b00f2d99416842e6bf0d89a18cdf2855cee9871e9b948ed9691198f8e1 * 2 ^ 1792

/-- Its inverse. -/
def aesUnbox : Nat :=
    0xcbe9dec444438e3487ff2f9b8239e37cfbd7f3819ea340bf38a53630d56a0952
    + 0x25d18b6d49a25b76b224d92866a12e084ec3fa420b954cee3d23c2a632947b54 * 2 ^ 256
    + 0x849d8da75746155edab9edfd5048706c92b6655dcc5ca4d41698688664f6f872 * 2 ^ 512
    + 0x6b8a130103bdafc1020f3fca8f1e2cd00645b3b80558e4f70ad3bc8c00abd890 * 2 ^ 768
    + 0x6edf751ce837f9e28535ade72274ac9673e6b4f0cecff297eadc674f4111913a * 2 ^ 1024
    + 0xf45acd78fec0db9a2079d2c64b3e56fc1bbe18aa0e62b76f89c5291d711af147 * 2 ^ 1280
    + 0xef9cc9939f7ae52d0d4ab519a97f51605fec8027591012b131c7078833a8dd1f * 2 ^ 1536
    + 0x7d0c2155631469e126d677ba7e042b17619953833cbbebc8b0f52aae4d3be0a0 * 2 ^ 1792

/-- A byte looked up in a table. -/
def boxAt (t b : Nat) : Nat := t >>> (8 * b) % 256

/-- Twice a byte in the field of AES. -/
def aesTwice (b : Nat) : Nat := if b < 128 then 2 * b else 2 * b ^^^ 0x11B

/-- Bytes of two lists added in the field. -/
def xorL (a b : List Nat) : List Nat := List.zipWith (fun x y => x ^^^ y) a b

/-- A column mixed. -/
def mixColumn : List Nat → List Nat
  | [a, b, c, d] =>
    let t := a ^^^ b ^^^ c ^^^ d
    [a ^^^ t ^^^ aesTwice (a ^^^ b), b ^^^ t ^^^ aesTwice (b ^^^ c), c ^^^ t ^^^ aesTwice (c ^^^ d)
    , d ^^^ t ^^^ aesTwice (d ^^^ a)]
  | l => l

/-- A column before it was mixed: mixing is of order four. -/
def unmixColumn (l : List Nat) : List Nat := mixColumn (mixColumn (mixColumn l))

/-- A function on each of the four columns of a block. -/
def onColumns (f : List Nat → List Nat) (l : List Nat) : List Nat :=
  (List.range 4).flatMap (fun c => f ((l.drop (4 * c)).take 4))

/-- Row r of a block turned by r columns, forward for `k` 1 and back for `k` 3. -/
def shiftRows (k : Nat) (l : List Nat) : List Nat :=
  (List.range 16).map (fun i => l.getD ((i + 4 * k * (i % 4)) % 16) 0)

/-- The next eight words of the key schedule follow the last eight; `i` counts them from 8. -/
def nextWord (i : Nat) (w : List (List Nat)) : List Nat :=
  let last := w.getD 7 []
  let rot := (last.drop 1 ++ last.take 1).map (boxAt aesBox)
  let t :=
    if i % 8 = 0 then xorL rot [2 ^ (i / 8 - 1), 0, 0, 0]
    else if i % 8 = 4 then last.map (boxAt aesBox)
    else last
  xorL (w.getD 0 []) t

/-- The words of the key schedule from word i − 8 on, `n` of them beyond the eight at hand. -/
def keyWords : Nat → Nat → List (List Nat) → List (List Nat)
  | 0, _, w => w
  | n + 1, i, w => (w.take 1) ++ keyWords n (i + 1) (w.drop 1 ++ [nextWord i w])

/-- Bytes of a number as numbers. -/
def aesBytes (n x : Nat) : List Nat := (List.range n).map (fun i => x >>> (8 * i) % 256)

/-- The fifteen round keys of a 256-bit key. -/
def roundKeys (key : Nat) : List (List Nat) :=
  let k := aesBytes 32 key
  let l := keyWords 52 8 ((List.range 8).map (fun i => (k.drop (4 * i)).take 4))
  (List.range 15).map (fun r => ((l.drop (4 * r)).take 4).flatten)

/-- The rounds of encryption behind the first key. -/
def encRounds : List (List Nat) → List Nat → List Nat
  | [], l => l
  | [k], l => xorL (shiftRows 1 (l.map (boxAt aesBox))) k
  | k :: r, l => encRounds r (xorL (onColumns mixColumn (shiftRows 1 (l.map (boxAt aesBox)))) k)

/-- The rounds of decryption behind the last key, with the keys in reverse. -/
def decRounds : List (List Nat) → List Nat → List Nat
  | [], l => l
  | [k], l => xorL ((shiftRows 3 l).map (boxAt aesUnbox)) k
  | k :: r, l => decRounds r (onColumns unmixColumn (xorL ((shiftRows 3 l).map (boxAt aesUnbox)) k))

/-- A number from bytes, the first the lowest. -/
def blockOf (l : List Nat) : Nat := l.foldr (fun b n => b + 256 * n) 0

/-- One block encrypted. -/
def aesEnc (ks : List (List Nat)) (x : Nat) : Nat := blockOf (encRounds (ks.drop 1) (xorL (aesBytes 16 x) (ks.headD [])))

/-- One block decrypted. -/
def aesDec (ks : List (List Nat)) (x : Nat) : Nat :=
  let r := ks.reverse
  blockOf (decRounds (r.drop 1) (xorL (aesBytes 16 x) (r.headD [])))

/-- The mask of the next block of a data unit. -/
def xtsNext (t : Nat) : Nat := if t < 2 ^ 127 then 2 * t else (2 * t) % 2 ^ 128 ^^^ 0x87

/-- The blocks of a data unit under a cipher, from a mask on. -/
def xtsBlocks (f : Nat → Nat) : Nat → List Nat → List Nat
  | _, [] => []
  | t, x :: r => (f (x ^^^ t) ^^^ t) :: xtsBlocks f (xtsNext t) r

/-- One data unit of 128 bytes under a cipher of one block. -/
def xtsUnit (f : Nat → Nat) (t : Nat) (l : List Byte) : List Byte :=
  (xtsBlocks f t ((chunks 16 8 l).map ofLe)).flatMap (leBytes 16)

/-- The halves of an XTS key: the key of the data in its low 256 bits, that of the tweak above. -/
def xtsMask (key tweak : Nat) : Nat := aesEnc (roundKeys (key / 2 ^ 256)) tweak

/-- AES-256-XTS encryption of a data unit. -/
def xtsEncrypt (key tweak : Nat) (l : List Byte) : List Byte :=
  xtsUnit (aesEnc (roundKeys (key % 2 ^ 256))) (xtsMask key tweak) l

/-- AES-256-XTS decryption of a data unit. -/
def xtsDecrypt (key tweak : Nat) (l : List Byte) : List Byte :=
  xtsUnit (aesDec (roundKeys (key % 2 ^ 256))) (xtsMask key tweak) l

/-! ### AES-256-GCM -/

/-- The number that bytes spell, highest first. -/
def ofBe (l : List Byte) : Nat := ofLe l.reverse

/-- The n bytes of x, highest first. -/
def beBytes (n x : Nat) : List Byte := (leBytes n x).reverse

/-- The product of two blocks in the field of GCM, from bit n − 1 of `x` down; the first bit of a block is its highest. -/
def ghashMul : Nat → Nat → Nat → Nat → Nat
  | 0, _, _, z => z
  | n + 1, x, v, z =>
    ghashMul n x (if v % 2 = 1 then v / 2 ^^^ 0xE1 * 2 ^ 120 else v / 2) (if x.testBit n then z ^^^ v else z)

/-- Bytes filled with zeros to whole blocks. -/
def padBlock (l : List Byte) : List Byte := l ++ zeros ((16 - l.length % 16) % 16)

/-- The hash of whole blocks under a key h. -/
def ghash (h : Nat) (l : List Byte) : Nat :=
  (chunks 16 (l.length / 16) l).foldl (fun y b => ghashMul 128 (y ^^^ ofBe b) h 0) 0

/-- Block i of the key stream of a nonce. -/
def gcmStream (ks : List (List Nat)) (nonce : List Byte) (i : Nat) : List Byte :=
  leBytes 16 (aesEnc ks (ofLe (nonce ++ beBytes 4 i)))

/-- Bytes encrypted or decrypted: the key stream is added from block 2 on. -/
def gcmCrypt (key : Nat) (nonce l : List Byte) : List Byte :=
  let ks := roundKeys key
  (((chunks 16 ((l.length + 15) / 16) l).zipIdx).map (fun y =>
    List.zipWith (fun a b => a ^^^ b) y.1 (gcmStream ks nonce (y.2 + 2)))).flatten

/-- The tag of a ciphertext and the data authenticated beside it. -/
def gcmTag (key : Nat) (nonce aad c : List Byte) : List Byte :=
  let ks := roundKeys key
  let h := ofBe (leBytes 16 (aesEnc ks 0))
  let s := ghash h (padBlock aad ++ padBlock c ++ beBytes 8 (8 * aad.length) ++ beBytes 8 (8 * c.length))
  beBytes 16 (s ^^^ ofBe (gcmStream ks nonce 1))

end Sys2Proof.Machine
end

