-- ==== Sys2Proof/Config.lean ====
section
/-! DEFINITION. What the manual leaves to the device: free values, as constants without a body
(every statement about one holds whatever it is), and the fixed figures of the two grades. -/

namespace Sys2Proof.Config

/-- The bits of a VX.FUNC result, which R263 bounds and does not state: function code, format code,
operand bits. -/
opaque vxFunc : Nat → Nat → Nat → Nat

/-- What a read of a word with three or more bit errors delivers as data: the manual states one and
two only (R375): stored word, error mask. -/
opaque eccBeyond : Nat → Nat → Nat

/-- Whether a read with three or more erroneous units is corrected (wrongly) or reported
uncorrectable (R375, R376): error mask. -/
opaque eccBeyondSeen : Nat → Bool

/-- The bank within its pseudo-channel and the row in which an HBM beat lies: the stack's own numbering (Table 9-9). -/
opaque hbmBank : Nat → Nat
/-- The row of a beat. -/
opaque hbmRow : Nat → Nat

/-- Random bits that the security processor draws (16): a fresh number for each draw. -/
opaque random : Nat → Nat

/-- The contents of a cistern block that was written and not committed when power was lost (R369):
`true` for the new contents. -/
opaque blockKept : Nat → Bool

/-- Whether the reserved region of host memory still holds, after a loss of power, the copy that it held (R760), for each
draw. -/
opaque regionKept : Nat → Bool

/-- The words that fail the read-back of a fill (R394, R397), for each fill: station and word. -/
opaque fillFails : Nat → List (Nat × Nat)

/-- Where a record of the fault history lies in the configuration flash (HISTORY_CRC, Table 19-2): its number. -/
opaque historyOffset : Nat → Nat

/-- The bytes that stand for the partition number, the module ID and the block index in the data that is authenticated beside a
sealed block (R697): the manual names the three and not their widths. -/
opaque sealAad : Nat → Nat → Nat → List (BitVec 8)

/-- The bytes of a sealed packet behind its header as they go over the wire, ciphertext and tag (16): header, payload. -/
opaque wireBytes : Nat → List (BitVec 8) → List (BitVec 8)

/-- A free choice that the manual leaves to the device, for each draw. -/
opaque choice : Nat → Nat

end Sys2Proof.Config
end

