-- ==== Sys2Proof/Machine/State.lean ====
section
/-! DEFINITION. The state of the module: every piece of state the manual names, as plain data, and its
value at reset. Instances (stations, wellheads, ports, windows, partitions, dies) are tables whose
unlisted keys read as the instance at reset. -/

namespace Sys2Proof.Machine

/-- Why a step may stop the machine for good. -/
inductive Fault where
  /-- Raised by no meaning: the manual turns every error of a plan or a device into a halt of a
  partition, an event or a status, all of which are next states. Safe. -/
  | machineStopped
  deriving DecidableEq, Repr

/-- Why a command may have no meaning. -/
inductive Refusal where
  /-- Raised by the dispatcher for a command whose meaning is not written yet. Safe. -/
  | notModelled (mnemonic : String)
  deriving DecidableEq, Repr

/-! ### Registers -/

/-- The registers of the manual, by name. A register with numbered copies is one entry; ECC_LAST and
ECC_FLIP have one entry for stations and one for wellheads. -/
inductive Reg where
  | stnRowmap | stnCollide | stnCollideAt | stnXingDropE | stnXingDropW | stnRxbeats | stnStampLast
  | seqIbufMx | seqIbufVx | seqIbufMv | seqQstat | seqCnt | seqSbd | seqStep | seqSteptel | seqProfile | seqSecondary | seqVariant
  | hldState | hldCntDma | hldCntLink | hldCntCistern | hldCntHost | hldCntRefresh | hldCntGate | hldCntTotal | hldEpisodes
  | mxeAccst | mxeAx | mxeFlags | insLaflags | insFlags | vxeFlags | vxeSeed | vxeSrkey
  | wlhKey | wlhRef | wlhFlags | wlhRdbeats | wlhWrbeats | wlhRefunits | cstNs | cstShare
  | eccSpCe | eccSpUe | eccWhCe | eccWhUe | eccWhOdc | eccLastS | eccLastW | eccFlipS | eccFlipW | eccSpmap | eccWhmap | eccFill
  | lrkCfg | lrkPool | lrkState | lrkRtt | lrkSeq | lrkFecCorr | lrkFecUnc | lrkLcrcErr | lrkSeqDrop | lrkKindDrop | lrkCreditViol | lrkTimeouts | lrkReplayed | lrkDowns | lrkPrimeFail | lrkWidthChg | lrkLaneSym
  | rteCtl | rteRoute | rteRwin | rteHcrcErr | rteHdrErr | rteKeyDrop | rteAuthFail | rteRemoteDrop | rteDup | rteGap | rteCacheHit | rteRespDup | rteHopsDrop | rteFwdLate | rteEscaped | rteNoroute | rteEpochLate | rteAbortDup | rteWindowWait | rteNoresp
  | clkCtl | clkMoncfg | clkJhist | clkDutyErr | clkStretch | clkSymp | clkSlip | clkRefloss | mtmNow | mtmRate | mtmState | mtmCfg | mtmPort | mtmAsym | mtmMarkDrop
  | srvStat | srvQueue | srvCommitted | srvCompleted | srvCancelled | srvFailed | srvSpecProposed | srvSpecAccepted | srvSpecRejected | srvRingWait | srvRungChg | srvParks | srvUnparks | srvDigestFail
  | wgtState | wgtProgress | wgtPace | wgtDigest | wgtSdigest | wgtChunks | wgtIoRetry | wgtAuthFail | wgtDigestFail | wgtSwaps
  | detState | provState | detJchain | detJentries | detRefused | detDiverge | detTruncs | provRecords | provBatches | provLost
  | secPart | secChange | secFslot | secRot | secSession
  | secSigfail | secKeyloads | secEnvReject | secTeardowns | secRotations
  | mbxIrq | mbxPend | mbxBoot | wchState | wchFrames | wchCrcErr | wchRepeat | wchOverrun
  | pwrState | pwrIn | pwrHoldup | pwrCfg | thmState | thmTemp | pwrFails | pwrHoldupTests | pwrHoldupLow | pwrLimStretch | thmThrottle | thmTrips
  | evtCfg | evtWin | evtRaised | evtLost | telemLost | varSwitches | telemState
  deriving DecidableEq, Repr

/-! ### Counters and outputs -/

/-- A counter of Table 2-7: 48 bits that saturate, and OVF (R813). -/
structure Ctr where
  count : Nat := 0
  ovf : Bool := false
  deriving DecidableEq, Repr

/-- An event record (Table 19-1) without its window. -/
structure Evt where
  code : Nat
  sev : Nat
  inst : Nat
  mtime : Nat
  step : Nat
  count : Nat
  arg : Nat
  deriving DecidableEq, Repr

/-- A response: the bytes a chapter lays out, or named fields where it lays out none. -/
inductive Resp where
  | empty
  | bytes (l : List Byte)
  | fields (l : List (String × Nat))
  deriving DecidableEq, Repr

/-- What the module has sent to the outside, in the order sent. -/
inductive Output where
  | unit (port : Nat) (u : LinkUnit) (lcrc : Nat)
  | frame (f : Frame)
  | report (code : Nat) (bytes : List Byte)
  | msi (hart : Nat) (file : Nat) (ident : Nat)
  | msix (vector : Nat)
  | mgmt (status : Nat) (detail : Nat) (tag : Nat) (r : Resp)
  | fetch (target : Nat) (nsid : Nat) (saddr : Nat) (len : Nat)
  | manifest (mod : Nat) (die : Nat) (m : Manifest)
  | ident (port : Nat) (mod : Nat) (lanes : Nat) (width : Nat)
  | timing (port : Nat) (markers : Nat)
  deriving DecidableEq, Repr

/-! ### Memories -/

/-- Every addressed memory of the module, one byte a cell. Scratchpad byte `off` of station key `k` is
at `k * 2^23 + off`, spare beat `i` of its slice at `k * 2^23 + 2^22 + 128 * i`; operand-cache byte `off` at
`k * 2^16 + off`; HBM byte `b` of beat `h` of wellhead `w` at `w * 2^43 + 128 * h + b`, of a beat that spare row `i` serves
2^36 × (i + 1) above; cistern byte `o` of partition `p` at `p * 2^43 + o`; host memory has its LPDDR5X byte address.
Contents are held as they were before encryption (R349: `pageKeys` of a wellhead says under which key, log 71). -/
structure Mems where
  scratch : List Host.Cell := []
  cache : List Host.Cell := []
  hbm : List Host.Cell := []
  host : List Host.Cell := []
  cist : List Host.Cell := []
  deriving DecidableEq, Repr

/-! ### Stations: sequencer (03) -/

/-- An instruction in a queue: its word, its byte offset from BASE, the first cycle in which it may
issue (R101). -/
structure QEntry where
  word : Word128
  off : Nat
  avail : Nat := 0
  deriving DecidableEq, Repr

/-- An open loop: index of its body's first entry, trips left with this one, the opening cycle of the elastic region
in which it opened. -/
structure LoopFrame where
  start : Nat
  left : Nat
  gated : Option Nat
  deriving DecidableEq, Repr

/-- An open elastic region: opening cycle, budget, limit, buffer offset of the opening CT.GATE. -/
structure Gate where
  g : Nat
  b : Nat
  l : Nat
  iaddr : Nat
  deriving DecidableEq, Repr

/-- An instruction queue. `pos` is the index in `entries` of the next instruction; the entries before
it are retained by open loop bodies. `skip` is the nesting depth of a body being passed over (R133).
`ref` is the reference cycle of Table 3-5, `firstRow` says that its first row applies, `refVx` that the
cycle counts from a VX instruction (R96). `nextOff` is the offset that follows the last appended beat. -/
structure QueueSt where
  entries : List QEntry := []
  pos : Nat := 0
  loops : List LoopFrame := []
  skip : Nat := 0
  gate : Option Gate := none
  stofs : Nat := 0
  ref : Nat := 0
  firstRow : Bool := true
  refVx : Bool := false
  ended : Bool := false
  nextOff : Nat := 0
  deriving DecidableEq, Repr

/-- States of a scoreboard descriptor (03). -/
inductive DescState where
  | free | pending | ready
  deriving DecidableEq, Repr

/-- A scoreboard descriptor (Table 3-17), with the step of its opening, the wall cycle and step in
which it became READY, the offset of the opening instruction, and the step and cycle of the SB.CLOSE that frees it from
the next cycle on, with the state before it (R128). -/
structure Desc where
  state : DescState := .free
  was : DescState := .free
  closeAt : Option (Nat × Nat) := none
  out : Bool := false
  cause : Nat := 0
  base : Nat := 0
  len : Nat := 0
  openAt : Nat := 0
  openStep : Nat := 0
  readyAt : Int := 0
  readyStep : Nat := 0
  iaddr : Nat := 0
  deriving DecidableEq, Repr

/-- A write to a count register: register, cycle and step of its issue, value, rank of its queue. -/
structure CntWrite where
  reg : Nat
  cycle : Nat
  step : Nat
  rank : Nat
  value : Nat
  deriving DecidableEq, Repr

/-- A scratchpad access of the step in progress: cycle, direction, port, bank, further cycles for which
the bank is held (R53, R326), queue and buffer offset of its instruction; `own` for one made in a queue's own count of
cycles while the partition is stopped (R146); `lost` for one that met another and is not performed (R52, R108). -/
structure Acc where
  cycle : Nat
  write : Bool
  port : Nat
  bank : Nat
  hold : Nat
  queue : Nat
  iaddr : Nat := 0
  own : Bool := false
  lost : Bool := false
  deriving DecidableEq, Repr

/-- A write not yet seen by every later read: cycle, cycles until seen (R54, R237), write port, byte
offset, bytes, flip mask of its first code word (R406); `own` as for accesses. -/
structure LateWrite where
  cycle : Nat
  delay : Nat
  port : Nat
  off : Nat
  bytes : List Byte
  flip : BitVec 72 := 0
  own : Bool := false
  deriving DecidableEq, Repr

/-- A beat as an instruction that is under way has read it: the cycle in which its plan places the read, the cycle in
which the read is made in the count of cycles that goes on, memory and beat, the stop of its queue's own count of cycles
(R146), whether the read is settled and is not made again, and the bytes. -/
structure Got where
  plan : Nat
  cycle : Nat
  cache : Bool
  beat : Nat
  own : Option Nat
  fixed : Bool := false
  bytes : List Byte
  deriving DecidableEq, Repr

/-- What the reads of an instruction meet: the cycle of the first uncorrectable read, with the beat and its
failing words; a cycle beyond every step where there is none. -/
structure Cut where
  cycle : Nat := 2 ^ 40
  beat : Nat := 0
  words : List Nat := []
  cache : Bool := false
  deriving DecidableEq, Repr

/-- An instruction of the step in progress whose results depend on beats that it reads: where it was issued, its word
and cycle, what it has read, the matrix buffer it uses, the rounding key at its issue (R249), the flags that it raises in
VXE_FLAGS, INS_LAFLAGS and MXE_FLAGS, and for each time that its queue has left its own count of cycles the stop of that
count and how far its cycles move back (R146). -/
structure Reader where
  queue : Queue
  word : Nat
  cycle : Nat
  off : Nat
  own : Option Nat
  stofs : Nat
  cut : Cut
  got : List Got
  buf : Nat
  seed : BitVec 64
  tensor : BitVec 32
  base : BitVec 64
  vx : BitVec 5 := 0
  la : BitVec 3 := 0
  mx : BitVec 20 := 0
  back : List (Nat × Nat) := []
  deriving DecidableEq, Repr

/-- A send stream in progress (R90): first cycle and beats. -/
structure SendSt where
  cycle : Nat
  len : Nat
  deriving DecidableEq, Repr

/-- A receive stream (R114, R290): slots `cycle + i`, destination, port, sender, operation, stamp of
slot 0. `taken` slots have been decided; `dead` after a stamp halt (R291). -/
structure RecvSt where
  cycle : Nat
  len : Nat
  loc : Nat
  wp : Nat
  die : Nat
  unit : Nat
  wop : Nat
  xfer : Nat
  beat : Nat
  iaddr : Nat
  taken : Nat := 0
  dead : Bool := false
  deriving DecidableEq, Repr

/-- STN_COLLIDE_AT and STN_STAMP_LAST of a station (Tables 2-8, 7-14). -/
structure StnLast where
  cycle : Nat := 0
  step : Nat := 0
  a : Nat := 0
  b : Nat := 0
  c : Nat := 0
  deriving DecidableEq, Repr

/-! ### Stations: matrix and vector engines (04, 05, 06) -/

/-- A B buffer of the matrix engine (R164 to R166): format, tile bytes, scale bytes, completion cycle,
and the last cycle in which a row of an MX.MMA that uses it enters the array. -/
structure BBuf where
  valid : Bool := false
  fmt : Nat := 0
  tile : List Byte := []
  scales : List Byte := []
  complete : Nat := 0
  busy : Nat := 0
  deriving DecidableEq, Repr

/-- What an accumulator output holds (04). -/
inductive AccTag where
  | num | nan | pinf | ninf
  deriving DecidableEq, Repr

/-- One accumulator output: in ANCHORED mode an integer in units of 2^A, in FLOAT mode FP32 bits; `passed`
says that a unit value was replaced or a rounding overflowed since CLR (R185). -/
structure AccVal where
  tag : AccTag := .num
  v : Int := 0
  passed : Bool := false
  deriving DecidableEq, Repr

/-- An accumulator set (R172 to R185): OPEN or EMPTY, the latched MODE, AUTO, TRAP and ANCHOR, the
effective anchor, MMA count, flags, outputs in row-major order, the ready cycle of its latest MX.MMA and
the cycle after the drain in progress. -/
structure AccSet where
  opened : Bool := false
  isFloat : Bool := false
  auto : Bool := false
  trap : Bool := false
  anchorField : Int := 0
  anchor : Int := 0
  count : Nat := 0
  inexact : Bool := false
  ovf : Bool := false
  invalid : Bool := false
  outs : List AccVal := []
  ready : Nat := 0
  drainEnd : Nat := 0
  deriving DecidableEq, Repr

/-- ECC_LAST (Table 9-7), with the cycle of a correction made in the step in progress (R378). -/
structure EccLast where
  cycle : Nat := 0
  valid : Bool := false
  src : Nat := 0
  cache : Bool := false
  word : Nat := 0
  offset : Nat := 0
  deriving DecidableEq, Repr

/-- ECC_FLIP (Table 9-8): 0 IDLE, 1 ARMED, 2 FIRED, and the cycle and port of the scratchpad write that was struck
(R406). -/
structure EccFlip where
  state : Nat := 0
  struck : Option (Nat × Nat) := none
  firedAt : Nat := 0
  mask : BitVec 72 := 0
  deriving DecidableEq, Repr

/-- What a station held when the first instruction in `readers` issued: buffers of the matrix engine, how many loads it
had made, its sets; VXE_FLAGS, INS_LAFLAGS, MXE_FLAGS. -/
structure StepBase where
  bbufs : Table BBuf
  loads : Nat
  sets : Table AccSet
  vx : BitVec 5
  la : BitVec 3
  mx : BitVec 20
  deriving DecidableEq, Repr

/-- A station (Tables 2-1, 2-7, 2-8 and the station registers of 03 to 09). `readers` are the instructions of the step
whose results depend on what they read (R54), `laneAcc` the accesses that lanes have made in it (R330), `laneLost` the
descriptors of lane beats that a router or a crossing discarded. -/
structure Station where
  ibufMx : IBuf := { base := 0, len := 0 }
  ibufVx : IBuf := { base := 0, len := 0 }
  ibufMv : IBuf := { base := 0, len := 0 }
  mx : QueueSt := {}
  vx : QueueSt := {}
  mv : QueueSt := {}
  cnt : Table Nat := []
  cntLog : List CntWrite := []
  sbd : Table Desc := []
  acc : List Acc := []
  laneAcc : List Acc := []
  late : List LateWrite := []
  lateC : List LateWrite := []
  sends : List SendSt := []
  recvs : List RecvSt := []
  collideAt : StnLast := {}
  stampLast : StnLast := {}
  bbufs : Table BBuf := []
  loads : Nat := 0
  mmaNext : Nat := 0
  sets : Table AccSet := []
  ax : Table Int := []
  axLog : List (Nat × Nat × Int) := []
  readers : List Reader := []
  stepBase : Option StepBase := none
  laneLost : List Nat := []
  mxeFlags : BitVec 20 := 0
  laFlags : BitVec 3 := 0
  insFlags : BitVec 4 := 0
  vxeFlags : BitVec 5 := 0
  vxeSeed : BitVec 64 := 0
  srTensor : BitVec 32 := 0
  srBase : BitVec 64 := 0
  pipe0 : Nat := 0
  pipe1 : Nat := 0
  halted : Option Int := none
  spErr : Table (BitVec 72) := []
  ocErr : Table (BitVec 72) := []
  eccLast : EccLast := {}
  flip : EccFlip := {}
  spMap : List Nat := []
  deriving DecidableEq, Repr

/-! ### Wellheads (08, 09, 16) -/

/-- State of an HBM page (R350). -/
inductive Page where
  | filled | epoch0 | epoch1
  deriving DecidableEq, Repr

/-- State of a key slot (Tables 8-10, 16). -/
inductive KeySlot where
  | empty | loaded | destroyed
  deriving DecidableEq, Repr

/-- A long-running transfer (08, 11) outstanding at an edge station or waiting in its lane (R333): its tap, the step and
cycle in which its request reaches the edge station, and how many beats the edge station has sent into its lane. -/
structure Xfer where
  key : Nat
  die : Nat
  unit : Nat
  desc : Nat
  kind : Nat
  out : Bool
  loc : Nat
  len : Nat
  port : Nat
  addr : Nat
  mode : Nat
  iaddr : Nat
  tap : Nat := 0
  asked : Nat × Nat := (0, 0)
  started : Bool := false
  fed : Nat := 0
  moved : Nat := 0
  src : List Nat := []
  ready : Bool := false
  buffered : List Byte := []
  tmpl : Nat := 0
  xfer16 : Nat := 0
  srcMod : Nat := 0
  deriving DecidableEq, Repr

/-- A wellhead. `hotNext` is the rate that its sensor calls for, in force from the next tick (R354). `key0` and `key1` are
the draws of the keys in its slots, `pageKeys` that under which each page was written; `soft` lists the sectors (4 × beat +
sector) in which the stack's on-die ECC finds an error to correct (R380); `whMap` holds the remapped rows as PC, BANK and
ROW (Table 9-9). -/
structure Well where
  pages : Table Page := []
  slot0 : KeySlot := .empty
  slot1 : KeySlot := .empty
  key0 : Nat := 0
  key1 : Nat := 0
  pageKeys : Table Nat := []
  wrEpoch : Bool := false
  queries : Table (List Byte) := []
  selections : Table (List (Nat × Nat)) := []
  queue : List Xfer := []
  ticks : Nat := 0
  hot : Bool := false
  hotNext : Bool := false
  setHot : Bool := false
  unused : Bool := false
  selfref : Bool := false
  debt : Nat := 0
  flags : BitVec 3 := 0
  secErr : Table (List (Nat × Nat)) := []
  soft : List Nat := []
  eccLast : EccLast := {}
  flip : EccFlip := {}
  whMap : List Nat := []
  deriving DecidableEq, Repr

/-! ### The Lerek link (10) -/

/-- One value per traffic class. -/
structure Quad where
  c0 : Nat := 0
  c1 : Nat := 0
  c2 : Nat := 0
  c3 : Nat := 0
  deriving DecidableEq, Repr

/-- A packet on its way out: its link class (3 once ESCAPED), its extended PSEQ, the wall time from which it
waits, the descriptor (station key, DESC) of the LK.INJECT it belongs to, and once it is sent its LSEQ, the wall time at which
its last byte was or will be sent (R433), and whether it is to be sent again; of one that goes through, its arrival port, whether it arrived with VIA_RELAY set (R478), and the
class and units of the receive pool that it still holds there (R421). -/
structure OutPkt where
  pkt : Packet
  cls : Nat
  ext : Nat := 0
  since : Nat := 0
  src : Option (Nat × Nat) := none
  lseq : Option Nat := none
  sentAt : Nat := 0
  again : Bool := false
  came : Option Nat := none
  viaIn : Bool := false
  pool : Option (Nat × Nat) := none
  deriving DecidableEq, Repr

/-- A packet accepted by a port: arrival port, link class, LEN16 of its prefix, wall time of its last byte; whether it still
holds its pool units (R421), and whether it arrived with VIA_RELAY set (R478). -/
structure InPkt where
  pkt : Packet
  port : Nat
  cls : Nat
  len16 : Nat
  at_ : Nat
  pooled : Bool := true
  viaIn : Bool := false
  deriving DecidableEq, Repr

/-- A width change in progress (R456): the new lanes and width, the ends that have switched, its beginning. -/
structure WidthOp where
  lanes : Nat
  width : Nat
  tx : Bool := false
  rx : Bool := false
  start : Nat
  deriving DecidableEq, Repr

/-- A port (Tables 10-8 to 10-12). `ahead` holds packets that wait in the link station ahead of the transmit
store (R490, R432), `fwd` packets under forwarding towards this port, `inbox` accepted packets that
PACKET_RECEIVE has not taken. `granted` is the cumulative grant of each class sent to the peer, `outst` the
units granted and not arrived, `holds` those held in the pool, `peerWant` the peer's last WANT; `cr` and
`used` are the grants received and the units consumed; `ctl` the units of width changes, retrains and DOZE
that wait; `busy` the picosecond at which the transmitter is free. `fresh` says that the port has returned
and is not used as a first link yet (R444). -/
structure Port where
  enable : Bool := true
  cfgWidth : Nat := 0
  downUs : Nat := 0x10
  laneThr : Nat := 0x1000
  limit : Quad := { c0 := 0xC00, c1 := 0x400, c2 := 0x40, c3 := 0x200 }
  st : Nat := 0
  width : Nat := 3
  lanes : Nat := 0
  unusable : Nat := 0
  peerDoze : Bool := false
  doze : Bool := false
  slowKeep : Bool := false
  cause : Nat := 0
  peerPort : Nat := 0
  peerMod : Nat := 0
  rtt : Nat := 0
  timed : Bool := false
  rxNext : Nat := 0
  txNext : Nat := 0
  txAcked : Nat := 0xFFFFFF
  thrNow : Nat := 0x1000
  widthNow : Nat := 0
  fresh : Bool := false
  fromEq : Bool := false
  downAt : Nat := 0
  backoff : Nat := 1000000
  ahead : List OutPkt := []
  store : List OutPkt := []
  fwd : List InPkt := []
  inbox : List InPkt := []
  granted : Quad := {}
  outst : Quad := {}
  holds : Quad := {}
  peerWant : Nat := 0
  turn : Nat := 0
  cr : Quad := {}
  used : Quad := {}
  crDue : Nat := 0
  crTurn : Nat := 0
  ackDue : Bool := false
  wantSent : Nat := 0
  dueAt : Nat := 0
  ctl : List LinkUnit := []
  timer : Option Nat := none
  expiries : Nat := 0
  req : Option (Nat × Nat × Nat) := none
  op : Option WidthOp := none
  retrain : Bool := false
  busy : Nat := 0
  lastSent : Nat := 0
  lastHeard : Nat := 0
  c2Log : List (Nat × Nat) := []
  c2Ahead : Nat := 0
  ctlAhead : Nat := 0
  deriving DecidableEq, Repr

/-! ### Packets and routes (11) -/

/-- A route table (Tables 11-11, 11-13): EPOCH, bank states, pending flip, the ports that have sent and
received a DRAIN for the epoch in DRAINING, the DRAINs received before the flip, the time of the flip. -/
structure Rte where
  epoch : Bool := false
  bank0 : Nat := 2
  bank1 : Nat := 0
  pend : Bool := false
  flipStep : Nat := 0
  sentDrain : Nat := 0
  gotDrain : Nat := 0
  earlyDrain : Nat := 0
  flipAt : Nat := 0
  r0 : Table RouteEntry := []
  r1 : Table RouteEntry := []
  deriving DecidableEq, Repr

/-- One class of a pair entry (R487, R707): the next extended PSEQ to send, the next expected, the value
that the peer last reported delivered, the value last reported to the peer, and the expected value for whose gap PSEQ_GAP
was raised (R489). -/
structure PairCls where
  send : Nat := 0
  next : Nat := 0
  deliv : Nat := 0
  told : Nat := 0
  gap : Option Nat := none
  deriving DecidableEq, Repr

/-- A pair entry of a die (`live` once it is created), its classes C0 to C2, the wall time of the last DELIVERED sent. -/
structure Pair where
  live : Bool := false
  c0 : PairCls := {}
  c1 : PairCls := {}
  c2 : PairCls := {}
  toldAt : Nat := 0
  deriving DecidableEq, Repr

/-- A packet that waits for the packets before it (R488), in the reorder store or in its receive pool: its extended PSEQ, the
wall time from which it waits. -/
structure Waiting where
  inp : InPkt
  ext : Nat
  since : Nat
  deriving DecidableEq, Repr

/-- A packet without a route (R484), with the table that routes it; `kept` in the held store, else still where it was. -/
structure Held where
  out : OutPkt
  table : Option Nat
  since : Nat
  kept : Bool := true
  deriving DecidableEq, Repr

/-- A request outstanding (R499, R500): its packet, extended PSEQ, replays sent, wall time of the last
transmission, the port used, the mailbox command whose work issued it. -/
structure Request where
  pkt : Packet
  ext : Nat
  replays : Nat
  sentAt : Nat
  port : Nat
  via : Option Via
  deriving DecidableEq, Repr

/-- A request that the work of a command asks for and that is not issued yet (R499): its destination, the command. -/
structure Ask where
  mod : Nat
  die : Nat
  via : Via
  deriving DecidableEq, Repr

/-- An entry of the response cache (R501): its key, the response, the wall time of its creation. -/
structure Cached where
  mod : Nat
  die : Nat
  tag : Nat
  resp : Packet
  at_ : Nat
  deriving DecidableEq, Repr

/-! ### Keys (16) -/

/-- One epoch of a fabric slot (Table 16-16): 0 EMPTY, 1 LOADED, 2 DESTROYED, 3 SPENT; the blob loaded, its key, the
peers it names, whether it carried C0 traffic under the plan loaded, its LOCAL and UNORDERED counts. -/
structure KeyEpoch where
  st : Nat := 0
  blob : Nat := 0
  key : BitVec 256 := 0
  peers : List (Nat × Nat) := []
  c0 : Bool := false
  locals : Nat := 0
  unord : Nat := 0
  deriving DecidableEq, Repr

/-- A fabric slot of a die. -/
structure FSlot where
  ep0 : KeyEpoch := {}
  ep1 : KeyEpoch := {}
  wr : Bool := false
  pending : Bool := false
  switchStep : Nat := 0
  deriving DecidableEq, Repr

/-- A loaded key that is no fabric key: 0 EMPTY, 1 LOADED, 2 DESTROYED, the key, and what it is bound to. -/
structure LoadedKey where
  st : Nat := 0
  blob : Nat := 0
  key : BitVec 256 := 0
  wset : Digest := 0
  modelId : BitVec 128 := 0
  deriving DecidableEq, Repr

/-- A channel: its key, the last counter accepted (R704), the device's next counter (R705). -/
structure Channel where
  st : Nat := 0
  key : BitVec 256 := 0
  last : Option Nat := none
  next : Nat := 0
  deriving DecidableEq, Repr

/-- Security state of a partition (Table 16-14): STATE 0 FREE, 1 ASSIGNED, 2 OPEN, 3 TEARDOWN; PHASE; MODE;
what the assignment persists; the session and its keys; the last scrub-complete attestation; packets discarded at
DESTROY; the wall time at which FENCE ended. -/
structure Sec where
  st : Nat := 0
  phase : Nat := 0
  mode : Nat := 0
  tenant : Nat := 0
  policy : Option Policy := none
  session : Nat := 0
  models : Table LoadedKey := []
  park : LoadedKey := {}
  debugKey : LoadedKey := {}
  channels : Table Channel := []
  lastAttest : List Byte := []
  drainLeft : Nat := 0
  fenceEnd : Nat := 0
  deriving DecidableEq, Repr

/-! ### Serving (13) -/

/-- Session states (Table 13-1), and a free entry. -/
inductive SessSt where
  | free | idle | active | parking | parked | unparking
  deriving DecidableEq, Repr

/-- A park image of a session as the home recorded it (R598, R601, R602): its context length, session chain,
token log, member digests, program and weight-set digests, destination and cistern blocks. -/
structure Image where
  len : Nat
  chain : Digest
  log : List Nat
  members : List Digest
  program : Digest
  wset : Digest
  dest : Nat
  blocks : List Nat
  deriving DecidableEq, Repr

/-- An entry of the session table: generation, state, L, channel, session chain (R649), last session digest,
park image, the image being written, token log (R634), open request, tokens to prefill again (R634), the
command that waits for its end, and whether a request of its work has failed (R503). -/
structure Session where
  gen : Nat := 0
  st : SessSt := .free
  len : Nat := 0
  channel : Option Nat := none
  chain : Digest := 0
  digest : Digest := 0
  image : Option Image := none
  writing : Option Image := none
  log : List Nat := []
  req : Option Nat := none
  again : List Nat := []
  via : Option Via := none
  noResp : Bool := false
  deriving DecidableEq, Repr

/-- Request states (Table 13-2), and a free entry. -/
inductive ReqSt where
  | free | queued | prefill | decode | outWait
  deriving DecidableEq, Repr

/-- An output record that waits to be written (Table 13-5). -/
structure OutRec where
  seq : Nat
  token : Option Nat
  logprob : Nat
  kind : Nat
  index : Nat
  status : Nat
  last : Bool
  ctx : Nat
  step : Nat
  prov : Nat
  deriving DecidableEq, Repr

/-- An entry of the request table: generation, state, session, parameters, prompt tokens and how many are
committed, generated tokens, L at REQ_SUBMIT, next SEQ, CANCEL, records waiting, provenance index, input
digest, steps of the first and last commit, prompt tokens that sealed manifests take, step of the manifest of the last. -/
structure Req where
  gen : Nat := 0
  st : ReqSt := .free
  sess : Nat := 0
  params : Option ReqParams := none
  prompt : List Nat := []
  done : Nat := 0
  tokens : List Nat := []
  baseLen : Nat := 0
  seq : Nat := 0
  cancel : Bool := false
  ended : Bool := false
  out : List OutRec := []
  prov : Nat := 0
  input : Digest := 0
  first : Option Nat := none
  lastStep : Nat := 0
  sched : Nat := 0
  lastChunk : Option Nat := none
  deriving DecidableEq, Repr

/-- The serving engine of a home partition: its tables, the prefill queue (R569), the sealed manifests by step,
the rung of the latest one, how often a lower one qualified and the highest that did, the step of the last commit
point, the slots in the slot mask (R590), the slots
masked at the last layer boundary (R591), the manifests received by step. -/
structure Srv where
  sess : Table Session := []
  reqs : Table Req := []
  queue : List Nat := []
  sealedM : List Manifest := []
  rung : Nat := 0
  lower : Nat := 0
  lowMax : Nat := 0
  commitStep : Option Nat := none
  mask : List Nat := []
  masked : List Nat := []
  got : List Manifest := []
  deriving DecidableEq, Repr

/-! ### Weights (14) -/

/-- A chunk of the job in progress: its Reads issued, verified, I/O retries, whether it was fetched once more. -/
structure Chunk where
  issued : Bool := false
  ok : Bool := false
  retries : Nat := 0
  again : Bool := false
  deriving DecidableEq, Repr

/-- A fetch, stage or overwrite: manifest, payload, key slot, the command that waits for it, chunks by entry, bytes
requested and not written, bytes in the rate bucket and the wall time for which they hold. -/
structure Job where
  man : WManifest
  pay : WPayload
  via : Via
  chunks : Table Chunk := []
  out : Nat := 0
  bucket : Nat := 0
  at_ : Nat := 0
  deriving DecidableEq, Repr

/-- A target of WEIGHTS_TARGET. -/
structure WTarget where
  addr : Nat := 0
  service : Nat := 0
  nqn : List Byte := []
  deriving DecidableEq, Repr

/-- Weights of a partition (Tables 14-7 to 14-9): STATE, STAGE, PHASE, CTX, MKEY, SKEY, GROUPS_DONE, FAIL_ENTRY,
progress, pace, digests; the job in progress, the current and the staged manifest with its payload, entries
verified under the current set (R624), the targets, the swap's command and barrier, the digest before the last swap and the first step whose manifest was sealed
after it (R635). -/
structure Wgt where
  st : Nat := 0
  stage : Nat := 0
  phase : Nat := 0
  ctx : Nat := 0
  mkey : Nat := 0
  skey : Nat := 0
  groups : Nat := 0
  fail : Option Nat := none
  total : Nat := 0
  done : Nat := 0
  maxOut : Nat := 0
  rateCap : Nat := 0
  digest : Digest := 0
  sdigest : Digest := 0
  job : Option Job := none
  cur : Option WManifest := none
  staged : Option (WManifest × WPayload) := none
  verified : List Nat := []
  targets : Table WTarget := []
  swap : Option Via := none
  barrier : Nat := 0
  old : Digest := 0
  since : Nat := 0
  deriving DecidableEq, Repr

/-! ### Determinism (15) -/

/-- A journal entry before its CHAIN (Table 15-5). -/
structure JEntry where
  kind : Nat
  pos : Nat
  step : Nat
  payload : List Byte
  deriving DecidableEq, Repr

/-- Journal, replay and truncation of a partition (Table 15-10), DET_JCHAIN, the entry that waits for a new
destination (R659), dump digests, the wall time at which the truncation's SETTLE ends. -/
structure Det where
  journal : Bool := false
  dest : Option JDest := none
  pos : Nat := 0
  chain : Digest := 0
  entries : Nat := 0
  pending : List JEntry := []
  jfull : Bool := false
  replay : Option JHead := none
  diverged : Bool := false
  divEntry : Nat := 0
  broken : Bool := false
  trunc : Nat := 0
  point : Option TruncPayload := none
  settleEnd : Nat := 0
  stopCauses : Nat := 0
  dumps : List Digest := []
  deriving DecidableEq, Repr

/-- Provenance of a partition (Table 15-11): configuration, last step of the previous STEPS record plus one, the records
of the open batch under their indices in index order, root of the previous batch, batches written, NEXT. -/
structure Prov where
  cfg : Option ProvCfg := none
  next : Nat := 1
  nextStep : Nat := 0
  batch : List (Nat × List Byte) := []
  prev : Digest := 0
  batches : Nat := 0
  deriving DecidableEq, Repr

/-! ### Partitions: plans, holds, halts (07) -/

/-- Plan states (Table 7-9). -/
inductive PlanState where
  | empty | loaded | running | stopping | stopped | halted
  deriving DecidableEq, Repr

/-- A cause asserted on the hold network: unit, cause code, descriptor or 0xFF_FFFF, wall cycle of the
assertion, the instruction whose check failed, the wall cycle in which it clears. -/
structure CauseSt where
  die : Nat
  unit : Nat
  code : Nat
  desc : Nat
  since : Int
  queue : Nat
  iaddr : Nat
  clear : Option Int := none
  deriving DecidableEq, Repr

/-- A hold in force: stop cycle, wall cycle and module time of the first assertion, causes. `carried`
says that it stops the partition before pre-step cycle −6 of the next step (R294). -/
structure Hold where
  stop : Int
  first : Int
  sinceNs : Nat
  causes : List CauseSt
  carried : Bool
  deriving DecidableEq, Repr

/-- The primary fault record (Table 7-6); SECONDARY is filled in when it is read. -/
structure FaultRec where
  reason : Nat
  iaddrValid : Bool
  stationValid : Bool
  module : Nat
  die : Nat
  part : Nat
  queue : Nat
  unit : Nat
  pidx : Nat
  causes : Nat
  step : Nat
  cls : Nat
  profile : Nat
  cycle : Int
  iaddr : Nat
  subcode : Nat
  arg : Nat
  mtime : Nat
  issuer : Option (Nat × Nat)
  plan : Nat
  deriving DecidableEq, Repr

/-- A switch of variant that is armed (R829 to R832). -/
structure Armed where
  variant : Nat
  step : Nat
  originMod : Nat
  originDie : Nat
  payload : List Byte
  deriving DecidableEq, Repr

/-- A hold of the step in progress that has been released: its stop, the shift before it, its wall cycle r (R295). -/
structure Resume where
  stop : Int
  shift : Int
  r : Int
  deriving DecidableEq, Repr

/-- Hold cycles counted for the telemetry record of the step, and whether a stretch of R795 or R799 occurred in it
(Table 19-7). -/
structure StepHolds where
  total : Nat := 0
  causes : Table Nat := []
  episodes : Nat := 0
  stretch : Bool := false
  deriving DecidableEq, Repr

/-- The telemetry ring of a partition (R823, Table 19-14), the records written into it, the module time of the last
TELEM_LOST event. -/
structure Telem where
  addr : Nat := 0
  pushEvery : Nat := 0
  entries : Nat := 0
  written : Nat := 0
  lastLostNs : Option Nat := none
  deriving DecidableEq, Repr

/-- SEC_ROT (Table 16-17): 0 IDLE, 1 PENDING, 2 REENCRYPT; RATE in GB/s. `loaded` says that every new key
is LOADED. -/
structure Rot where
  state : Nat := 0
  rate : Nat := 0x48
  loaded : Bool := false
  deriving DecidableEq, Repr

/-- A partition, named by its lowest die: its dies, and the plan it runs. `sealedKey` is the draw of the
sealed-host key of its session (Table 16-6), of which there is none before a session is open; `sealedCtr` and `nsCtr` are the
write counters of that key and of the namespace key (R698); `share` is CST_SHARE.WEIGHT; `dirty` holds the earlier contents of blocks written since the last commit
(R369); `target`, `cur`, `clkPend` and `stbyLock` are CLK_CTL (Table 12-5);
`thermal`, `setBy` and `stretched` (the dies under R799) are THM_STATE (Table 18-11). `release` is the release time of the step in progress,
or between two steps that of the next; `stretch0` is the largest cumulative stretch of its dies at the start of the
step; `startNs` the module time from which its wall cycles count; `resumes` holds the releases of the step in progress,
`lastStop` the cycle before which a hold, or a halt before its first cycle, has ended it for good (R304, R313); `lateRun` the steps before it that started late in a
row, `lateTold` that LATE_STEP was raised for them (R827). -/
structure Part where
  dies : List Nat := []
  st : PlanState := .empty
  plan : Option PlanImage := none
  step : Nat := 0
  inStep : Bool := false
  variant : Nat := 0
  varBase : Nat := 0
  hwBase : Nat := 0
  hwLen : Nat := 0
  sealedLen : Nat := 0
  sealedKey : Option Nat := none
  sealedCtr : Nat := 0
  nsBlocks : Nat := 0
  nsValid : Bool := false
  nsCtr : Nat := 0
  share : Nat := 1
  dirty : List (Nat × List Byte) := []
  armed : List Armed := []
  release : Nat := 0
  startNs : Nat := 0
  stretch0 : Nat := 0
  late : Nat := 0
  spill : Int := 0
  shift : Int := 0
  hold : Option Hold := none
  resumes : List Resume := []
  lastStop : Option Int := none
  stepHolds : StepHolds := {}
  rot : Rot := {}
  fault : Option FaultRec := none
  lateRun : Nat := 0
  lateTold : Bool := false
  telem : Telem := {}
  sec : Sec := {}
  rte : Rte := {}
  target : Nat := 0
  cur : Nat := 0
  clkPend : Bool := false
  stbyLock : Bool := false
  thermal : Nat := 0
  setBy : Nat := 0
  stretched : List Nat := []
  srv : Srv := {}
  wgt : Wgt := {}
  det : Det := {}
  prov : Prov := {}
  deriving DecidableEq, Repr

/-! ### Dies and the mesh (02) -/

/-- A beat on the mesh: sender, receiver, stamp, send cycle, step, bytes; virtual rows of the grid; for a beat of the lane
of a long-running transfer the tap of its edge station, and the station key and descriptor of the transfer (08 R327). -/
structure Beat where
  srcDie : Nat
  srcUnit : Nat
  dstDie : Nat
  dstUnit : Nat
  stamp : Nat
  sent : Nat
  step : Nat
  bytes : List Byte
  rows : Nat := 8
  tap : Nat := 0
  lane : Option (Nat × Nat) := none
  deriving DecidableEq, Repr

/-- A compute die: fit (Table 2-6), beats admitted lately by its east and west crossings, mark of failure
(R530, R819); cumulative stretch in ps and the largest that its partition reported (R535, R536); fabric slots, pair entries, header templates, remote windows, response cache, requests, the
held store, the reorder store, and packets that are delivered and not executed yet (11, 16); for each tap the first
cycle in which it is free again (08). `asks` are requests that wait to be issued, `tags` the TAGs used lately (R499) as module,
die, TAG and wall time, `replies` what READ_RESPs have brought to firmware (R498): address and bytes. -/
structure Die where
  grid : Nat := 0
  enabled : Nat := 0
  fit : Nat := 0
  admitE : List Nat := []
  admitW : List Nat := []
  taps : Table Nat := []
  failed : Bool := false
  stretch : Nat := 0
  told : Nat := 0
  slots : Table FSlot := []
  pairs : Table Pair := []
  tmpls : Table Template := []
  rwins : Table RWin := []
  cache : List Cached := []
  reqs : List Request := []
  asks : List Ask := []
  tags : List (Nat × Nat × Nat × Nat) := []
  replies : List (Nat × List Byte) := []
  held : List Held := []
  reorder : List Waiting := []
  deliver : List InPkt := []
  deriving DecidableEq, Repr

/-! ### Mailboxes and management (17) -/

/-- A mailbox slot (Table 17-3), the payload taken (R731) and the response. -/
structure Slot where
  own : Nat := 0
  code : Nat := 0
  flags : Nat := 0
  plen : Nat := 0
  status : Nat := 0
  detail : Nat := 0
  tag : Nat := 0
  rlen : Nat := 0
  payload : List Byte := []
  takenAt : Nat := 0
  doneAt : Nat := 0
  resp : Resp := .empty
  deriving DecidableEq, Repr

/-- MBX_IRQs of a window (Table 17-19). -/
structure Irq where
  enable : Bool := false
  msix : Bool := false
  hart : Nat := 0
  file : Nat := 0
  ident : Nat := 1
  deriving DecidableEq, Repr

/-- The status block of a window (Table 17-5), as last written. -/
structure StatusBlock where
  boot : Nat := 0
  heartbeat : Nat := 0
  scanMtime : Nat := 0
  busy : Nat := 0
  module : Nat := 0
  pstate : Nat := 0
  planState : Nat := 0
  step : Nat := 0
  fwVersion : Nat := 0
  fwSvn : Nat := 0
  events : Nat := 0
  deriving DecidableEq, Repr

/-- A control window: slots, interrupts, waiting events. -/
structure Win where
  slots : Table Slot := []
  status : StatusBlock := {}
  busy : Nat := 0
  irqs : Table Irq := []
  pend : BitVec 4 := 0
  waiting : List Evt := []
  deriving DecidableEq, Repr

/-- EVT_CFG (Table 19-11). -/
structure EvtCfg where
  push : Bool := false
  minSev : Nat := 1
  lateN : Nat := 4
  lateThr : Nat := 0x64
  deriving DecidableEq, Repr

/-- Module time at one port (Tables 12-3, 12-11): VALID, the peer's flags, rtt in 2^-4 ns, offset in 2^-8 ns,
ASYM in ps; the next SEQ, the last four markers sent (SEQ, departure in 2^-16 ns), the last one received (SEQ,
arrival), the offsets measured since the last update of the servo with the peer's flags. -/
structure MPort where
  valid : Bool := false
  flags : Nat := 0
  rtt : Nat := 0
  offset : Int := 0
  asym : Int := 0
  seq : Nat := 0
  sent : List (Nat × Nat) := []
  got : Option (Nat × Nat) := none
  fresh : List Int := []
  deriving DecidableEq, Repr

/-- MTM_CFG (Table 12-10). -/
structure MCfg where
  markInt : Nat := 0x0A
  slew : Nat := 0xC8
  stepThr : Nat := 0x3E8
  domain : Nat := 0
  ptpEn : Bool := true
  ptpPort : Nat := 0
  deriving DecidableEq, Repr

/-- Time (12): module time in units of 2^-40 ns, the wall clock in ns, which never steps; ADJ, MTM_STATE, the
PTP offsets of the last second in 2^-8 ns with their wall times, the last Sync; the integral term in 2^-8 ppb;
since when the lock condition holds and fails, since when no source exists; whether TIME_FAR was raised;
whether the reference is lost; CLK_MONCFG. -/
structure Clk where
  acc : Nat := 0
  wall : Nat := 0
  adj : Int := 0
  st : Nat := 0
  source : Nat := 0
  peers : Nat := 0
  ptpOfs : Int := 0
  ptp : List (Nat × Int) := []
  lastSync : Option Nat := none
  integ : Int := 0
  goodSince : Option Nat := none
  badSince : Option Nat := none
  noneSince : Option Nat := none
  farTold : Bool := false
  refLost : Bool := false
  cfg : MCfg := {}
  ports : Table MPort := []
  dutyThr : Nat := 0x100
  jitThr : Nat := 0x100
  deriving DecidableEq, Repr

/-- A record of the fault history in the configuration flash (R384, R391): kind 0 a scratchpad beat, 1 a
wellhead sector; its station key or wellhead; the unit; what it records: 0 a corrected error, 1 an
uncorrectable one, 2 a read-back failure of the fill, 3 a candidate named by command; and whether its CRC-32C holds
(R393). -/
structure HistRec where
  kind : Nat
  place : Nat
  unit : Nat
  what : Nat
  crcOk : Bool := true
  deriving DecidableEq, Repr

/-- A generation record of the image (R762): GEN, its progress in steps, DONE, the digest of its target, and whether its CRC-32C
holds. The kind of change is that of an image. -/
structure GenRec where
  gen : Nat := 0
  progress : Nat := 0
  done : Bool := true
  digest : Digest := 0
  crcOk : Bool := true
  deriving DecidableEq, Repr

/-- The configuration flash and the boot (17): the committed image, the running one's SVN, version and digest, the
verified staged one, the commit in progress, the two copies of the image's generation record (R762, R763) and the highest GEN
of changes to anything else, the copy that the reserved region held when power was lost, RCV_CAUSE, SVN_FUSE; the recovery
transfer: length, blocks received. -/
structure Fw where
  svn : Nat := 0
  version : Nat := 0
  digest : Digest := 0
  runSvn : Nat := 0
  runVersion : Nat := 0
  runDigest : Digest := 0
  staged : Option FwImage := none
  commit : Option (FwImage × Via) := none
  recA : GenRec := {}
  recB : GenRec := {}
  others : Nat := 0
  left : Option FwImage := none
  cause : Nat := 0
  svnFuse : Nat := 0
  rcvLen : Option Nat := none
  rcvGot : List Nat := []
  deriving DecidableEq, Repr

/-- The Wiluc chain (WCH_STATE, R764 to R773): address, slot, location; the last frame executed of each TYPE (SEQ,
response, R769); the wall times at which the frames on OUT end and whether each is forwarded, the time at which the last one on IN ends; whether the bypass is closed. -/
structure Wch where
  addr : Nat := 0
  slot : Nat := 0
  locSet : Bool := false
  pod : Nat := 0
  shelf : Nat := 0
  last : Table (Nat × Option Frame) := []
  outs : List (Nat × Bool) := []
  inAt : Nat := 0
  bypass : Bool := true
  deriving DecidableEq, Repr

/-- A protected commit (Table 18-1): of a parked session, or of the staged firmware image. -/
inductive Commit where
  | park (p : Nat) (sid : Nat)
  | fw
  deriving DecidableEq, Repr

/-- A temperature sensor: VALID, TEMP in 1/16 °C, since when a die stays at or below 100 °C. -/
structure Temp where
  valid : Bool := false
  temp : Int := 0
  coolSince : Nat := 0
  deriving DecidableEq, Repr

/-- Power and cooling (Tables 18-7 to 18-11): PWR_STATE; LIMIT_W if it was set; PWR_IN; PWR_HOLDUP with the module
time of the last test; queued power states (R793) with the commands that wait; the command that waits for the
transition or the test, whether a commit's test or one of firmware's own (R779) is due; the failure record (R822), whether the hold-up domain
runs on the tank (R782), whether the hot-swap is open; dies off after a trip; the cistern's throttle: 0 none, 1 writes
at 16 GB/s, 2 no writes, 3 off; whether the clocks stretch under R795; temperatures. -/
structure Pwr where
  st : Nat := 0
  target : Nat := 0
  inTransit : Bool := false
  inputOk : Bool := false
  step : Nat := 0
  limit : Option Nat := none
  vin : Nat := 0
  iin : Nat := 0
  pin : Nat := 0
  pavg : Nat := 0
  cap : Nat := 0
  energy : Nat := 0
  vtank : Nat := 0
  tank : Nat := 0
  fault : Bool := false
  testedAt : Option Nat := none
  queue : List (Nat × Option Via) := []
  via : Option Via := none
  restore : List Nat := []
  tests : List Via := []
  testDue : Bool := false
  toStart : Bool := false
  selfTest : Bool := false
  commit : Option Commit := none
  commits : List Commit := []
  failed : Option (Nat × Bool) := none
  failing : Bool := false
  hotSwapOpen : Bool := false
  offDies : List Nat := []
  cistern : Nat := 0
  stretching : Bool := false
  temps : Table Temp := []
  deriving DecidableEq, Repr

/-- What changes as the module runs. `aborts` holds the collective aborts received lately (R508): index,
origin module and die, wall time; `located` that SET_LOCATION was received (R8); `change` is SEC_CHANGE; `eccFill` holds
ECC_FILL. `hostErr` lists the 128-byte units of host memory that no read can correct, `cistErr` the cistern blocks (of
partition p: p × 2^31 + block) that fail LDPC decoding, `cistCrc` the CRC-32C of each block that was written (R377);
`cistTurn` is the partition that the cistern controller served last and the blocks left of its turn (R368). -/
structure Mach where
  mem : Mems
  dies : Table Die
  stations : Table Station
  wells : Table Well
  parts : Table Part
  wins : Table Win
  mesh : List Beat
  history : List HistRec
  hosts : Table (List Xfer)
  links : Table (List Xfer)
  ports : Table Port
  rte : Rte
  aborts : List (Nat × Nat × Nat × Nat)
  ctrs : Table Ctr
  evtCfg : EvtCfg
  clk : Clk
  moduleId : Nat
  located : Bool
  boot : Nat
  change : Nat
  operatorKey : Option Nat
  custodianKey : Option Nat
  mgmtTag : Nat
  fw : Fw
  wch : Wch
  pwr : Pwr
  eccFill : Nat
  hostErr : List Nat
  cistErr : List Nat
  cistCrc : Table (BitVec 32)
  cistTurn : Nat × Nat
  out : List Output
  freeCtr : Nat
  deriving DecidableEq, Repr

/-- The four ordering codes (Table 0-1): grade and stepping. -/
structure Fuses where
  full : Bool
  b0 : Bool
  defects : List (List Nat)
  deriving DecidableEq, Repr

/-- The state: the queue of waiting commands, what is fused at manufacture, and the rest. -/
structure State where
  pending : List Instr
  fuses : Fuses
  mach : Mach
  deriving DecidableEq, Repr

/-- The fuses of the module at reset (DESIGN CHOICE, log 1): an HX940-A1 without defective rows. -/
def Fuses.reset : Fuses := { full := true, b0 := false, defects := [[], [], [], []] }

/-- The changing state at reset. -/
def Mach.reset : Mach :=
  { mem := {}
    dies := []
    stations := []
    wells := []
    parts := [(0, { dies := [0] }), (1, { dies := [1] }), (2, { dies := [2] }), (3, { dies := [3] })]
    wins := []
    mesh := []
    history := []
    hosts := []
    links := []
    ports := []
    rte := {}
    aborts := []
    ctrs := []
    evtCfg := {}
    clk := {}
    moduleId := 0
    located := false
    boot := 0
    change := 0
    operatorKey := none
    custodianKey := none
    mgmtTag := 0
    fw := {}
    wch := {}
    pwr := {}
    eccFill := 0
    hostErr := []
    cistErr := []
    cistCrc := []
    cistTurn := (0, 0)
    out := []
    freeCtr := 0 }

/-- The machine right after reset. -/
def State.reset : State := { pending := [], fuses := Fuses.reset, mach := Mach.reset }

end Sys2Proof.Machine
end

