-- ==== Sys2Proof/Machine/Ops.lean ====
section
/-! DEFINITION. The shared operations: tables, memories, time, counters and events, holds and halts. -/

namespace Sys2Proof.Machine

/-! ### Running a meaning -/

/-- A meaning acts on what changes and reads what is fused; the queue is left as it is. -/
def run (s : State) (f : Fuses → Mach → Mach) : Host.Outcome State Fault Refusal :=
  .next { s with mach := f s.fuses s.mach }

/-! ### Tables -/

/-- The entry of a key; an unlisted key reads as `d`. -/
def tget {α : Type} (d : α) : Table α → Nat → α
  | [], _ => d
  | (j, v) :: r, k => if j = k then v else tget d r k

/-- The table with a key listed. -/
def tset {α : Type} : Table α → Nat → α → Table α
  | [], k, v => [(k, v)]
  | (j, w) :: r, k, v =>
    if k < j then (k, v) :: (j, w) :: r
    else if k = j then (k, v) :: r
    else (j, w) :: tset r k v

/-- The table without a key. -/
def tdel {α : Type} : Table α → Nat → Table α
  | [], _ => []
  | (j, w) :: r, k => if j = k then tdel r k else (j, w) :: tdel r k

/-- Writing a key: what an unlisted key reads as is not listed. -/
def tput {α : Type} [DecidableEq α] (d : α) (t : Table α) (k : Nat) (v : α) : Table α :=
  if v = d then tdel t k else tset t k v

/-- Keys rise strictly from above `lo`, and no entry equals `d`. -/
def tableWfFrom {α : Type} [DecidableEq α] (d : α) (lo : Nat) : Table α → Bool
  | [] => true
  | (j, v) :: r => decide (lo ≤ j) && decide (v ≠ d) && tableWfFrom d (j + 1) r

/-- The canonical form of a table. -/
def tableWf {α : Type} [DecidableEq α] (d : α) (t : Table α) : Bool := tableWfFrom d 0 t

/-- Changing the entry of a key. -/
def tmod {α : Type} [DecidableEq α] (d : α) (t : Table α) (k : Nat) (f : α → α) : Table α :=
  tput d t k (f (tget d t k))

/-! ### Memories -/

/-- One byte of a memory; a byte that nothing has written reads as zero (R351, R367, R394; host memory:
log 2). -/
def peek (m : List Host.Cell) (a : Nat) : Byte := tget 0 m a

/-- Writing one byte of a memory. -/
def poke (m : List Host.Cell) (a : Nat) (b : Byte) : List Host.Cell := tput 0 m a b

/-- n bytes from an address. -/
def peeks (m : List Host.Cell) (a : Nat) : Nat → List Byte
  | 0 => []
  | n + 1 => peek m a :: peeks m (a + 1) n

/-- Writing bytes from an address on. -/
def pokes (m : List Host.Cell) (a : Nat) : List Byte → List Host.Cell
  | [] => m
  | b :: r => pokes (poke m a b) (a + 1) r

/-- Zero over a range of addresses [lo, hi): its cells are dropped. -/
def wipe (m : List Host.Cell) (lo hi : Nat) : List Host.Cell :=
  m.filter (fun c => decide (c.1 < lo) || decide (hi ≤ c.1))

/-- The canonical form of a memory. -/
def memWf (m : List Host.Cell) : Bool := tableWf (0 : Byte) m

/-- The canonical form of every memory. -/
def Mems.wf (m : Mems) : Bool :=
  memWf m.scratch && memWf m.cache && memWf m.hbm && memWf m.host && memWf m.cist

/-- Base of the scratchpad of a station key. -/
def scratchBase (k : Nat) : Nat := k * 2 ^ 23

/-- Base of the operand cache of a station key. -/
def cacheBase (k : Nat) : Nat := k * 2 ^ 16

/-- Address of the HBM storage of a beat. -/
def hbmAddr (w h : Nat) : Nat := w * 2 ^ 43 + 128 * h

/-- Address of a cistern block of a partition's namespace. -/
def cistAddr (p block : Nat) : Nat := p * 2 ^ 43 + 4096 * block

/-- Writing operand-cache bytes. -/
def pokeCache (k off : Nat) (l : List Byte) (m : Mach) : Mach :=
  { m with mem := { m.mem with cache := pokes m.mem.cache (cacheBase k + off) l } }

/-- Writing HBM bytes. -/
def pokeHbm (a : Nat) (l : List Byte) (m : Mach) : Mach :=
  { m with mem := { m.mem with hbm := pokes m.mem.hbm a l } }

/-- Bytes [a, a + n) cover the whole of unit u of `size` bytes. -/
def covers (a n size u : Nat) : Bool := decide (a ≤ size * u) && decide (size * u + size ≤ a + n)

/-- Writing host memory; a unit that is replaced whole is sound again. -/
def pokeHost (a : Nat) (l : List Byte) (m : Mach) : Mach :=
  { m with mem := { m.mem with host := pokes m.mem.host a l }, hostErr := m.hostErr.filter (fun u => !covers a l.length 128 u) }

/-- Writing a cistern namespace; a block that is replaced whole is sound again, and the CRC of one that is touched no longer
stands for it. -/
def pokeCist (a : Nat) (l : List Byte) (m : Mach) : Mach :=
  { m with
    mem := { m.mem with cist := pokes m.mem.cist a l }
    cistErr := m.cistErr.filter (fun b => !covers a l.length 4096 b)
    cistCrc := m.cistCrc.filter (fun y => decide (4096 * y.1 + 4096 ≤ a) || decide (a + l.length ≤ 4096 * y.1)) }

/-! ### Units and their owners -/

/-- The station of a key. -/
def stn (m : Mach) (k : Nat) : Station := tget {} m.stations k

/-- Changing a station. -/
def onStn (k : Nat) (f : Station → Station) (m : Mach) : Mach :=
  { m with stations := tmod {} m.stations k f }

/-- The beat of a slice's storage that holds a beat: a remapped one lies in a spare (R389). -/
def Station.place (s : Station) (beat : Nat) : Nat :=
  match s.spMap.idxOf? beat with
  | some i => 32768 + i
  | none => beat

/-- The word of a slice's storage that holds a word. -/
def Station.cell (s : Station) (word : Nat) : Nat := 16 * s.place (word / 16) + word % 16

/-- Where a byte of a slice is stored. -/
def scratchAddr (m : Mach) (k off : Nat) : Nat := scratchBase k + 128 * (stn m k).place (off / 128) + off % 128

/-- Bytes that lie in one beat each, as (offset, bytes); `fuel` bounds their number. -/
def beatPieces : Nat → Nat → List Byte → List (Nat × List Byte)
  | 0, _, _ => []
  | _ + 1, _, [] => []
  | fuel + 1, off, l => let n := 128 - off % 128; (off, l.take n) :: beatPieces fuel (off + n) (l.drop n)

/-- Writing scratchpad bytes. -/
def pokeScratch (k off : Nat) (l : List Byte) (m : Mach) : Mach :=
  { m with mem := { m.mem with
      scratch := (beatPieces l.length off l).foldl (fun c y => pokes c (scratchAddr m k y.1) y.2) m.mem.scratch } }

/-- The wellhead of an index. -/
def well (m : Mach) (w : Nat) : Well := tget {} m.wells w

/-- Changing a wellhead. -/
def onWell (w : Nat) (f : Well → Well) (m : Mach) : Mach :=
  { m with wells := tmod {} m.wells w f }

/-- The row of a beat of HBM as a remap entry names it: PC in bits [25:22], BANK in [21:16], ROW in [15:0] (Table 9-9);
beat a lies in pseudo-channel a mod 16 (R334). -/
def rowOfBeat (a : Nat) : Nat := (a % 16) * 2 ^ 22 + Config.hbmBank a % 64 * 2 ^ 16 + Config.hbmRow a % 2 ^ 16

/-- The beat of a wellhead's storage that holds a beat: one of a remapped row lies in a spare row (R389). -/
def Well.place (h : Well) (a : Nat) : Nat :=
  match h.whMap.findIdx? (fun r => r == rowOfBeat a) with
  | some i => 2 ^ 29 * (i + 1) + a
  | none => a

/-- Where a beat of HBM is stored. -/
def beatAddr (m : Mach) (w a : Nat) : Nat := hbmAddr w ((well m w).place a)

/-- The die of a number. -/
def die (m : Mach) (d : Nat) : Die := tget {} m.dies d

/-- Changing a die. -/
def onDie (d : Nat) (f : Die → Die) (m : Mach) : Mach := { m with dies := tmod {} m.dies d f }

/-- The partition of a number. -/
def part (m : Mach) (p : Nat) : Part := tget {} m.parts p

/-- Changing a partition. -/
def onPart (p : Nat) (f : Part → Part) (m : Mach) : Mach := { m with parts := tmod {} m.parts p f }

/-- The control window of a number. -/
def win (m : Mach) (w : Nat) : Win := tget {} m.wins w

/-- Changing a control window. -/
def onWin (w : Nat) (f : Win → Win) (m : Mach) : Mach := { m with wins := tmod {} m.wins w f }

/-- The number of the partition that holds a die (R678: a partition is named by its lowest die). -/
def partOf (m : Mach) (d : Nat) : Nat :=
  match m.parts.find? (fun e => e.2.dies.contains d) with
  | some e => e.1
  | none => d

/-- Key of a station from die and physical station index (R41). -/
def stKey (d pidx : Nat) : Nat := d * 256 + pidx

/-- Physical rows that the die's fit enables, ascending (R80). -/
def fitRows (m : Mach) (d : Nat) : List Nat := (List.range 9).filter (fun p => bitAt (die m d).enabled p)

/-- Physical station index of a virtual station under the die's fit (R43, R80): virtual row y is the
y-th enabled row. -/
def physOf (m : Mach) (d unit : Nat) : Option Nat :=
  ((fitRows m d)[unit / 16]?).map (fun p => 16 * p + unit % 16)

/-- The station key of a virtual station. -/
def keyOf (m : Mach) (d unit : Nat) : Option Nat := (physOf m d unit).map (stKey d)

/-- Virtual station code of a physical station, if its row is enabled. -/
def unitOf (m : Mach) (d pidx : Nat) : Option Nat :=
  ((fitRows m d).findIdx? (fun p => p == pidx / 16)).map (fun y => 16 * y + pidx % 16)

/-- Unit code of a wellhead (Table 1-3). -/
def wellUnit (w : Nat) : Nat := 0xE0 + w

/-- The die that owns a wellhead (R21). -/
def wellDie (w : Nat) : Nat := w / 4

/-- The die that owns a port (R21). -/
def portDie (k : Nat) : Nat := if k < 8 then k / 2 else (k - 8) / 2

/-- The wellheads of the grade (R26). -/
def wellFitted (fz : Fuses) (w : Nat) : Bool :=
  decide (w < 16) && (fz.full || !([6, 7, 14, 15].contains w))

/-- The six-stack wellhead set (R27). -/
def sixStack (w : Nat) : Bool := decide (w < 6) || (decide (8 ≤ w) && decide (w < 14))

/-! ### Register places (Table 17-9) -/

/-- INSTANCE of the module. -/
def iModule : Nat := 0
/-- INSTANCE of a partition. -/
def iPart (p : Nat) : Nat := 0x10000000 + p
/-- INSTANCE of a die. -/
def iDie (d : Nat) : Nat := 0x20000000 + d
/-- INSTANCE of a station. -/
def iStn (k : Nat) : Nat := 0x30000000 + k
/-- INSTANCE of a wellhead. -/
def iWell (w : Nat) : Nat := 0x40000000 + w
/-- INSTANCE of a port. -/
def iPort (k : Nat) : Nat := 0x50000000 + k
/-- INSTANCE of a clock region. -/
def iRegion (d r : Nat) : Nat := 0x60000000 + d * 16 + r
/-- INSTANCE of a control window. -/
def iWin (w : Nat) : Nat := 0x70000000 + w
/-- INSTANCE of a temperature sensor (Table 19-1). -/
def iSensor (kind index : Nat) : Nat := 0x80000000 + kind * 16 + index

/-- The partition to which an INSTANCE belongs (R808). -/
def partOfInst (m : Mach) (inst : Nat) : Option Nat :=
  let low := inst % 0x10000000
  match inst / 0x10000000 with
  | 1 => some low
  | 2 => some (partOf m low)
  | 3 => some (partOf m (low / 256))
  | 4 => some (partOf m (wellDie low))
  | 5 => some (partOf m (portDie low))
  | 6 => some (partOf m (low / 16))
  | _ => none

/-! ### Time -/

/-- Module time in nanoseconds (MTM_NOW.NS). -/
def nowNs (m : Mach) : Nat := m.clk.acc / 2 ^ 40 % 2 ^ 64

/-- The clocks moved forward by some nanoseconds of wall time (log 3): ADJ counts once for each cycle of 10 ns
(R539). -/
def passNs (n : Nat) (m : Mach) : Mach :=
  let add : Int := (n : Int) * 2 ^ 40 + (n : Int) * m.clk.adj / 10
  { m with clk := { m.clk with acc := (m.clk.acc + add.toNat) % 2 ^ 104, wall := m.clk.wall + n } }

/-- An event that falls due at a module time: the clocks reach it (log 3). -/
def reachNs (t : Nat) (m : Mach) : Mach :=
  let m := passNs (t - nowNs m) m
  if nowNs m < t then { m with clk := { m.clk with acc := t * 2 ^ 40 % 2 ^ 104 } } else m

/-- An event that falls due at a wall time: the clocks reach it (log 3). -/
def reachWall (t : Nat) (m : Mach) : Mach := passNs (t - m.clk.wall) m

/-- One tick of the time clock: 10 ns (log 3). -/
def tick (m : Mach) : Mach := passNs 10 m

/-! ### Generation records (17 R762, R763) -/

/-- The second copy of the image's record is the one that counts. -/
def Fw.inB (f : Fw) : Bool := f.recB.crcOk && (!f.recA.crcOk || decide (f.recA.gen < f.recB.gen))

/-- The copy of the image's record that counts after a restart: the one with the highest GEN whose CRC-32C holds (R763). -/
def Fw.latest (f : Fw) : GenRec := if f.inB then f.recB else if f.recA.crcOk then f.recA else {}

/-- The highest GEN of any record. -/
def Fw.topGen (f : Fw) : Nat :=
  let g := if f.recA.gen < f.recB.gen then f.recB.gen else f.recA.gen
  if g < f.others then f.others else g

/-- A record of the image written as WRITING before its first step takes the place of the older copy (R762, log 193). -/
def Fw.begin (f : Fw) (digest : Digest) : Fw :=
  let r : GenRec := { gen := f.topGen + 1, progress := 0, done := false, digest := digest, crcOk := true }
  if f.recB.gen < f.recA.gen then { f with recB := r } else { f with recA := r }

/-- The latest record of the image rewritten: its progress, and DONE after the last step (R762). -/
def Fw.note (f : Fw) (progress : Nat) (done : Bool) : Fw :=
  let r : GenRec := { f.latest with progress := progress, done := done }
  if f.inB then { f with recB := r } else { f with recA := r }

/-- A change to anything else in the configuration flash, which one command makes from its first step to its last, so that its
record is DONE (R762, log 193). -/
def flashed (m : Mach) : Mach := { m with fw := { m.fw with others := m.fw.topGen + 1 } }

/-! ### Counters and events -/

/-- The number of a register in the model's directory (R742: the firmware's own; log 4). -/
def regNum (r : Reg) : Nat := r.ctorIdx

/-- Where a counter stands in the table of counters. -/
def ctrKey (r : Reg) (inst elem : Nat) : Nat := regNum r * 2 ^ 48 + inst * 2 ^ 16 + elem

/-- A counter. -/
def ctr (m : Mach) (r : Reg) (inst elem : Nat) : Ctr := tget {} m.ctrs (ctrKey r inst elem)

/-- One increment by n (R813): COUNT saturates at 2^48 − 1 and an increment that leaves it there sets
OVF. -/
def Ctr.add (c : Ctr) (n : Nat) : Ctr :=
  if n = 0 then c
  else if c.count + n < 2 ^ 48 - 1 then { c with count := c.count + n }
  else { count := 2 ^ 48 - 1, ovf := true }

/-- The layout of Table 2-7. -/
def Ctr.word (c : Ctr) : Nat := pack [(1, b2n c.ovf), (15, 0), (48, c.count)] 0

/-- The records of a window that are HALT records, or are not. -/
def haltsOf (l : List Evt) : List Evt := l.filter (fun e => e.code == 1)

/-- A record added to the waiting records of a window (R809): coalesced, added, or dropped. The second
result says that it was dropped. -/
def addWaiting (l : List Evt) (e : Evt) : List Evt × Bool :=
  if e.code = 1 then
    if l.length < 256 then (l ++ [e], false) else (l, true)
  else
    match l.findIdx? (fun x => x.code == e.code && x.inst == e.inst) with
    | some i => (l.modify i (fun x => { x with count := satN 65535 (x.count + 1) }), false)
    | none =>
      if l.length < 256 && (l.length - (haltsOf l).length) < 248 then (l ++ [e], false) else (l, true)

/-- An interrupt source of a window (R749, R750): delivered, or kept pending while not enabled. -/
def interrupt (w src : Nat) (m : Mach) : Mach :=
  let q := tget {} (win m w).irqs src
  if q.enable then
    if q.msix then { m with out := m.out ++ [.msix (q.ident % 32)] }
    else { m with out := m.out ++ [.msi q.hart q.file q.ident] }
  else onWin w (fun x => { x with pend := x.pend ||| BitVec.ofNat 4 (2 ^ src) }) m

/-- The bytes of an event record (Table 19-1). -/
def evtBytes (w : Nat) (e : Evt) : List Byte :=
  leBytes 2 e.code ++ leBytes 1 e.sev ++ leBytes 1 w ++ leBytes 4 e.inst ++ leBytes 8 e.mtime
    ++ leBytes 6 e.step ++ leBytes 2 e.count ++ leBytes 8 e.arg

/-- A counter moved, without the event of its overflow. -/
def bumpQuiet (r : Reg) (inst elem n : Nat) (m : Mach) : Mach :=
  { m with ctrs := tmod {} m.ctrs (ctrKey r inst elem) (fun c => c.add n) }

/-- An event put before one window (R808, R809, R749). -/
def tellWindow (e : Evt) (m : Mach) (w : Nat) : Mach :=
  let (l, dropped) := addWaiting (win m w).waiting e
  let m := onWin w (fun x => { x with waiting := l }) m
  if dropped then bumpQuiet .evtLost (iWin w) 0 1 m else interrupt w 3 m

/-- A report for the management connections (R820), with further bytes behind the record. -/
def pushReport (code : Nat) (l : List Byte) (m : Mach) : Mach := { m with out := m.out ++ [.report code l] }

/-- An event raised (R806 to R809, R820), with the bytes that its report carries further; a counter of events that
overflows is not told yet. -/
def raiseOnce (code sev inst arg : Nat) (more : List Byte) (m : Mach) : Mach :=
  let p := partOfInst m inst
  let step := match p with
    | some p => if (part m p).st = .running ∨ (part m p).st = .stopping then (part m p).step else 0
    | none => 0
  let e : Evt := { code := code, sev := sev, inst := inst, mtime := nowNs m, step := step, count := 1
                   arg := arg % 2 ^ 64 }
  let ws := match p with
    | some p => [p, 4]
    | none => [4]
  let m := ws.foldl (tellWindow e) (bumpQuiet .evtRaised iModule 0 1 m)
  if m.evtCfg.push && decide (m.evtCfg.minSev ≤ sev)
  then pushReport 0x0904 (evtBytes (p.getD 4) e ++ more) m else m

/-- The counters that count events themselves (R838). -/
def evtCtrs : List (Reg × Nat) := (.evtRaised, iModule) :: (List.range 5).map (fun w => (.evtLost, iWin w))

/-- Those whose OVF has changed from 0 to 1. -/
def fullSince (was m : Mach) : List (Reg × Nat) :=
  evtCtrs.filter (fun y => !(ctr was y.1 y.2 0).ovf && (ctr m y.1 y.2 0).ovf)

/-- COUNTER_OVF of the counters of events (R811); `fuel` bounds their number. -/
def tellFull : Nat → Mach → Mach → Mach
  | 0, _, m => m
  | fuel + 1, was, m =>
    let l := fullSince was m
    if l = [] then m
    else tellFull fuel m (l.foldl (fun m y => raiseOnce 0x0002 0 y.2 (regNum y.1 * 2 ^ 32) [] m) m)

/-- An event raised, with the bytes that its report carries further. -/
def raiseWith (code sev inst arg : Nat) (more : List Byte) (m : Mach) : Mach :=
  tellFull 6 m (raiseOnce code sev inst arg more m)

/-- An event raised. -/
def raiseEvt (code sev inst arg : Nat) (m : Mach) : Mach := raiseWith code sev inst arg [] m

/-- A counter moved by n; COUNTER_OVF each time its OVF changes from 0 to 1 (R811, R813). -/
def bumpBy (r : Reg) (inst elem n : Nat) (m : Mach) : Mach :=
  let before := (ctr m r inst elem).ovf
  let m := bumpQuiet r inst elem n m
  if !before && (ctr m r inst elem).ovf then
    raiseEvt 0x0002 0 inst (regNum r * 2 ^ 32 + elem) m
  else m

/-- A counter moved by one. -/
def bump (r : Reg) (inst : Nat) (m : Mach) : Mach := bumpBy r inst 0 1 m

/-- A counter back at its reset value. -/
def clearCtr (r : Reg) (inst elem : Nat) (m : Mach) : Mach :=
  { m with ctrs := tdel m.ctrs (ctrKey r inst elem) }

/-! ### Plans -/

/-- The plan of a partition. -/
def planOf (m : Mach) (p : Nat) : Option PlanImage := (part m p).plan

/-- The variant image in force. -/
def varOf (m : Mach) (p : Nat) : Option VariantImage :=
  (planOf m p).bind (fun pl => pl.variants[(part m p).variant]?)

/-- Step class index of a step (R279, R833): the pattern counts from the step at which the variant in
force took effect. -/
def classIdx (m : Mach) (p n : Nat) : Nat :=
  match varOf m p with
  | some v => v.pattern.getD ((n - (part m p).varBase) % v.pattern.length) 0
  | none => 0

/-- Step class of a step. -/
def classOf (m : Mach) (p n : Nat) : StepClass :=
  match varOf m p with
  | some v => v.classes.getD (classIdx m p n) { w := 0, t := 0, wins := [] }
  | none => { w := 0, t := 0, wins := [] }

/-- Cycles W of the current step. -/
def stepW (m : Mach) (p : Nat) : Nat := (classOf m p (part m p).step).w

/-- The plan runs: RUNNING or STOPPING. -/
def runs (m : Mach) (p : Nat) : Bool :=
  (part m p).st = .running || (part m p).st = .stopping

/-- Core frequency of a frequency step, in units of 250 MHz (Table 12-2). -/
def quarters (f : Nat) : Nat := 9 - f

/-- The logical cycle that a partition is in at this module time, for an event that names none (log 16). -/
def cycleNow (m : Mach) (p : Nat) : Nat :=
  let c : Int := ((nowNs m - (part m p).startNs) * quarters (part m p).cur / 4 : Nat) - (part m p).shift
  let w := stepW m p
  if c.toNat < w then c.toNat else w - 1

/-- A step of the partition is in progress and nothing has halted it. -/
def stepping (m : Mach) (p : Nat) : Bool := runs m p && (part m p).inStep

/-- The plan runs under the H6 schedule profile. -/
def isH6 (m : Mach) (p : Nat) : Bool :=
  match planOf m p with
  | some pl => pl.sprof = .h6
  | none => false

/-- Virtual rows of the plan's grid class (R42). -/
def gridRows (g : GridClass) : Nat :=
  match g with
  | .g512 => 8
  | .g448 => 7

/-- Virtual rows of the grid that a partition's plan runs on; the full grid without a plan. -/
def meshRows (m : Mach) (p : Nat) : Nat := ((planOf m p).map (fun pl => gridRows pl.grid)).getD 8

/-- Code of a latency profile (Table 7-15). -/
def lprofCode (l : LProf) : Nat :=
  match l with
  | .lpC => 0
  | .lpA1 => 1
  | .lpB0 => 2

/-! ### Holds (07) -/

/-- The partition is stopped by a hold. -/
def held (m : Mach) (p : Nat) : Bool := (part m p).hold.isSome

/-- Wall cycles by which a logical cycle of the current step comes later than its number: those of the holds that have
stopped the partition before it (R295). -/
def Part.shiftAt (q : Part) (c : Int) : Int :=
  match q.resumes.find? (fun y => decide (c < y.stop)) with
  | some y => y.shift
  | none => q.shift

/-- Wall cycle of a logical cycle of the current step. -/
def wallOf (m : Mach) (p : Nat) (c : Int) : Int := c + (part m p).shiftAt c

/-- A hold begins. -/
def beginHold (p : Nat) (h : Hold) (m : Mach) : Mach := onPart p (fun q => { q with hold := some h }) m

/-- A hold begins with a cause asserted in logical cycle x, which sets its stop point (R294). `x + 6` at W or beyond stops
the partition before pre-step cycle −6 of the next step. -/
def startHold (p : Nat) (x : Int) (c : CauseSt) (m : Mach) : Mach :=
  let carried := decide ((stepW m p : Int) ≤ x + 6)
  beginHold p { stop := if carried then -6 else x + 6, first := c.since
                sinceNs := nowNs m, causes := [c], carried := carried } m

/-- Causes still asserted: those whose clearing is not known yet. -/
def openCauses (h : Hold) : List CauseSt := h.causes.filter (fun c => c.clear.isNone)

/-- A cause cleared in a wall cycle, for the causes of a hold that satisfy a test (R296). -/
def clearCause (p : Nat) (r : Int) (f : CauseSt → Bool) (m : Mach) : Mach :=
  onPart p (fun q =>
    { q with hold := q.hold.map (fun h =>
        { h with causes := h.causes.map (fun c =>
            if f c && c.clear.isNone then { c with clear := some r } else c) }) }) m

end Sys2Proof.Machine
end

