-- ==== Sys2Proof/Machine/Mesh.lean ====
section
/-! DEFINITION. The mesh (02): where units stand, routes and travel times, routers, crossings. -/

namespace Sys2Proof.Machine

/-! ### Places (R60 to R62) -/

/-- The edge of a die and the first column of the taps of an edge station (Table 2-2); `true` is north. -/
def edgeAt (unit : Nat) : Bool × Nat :=
  match unit with
  | 0xF0 => (true, 4)
  | 0xF1 => (false, 4)
  | 0xF2 => (true, 11)
  | 0xF3 => (false, 11)
  | 0xF8 => (false, 8)
  | _ =>
    match unit % 4 with
    | 0 => (true, 0)
    | 1 => (true, 13)
    | 2 => (false, 0)
    | _ => (false, 13)

/-- Interface offset of a unit (R62, Table 2-3). -/
def unitOffset (unit : Nat) : Nat :=
  if unit < 0x80 then 0 else if unit < 0xF0 then 6 else if unit = 0xF8 then 8 else 4

/-- A place on the mesh: position, where north taps stand in row −1 and south taps in row `rows`, and interface offset. -/
structure Spot where
  die : Nat
  x : Nat
  y : Int
  edge : Bool
  offset : Nat
  deriving DecidableEq, Repr

/-- The place of a virtual station, or of a tap of an edge station (R60). -/
def spotOf (rows die unit tap : Nat) : Spot :=
  if unit < 0x80 then { die := die, x := unit % 16, y := (unit / 16 : Nat), edge := false, offset := 0 }
  else { die := die, x := (edgeAt unit).2 + tap, y := if (edgeAt unit).1 then -1 else (rows : Nat), edge := true
         offset := unitOffset unit }

/-- Distance of two numbers. -/
def absDiff (a b : Int) : Nat := (a - b).natAbs

/-- The row of the mesh in which a unit stands or which its tap enters: a north tap attaches to virtual row 0, the lowest
enabled physical row, a south tap to the last virtual row, the highest (R60, R81). -/
def Spot.row (a : Spot) (rows : Nat) : Nat := if a.y < 0 then 0 else if a.y.toNat < rows then a.y.toNat else rows - 1

/-- Port of the router at a unit's place that leads to it: local, or N or S for a tap (R60). -/
def Spot.port (a : Spot) : Nat := if a.edge then (if a.y < 0 then 1 else 3) else 0

/-- Steps around the ring from a die to another: 1 clockwise, 2 opposite, 3 counter-clockwise. -/
def ringStep (a b : Nat) : Nat := (b + 4 - a) % 4

/-- Column through which a beat leaves its die (R63, R64). -/
def exitCol (step : Nat) : Nat := if step = 3 then 0 else 15

/-- Cycles of the crossing or passage (R65). -/
def crossCycles (step : Nat) : Nat := if step = 2 then 48 else 24

/-- Hops between two places of one die (R70). -/
def hopsInDie (a b : Spot) : Nat := absDiff a.x b.x + absDiff a.y b.y + (if a.edge ∧ b.edge ∧ a.y = b.y then 2 else 0)

/-- Hops to the exit column of the source die (R70). -/
def hopsOut (rows : Nat) (a : Spot) (step : Nat) : Nat := absDiff a.x (exitCol step) + absDiff a.y (a.row rows)

/-- The travel time between two units (R70). -/
def travel (rows : Nat) (a b : Spot) : Nat :=
  let t := 4 + a.offset + b.offset
  let step := ringStep a.die b.die
  if step = 0 then t + 2 * hopsInDie a b
  else
    t + 2 * (hopsOut rows a step + absDiff (15 - exitCol step : Nat) b.x + absDiff (a.row rows) b.y) + crossCycles step

/-! ### Routes (R55, R72) -/

/-- A passage of a beat through a router: die, position, input and output port (0 local, 1 N, 2 E, 3 S,
4 W), cycle. -/
structure Hop where
  die : Nat
  x : Nat
  y : Nat
  inp : Nat
  out : Nat
  cycle : Nat
  deriving DecidableEq, Repr

/-- The route within a die, along the row and then the column (R55), to a router and out through a port; the
first output port is used in cycle c (R72). -/
def routeIn (d tx ty last : Nat) : Nat → Nat → Nat → Nat → Nat → List Hop
  | 0, _, _, _, _ => []
  | fuel + 1, x, y, inp, c =>
    let hop (out : Nat) : Hop := { die := d, x := x, y := y, inp := inp, out := out, cycle := c }
    if x < tx then hop 2 :: routeIn d tx ty last fuel (x + 1) y 4 (c + 2)
    else if tx < x then hop 4 :: routeIn d tx ty last fuel (x - 1) y 2 (c + 2)
    else if y < ty then hop 3 :: routeIn d tx ty last fuel x (y + 1) 1 (c + 2)
    else if ty < y then hop 1 :: routeIn d tx ty last fuel x (y - 1) 3 (c + 2)
    else [hop last]

/-- Where a beat comes from. -/
def Beat.src (b : Beat) : Spot := spotOf b.rows b.srcDie b.srcUnit b.tap

/-- Where a beat goes. -/
def Beat.dst (b : Beat) : Spot := spotOf b.rows b.dstDie b.dstUnit b.tap

/-- Steps of a beat around the ring. -/
def Beat.step' (b : Beat) : Nat := ringStep b.srcDie b.dstDie

/-- The virtual row in which a beat leaves its source. -/
def Beat.row (b : Beat) : Nat := b.src.row b.rows

/-- Hops to the exit column (R70). -/
def Beat.hs (b : Beat) : Nat := hopsOut b.rows b.src b.step'

/-- The cycle in which the first crossing accepts a beat (R72). -/
def Beat.crossAt (b : Beat) : Nat := b.sent + b.src.offset + 2 * b.hs + 2

/-- Every router output port that a beat uses (R72); the tap of an edge source is the first output port of its route and
belongs to no router. -/
def Beat.route (b : Beat) : List Hop :=
  let a := b.src
  let z := b.dst
  let c := b.sent + a.offset + (if a.edge then 4 else 2)
  if b.step' = 0 then routeIn b.srcDie z.x (z.row b.rows) z.port 32 a.x b.row a.port c
  else
    let xo := exitCol b.step'
    routeIn b.srcDie xo b.row (if b.step' = 3 then 4 else 2) 32 a.x b.row a.port c
    ++ routeIn b.dstDie z.x (z.row b.rows) z.port 32 (15 - xo) b.row (if b.step' = 3 then 2 else 4)
      (b.sent + a.offset + 2 * b.hs + crossCycles b.step' + 2)

/-- The travel time of a beat (R70). -/
def Beat.travel (b : Beat) : Nat := Sys2Proof.Machine.travel b.rows b.src b.dst

/-- The receive cycle (R71). -/
def Beat.due (b : Beat) : Nat := b.sent + b.travel

/-! ### Routers (R56 to R59) -/

/-- The partition has not been ended before a cycle by a halt (R304, R313). -/
def Part.lasts (q : Part) (c : Int) : Bool :=
  (match q.fault with
    | some f => q.st = .halted && decide (c ≤ f.cycle + 5)
    | none => q.st = .running || q.st = .stopping)
  && (match q.lastStop with
    | some y => decide (c < y)
    | none => true)

/-- The partition of a die executes a cycle of the step in progress. -/
def executes (m : Mach) (p c : Nat) : Bool :=
  let q := part m p
  q.inStep && q.lasts c
  && (match q.hold with
      | some h => h.carried || decide ((c : Int) < h.stop)
      | none => true)

/-- The input port through which a beat of this step reaches a router output port in a cycle. -/
def Beat.inputAt (b : Beat) (d x y out c : Nat) : Option Nat :=
  (b.route.find? (fun h => h.die == d && h.x == x && h.y == y && h.out == out && h.cycle == c)).map
    (fun h => h.inp)

/-- Beats that reach a router output port in a cycle, with their inputs. -/
def contenders (m : Mach) (step d x y out c : Nat) : List (Nat × Beat) :=
  m.mesh.filterMap (fun b =>
    if b.step = step then (b.inputAt d x y out c).map (fun i => (i, b)) else none)

/-- The beat that comes from the lowest-ordered input (R58); of two from one input, which R58 does not order, the one
sent by the earlier command (DESIGN CHOICE, log 179). -/
def winner : List (Nat × Beat) → Option (Nat × Beat)
  | [] => none
  | e :: r =>
    match winner r with
    | none => some e
    | some f => some (if e.1 ≤ f.1 then e else f)

/-- Beats leave the mesh for good; the transfer of a lane beat among them never completes (log 189). -/
def discard (lost : List Beat) (m : Mach) : Mach :=
  lost.foldl (fun m b => match b.lane with
    | some (key, i) => onStn key (fun s => { s with laneLost := i :: s.laneLost }) m
    | none => m) { m with mesh := lost.foldl List.erase m.mesh }

/-- Every beat but the winner is discarded, counted and recorded (R58, R59); of several discards of one cycle LOST_IN
names the last in the order of the commands that sent them (DESIGN CHOICE, log 179). -/
def collide (key step out c : Nat) (l : List (Nat × Beat)) (m : Mach) : Mach :=
  match winner l with
  | none => m
  | some w =>
    match l.erase w with
    | [] => m
    | y :: r =>
      let lost := y.2 :: r.map (fun e => e.2)
      let at_ : StnLast := { cycle := c, step := step, a := out, b := (r.getLast?.getD y).1, c := w.1 }
      bumpBy .stnCollide (iStn key) 0 lost.length (onStn key (fun s => { s with collideAt := at_ }) (discard lost m))

/-- A router output port in a cycle (R56 to R59). -/
def routerForward (d unit out c : Nat) (m : Mach) : Mach :=
  let p := partOf m d
  match keyOf m d unit with
  | none => m
  | some key =>
    if executes m p c then
      collide key (part m p).step out c (contenders m (part m p).step d (unit % 16) (unit / 16) out c) m
    else m

/-- ROUTER_FORWARD. -/
def execRouterForward (die : Fin 4) (unit : Fin 128) (port : Fin 5) (cycle : Nat) (s : State) :
    Host.Outcome State Fault Refusal :=
  run s (fun _ => routerForward die.val unit.val port.val cycle)

/-! ### Crossings (R63 to R69, R538) -/

/-- Step of a beat's way round the ring at a crossing that leaves a die by a side in a cycle: `some true` for
a beat passing through, `some false` for one from the mesh. -/
def Beat.offered (b : Beat) (d : Nat) (east : Bool) (c : Nat) : Option Bool :=
  let step := b.step'
  if step = 0 then none
  else if b.srcDie = d ∧ (step ≠ 3) = (east = true) ∧ b.crossAt = c then some false
  else if step = 2 ∧ east = true ∧ (b.srcDie + 1) % 4 = d ∧ b.crossAt + 24 = c then some true
  else none

/-- A beat put into ascending order of virtual row, a passing one first. -/
def insertOffer (e : Nat × Beat) : List (Nat × Beat) → List (Nat × Beat)
  | [] => [e]
  | y :: r => if e.1 < y.1 then e :: y :: r else y :: insertOffer e r

/-- Beats offered, as (2 × row, 0 for passing), in the order of R68. -/
def offers (m : Mach) (step d : Nat) (east : Bool) (c : Nat) : List (Nat × Beat) :=
  m.mesh.foldl (fun l b =>
    if b.step = step then
      match b.offered d east c with
      | some pass => insertOffer (2 * b.row + b2n (!pass), b) l
      | none => l
    else l) []

/-- Which of the offered beats are admitted (R66, R68): room for `room` more, at most one a row. -/
def admitBeats : Nat → Option Nat → List (Nat × Beat) → List Beat
  | 0, _, _ => []
  | _, _, [] => []
  | n + 1, last, (k, b) :: r =>
    if last = some (k / 2) then admitBeats (n + 1) last r else b :: admitBeats n (some (k / 2)) r

/-- The neighbour through a side. -/
def neighbour (d : Nat) (east : Bool) : Nat := if east then (d + 1) % 4 else (d + 3) % 4

/-- Cycles of the beats that a side admitted lately. -/
def Die.admits (x : Die) (east : Bool) : List Nat := if east then x.admitE else x.admitW

/-- A crossing in a cycle: the routers ahead of it forward first (R58), then admission, and the discards of R68, R69 and R538 (`slipped`: virtual rows whose
beat the crossing cannot deliver on time). -/
def crossingAdmit (d : Nat) (east : Bool) (c : Nat) (slipped : List Nat) (m : Mach) : Mach :=
  let p := partOf m d
  if executes m p c then
    let col := if east then 15 else 0
    let m := (List.range 8).foldl (fun m y => routerForward d (16 * y + col) (if east then 2 else 4) c m) m
    let l := offers m (part m p).step d east c
    let lately := ((die m d).admits east).filter (fun t => decide (c ≤ t + 8))
    let open_ := decide (partOf m (neighbour d east) = p)
    let ok := if open_ then admitBeats (16 - lately.length) none l else []
    let lost := (l.map (fun e => e.2)).filter (fun b => !ok.contains b)
    let late := ok.filter (fun b => slipped.contains b.row)
    let m := discard (lost ++ late) m
    let m := onDie d (fun y =>
      if east then { y with admitE := lately ++ ok.map (fun _ => c) }
      else { y with admitW := lately ++ ok.map (fun _ => c) }) m
    let m := bumpBy (if east then .stnXingDropE else .stnXingDropW) (iDie d) 0 lost.length m
    bumpBy .clkSlip (iDie (neighbour d east)) 0 late.length m
  else m

/-- CROSSING_ADMIT. -/
def execCrossingAdmit (die : Fin 4) (side : Side) (cycle : Nat) (slipped : List Nat) (s : State) :
    Host.Outcome State Fault Refusal :=
  run s (fun _ => crossingAdmit die.val (decide (side = .east)) cycle slipped)

/-! ### Taps and lanes (08 R327) -/

/-- A tap of an edge station. -/
def tapKey (unit tap : Nat) : Nat := unit * 4 + tap

/-- A beat put into a lane through the tap that its stream names (R61), which sends at most one beat a cycle: from a cycle on, in
the next one in which it is free. -/
def throughTap (b : Beat) (m : Mach) : Mach :=
  let k := tapKey b.srcUnit b.tap
  let c := if (tget 0 (die m b.srcDie).taps k) ≤ b.sent then b.sent else tget 0 (die m b.srcDie).taps k
  onDie b.srcDie (fun y => { y with taps := tput 0 y.taps k (c + 1) }) { m with mesh := m.mesh ++ [{ b with sent := c }] }

end Sys2Proof.Machine
end

