-- ==== Sys2Proof/Machine/Packets.lean ====
section
/-! DEFINITION. Packets and the ports they leave by (10, 11): headers, pair entries, keys, the pool and its
grants, the transmit store, routes, and the flood of a collective abort. -/

namespace Sys2Proof

open Machine

/-! ### Headers (Table 11-1) -/

/-- The 256 bits of a header. -/
def Header.num (h : Header) : Nat :=
  pack [(28, h.resv), (32, h.hcrc), (4, h.hops), (16, h.xfer), (16, h.step), (1, h.keyEpoch), (8, h.keyslot),
    (16, h.pseq), (16, h.tag), (8, h.len), (48, h.addr), (8, h.srcUnit), (2, h.srcDie), (14, h.srcMod),
    (8, h.dstUnit), (2, h.dstDie), (14, h.dstMod), (8, h.flags), (1, h.epoch), (2, h.cls), (4, h.op)] 0

/-- A flag of R469. -/
def Header.flag (h : Header) (i : Nat) : Bool := bitAt h.flags i

/-- A flag set. -/
def Header.setFlag (h : Header) (i : Nat) : Header :=
  if h.flag i then h else { h with flags := h.flags + 2 ^ i }

/-- A flag cleared. -/
def Header.dropFlag (h : Header) (i : Nat) : Header :=
  if h.flag i then { h with flags := h.flags - 2 ^ i } else h

/-- VIA_RELAY. -/
def Header.viaRelay (h : Header) : Bool := h.flag 0
/-- RETRY. -/
def Header.retry (h : Header) : Bool := h.flag 2
/-- COLL. -/
def Header.coll (h : Header) : Bool := h.flag 3
/-- ESCAPED. -/
def Header.escaped (h : Header) : Bool := h.flag 4
/-- LOCAL. -/
def Header.isLocal (h : Header) : Bool := h.flag 5
/-- UNORDERED. -/
def Header.unordered (h : Header) : Bool := h.flag 6

/-- HCRC (R470). -/
def Header.crc (h : Header) : Nat :=
  crc32c (leBytes 32 ({ (h.dropFlag 0).dropFlag 4 with hcrc := 0, hops := 0 } : Header).num)

/-- The header with its HCRC. -/
def Header.seal (h : Header) : Header := { h with hcrc := h.crc }

/-- Bytes of a packet (R466). -/
def Packet.size (p : Packet) : Nat := 32 + p.payload.length + (if p.hdr.keyslot ≠ 0 then 16 else 0)

/-- The bytes of a packet on the wire: header, payload and tag, the last two enciphered under a slot (16). -/
def Packet.bytes (p : Packet) : List Byte :=
  leBytes 32 p.hdr.num ++
    (if p.hdr.keyslot = 0 then p.payload else fitTo (p.payload.length + 16) (Config.wireBytes p.hdr.num p.payload))

/-- Bits 95 to 0 of the link prefix (Table 10-2). -/
def LinkUnit.prefixNum (u : LinkUnit) : Nat :=
  pack [(11, u.resv), (4, u.want), (9, u.len16), (16, u.cr), (2, u.crCls), (24, u.ack), (24, u.arg), (2, u.cls)
    , (4, u.kind)] 0

/-- LCRC (Table 10-2): CRC-32C over prefix bits 95 to 0 and every byte of the packet. -/
def LinkUnit.lcrc (u : LinkUnit) : Nat :=
  crc32c (leBytes 12 u.prefixNum ++ (match u.pkt with
    | some p => p.bytes
    | none => []))

/-- The modules of a collective. -/
def Collective.has (c : Collective) (mod : Nat) : Bool := c.members.any (fun x => x.1 == mod)

end Sys2Proof

namespace Sys2Proof.Machine

/-! ### Classes, ports -/

/-- The value of a class. -/
def Quad.get (q : Quad) (c : Nat) : Nat :=
  match c with
  | 0 => q.c0
  | 1 => q.c1
  | 2 => q.c2
  | _ => q.c3

/-- The value of a class changed. -/
def Quad.mod (q : Quad) (c : Nat) (f : Nat → Nat) : Quad :=
  match c with
  | 0 => { q with c0 := f q.c0 }
  | 1 => { q with c1 := f q.c1 }
  | 2 => { q with c2 := f q.c2 }
  | _ => { q with c3 := f q.c3 }

/-- A port. -/
def port (m : Mach) (k : Nat) : Port := tget {} m.ports k

/-- Changing a port. -/
def onPort (k : Nat) (f : Port → Port) (m : Mach) : Mach := { m with ports := tmod {} m.ports k f }

/-- The port of link station `l` of a die (Table 1-3). -/
def linkPort (d l : Nat) : Nat :=
  match l with
  | 0 => 2 * d
  | 1 => 2 * d + 1
  | 2 => 8 + 2 * d
  | _ => 9 + 2 * d

/-- Unit code of a port's link station. -/
def portUnit (k : Nat) : Nat := if k < 8 then 0xF0 + k % 2 else 0xF2 + k % 2

/-- The ports of a partition (R25). -/
def partPorts (m : Mach) (p : Nat) : List Nat :=
  (List.range 16).filter (fun k => (part m p).dies.contains (portDie k))

/-- A port carries packets: ACTIVE, a width change included. -/
def Port.active (q : Port) : Bool := q.st == 6 || q.st == 7

/-- Units of 256 B that n bytes occupy (R421). -/
def units (n : Nat) : Nat := (n + 255) / 256

/-! ### Pair entries, keys -/

/-- Key of a pair entry. -/
def pairKey (mod die : Nat) : Nat := mod * 4 + die

/-- A pair entry of a die. -/
def pairOf (m : Mach) (d mod peer : Nat) : Pair := tget {} (die m d).pairs (pairKey mod peer)

/-- Changing a pair entry. -/
def onPair (d mod peer : Nat) (f : Pair → Pair) (m : Mach) : Mach :=
  onDie d (fun x => { x with pairs := tmod {} x.pairs (pairKey mod peer) f }) m

/-- An entry of a die set up for a peer (R487). A die keeps 16,384 entries; a peer for which none is free gets none, so that its
packets are discarded (log 195). -/
def enterPair (d mod peer : Nat) (f : Pair → Pair) (m : Mach) : Mach :=
  let l := (die m d).pairs.filter (fun y => y.2.live)
  if l.any (fun y => y.1 == pairKey mod peer) || decide (l.length < 16384) then onPair d mod peer f m else m

/-- A class of a pair entry. -/
def Pair.cls (p : Pair) (c : Nat) : PairCls :=
  match c with
  | 0 => p.c0
  | 1 => p.c1
  | _ => p.c2

/-- A class of a pair entry changed. -/
def Pair.onCls (p : Pair) (c : Nat) (f : PairCls → PairCls) : Pair :=
  match c with
  | 0 => { p with c0 := f p.c0 }
  | 1 => { p with c1 := f p.c1 }
  | _ => { p with c2 := f p.c2 }

/-- An epoch of a fabric slot. -/
def FSlot.ep (f : FSlot) (e : Nat) : KeyEpoch := if e = 0 then f.ep0 else f.ep1

/-- An epoch of a fabric slot changed. -/
def FSlot.onEp (f : FSlot) (e : Nat) (g : KeyEpoch → KeyEpoch) : FSlot :=
  if e = 0 then { f with ep0 := g f.ep0 } else { f with ep1 := g f.ep1 }

/-- A fabric slot of a die. -/
def fslot (m : Mach) (d k : Nat) : FSlot := tget {} (die m d).slots k

/-- Changing a fabric slot. -/
def onSlot (d k : Nat) (f : FSlot → FSlot) (m : Mach) : Mach :=
  onDie d (fun x => { x with slots := tmod {} x.slots k f }) m

/-- The lowest-numbered fabric slot of a die whose write epoch is LOADED or SPENT (R709) and names a peer: the slot that
seals control packets to it (R491, Table 11-3; log 15). -/
def sealSlot (m : Mach) (d mod peer : Nat) : Option (Nat × Nat) :=
  ((die m d).slots.find? (fun e =>
    let k := e.2.ep (b2n e.2.wr)
    decide (1 ≤ e.1) && (k.st == 1 || k.st == 3) && k.peers.contains (mod, peer))).map (fun e => (e.1, b2n e.2.wr))

/-! ### Pool and grants (R421 to R427) -/

/-- R_c of Table 10-4. -/
def reserve (c : Nat) : Nat :=
  match c with
  | 0 => 1024
  | 1 => 256
  | 2 => 64
  | _ => 128

/-- F_c (R424). -/
def Port.foot (q : Port) (c : Nat) : Nat := q.outst.get c + q.holds.get c

/-- Units in the shared store. -/
def Port.shared (q : Port) : Nat := 4096 - (q.foot 0 + q.foot 1 + q.foot 2 + q.foot 3)

/-- n units granted to a class. -/
def Port.grant (q : Port) (now c n : Nat) : Port :=
  if n = 0 then q
  else { q with granted := q.granted.mod c (fun x => (x + n) % 65536), outst := q.outst.mod c (fun x => x + n)
                crDue := if bitAt q.crDue c then q.crDue else q.crDue + 2 ^ c
                dueAt := if q.crDue = 0 ∧ q.ackDue = false then now else q.dueAt }

/-- The classes in the order of R425. -/
def rotation : List Nat := [0, 1, 3, 2]

/-- The first class from place `t` of the rotation that may take a shared unit, with its place. -/
def nextClass (q : Port) (t : Nat) : Option (Nat × Nat) :=
  ((List.range 4).map (fun i => (t + i) % 4)).findSome? (fun i =>
    let c := rotation.getD i 0
    if bitAt q.peerWant c && decide (q.foot c < q.limit.get c) then some (i, c) else none)

/-- Shared units granted one at a time (R425); `fuel` bounds their number. -/
def shareOut (now : Nat) : Nat → Port → Port
  | 0, q => q
  | fuel + 1, q =>
    if q.shared = 0 then q
    else
      match nextClass q q.turn with
      | none => q
      | some (i, c) => shareOut now fuel ({ q with turn := (i + 1) % 4 }.grant now c 1)

/-- Units of a class freed (R424). -/
def Port.release (q : Port) (now c n : Nat) : Port :=
  let q := { q with holds := q.holds.mod c (fun x => x - n) }
  let top := if bitAt q.peerWant c && decide (reserve c < q.limit.get c) then q.limit.get c else reserve c
  let back := if q.foot c + n ≤ top then n else top - q.foot c
  let q := q.grant now c back
  shareOut now q.shared q

/-- The pool units of an accepted packet freed, if it still holds them. -/
def freePool (i : InPkt) (m : Mach) : Mach :=
  if i.pooled then onPort i.port (fun q => q.release m.clk.wall i.cls (units i.pkt.size)) m else m

/-- The pool units that a packet on its way through still holds at its arrival port, freed. -/
def OutPkt.freePool (o : OutPkt) (m : Mach) : Mach :=
  match o.came, o.pool with
  | some k, some (c, n) => onPort k (fun q => q.release m.clk.wall c n) m
  | _, _ => m

/-! ### The transmit store (R432, R490) -/

/-- Bytes of a list of packets. -/
def bytesOf (l : List OutPkt) : Nat := l.foldl (fun n o => n + o.pkt.size) 0

/-- A packet may be sent under the window of R490. -/
def windowOk (m : Mach) (o : OutPkt) : Bool :=
  let h := o.pkt.hdr
  h.isLocal || h.unordered || h.srcMod != m.moduleId
  || decide (o.ext < ((pairOf m h.srcDie h.dstMod h.dstDie).cls h.cls).deliv + 16384)

/-- Two packets of one pair and class, in this direction. -/
def OutPkt.mate (a b : OutPkt) : Bool :=
  a.pkt.hdr.srcDie == b.pkt.hdr.srcDie && a.pkt.hdr.dstMod == b.pkt.hdr.dstMod
    && a.pkt.hdr.dstDie == b.pkt.hdr.dstDie && a.pkt.hdr.cls == b.pkt.hdr.cls
    && a.pkt.hdr.srcMod == b.pkt.hdr.srcMod

/-- The waiting packets that enter the store, in order, and those that go on waiting. -/
def enterStore (m : Mach) : List OutPkt → List OutPkt → List OutPkt → List OutPkt × List OutPkt
  | [], kept, store => (kept, store)
  | o :: r, kept, store =>
    if windowOk m o && !kept.any (fun x => x.mate o) && decide (bytesOf store + o.pkt.size ≤ 2097152) then
      enterStore m r kept (store ++ [{ o with since := m.clk.wall }])
    else enterStore m r (kept ++ [o]) store

/-- The link station copies what it can into the store; what enters it frees its pool units (R421). -/
def pump (k : Nat) (m : Mach) : Mach :=
  let q := port m k
  let (a, s) := enterStore m q.ahead [] q.store
  let new := s.drop q.store.length
  let m := onPort k (fun q => { q with ahead := a, store := s.map (fun o => { o with pool := none }) }) m
  new.foldl (fun m o => o.freePool m) m

/-- A packet handed to a port. -/
def putPort (k : Nat) (o : OutPkt) (m : Mach) : Mach :=
  let m := if windowOk m o then m else bump .rteWindowWait (iDie o.pkt.hdr.srcDie) m
  pump k (onPort k (fun q => { q with ahead := q.ahead ++ [o] }) m)

/-! ### Routes (R476 to R478, R511) -/

/-- A route table: of a partition, or of the module. -/
def rteOf (m : Mach) (t : Option Nat) : Rte :=
  match t with
  | some p => (part m p).rte
  | none => m.rte

/-- Changing a route table. -/
def onRte (t : Option Nat) (f : Rte → Rte) (m : Mach) : Mach :=
  match t with
  | some p => onPart p (fun q => { q with rte := f q.rte }) m
  | none => { m with rte := f m.rte }

/-- State of a bank. -/
def Rte.bank (r : Rte) (e : Bool) : Nat := if e then r.bank1 else r.bank0

/-- The entry of an unlisted module ID (Table 11-14). -/
def noRoute : RouteEntry :=
  { secondKind := 0, secondPort := 0, escValid := false, escPort := 0, firstValid := false, firstPort := 0 }

/-- The bank that serves an epoch: an OPEN bank routes nothing, the CURRENT one takes its place. -/
def Rte.serves (r : Rte) (e : Bool) : Bool := if r.bank e = 0 then r.epoch else e

/-- The entry of a module ID in a bank. -/
def Rte.entry (r : Rte) (e : Bool) (mod : Nat) : RouteEntry := tget noRoute (if e then r.r1 else r.r0) mod

/-- The header of a packet as it is to be routed: VIA_RELAY set only if it arrived so (R478). -/
def OutPkt.hdr (o : OutPkt) : Header := if o.viaIn then o.pkt.hdr else o.pkt.hdr.dropFlag 0

/-- The port a packet leaves by, and whether it is a relay (R477, R478, R482). -/
def routeOf (m : Mach) (t : Option Nat) (h : Header) : Option (Nat × Bool) :=
  let r := rteOf m t
  let e := r.entry (r.serves (h.epoch == 1)) h.dstMod
  if h.escaped then
    if e.escValid && (port m e.escPort).active then some (e.escPort, false) else none
  else if e.firstValid && (port m e.firstPort).active && !(port m e.firstPort).fresh then some (e.firstPort, false)
  else if e.secondKind = 1 && (port m e.secondPort).active then some (e.secondPort, false)
  else if e.secondKind = 2 && !h.viaRelay && (port m e.secondPort).active then some (e.secondPort, true)
  else none

/-- RTE_EPOCH_LATE (Table 11-11). -/
def noteLate (d : Nat) (t : Option Nat) (h : Header) (m : Mach) : Mach :=
  if (rteOf m t).bank (h.epoch == 1) = 0 then bump .rteEpochLate (iDie d) m else m

/-- The table that routes what arrives on a port (R476); from DESTROY until ATTEST ends it is the module
table (R719). -/
def arrivalTable (m : Mach) (k : Nat) : Option Nat :=
  let p := partOf m (portDie k)
  if (part m p).sec.st = 0 ∨ ((part m p).sec.st = 3 ∧ 3 ≤ (part m p).sec.phase) then none else some p

/-! ### The held store (R484) -/

/-- Bytes of the held store in use. -/
def heldBytes (x : Die) : Nat := bytesOf ((x.held.filter (fun y => y.kept)).map (fun y => y.out))

/-- The held store has 1 MiB (R484). -/
def heldRoom (x : Die) (o : OutPkt) : Bool := decide (heldBytes x + o.pkt.size ≤ 2 ^ 20)

/-- A packet without a route waits in the held store, where it needs no pool units; while the store is full, where it is (DESIGN
CHOICE, log 65). -/
def hold (d : Nat) (t : Option Nat) (o : OutPkt) (m : Mach) : Mach :=
  if heldRoom (die m d) o then
    onDie d (fun x => { x with held := x.held ++ [{ out := { o with pool := none }, table := t, since := m.clk.wall }] })
      (o.freePool m)
  else onDie d (fun x => { x with held := x.held ++ [{ out := o, table := t, since := m.clk.wall, kept := false }] }) m

/-- The first packets that wait beside the held store enter it as it has room; `fuel` bounds their number. -/
def fillHeld (d : Nat) : Nat → Mach → Mach
  | 0, m => m
  | fuel + 1, m =>
    match (die m d).held.find? (fun y => !y.kept) with
    | none => m
    | some y =>
      if heldRoom (die m d) y.out then
        fillHeld d fuel (y.out.freePool (onDie d (fun x => { x with held := x.held.map (fun z =>
          if z = y then { z with out := { z.out with pool := none }, kept := true } else z) }) m))
      else m

/-- Room may have come free in the held store of a die. -/
def refillHeld (d : Nat) (m : Mach) : Mach := fillHeld d (die m d).held.length m

/-- A packet leaves by the port that routes it, relayed or not (R477, R478). -/
def leave (d : Nat) (t : Option Nat) (o : OutPkt) (y : Nat × Bool) (m : Mach) : Mach :=
  let hdr := if y.2 then o.hdr.setFlag 0 else o.hdr
  putPort y.1 { o with pkt := { o.pkt with hdr := hdr } } (noteLate d t o.hdr m)

/-- A held packet is routed, or waits on (R484). -/
def releaseHeld (d : Nat) (m : Mach) (x : Held) : Mach :=
  match routeOf m x.table x.out.hdr with
  | some y => leave d x.table x.out y m
  | none => hold d x.table x.out m

/-- Held packets are routed as soon as they have a route (R484). -/
def rehold (d : Nat) (m : Mach) : Mach :=
  let l := (die m d).held
  let ok (m : Mach) (x : Held) : Bool := (routeOf m x.table x.out.hdr).isSome
  let ready := l.filter (ok m)
  refillHeld d (ready.foldl (releaseHeld d) (onDie d (fun y => { y with held := l.filter (fun x => !ok m x) }) m))

/-- Held packets of every die. -/
def reholdAll (m : Mach) : Mach := (List.range 4).foldl (fun m d => rehold d m) m

/-- Ports that have returned are first links again: at a step boundary of their partition, or at once when it runs no plan
(R444); packets that waited for a route go (R484). -/
def usePorts (p : Nat) (m : Mach) : Mach :=
  reholdAll ((partPorts m p).foldl (fun m k => onPort k (fun q => { q with fresh := false }) m) m)

/-! ### New packets -/

/-- A header with nothing set but its source. -/
def newHdr (m : Mach) (d unit : Nat) : Header :=
  { resv := 0, hcrc := 0, hops := 0, xfer := 0, step := (part m (partOf m d)).step % 65536, keyEpoch := 0
    keyslot := 0, pseq := 0, tag := 0, len := 1, addr := 0, srcUnit := unit, srcDie := d, srcMod := m.moduleId
    dstUnit := 0, dstDie := 0, dstMod := 0, flags := 0
    epoch := b2n (part m (partOf m d)).rte.epoch, cls := 2, op := 5 }

/-- A packet sealed for sending, its payload filled to whole units of 32 bytes. -/
def mkPacket (h : Header) (payload : List Byte) : Packet :=
  let n := (payload.length + 31) / 32
  { hdr := { h with len := n }.seal, payload := fitTo (32 * n) payload, tagOk := true }

/-- A LOCAL packet for the peer of a port; under a slot it carries the count of R708, low half in XFER. -/
def sendLocal (k : Nat) (slot : Option (Nat × Nat)) (payload : List Byte) (m : Mach) : Mach :=
  let d := portDie k
  let q := port m k
  let h := newHdr m d (portUnit k)
  let h : Header := { h with dstMod := q.peerMod, dstDie := portDie q.peerPort, dstUnit := portUnit q.peerPort
                             flags := 32 }
  match slot with
  | none => putPort k { pkt := mkPacket h payload, cls := 2 } m
  | some (s, e) =>
    let n := ((fslot m d s).ep e).locals
    let h : Header := { h with keyslot := s, keyEpoch := e, xfer := n % 65536, pseq := n / 65536 % 65536 }
    putPort k { pkt := mkPacket h payload, cls := 2 }
      (onSlot d s (fun f => f.onEp e (fun x => { x with locals := x.locals + 1 })) m)

/-! ### Collectives (R504, R506, R507) -/

/-- A collective abort: cause, origin, collective, the low bits of the origin's step. -/
structure Abort where
  cause : Nat
  mod : Nat
  die : Nat
  coll : Nat
  step : Nat
  deriving DecidableEq, Repr

/-- The collectives of the plan of a partition. -/
def collsOf (m : Mach) (p : Nat) : List Collective := ((planOf m p).map (fun pl => pl.collectives)).getD []

/-- The collective that holds a transfer ID. -/
def collOf (m : Mach) (p xfer : Nat) : Option Collective :=
  (collsOf m p).find? (fun c => decide (c.firstXfer ≤ xfer) && decide (xfer < c.firstXfer + c.count))

/-- First 16 bytes of the program digest of the plan. -/
def digest16 (m : Mach) (p : Nat) : List Byte :=
  ((planOf m p).map (fun pl => (digestBytes pl.digest).take 16)).getD (zeros 16)

/-- The payload of a COLL_ABORT (Table 11-3). -/
def abortBytes (a : Abort) (dig : List Byte) : List Byte :=
  leBytes 1 3 ++ leBytes 1 a.cause ++ leBytes 2 a.mod ++ leBytes 1 a.die ++ leBytes 1 a.coll ++ leBytes 2 a.step
    ++ dig

/-- A COLL_ABORT sent on a port, if a slot seals it to the peer. -/
def sendAbort (p k : Nat) (a : Abort) (m : Mach) : Mach :=
  let q := port m k
  match sealSlot m (portDie k) q.peerMod (portDie q.peerPort) with
  | none => m
  | some s => sendLocal k (some s) (abortBytes a (digest16 m p)) m

/-- The flood of an abort: on every ACTIVE port whose peer is a member of the collective. -/
def floodAbort (p : Nat) (a : Abort) (m : Mach) : Mach :=
  match (collsOf m p).find? (fun c => c.index == a.coll) with
  | none => m
  | some c =>
    ((partPorts m p).filter (fun k => (port m k).active && c.has (port m k).peerMod)).foldl
      (fun m k => sendAbort p k a m) m

/-- A partition is a member of a collective: one of its dies is named in it (R504). -/
def memberFor (m : Mach) (p : Nat) (c : Collective) : Bool :=
  c.members.any (fun x => x.1 == m.moduleId && (part m p).dies.contains x.2)

/-- A partition is a member of the collective of an index. -/
def memberOf (m : Mach) (p coll : Nat) : Bool := (collsOf m p).any (fun c => c.index == coll && memberFor m p c)

/-- MEMBER_HALT for the open collectives of which a partition is a member, but one (Table 11-9, R507). -/
def floodHalt (p : Nat) (but : Option Nat) (m : Mach) : Mach :=
  ((collsOf m p).filter (fun c => memberFor m p c && some c.index != but)).foldl (fun m c =>
    floodAbort p { cause := 3, mod := m.moduleId, die := p, coll := c.index, step := (part m p).step % 65536 } m) m

end Sys2Proof.Machine
end

