-- ==== Sys2Proof/Machine/Outside.lean ====
section
/-! DEFINITION. Data outside the boundary (16 R697 to R702, 08 R361 to R369): the host window, its sealed range, and
cistern blocks. -/

namespace Sys2Proof.Machine

/-- First 128-byte unit of the sealed range of a partition's host window (Table 16-3). -/
def sealedUnit (q : Part) : Nat := (q.hwLen - q.sealedLen) / 128

/-- Data blocks of the sealed range (R699). -/
def sealedBlocks (q : Part) : Nat := q.sealedLen / 4096 - (q.sealedLen / 4096 + 127) / 128

/-- Units [a, a + n) of the window touch the sealed range. -/
def inSealed (q : Part) (a n : Nat) : Bool := decide (0 < q.sealedLen) && decide (sealedUnit q < a + n)

/-- LPDDR5X address of a 128-byte unit of a partition's window. -/
def hostAddr (q : Part) (unit : Nat) : Nat := q.hwBase + 128 * unit

/-- A number kept in a rising list, once. -/
def insertNat (x : Nat) : List Nat → List Nat
  | [] => [x]
  | y :: r => if x < y then x :: y :: r else if x = y then y :: r else y :: insertNat x r

/-- First address of the sealed range of a window. -/
def sealedBase (q : Part) : Nat := q.hwBase + q.hwLen - q.sealedLen

/-- Where the tag area holds the tag of a data block, and 16 bytes further on its counter value (R699). -/
def tagAddr (q : Part) (b : Nat) : Nat := sealedBase q + 4096 * sealedBlocks q + 32 * b

/-- The 256 bits of an AES-256-GCM key that the security processor has drawn. -/
def drawnKey (draw : Nat) : Nat := Config.random draw % 2 ^ 256

/-- The nonce of a sealed block: its index, then the value of its key's write counter (R697). -/
def sealNonce (b ctr : Nat) : List Byte := leBytes 4 b ++ leBytes 8 ctr

/-- A sealed block written with its tag and counter value, under the next value of the counter (R697 to R699); without a
sealed-host key nothing is written. -/
def writeSealed (p b : Nat) (l : List Byte) (m : Mach) : Mach :=
  let q := part m p
  match q.sealedKey with
  | none => m
  | some k =>
    let c := gcmCrypt (drawnKey k) (sealNonce b q.sealedCtr) l
    let t := gcmTag (drawnKey k) (sealNonce b q.sealedCtr) (Config.sealAad p m.moduleId b) c
    onPart p (fun q => { q with sealedCtr := q.sealedCtr + 1 })
      (pokeHost (tagAddr q b) (t ++ leBytes 8 q.sealedCtr) (pokeHost (sealedBase q + 4096 * b) c m))

/-- The plaintext of a sealed block of a window, if its tag holds (R697, R701). -/
def readSealed (m : Mach) (p b : Nat) : Option (List Byte) :=
  let q := part m p
  match q.sealedKey with
  | none => none
  | some k =>
    let c := peeks m.mem.host (sealedBase q + 4096 * b) 4096
    let nonce := sealNonce b (ofLe (peeks m.mem.host (tagAddr q b + 16) 8))
    if peeks m.mem.host (tagAddr q b) 16 = gcmTag (drawnKey k) nonce (Config.sealAad p m.moduleId b) c then
      some (gcmCrypt (drawnKey k) nonce c)
    else none

/-- Where a block of a partition's namespace stands among all blocks of the cistern. -/
def cistKey (p b : Nat) : Nat := cistAddr p b / 4096

/-- A cistern block stored with its CRC-32C (R377). -/
def blockSealed (p b : Nat) (l : List Byte) (m : Mach) : Mach :=
  let m := pokeCist (cistAddr p b) l m
  { m with cistCrc := tset m.cistCrc (cistKey p b) (BitVec.ofNat 32 (crc32c l)) }

/-- What a read finds wrong with a cistern block (R377, Table 9-3): 1 its LDPC decoding fails, 2 its CRC does not hold; a block
that MV.CIST has not written carries none. -/
def cistFails (m : Mach) (p b : Nat) : Option Nat :=
  if m.cistErr.contains (cistKey p b) then some 1
  else
    match m.cistCrc.find? (fun y => y.1 == cistKey p b) with
    | some y => if y.2.toNat = crc32c (peeks m.mem.cist (cistAddr p b) 4096) then none else some 2
    | none => none

/-- A cistern block written by MV.CIST (R369, R377, R698): its earlier contents stay possible until a commit. -/
def writeBlock (p b : Nat) (l : List Byte) (m : Mach) : Mach :=
  let old := peeks m.mem.cist (cistAddr p b) 4096
  onPart p (fun q => { q with nsCtr := q.nsCtr + 1
                              dirty := if q.dirty.any (fun y => y.1 == b) then q.dirty else q.dirty ++ [(b, old)] })
    (blockSealed p b l m)

/-- A range of the host window in bytes [a, a + n), a an address of LPDDR5X. -/
def inHostWindow (q : Part) (a n : Nat) : Bool := decide (q.hwBase ≤ a) && decide (a + n ≤ q.hwBase + q.hwLen)

/-- A byte range of the host window that stays outside its sealed range. -/
def inClear (q : Part) (a n : Nat) : Bool := decide (q.hwBase ≤ a) && decide (a + n ≤ q.hwBase + q.hwLen - q.sealedLen)

/-- A byte range of the host window that lies in its sealed data blocks (R702). -/
def inSealedData (q : Part) (a n : Nat) : Bool :=
  decide (sealedBase q ≤ a) && decide (a + n ≤ sealedBase q + 4096 * sealedBlocks q)

/-- Blocks of 4 KiB that bytes [off, off + n) of a range touch. -/
def touched (off n : Nat) : List Nat :=
  if n = 0 then [] else (List.range ((off + n - 1) / 4096 - off / 4096 + 1)).map (fun i => off / 4096 + i)

/-- What a block of 4 KiB holds after bytes are stored at an offset of the range that it is block `b` of. -/
def spliceBlock (b off : Nat) (new old : List Byte) : List Byte :=
  (List.range 4096).map (fun i =>
    let a := 4096 * b + i
    if off ≤ a ∧ a < off + new.length then new.getD (a - off) 0 else old.getD i 0)

/-- Bytes stored by firmware in the sealed range of a window, from an address on: every block touched is sealed again; one whose
tag does not hold counts as zeros (log 208). -/
def storeSealed (p a : Nat) (l : List Byte) (m : Mach) : Mach :=
  let off := a - sealedBase (part m p)
  (touched off l.length).foldl (fun m b => writeSealed p b (spliceBlock b off l ((readSealed m p b).getD (zeros 4096))) m) m

/-- Bytes stored by firmware in a cistern namespace, from byte `off` on. -/
def storeCist (p off : Nat) (l : List Byte) (m : Mach) : Mach :=
  let bs := touched off l.length
  let keep (q : Part) (b : Nat) : Part :=
    if q.dirty.any (fun y => y.1 == b) then q
    else { q with dirty := q.dirty ++ [(b, peeks m.mem.cist (cistAddr p b) 4096)] }
  onPart p (fun q => { bs.foldl keep q with nsCtr := q.nsCtr + bs.length }) (pokeCist (cistAddr p 0 + off) l m)

end Sys2Proof.Machine
end

