-- ==== Sys2Proof/Machine/Journal.lean ====
section
/-! DEFINITION. The journal, provenance records and batches of a partition (15 R645 to R659). -/

namespace Sys2Proof.Machine

/-! ### Digests -/

/-- merkle() of R613 on one level: neighbours joined, an odd node carried up. -/
def merkleLevel : List Digest → List Digest
  | a :: b :: r => sha256 ([1] ++ digestBytes a ++ digestBytes b) :: merkleLevel r
  | l => l

/-- merkle() of R613; `fuel` bounds the number of levels. -/
def merkleUp : Nat → List Digest → Digest
  | 0, l => l.headD 0
  | fuel + 1, l =>
    match l with
    | [] => 0
    | [d] => d
    | l => merkleUp fuel (merkleLevel l)

/-- The Merkle root of a list of digests (R613). -/
def merkle (l : List Digest) : Digest := merkleUp l.length l

/-- Codes of Table 15-2. -/
def gridCode (g : GridClass) : Nat :=
  match g with
  | .g512 => 1
  | .g448 => 2

/-- The configuration digest (R644) of the loaded plan. -/
def configDigest (fz : Fuses) (m : Mach) (p : Nat) : Digest :=
  match planOf m p, varOf m p with
  | some pl, some v =>
    let step := match v.lprof with
      | .lpC => 0xFF
      | _ => b2n fz.b0
    sha256 (leBytes 1 1 ++ leBytes 1 (gridCode pl.grid) ++ leBytes 1 (lprofCode v.lprof)
      ++ leBytes 1 (b2n (isH6 m p)) ++ leBytes 1 step ++ zeros 11 ++ digestBytes m.fw.digest ++ zeros 16)
  | _, _ => 0

/-- The weight-set digest that a plan's records carry: zero for one that uses no fetched tensor (Table 15-3). -/
def wsetOf (m : Mach) (p : Nat) : Digest :=
  match planOf m p with
  | some pl => if pl.weights then (part m p).wgt.digest else 0
  | none => 0

/-! ### Batches -/

/-- Changing the provenance state of a partition. -/
def onProv (p : Nat) (f : Prov → Prov) (m : Mach) : Mach := onPart p (fun q => { q with prov := f q.prov }) m

/-- A record put into the open batch, in index order (R652). -/
def insertRecord (i : Nat) (l : List Byte) : List (Nat × List Byte) → List (Nat × List Byte)
  | [] => [(i, l)]
  | y :: r => if i < y.1 then (i, l) :: y :: r else y :: insertRecord i l r

/-- The root of the open batch (R652). -/
def Prov.root (x : Prov) : Digest := merkle (x.batch.map (fun y => sha256 ([0] ++ y.2)))

/-- The statement of the open batch, without its signature (Table 15-4). -/
def batchStatement (m : Mach) (p : Nat) : List Byte :=
  let x := (part m p).prov
  leBytes 4 1 ++ leBytes 2 m.moduleId ++ leBytes 1 p ++ zeros 1 ++ leBytes 8 ((x.batch.map (fun y => y.1)).headD 0)
    ++ leBytes 4 x.batch.length ++ leBytes 8 (nowNs m) ++ digestBytes x.root ++ digestBytes x.prev ++ zeros 36

/-- A signature of a key that only the security processor holds: free bytes (log 20). -/
def signature (m : Mach) : List Byte × Mach :=
  (leBytes 384 (Config.random m.freeCtr), { m with freeCtr := m.freeCtr + 1 })

/-- The open batch closed and signed (R652, R653); the 512 bytes of its statement. -/
def closeBatch (p : Nat) (m : Mach) : Mach × List Byte :=
  let x := (part m p).prov
  match x.cfg with
  | none => (m, [])
  | some c =>
    if x.batch = [] then (m, [])
    else
      let (sig, m) := signature m
      let l := batchStatement m p ++ sig
      let m := if c.batchEntries = 0 then m else pokeHost (c.batchRing + 64 + 512 * (x.batches % c.batchEntries)) l m
      (bump .provBatches (iPart p) (onProv p (fun y => { y with
        batch := [], prev := x.root, batches := y.batches + 1 }) m), l)

/-! ### The journal -/

/-- Bytes of a journal destination. -/
def jdestSize (d : JDest) : Nat :=
  match d with
  | .host _ n => n
  | .cistern _ n => 4096 * n

/-- Changing the journal state of a partition. -/
def onDet (p : Nat) (f : Det → Det) (m : Mach) : Mach := onPart p (fun q => { q with det := f q.det }) m

/-- Header bytes 0 to 15 of an entry (Table 15-5). -/
def JEntry.head (e : JEntry) : List Byte :=
  leBytes 2 e.kind ++ leBytes 1 e.pos ++ leBytes 1 0 ++ leBytes 4 e.payload.length ++ leBytes 6 e.step ++ leBytes 2 0

/-- CHAIN after an entry (R656). -/
def JEntry.chain (e : JEntry) (c : Digest) : Digest := sha256 ([5] ++ digestBytes c ++ e.head ++ e.payload)

/-- Bytes that an entry takes (R655). -/
def JEntry.size (e : JEntry) : Nat := 64 + (e.payload.length + 63) / 64 * 64

/-- The plan ends at the end of the step in progress, or at once between steps, as PLAN_STOP does (R322); the open
batch closes when the plan has left RUNNING and STOPPING (R652). A truncation point that is reached ends the plan in
HALTED. -/
def stopPlan (p : Nat) (m : Mach) : Mach :=
  if (part m p).st = .running then
    if (part m p).inStep || decide (2 ≤ (part m p).det.trunc) then onPart p (fun q => { q with st := .stopping }) m
    else (closeBatch p (onPart p (fun q => { q with st := .stopped }) m)).1
  else m

/-- An entry written to the destination, which has room for it. -/
def writeEntry (p : Nat) (d : JDest) (e : JEntry) (m : Mach) : Mach :=
  let x := (part m p).det
  let c := e.chain x.chain
  let l := fitTo e.size (e.head ++ digestBytes c ++ zeros 16 ++ e.payload)
  let m := match d with
    | .host a _ => storeSealed p (a + x.pos) l m
    | .cistern b _ => storeCist p (4096 * b + x.pos) l m
  bump .detJentries (iPart p) (onDet p (fun x => { x with
    chain := c, pos := x.pos + e.size, entries := x.entries + 1
    jfull := decide (jdestSize d < x.pos + e.size + 16777216) }) m)

/-- An entry for the journal (R655 to R659): one that does not fit ends the plan and waits for a new range. -/
def journal (p : Nat) (e : JEntry) (m : Mach) : Mach :=
  let x := (part m p).det
  match x.dest with
  | none => m
  | some d =>
    if !x.journal then m
    else if x.pending = [] ∧ x.pos + e.size ≤ jdestSize d then writeEntry p d e m
    else
      let m := onDet p (fun x => { x with pending := x.pending ++ [e] }) m
      if x.pending = [] then stopPlan p (raiseEvt 0x0040 1 (iPart p) 0 m) else m

/-- The POS of an entry written now (R655, R572): before cycle 0, before or after the commit point of the step. The home has
taken it or not; another member goes by the cycle in which it executes. -/
def posNow (m : Mach) (p : Nat) : Nat :=
  if !(part m p).inStep then 0
  else
    match (planOf m p).bind (fun pl => pl.serve) with
    | none => 1
    | some s =>
      if s.home then (if (part m p).srv.commitStep = some (part m p).step then 2 else 1)
      else match s.rungs.find? (fun r => r.variant == (part m p).variant) with
      | some r => if r.commit ≤ cycleNow m p then 2 else 1
      | none => 1

/-- The step of an entry written now: between two steps, the one that comes. -/
def stepNow (m : Mach) (p : Nat) : Nat := (part m p).step

/-- A COMMAND entry (Table 15-6). -/
def journalCommand (p code : Nat) (payload : List Byte) (step pos : Nat) (m : Mach) : Mach :=
  journal p { kind := 2, pos := pos, step := step, payload := leBytes 2 code ++ zeros 2 ++ payload } m

/-- A read from an INPUT range or of a park image completes (Table 15-6, R663): its entry is written, and in replay its
digest is compared with the next entry of the journal. -/
def fetchRead (p kind addr len : Nat) (d : Digest) (m : Mach) : Mach :=
  let e : JEntry := { kind := 5, pos := posNow m p, step := stepNow m p
                      payload := leBytes 1 kind ++ leBytes 8 addr ++ leBytes 8 len ++ digestBytes d }
  let m := journal p e m
  match (part m p).det.replay with
  | none => m
  | some j =>
    match j.fetches with
    | [] => m
    | (n, g) :: r =>
      let was := (part m p).det.diverged
      let m := onDet p (fun x => { x with replay := some { j with fetches := r } }) m
      if g = d then m
      else
        let m := bump .detDiverge (iPart p) (onDet p (fun x => { x with
          diverged := true, divEntry := if was then x.divEntry else n }) m)
        if was then m else raiseEvt 0x0041 0 (iPart p) n m

/-! ### Provenance -/

/-- The bytes of a provenance record (Table 15-3). -/
def provRecord (fz : Fuses) (m : Mach) (p kind first last : Nat) (noJournal : Bool) (wset input : Digest) : List Byte :=
  let prog := ((planOf m p).map (fun pl => pl.digest)).getD 0
  leBytes 1 1 ++ leBytes 1 kind ++ leBytes 1 (b2n noJournal) ++ zeros 1 ++ leBytes 6 first ++ leBytes 6 last
    ++ digestBytes prog ++ digestBytes wset ++ digestBytes input ++ (digestBytes (configDigest fz m p)).take 16

/-- CONSUMED of a ring in the host window (R582). -/
def consumed (m : Mach) (ring : Nat) : Nat := ofLe (peeks m.mem.host ring 8)

/-- A record created under its index (R646, R651, R652): written into the ring, and the batch closes when it is full. -/
def createRecord (p index : Nat) (l : List Byte) (m : Mach) : Mach :=
  match (part m p).prov.cfg with
  | none => m
  | some c =>
    if !c.enable ∨ c.ringEntries = 0 then m
    else
      let n := index - 1
      let m := if consumed m c.ringAddr + c.ringEntries ≤ n then bump .provLost (iPart p) m else m
      let m := pokeHost (c.ringAddr + 64 + 128 * (n % c.ringEntries)) l m
      let m := bump .provRecords (iPart p) (onProv p (fun x => { x with batch := insertRecord index l x.batch }) m)
      if c.batch ≤ (part m p).prov.batch.length then (closeBatch p m).1 else m

/-- The index of the next record, which is taken. -/
def takeIndex (p : Nat) (m : Mach) : Nat × Mach :=
  ((part m p).prov.next, onProv p (fun x => { x with next := (x.next + 1) % 2 ^ 64 }) m)

/-- The STEPS record at the end of a step (R647). -/
def stepsRecord (fz : Fuses) (p n : Nat) (m : Mach) : Mach :=
  let q := part m p
  match q.prov.cfg with
  | none => m
  | some c =>
    if c.enable && c.span ≠ 0 && (n + 1) % c.span == 0 then
      let (i, m) := takeIndex p m
      let l := provRecord fz m p 1 q.prov.nextStep n (!q.det.journal) (wsetOf m p)
        (if q.det.journal then q.det.chain else 0)
      createRecord p i l (onProv p (fun x => { x with nextStep := n + 1 }) m)
    else m

end Sys2Proof.Machine
end

