-- ==== Sys2Proof/Machine/Halts.lean ====
section
/-! DEFINITION. Halts (00 R15 to R18, 07 R304 to R317): the fault record, the order of halts, the halt of a
partition. -/

namespace Sys2Proof.Machine

/-! ### Halts (00, 07) -/

/-- Where a halt is raised, and with what detail; `causes` replaces the hold causes asserted now (15 R670). -/
structure HaltAt where
  reason : Nat
  die : Nat
  queue : Nat
  unit : Nat
  pidx : Nat
  cycle : Int
  iaddr : Option Nat
  subcode : Nat
  arg : Nat
  station : Bool
  issuer : Option (Nat × Nat)
  causes : Option Nat := none

/-- The order of halts of one partition (R17, R150): cycle, die, stations before edge stations, physical
index or unit code, queue. -/
def FaultRec.before (a b : FaultRec) : Bool :=
  if a.cycle ≠ b.cycle then decide (a.cycle < b.cycle)
  else if a.die ≠ b.die then decide (a.die < b.die)
  else
    let edge (r : FaultRec) : Nat := b2n (r.pidx == 0xFF)
    let place (r : FaultRec) : Nat := if r.pidx = 0xFF then r.unit else r.pidx
    if edge a ≠ edge b then decide (edge a < edge b)
    else if place a ≠ place b then decide (place a < place b)
    else decide (a.queue < b.queue)

/-- The bytes of a fault record (Table 7-6) with the secondary count at the time it is read. -/
def FaultRec.bytes (r : FaultRec) (secondary : Nat) : List Byte :=
  leBytes 1 r.reason ++ leBytes 1 (1 + 2 * b2n r.iaddrValid + 4 * b2n r.stationValid)
    ++ leBytes 2 r.module ++ leBytes 1 (pack [(2, r.queue), (2, r.part), (2, r.die)] 0)
    ++ leBytes 1 r.unit ++ leBytes 1 r.pidx ++ leBytes 1 r.causes ++ leBytes 6 r.step
    ++ leBytes 1 r.cls ++ leBytes 1 r.profile ++ leBytes 4 (twos 32 r.cycle) ++ leBytes 4 r.iaddr
    ++ leBytes 8 (pack [(16, r.subcode), (48, r.arg)] 0) ++ leBytes 8 r.mtime ++ leBytes 6 secondary
    ++ leBytes 1 ((r.issuer.map (fun i => i.2)).getD 0)
    ++ leBytes 1 ((r.issuer.map (fun i => 128 + i.1)).getD 0) ++ leBytes 16 r.plan

/-- The 64 bytes that FAULT_READ returns: zero while no halt has occurred (R314). -/
def faultBytes (m : Mach) (p : Nat) : List Byte :=
  match (part m p).fault with
  | some r => r.bytes (ctr m .seqSecondary (iPart p) 0).count
  | none => zeros 64

/-- Causes asserted now, as the mask of Table 7-6. -/
def causeMask (m : Mach) (p : Nat) : Nat :=
  match (part m p).hold with
  | some h => (List.range 6).foldl (fun a k =>
      a + (if (openCauses h).any (fun c => c.code == k) then 2 ^ k else 0)) 0
  | none => 0

/-- The fault record of a halt. -/
def recordOf (fz : Fuses) (p : Nat) (h : HaltAt) (m : Mach) : FaultRec :=
  { reason := h.reason, iaddrValid := h.iaddr.isSome, stationValid := h.station
    module := m.moduleId, die := h.die, part := p, queue := h.queue, unit := h.unit, pidx := h.pidx
    causes := h.causes.getD (causeMask m p), step := (part m p).step, cls := classIdx m p (part m p).step
    profile := pack [(1, b2n fz.b0), (1, b2n (isH6 m p)),
      (2, ((varOf m p).map (fun v => lprofCode v.lprof)).getD 0)] 0
    cycle := h.cycle, iaddr := h.iaddr.getD 0, subcode := h.subcode, arg := h.arg % 2 ^ 48
    mtime := nowNs m, issuer := h.issuer
    plan := ((planOf m p).map (fun pl => ofLe ((digestBytes pl.digest).take 16))).getD 0 }

/-- The code of a halt's partition state: the cycle at which a halt that no unit times falls: the stop
cycle of the hold in force, else pre-step cycle −6 between steps (R346), else the given cycle. -/
def stopCycle (m : Mach) (p : Nat) (c : Int) : Int :=
  match (part m p).hold with
  | some h =>
    if h.carried then (if (part m p).inStep then c else -6) else if c < h.stop then c else h.stop
  | none => if (part m p).inStep then c else -6

/-- The HALT event of a record (Table 19-2, R820): ARG is its first eight bytes. -/
def haltEvent (p : Nat) (r : FaultRec) (m : Mach) : Mach :=
  let l := r.bytes (ctr m .seqSecondary (iPart p) 0).count
  raiseWith 0x0001 2 (iPart p) (leAt l 0 8) l m

/-- The HALT event carries the record as it is settled (R317): while halts of the last cycles still come, the waiting
event and the report that has not left yet (R821) take its new contents. -/
def resettle (p : Nat) (old new : List Byte) (m : Mach) : Mach :=
  let event (e : Evt) : Evt :=
    if e.code = 1 ∧ e.inst = iPart p ∧ e.arg = leAt old 0 8 then { e with arg := leAt new 0 8 } else e
  let report (o : Output) : Output :=
    match o with
    | .report code l => if l.drop 32 = old then .report code (l.take 24 ++ new.take 8 ++ new) else o
    | _ => o
  { m with wins := m.wins.map (fun y => (y.1, { y.2 with waiting := y.2.waiting.map event })), out := m.out.map report }

/-- The cycle before which a partition that has halted in a cycle stops: 6 cycles later, or where a hold, the end of the step or
an earlier halt has stopped it (R18, R304). A record is settled then. -/
def haltStop (m : Mach) (p : Nat) (c : Int) : Int :=
  let q := part m p
  let at_ : Int := if !q.inStep then -6
    else match q.hold with
      | some h => if h.carried then c + 6 else h.stop
      | none => q.lastStop.getD (c + 6)
  if at_ < c + 6 then at_ else c + 6

/-- A halt of the partition (R17, R18, R304): the first one halts the plan, fills the primary record and
floods MEMBER_HALT for the open collectives (R506, R507; a COLLECTIVE_ABORT does so for the others), closes the
open batch (R652), disarms a truncation that is not reached (R669) and ends the FENCE of a teardown (R718); one that
comes before it in the order of R17, raised in a cycle before the partition stopped, takes its place; every halt outside the
primary record is counted, and so is one that follows a truncation point (R666, R667). -/
def haltPart (fz : Fuses) (p : Nat) (h : HaltAt) (m : Mach) : Mach :=
  let r := recordOf fz p h m
  match (part m p).fault with
  | none =>
    let x := (part m p).det
    let after := decide (2 ≤ x.trunc) && h.reason != 0x11
      && decide (((x.point.map (fun t => t.cycle)).getD 0 : Int) ≤ h.cycle)
    if after then bump .seqSecondary (iPart p) m
    else if runs m p then
      let m := onPart p (fun q => { q with st := .halted, fault := some r }) (haltEvent p r m)
      let m := (closeBatch p m).1
      let m := onDet p (fun x => { x with trunc := 0, point := none }) m
      let m := onPart p (fun q => if q.sec.phase = 1 then
        { q with sec := { q.sec with phase := 2, fenceEnd := m.clk.wall } } else q) (usePorts p m)
      if h.reason = 0x12 then floodHalt p (some (h.arg / 2 ^ 24 % 256)) m else floodHalt p none m
    else m
  | some f =>
    let old := faultBytes m p
    let m := bump .seqSecondary (iPart p) m
    if h.cycle < haltStop m p f.cycle then
      let m := if r.before f then onPart p (fun q => { q with fault := some r }) m else m
      resettle p old (faultBytes m p) m
    else m

end Sys2Proof.Machine
end

