-- ==== Sys2Proof/Machine/Routes.lean ====
section
/-! DEFINITION. Sending and forwarding (11): placing a packet on its route, the held store, ordered packets of a
pair, aborts of a member, requests replayed, and a port that goes down (10 R438 to R442). -/

namespace Sys2Proof.Machine

/-! ### Aborts -/

/-- A FORCED halt (19 R817, R818), in the logical cycle at which the partition stops. -/
def forceHalt (fz : Fuses) (p sub arg : Nat) (cycle : Int) (m : Mach) : Mach :=
  haltPart fz p { reason := 0x10, die := p, queue := 3, unit := 0, pidx := 0xFF, cycle := stopCycle m p cycle
                  iaddr := none, subcode := sub, arg := arg, station := false, issuer := none } m

/-- A partition becomes an origin or receives an abort first (R507, R509): a member halts if its plan runs, and
sends the abort on; one that a truncation point has stopped ends its settling instead (15 R668). -/
def abortMember (fz : Fuses) (p : Nat) (a : Abort) (m : Mach) : Mach :=
  let m :=
    if !memberOf m p a.coll then m
    else if 2 ≤ (part m p).det.trunc then onDet p (fun x => { x with settleEnd := m.clk.wall }) m
    else if runs m p then
      haltPart fz p { reason := 0x12, die := p, queue := 3, unit := 0, pidx := 0xFF
                      cycle := stopCycle m p (cycleNow m p), iaddr := none, subcode := a.cause
                      arg := pack [(14, a.mod), (2, a.die), (8, a.coll), (8, 0), (16, a.step)] 0
                      station := false, issuer := none } m
    else m
  floodAbort p a m

/-- A free number (a counter of the model tells the draws apart). -/
def draw (m : Mach) : Nat × Mach := (Config.choice m.freeCtr, { m with freeCtr := m.freeCtr + 1 })

/-- A packet with COLL set finds no route (R484, R506): a member floods, a relay answers on the arrival port; a
relay knows neither index nor digest of the plan, which are free values (log 17). -/
def collNoRoute (fz : Fuses) (d : Nat) (t from_ : Option Nat) (h : Header) (m : Mach) : Mach :=
  let member := t.bind (fun p => ((collOf m p h.xfer).filter (memberFor m p)).map (fun c => (p, c)))
  match member, from_ with
  | some (p, c), _ =>
    abortMember fz p { cause := 1, mod := m.moduleId, die := d, coll := c.index, step := (part m p).step % 65536 } m
  | none, none => m
  | none, some k =>
    match sealSlot m (portDie k) (port m k).peerMod (portDie (port m k).peerPort) with
    | none => m
    | some s =>
      let (i, m) := draw m
      let (dig, m) := draw m
      sendLocal k (some s)
        (abortBytes { cause := 1, mod := m.moduleId, die := d, coll := i % 256, step := h.step } (leBytes 16 dig)) m

/-! ### Placing -/

/-- A packet on its route (R477, R478, R484), with the table that routes it. -/
def place (fz : Fuses) (d : Nat) (t : Option Nat) (o : OutPkt) (m : Mach) : Mach :=
  let h := o.hdr
  match routeOf m t h with
  | some y => leave d t o y m
  | none => if h.coll then o.freePool (collNoRoute fz d t o.came h m) else hold d t o m

/-- The table that routes a packet in the store of a port (R476). -/
def storeTable (m : Mach) (k : Nat) (h : Header) : Option Nat :=
  if h.srcMod = m.moduleId then some (partOf m h.srcDie) else arrivalTable m k

/-- An accepted packet as one that goes through. -/
def InPkt.through (i : InPkt) (via : Bool) : OutPkt :=
  { pkt := i.pkt, cls := if i.pkt.hdr.escaped then 3 else i.pkt.hdr.cls, came := some i.port, viaIn := via
    pool := if i.pooled then some (i.cls, units i.pkt.size) else none }

/-- An arrived packet that is not for this module (R476 to R479, R484), its HOPS raised: it waits for its output
port, or in the held store. -/
def forward (fz : Fuses) (i : InPkt) (m : Mach) : Mach :=
  let d := portDie i.port
  let t := arrivalTable m i.port
  let h := i.pkt.hdr
  match routeOf m t h with
  | some (k, relay) =>
    let hdr := if relay then h.setFlag 0 else h
    onPort k (fun q => { q with fwd := q.fwd ++ [{ i with pkt := { i.pkt with hdr := hdr }, viaIn := h.viaRelay }] })
      (noteLate d t h m)
  | none => if h.coll then freePool i (collNoRoute fz d t (some i.port) h m) else hold d t (i.through h.viaRelay) m

/-! ### Ordered packets (R487) -/

/-- An epoch of a slot has carried C0 traffic (R709). -/
def markC0 (d slot e : Nat) (m : Mach) : Mach :=
  if slot = 0 then m else onSlot d slot (fun f => f.onEp e (fun x => { x with c0 := true })) m

/-- A packet of a pair and class is sent: it takes the send PSEQ; without a pair entry it is discarded. -/
def sendPair (fz : Fuses) (d cls : Nat) (h : Header) (payload : List Byte) (src : Option (Nat × Nat)) (m : Mach) :
    Mach :=
  let pr := pairOf m d h.dstMod h.dstDie
  if !pr.live then bump .rteRemoteDrop (iDie d) m
  else
    let n := (pr.cls cls).send
    let m := onPair d h.dstMod h.dstDie (fun x => x.onCls cls (fun y => { y with send := n + 1 })) m
    let m := if cls = 0 then markC0 d h.keyslot h.keyEpoch m else m
    place fz d (some (partOf m d))
      { pkt := mkPacket { h with cls := cls, pseq := n % 65536 } payload, cls := cls, ext := n, src := src } m

/-! ### Requests (R499 to R503) -/

/-- The TAGs that a die may not use towards a destination now (R499). -/
def tagsInUse (m : Mach) (d mod peer : Nat) : List Nat :=
  let x := die m d
  ((x.tags.filter (fun y => y.1 == mod && y.2.1 == peer && decide (m.clk.wall < y.2.2.2 + 2000000))).map (fun y => y.2.2.1))
  ++ (x.reqs.map (fun r => r.pkt.hdr.tag))

/-- The lowest TAG that a die may use towards a destination. -/
def freeTag (m : Mach) (d mod peer : Nat) : Nat :=
  let l := tagsInUse m d mod peer
  (((List.range (l.length + 1)).map (fun i => i + 1)).find? (fun t => !l.contains t)).getD 1

/-- The payload of a READ_REQ (Table 11-8). -/
def readBytes (addr len reply : Nat) : List Byte :=
  leBytes 6 addr ++ zeros 2 ++ leBytes 4 len ++ zeros 2 ++ leBytes 6 reply ++ zeros 12

/-- A request issued (R497, R499): a READ_REQ of 32 bytes to the host gateway of a member, of which the manual leaves the
addresses to firmware (free values, log 192). -/
def issueAsk (fz : Fuses) (d : Nat) (a : Ask) (m : Mach) : Mach :=
  let (addr, m) := draw m
  let (reply, m) := draw m
  let (slot, e) := (sealSlot m d a.mod a.die).getD (0, 0)
  let tag := freeTag m d a.mod a.die
  let n := ((pairOf m d a.mod a.die).cls 1).send
  let h : Header := { newHdr m d 0xF0 with
    dstMod := a.mod, dstDie := a.die, dstUnit := 0xF8, op := 2, cls := 1, keyslot := slot, keyEpoch := e, tag := tag
    addr := addr % 2 ^ 43 * 32 }
  let body := readBytes (addr % 2 ^ 43 * 32) 32 (reply % 2 ^ 48)
  let k := ((routeOf m (some (partOf m d)) h).map (fun x => x.1)).getD (2 * d)
  let r : Request := { pkt := mkPacket { h with pseq := n % 65536 } body, ext := n, replays := 0, sentAt := m.clk.wall
                       port := k, via := some a.via }
  sendPair fz d 1 h body none (onDie d (fun x => { x with
    reqs := x.reqs ++ [r]
    tags := x.tags.filter (fun y => decide (m.clk.wall < y.2.2.2 + 2000000)) ++ [(a.mod, a.die, tag, m.clk.wall)] }) m)

/-- Requests that wait are issued while fewer than 256 are outstanding (R499); `fuel` bounds their number. -/
def issueFrom (fz : Fuses) (d : Nat) : Nat → Mach → Mach
  | 0, m => m
  | fuel + 1, m =>
    match (die m d).asks with
    | [] => m
    | a :: r =>
      if 256 ≤ (die m d).reqs.length then m
      else issueFrom fz d fuel (issueAsk fz d a (onDie d (fun x => { x with asks := r }) m))

/-- The requests of a die that may be issued. -/
def issueAsks (fz : Fuses) (d : Nat) (m : Mach) : Mach := issueFrom fz d (die m d).asks.length m

/-- Requests that the work of a command asks for. -/
def askAll (fz : Fuses) (d : Nat) (l : List Ask) (m : Mach) : Mach :=
  issueAsks fz d (onDie d (fun x => { x with asks := x.asks ++ l }) m)

/-- Requests of a command's work are outstanding or wait to be issued. -/
def asksLeft (m : Mach) (d : Nat) (v : Via) : Bool :=
  (die m d).asks.any (fun a => a.via == v) || (die m d).reqs.any (fun r => r.via == some v)

/-- The replay of a request: the same TAG and PSEQ with RETRY set, by the route in force. -/
def resend (fz : Fuses) (d : Nat) (r : Request) (m : Mach) : Mach :=
  let h := (r.pkt.hdr.setFlag 2)
  let pkt : Packet := { r.pkt with hdr := { h with epoch := b2n (part m (partOf m d)).rte.epoch }.seal }
  let k := ((routeOf m (some (partOf m d)) pkt.hdr).map (fun x => x.1)).getD r.port
  let r' : Request := { r with pkt := pkt, replays := r.replays + 1, sentAt := m.clk.wall, port := k }
  place fz d (some (partOf m d)) { pkt := pkt, cls := pkt.hdr.cls, ext := r.ext }
    (onDie d (fun x => { x with reqs := x.reqs.map (fun y => if y = r then r' else y) }) m)

/-! ### Down -/

/-- A port has nothing left of what an active port holds. -/
def Port.reset (q : Port) : Port :=
  { q with width := 3, lanes := 0, store := [], ahead := [], ctl := [], req := none, op := none
           retrain := false, timer := none, expiries := 0, peerDoze := false, slowKeep := false, crDue := 0
           ackDue := false, fresh := false, c2Log := [], c2Ahead := 0, ctlAhead := 0 }

/-- The members of the collectives of a partition that a lost port cuts off (Table 11-9, cause 2). -/
def memberLost (fz : Fuses) (p k mod : Nat) (m : Mach) : Mach :=
  let h : Header := { newHdr m (portDie k) 0 with dstMod := mod }
  if !runs m p || (routeOf m (some p) h).isSome then m
  else
    ((collsOf m p).filter (fun c => memberFor m p c && c.has mod)).foldl (fun m c =>
      abortMember fz p { cause := 2, mod := m.moduleId, die := portDie k, coll := c.index
                         step := (part m p).step % 65536 } m) m

/-- A port goes down (R438, R439): its packets move to the second link (R441, R442), its requests are replayed
(R500), the collectives that lose a member abort. -/
def downPort (fz : Fuses) (k cause : Nat) (fromEq : Bool) (m : Mach) : Mach :=
  let q := port m k
  if q.st = 0 ∨ q.st = 8 then m
  else
    let d := portDie k
    let p := partOf m d
    let wasUp := q.active
    let m := onPort k (fun x => { x.reset with st := 8, cause := cause, downAt := m.clk.wall, fromEq := fromEq
                                               fwd := [] }) m
    let m := raiseEvt 0x0010 1 (iPort k) cause (bump .lrkDowns (iPort k) m)
    let m := (q.store ++ q.ahead).foldl (fun m o =>
      place fz d (match o.came with
        | some j => arrivalTable m j
        | none => storeTable m k o.pkt.hdr) { o with lseq := none, again := false } m) m
    let m := q.fwd.foldl (fun m i =>
      forward fz (if i.viaIn then i else { i with pkt := { i.pkt with hdr := i.pkt.hdr.dropFlag 0 } }) m) m
    let m := (((die m d).reqs).filter (fun r => r.port == k && decide (r.replays < 3))).foldl
      (fun m r => resend fz d r m) m
    if wasUp then memberLost fz p k q.peerMod m else m

end Sys2Proof.Machine
end

