-- ==== Sys2Proof/Machine/Mailbox.lean ====
section
/-! DEFINITION. Mailboxes (17 R726 to R741): completion of a command, the caller policy table, the checks that every
command passes first, the scan of a window, and the status block. -/

namespace Sys2Proof.Machine

/-! ### Completion -/

/-- Status codes (Table 17-4), in order from 0. -/
inductive Status where
  | ok | unknownCommand | badState | denied | range | stale | full | noSpace | ioError | holdupLow
  | digestMismatch | planMismatch | configMismatch | journalInvalid | manifestInvalid | keyMismatch
  | authFail | aborted | timeUnset | weightsInvalid | loadRejected | badFormat | imageInvalid | rollback
  deriving DecidableEq, Repr

/-- The code of a status. -/
def Status.code (s : Status) : Nat := s.ctorIdx

/-- The window of a caller. -/
def callerWin (c : Caller) : Nat :=
  match c with
  | .pwin p => p.val
  | _ => 4

/-- RLEN of a response; where the manual lays out no bytes it is a free value (log 18). -/
def respLen (r : Resp) (m : Mach) : Nat × Mach :=
  match r with
  | .empty => (0, m)
  | .bytes l => (l.length, m)
  | .fields _ => let (n, m) := draw m; (n % 4097, m)

/-- A bit of a mask cleared. -/
def dropBit (x i : Nat) : Nat := if bitAt x i then x - 2 ^ i else x

/-- A bit of a mask set. -/
def putBit (x i : Nat) : Nat := if bitAt x i then x else x + 2 ^ i

/-- A slot completed (R733): STATUS, RLEN and DONE_AT, then OWN 0, then the mailbox interrupt (R749, R751). -/
def completeSlot (w i : Nat) (st : Status) (detail : Nat) (r : Resp) (m : Mach) : Mach :=
  let (n, m) := respLen r m
  let now := nowNs m
  let irq := bitAt (tget {} (win m w).slots i).flags 0
  let m := onWin w (fun x => { x with
    busy := dropBit x.busy i
    slots := tmod {} x.slots i (fun s => { s with
      own := 0, status := st.code, detail := detail, rlen := n, doneAt := now, resp := r }) }) m
  if irq then interrupt w 0 m else m

/-- A command completed (R733; R740 for the management network). -/
def complete (v : Via) (st : Status) (detail : Nat) (r : Resp) (m : Mach) : Mach :=
  match v.caller with
  | .mgmt => { m with out := m.out ++ [.mgmt st.code detail m.mgmtTag r] }
  | .journal => m
  | c => completeSlot (callerWin c) v.slot.val st detail r m

/-- A command completed with a status and nothing else. -/
def answer (v : Via) (st : Status) (m : Mach) : Mach := complete v st 0 .empty m

/-! ### Journalled commands (15 R659, R662) -/

/-- The payload bytes that a command was taken with. -/
def payloadOf (m : Mach) (v : Via) : List Byte :=
  (tget {} (win m (callerWin v.caller)).slots v.slot.val).payload

/-- A journalled command is refused in replay unless the journal gives it (R662), and outside it when the journal is
nearly full (R659). -/
def journalRefuses (m : Mach) (p : Nat) (v : Via) : Bool :=
  let x := (part m p).det
  if v.caller = .journal then false else x.replay.isSome || (x.journal && x.jfull)

/-- A journalled command refused. -/
def refuseJournalled (p : Nat) (v : Via) (m : Mach) : Mach :=
  let x := (part m p).det
  answer v .badState (if x.replay.isNone then bump .detRefused (iPart p) m else m)

/-! ### Checks that every command passes first -/

/-- The caller is one that holds the operator's authority (Table 17-6). -/
def callerOperator (c : Caller) : Bool :=
  match c with
  | .mwin | .mgmt => true
  | _ => false

/-- Table 17-7: a command of a code that names a partition is allowed to a caller. -/
def allowed (m : Mach) (c : Caller) (p : Option Nat) (code : Nat) : Bool :=
  match c with
  | .journal => true
  | .pwin q =>
    let own : Bool := p == none || p == some q.val
    match code / 256 with
    | 1 => [0x101, 0x103, 0x104, 0x10B].contains code || own
    | 5 => [0x501, 0x502, 0x503, 0x504, 0x505, 0x506, 0x512, 0x513].contains code && own
    | 8 => code == 0x813
    | _ => own
  | _ =>
    match code / 256 with
    | 1 => [0x101, 0x102, 0x103, 0x104, 0x10B, 0x10C].contains code
    | 2 => [0x203, 0x204, 0x206, 0x207].contains code
        || (code == 0x205 && (match p with
            | some p => (part m p).st = .halted
            | none => false))
    | 3 => false
    | 4 => [0x404, 0x406].contains code
    | 5 => code != 0x513
    | 6 => [0x604, 0x606].contains code
    | 7 => [0x703, 0x704].contains code
    | _ => true

/-- The commands that R681 accepts for an OPEN partition only. -/
def needsOpen (code : Nat) : Bool :=
  code == 0x201 || [3, 4, 6].contains (code / 256) || (code / 256 == 7 && code != 0x704)

/-- The commands that return a status (R791; log 19). -/
def statusCode (code : Nat) : Bool :=
  [0x101, 0x102, 0x10C, 0x204, 0x206, 0x305, 0x309, 0x406, 0x501, 0x506, 0x512, 0x606, 0x704, 0x802, 0x813, 0x901,
   0x902, 0x904, 0x906].contains code

/-- Why a command is refused before its own checks (R741, R791, R718, R681); a partition number that no die holds
is refused too. -/
def refused (m : Mach) (v : Via) (p : Option Nat) (code : Nat) : Option Status :=
  if !allowed m v.caller p code then some .denied
  else if (m.pwr.st == 2 || m.pwr.st == 3) && !statusCode code && code != 0x801 then some .badState
  else
    match p with
    | none => none
    | some p =>
      if (part m p).dies = [] then some .badState
      else if (part m p).sec.st = 3 && !([0x10C, 0x204, 0x206].contains code) then some .badState
      else if needsOpen code && (part m p).sec.st ≠ 2 then some .badState
      else none

/-- A command: nothing is served before READY (R752); its first checks; its own work. -/
def command (v : Via) (p : Option Nat) (code : Nat) (body : Mach → Mach) (m : Mach) : Mach :=
  if m.boot ≠ 3 then m
  else
    match refused m v p code with
    | some st => answer v st m
    | none => body m

/-! ### The scan of a window (R730 to R739) -/

/-- The codes assigned (Table 0-9 and the tables it names). -/
def codeKnown (code : Nat) : Bool :=
  match code / 256 with
  | 1 => decide (0x101 ≤ code) && decide (code ≤ 0x10C)
  | 2 => decide (0x201 ≤ code) && decide (code ≤ 0x207)
  | 3 => decide (0x301 ≤ code) && decide (code ≤ 0x309)
  | 4 => decide (0x401 ≤ code) && decide (code ≤ 0x407)
  | 5 => (decide (0x501 ≤ code) && decide (code ≤ 0x506)) || (decide (0x510 ≤ code) && decide (code ≤ 0x514))
  | 6 => decide (0x601 ≤ code) && decide (code ≤ 0x607)
  | 7 => decide (0x701 ≤ code) && decide (code ≤ 0x704)
  | 8 => (decide (0x801 ≤ code) && decide (code ≤ 0x804)) || (decide (0x810 ≤ code) && decide (code ≤ 0x814))
  | 9 => decide (0x901 ≤ code) && decide (code ≤ 0x906)
  | _ => false

/-- A store of host software to host memory; the reserved region is out of its reach (R728). -/
def hostStore (m : Mach) (h : HostStore) : Mach :=
  if h.addr + h.bytes.length ≤ 0x3F80000000 then pokeHost h.addr h.bytes m else m

/-- Host software posts or withdraws a slot (R729, R734); a slot that firmware has taken does not change. -/
def postSlot (w : Nat) (m : Mach) (p : SlotPost) : Mach :=
  if bitAt (win m w).busy p.slot.val then m
  else
    onWin w (fun x => { x with slots := tmod {} x.slots p.slot.val (fun s => { s with
      own := p.own, code := p.code, flags := p.flags + 256 * p.resv, plen := p.plen, tag := p.tag
      payload := p.payload.take p.plen, takenAt := 0 }) }) m

/-- The time at which a slot is taken (Table 17-3). -/
def stampTaken (w i : Nat) (m : Mach) : Mach :=
  let now := nowNs m
  onWin w (fun x => { x with busy := putBit x.busy i, slots := tmod {} x.slots i (fun s => { s with takenAt := now }) }) m

/-- A posted slot is taken (R730 to R732, R20). -/
def takeSlot (w : Nat) (m : Mach) (i : Nat) : Mach :=
  let s := tget {} (win m w).slots i
  if s.own = 0 ∨ bitAt (win m w).busy i then m
  else if s.own ≠ 1 then completeSlot w i .badFormat 0 .empty m
  else if 1 < s.flags ∨ 4096 < s.plen then completeSlot w i .badFormat 0 .empty (stampTaken w i m)
  else if !codeKnown s.code then completeSlot w i .unknownCommand 0 .empty (stampTaken w i m)
  else stampTaken w i m

/-- SEQ_STEP.STATE of a plan state (Table 7-11). -/
def PlanState.code (s : PlanState) : Nat := s.ctorIdx

/-- The status block written at a scan (Table 17-5, R739). -/
def statusBlock (w : Nat) (m : Mach) : Mach :=
  let q := part m w
  let now := nowNs m
  onWin w (fun x => { x with status := {
    boot := m.boot, heartbeat := x.status.heartbeat + 1, scanMtime := now, busy := x.busy, module := m.moduleId
    pstate := if w < 4 then q.sec.st else 0xFF
    planState := if w < 4 then q.st.code else 0xFF
    step := if w < 4 then q.step else 0
    fwVersion := m.fw.runVersion, fwSvn := m.fw.runSvn, events := x.waiting.length } }) m

/-- MAILBOX_SCAN: what host software stored and posted since the last scan, then the slots in ascending order. -/
def mailboxScan (w : Nat) (posts : List SlotPost) (stores : List HostStore) (m : Mach) : Mach :=
  let m := posts.foldl (postSlot w) (stores.foldl hostStore m)
  if m.boot ≠ 3 then m
  else statusBlock w ((List.range 32).foldl (takeSlot w) m)

/-- MAILBOX_SCAN. -/
def execMailboxScan (w : Fin 5) (posts : List SlotPost) (stores : List HostStore) (s : State) :
    Host.Outcome State Fault Refusal :=
  run s (fun _ => mailboxScan w.val posts stores)

/-- MGMT_COMMAND (R740): a slot image from the management network; its command follows as a command of the caller
MGMT. -/
def mgmtCommand (clientOk : Bool) (p : SlotPost) (m : Mach) : Mach :=
  if m.boot ≠ 3 ∨ clientOk = false then m
  else
    let m := { m with mgmtTag := p.tag }
    let v : Via := { caller := .mgmt, slot := p.slot }
    if p.own ≠ 1 ∨ p.resv ≠ 0 ∨ 1 < p.flags ∨ 4096 < p.plen then answer v .badFormat m
    else if !codeKnown p.code then answer v .unknownCommand m
    else m

/-- MGMT_COMMAND. -/
def execMgmtCommand (clientOk : Bool) (post : SlotPost) (s : State) : Host.Outcome State Fault Refusal :=
  run s (fun _ => mgmtCommand clientOk post)

end Sys2Proof.Machine
end

