-- ==== Sys2Proof/Machine/Numerics.lean ====
section
/-! DEFINITION. Number formats, exact values, rounding and the flags that each rounding gives
(03 Table 3-6, 04 R158 to R161 and R199 to R202, 05 R210 and R222, 06 R242 to R249). -/

namespace Sys2Proof.Machine

/-! ### Exact values -/

/-- A value: NaN, an infinity, or (−1)^neg · m · 2^e. -/
inductive Num where
  | nan
  | inf (neg : Bool)
  | fin (neg : Bool) (m : Nat) (e : Int)
  deriving DecidableEq, Repr

/-- A signed integer times a power of two. -/
def ofInt (v : Int) (e : Int) : Num := .fin (decide (v < 0)) v.natAbs e

/-- The signed mantissa. -/
def signed (neg : Bool) (m : Nat) : Int := if neg then -(m : Int) else (m : Int)

/-- Zero of either sign. -/
def Num.isZero : Num → Bool
  | .fin _ 0 _ => true
  | _ => false

/-- Finite. -/
def Num.isFin : Num → Bool
  | .fin _ _ _ => true
  | _ => false

/-- NaN. -/
def Num.isNan : Num → Bool
  | .nan => true
  | _ => false

/-- The negation. -/
def Num.negate : Num → Num
  | .nan => .nan
  | .inf n => .inf (!n)
  | .fin n m e => .fin (!n) m e

/-- The exact product; an infinity times zero is NaN. -/
def Num.mul : Num → Num → Num
  | .nan, _ => .nan
  | _, .nan => .nan
  | .inf a, .inf b => .inf (a != b)
  | .inf a, .fin b m _ => if m = 0 then .nan else .inf (a != b)
  | .fin a m _, .inf b => if m = 0 then .nan else .inf (a != b)
  | .fin a m e, .fin b n f => .fin (a != b) (m * n) (e + f)

/-- The exact sum; infinities of both signs give NaN, and a zero sum is +0 unless both terms are −0. -/
def Num.add : Num → Num → Num
  | .nan, _ => .nan
  | _, .nan => .nan
  | .inf a, .inf b => if a = b then .inf a else .nan
  | .inf a, .fin _ _ _ => .inf a
  | .fin _ _ _, .inf b => .inf b
  | .fin a m e, .fin b n f =>
    let g := if e ≤ f then e else f
    let v := signed a m * (2 ^ (e - g).toNat : Nat) + signed b n * (2 ^ (f - g).toNat : Nat)
    if v = 0 then .fin (a && b) 0 g else .fin (decide (v < 0)) v.natAbs g

/-- The exact order of two finite or infinite values as integers on one scale: −1, 0 or 1, with
−0 = +0; NaN compares with nothing. -/
def Num.cmp : Num → Num → Option Int
  | .nan, _ => none
  | _, .nan => none
  | .inf a, .inf b => some (if a = b then 0 else if a then -1 else 1)
  | .inf a, .fin _ _ _ => some (if a then -1 else 1)
  | .fin _ _ _, .inf b => some (if b then 1 else -1)
  | .fin a m e, .fin b n f =>
    let g := if e ≤ f then e else f
    let v := signed a m * (2 ^ (e - g).toNat : Nat) - signed b n * (2 ^ (f - g).toNat : Nat)
    some (if v < 0 then -1 else if v = 0 then 0 else 1)

/-- The sign bit. -/
def Num.isNeg : Num → Bool
  | .nan => false
  | .inf n => n
  | .fin n _ _ => n

/-- ⌊log2 |x|⌋ of a finite nonzero value. -/
def expOf (m : Nat) (e : Int) : Int := (Nat.log2 m : Int) + e

/-- ⌊x / 2^A⌋ and whether it is exact (R178, R222). -/
def floorUnits (neg : Bool) (m : Nat) (e a : Int) : Int × Bool :=
  let k := e - a
  if 0 ≤ k then (signed neg m * (2 ^ k.toNat : Nat), true)
  else
    let d : Nat := 2 ^ (-k).toNat
    (signed neg m / (d : Int), m % d == 0)

/-! ### Flags -/

/-- Flags that roundings and operations raise. -/
structure Fl where
  inexact : Bool := false
  sat : Bool := false
  ovf : Bool := false
  invalid : Bool := false
  divz : Bool := false
  deriving DecidableEq, Repr

/-- Flags of either. -/
def Fl.or (a b : Fl) : Fl :=
  { inexact := a.inexact || b.inexact, sat := a.sat || b.sat, ovf := a.ovf || b.ovf
    invalid := a.invalid || b.invalid, divz := a.divz || b.divz }

/-! ### Formats (Table 3-6) -/

/-- What the top exponent of a floating-point format means. -/
inductive Top where
  | ieee | e4m3 | finite
  deriving DecidableEq, Repr

/-- A floating-point format: width, exponent bits, mantissa bits, top exponent. -/
structure FFmt where
  w : Nat
  eb : Nat
  mb : Nat
  top : Top
  deriving DecidableEq, Repr

/-- The exponent bias. -/
def FFmt.bias (f : FFmt) : Int := (2 ^ (f.eb - 1) : Nat) - 1

/-- FP32. -/
def fp32 : FFmt := { w := 32, eb := 8, mb := 23, top := .ieee }

/-- BF16. -/
def bf16 : FFmt := { w := 16, eb := 8, mb := 7, top := .ieee }

/-- FP64. -/
def fp64 : FFmt := { w := 64, eb := 11, mb := 52, top := .ieee }

/-- FP8 E4M3. -/
def e4m3 : FFmt := { w := 8, eb := 4, mb := 3, top := .e4m3 }

/-- The floating-point format of a code, the element format for a code with MX scaling. -/
def ffmt (code : Nat) : Option FFmt :=
  match code with
  | 0x01 | 0x11 => some { w := 4, eb := 2, mb := 1, top := .finite }
  | 0x02 | 0x12 => some { w := 6, eb := 2, mb := 3, top := .finite }
  | 0x03 | 0x13 => some { w := 6, eb := 3, mb := 2, top := .finite }
  | 0x04 | 0x14 => some e4m3
  | 0x05 | 0x15 => some { w := 8, eb := 5, mb := 2, top := .ieee }
  | 0x07 => some bf16
  | 0x08 => some { w := 16, eb := 5, mb := 10, top := .ieee }
  | 0x09 => some fp32
  | 0x0A => some fp64
  | _ => none

/-- The width of an integer format. -/
def ifmt (code : Nat) : Option Nat :=
  match code with
  | 0x06 => some 8
  | 0x0B => some 32
  | 0x0C => some 16
  | 0x0D => some 4
  | _ => none

/-- A code of Table 3-6. -/
def assigned (code : Nat) : Bool :=
  (decide (1 ≤ code) && decide (code ≤ 0x0E)) || (decide (0x11 ≤ code) && decide (code ≤ 0x15))

/-- A code with MX scaling. -/
def isMx (code : Nat) : Bool := decide (0x11 ≤ code) && decide (code ≤ 0x15)

/-- Element width in bits (Table 6-1). -/
def width (code : Nat) : Nat :=
  match code with
  | 0x01 | 0x0D | 0x11 => 4
  | 0x02 | 0x03 | 0x12 | 0x13 => 6
  | 0x04 | 0x05 | 0x06 | 0x14 | 0x15 => 8
  | 0x07 | 0x08 | 0x0C => 16
  | 0x09 | 0x0B => 32
  | 0x0A => 64
  | 0x0E => 256
  | _ => 0

/-- The value that the bits of a floating-point element spell. -/
def decodeF (f : FFmt) (bits : Nat) : Num :=
  let neg := bitAt bits (f.w - 1)
  let x := field bits (f.w - 2) f.mb
  let m := bits % 2 ^ f.mb
  let top := 2 ^ f.eb - 1
  if f.top = .ieee ∧ x = top then (if m = 0 then .inf neg else .nan)
  else if f.top = .e4m3 ∧ x = top ∧ m = 2 ^ f.mb - 1 then .nan
  else if x = 0 then .fin neg m (1 - f.bias - f.mb)
  else .fin neg (m + 2 ^ f.mb) ((x : Int) - f.bias - f.mb)

/-- The value that an element of a code spells; LA-256 elements are integers here (R210). -/
def decodeE (code bits : Nat) : Num :=
  match ffmt code, ifmt code with
  | some f, _ => decodeF f bits
  | _, some w => ofInt (sext w bits) 0
  | _, _ =>
    let v := sext 256 bits
    if v = -(2 ^ 255 : Nat) then .nan
    else if v = -(2 ^ 255 : Nat) + 1 then .inf true
    else if v = (2 ^ 255 : Nat) - 1 then .inf false
    else ofInt v 0

/-- A value times 2^k. -/
def Num.scale (k : Int) : Num → Num
  | .fin n m e => .fin n m (e + k)
  | v => v

/-- An element under an E8M0 scale (R161). -/
def scaledBy (s : Nat) (v : Num) : Num := if s = 0xFF then .nan else v.scale ((s : Int) - 127)

/-! ### Rounding -/

/-- Rounding modes: nearest even, toward zero, stochastic with the 32 bits of R248. -/
inductive Rnd where
  | rne
  | rtz
  | sto (r : Nat)
  deriving DecidableEq, Repr

/-- n / 2^k rounded (magnitudes), and whether that changed it. -/
def roundShift (r : Rnd) (n k : Nat) : Nat × Bool :=
  let t := n / 2 ^ k
  let rem := n % 2 ^ k
  if rem = 0 then (t, false)
  else
    let up := match r with
      | .rtz => false
      | .rne => decide (2 ^ k < 2 * rem) || (decide (2 ^ k = 2 * rem) && t % 2 == 1)
      | .sto x => decide (x * 2 ^ k < rem * 2 ^ 32)
    (if up then t + 1 else t, true)

/-- A magnitude m · 2^e rounded to a multiple of 2^q. -/
def roundAt (r : Rnd) (m : Nat) (e q : Int) : Nat × Bool :=
  if q ≤ e then (m * 2 ^ (e - q).toNat, false) else roundShift r m (q - e).toNat

/-- The NaN encoding of a floating-point format (R201, Table 6-4). -/
def nanBits (f : FFmt) : Nat :=
  match f.top with
  | .e4m3 => 0x7F
  | .finite => 0
  | .ieee => if f.eb = 5 ∧ f.mb = 2 then 0x7E else (2 ^ f.eb - 1) * 2 ^ f.mb + 2 ^ (f.mb - 1)

/-- The sign bit of a format in place. -/
def signBit (f : FFmt) (neg : Bool) : Nat := b2n neg * 2 ^ (f.w - 1)

/-- The largest finite magnitude of a format: its bits without the sign. -/
def maxBits (f : FFmt) : Nat :=
  match f.top with
  | .ieee => (2 ^ f.eb - 1) * 2 ^ f.mb - 1
  | .e4m3 => 2 ^ (f.eb + f.mb) - 2
  | .finite => 2 ^ (f.eb + f.mb) - 1

/-- The infinity of a format; formats without one give the NaN of E4M3 or the largest finite value. -/
def infBits (f : FFmt) : Nat :=
  match f.top with
  | .ieee => (2 ^ f.eb - 1) * 2 ^ f.mb
  | .e4m3 => 0x7F
  | .finite => maxBits f

/-- The bits of a rounded magnitude t · 2^q, with q at or above the quantum of subnormals and t at most
2^(mb+1); `none` if it lies above the largest finite magnitude. -/
def encodeMag (f : FFmt) (t : Nat) (q : Int) : Option Nat :=
  let (t, q) := if 2 ^ (f.mb + 1) ≤ t then (t / 2, q + 1) else (t, q)
  let b := if t < 2 ^ f.mb then t else ((q + f.mb + f.bias).toNat) * 2 ^ f.mb + (t - 2 ^ f.mb)
  if b ≤ maxBits f ∧ q + f.mb + f.bias < (2 ^ f.eb : Nat) then some b else none

/-- A finite value rounded once to a floating-point format (R199, R200, R242, R248). -/
def roundF (f : FFmt) (r : Rnd) (neg : Bool) (m : Nat) (e : Int) : Nat × Fl :=
  if m = 0 then (signBit f neg, {})
  else
    let qmin := 1 - f.bias - f.mb
    let q0 := expOf m e - f.mb
    let q := if q0 < qmin then qmin else q0
    let (t, inexact) := roundAt r m e q
    match encodeMag f t q with
    | some b => (signBit f neg + b, { inexact := inexact })
    | none =>
      let b := match f.top, r with
        | .ieee, .rtz => maxBits f
        | .ieee, _ => infBits f
        | _, _ => maxBits f
      (signBit f neg + b, { inexact := true, ovf := true })

/-- A value rounded to a floating-point format as arithmetic gives it: the NaN and infinities of the
format (R195, R242). -/
def encodeF (f : FFmt) (r : Rnd) (x : Num) : Nat × Fl :=
  match x with
  | .nan => (nanBits f, {})
  | .inf n => (if f.top = .e4m3 then infBits f else signBit f n + infBits f, {})
  | .fin n m e => roundF f r n m e

/-- A finite value rounded to an integer. -/
def roundI (r : Rnd) (neg : Bool) (m : Nat) (e : Int) : Int × Bool :=
  let (t, inexact) := roundAt r m e 0
  (signed neg t, inexact)

/-- An integer saturated to w bits, and whether that changed it (R243). -/
def satI (w : Nat) (v : Int) : Int × Bool :=
  if v < -(2 ^ (w - 1) : Nat) then (-(2 ^ (w - 1) : Nat), true)
  else if (2 ^ (w - 1) : Nat) - 1 < v then ((2 ^ (w - 1) : Nat) - 1, true)
  else (v, false)

/-- FP32 under RNE. -/
def rne32 (x : Num) : Nat × Fl := encodeF fp32 .rne x

/-! ### LA-256 (05) -/

/-- The LA-256 encodings of NaN, −∞ and +∞ (R210). -/
def laNan : Int := -(2 ^ 255 : Nat)
/-- −∞. -/
def laNinf : Int := -(2 ^ 255 : Nat) + 1
/-- +∞. -/
def laPinf : Int := (2 ^ 255 : Nat) - 1

/-- A finite LA-256 value. -/
def laFinite (v : Int) : Bool := decide (-(2 ^ 255 : Nat) + 2 ≤ v) && decide (v ≤ (2 ^ 255 : Nat) - 2)

/-- Flags of INS_LAFLAGS: LA_OVF, LA_INVALID, LA_INEXACT. -/
structure LaFl where
  ovf : Bool := false
  invalid : Bool := false
  inexact : Bool := false
  deriving DecidableEq, Repr

/-- Flags of either. -/
def LaFl.or (a b : LaFl) : LaFl :=
  { ovf := a.ovf || b.ovf, invalid := a.invalid || b.invalid, inexact := a.inexact || b.inexact }

/-- The three flags as bits of INS_LAFLAGS (Table 5-3). -/
def LaFl.bits (a : LaFl) : BitVec 3 := BitVec.ofNat 3 (pack [(1, b2n a.inexact), (1, b2n a.invalid), (1, b2n a.ovf)] 0)

/-- The LA-256 add (Table 5-2). -/
def laAdd (d e : Int) : Int × LaFl :=
  if d = laNan ∨ e = laNan then (laNan, {})
  else if (d = laPinf ∧ e = laNinf) ∨ (d = laNinf ∧ e = laPinf) then (laNan, { invalid := true })
  else if d = laPinf ∨ e = laPinf then (laPinf, {})
  else if d = laNinf ∨ e = laNinf then (laNinf, {})
  else if laFinite (d + e) then (d + e, {})
  else (laNan, { ovf := true })

/-- A value formed into an LA-256 element of effective anchor E (R222); no anchor for a NONFINITE row
or column. -/
def toLa (anchor : Option Int) (x : Num) : Int × LaFl :=
  match anchor with
  | none => (laNan, {})
  | some a =>
    match x with
    | .nan => (laNan, {})
    | .inf n => (if n then laNinf else laPinf, {})
    | .fin n m e =>
      let (v, exact) := floorUnits n m e a
      if laFinite v then (v, { inexact := !exact }) else (laNan, { ovf := true, inexact := !exact })

/-- An LA-256 element read under an effective anchor (R212, R213). -/
def ofLa (anchor : Option Int) (v : Int) : Num :=
  match anchor with
  | none => .nan
  | some a =>
    if v = laNan then .nan
    else if v = laNinf then .inf true
    else if v = laPinf then .inf false
    else ofInt v a

/-! ### Elements in bytes (R159) -/

/-- Halves of each byte, low first. -/
def nibbles : List Byte → List Nat
  | [] => []
  | b :: r => b.toNat % 16 :: b.toNat / 16 :: nibbles r

/-- Four 6-bit elements of three bytes. -/
def sextets (l : List Byte) : List Nat :=
  let x := ofLe l
  [x % 64, x / 64 % 64, x / 4096 % 64, x / 262144 % 64]

/-- The elements of width w that bytes hold. -/
def unpackE (w : Nat) (l : List Byte) : List Nat :=
  if w = 4 then nibbles l
  else if w = 6 then (chunks 3 l.length l).flatMap sextets
  else (chunks (w / 8) l.length l).map ofLe

/-- Pairs of nibbles as bytes. -/
def packNibbles : List Nat → List Byte
  | [] => []
  | [a] => [BitVec.ofNat 8 a]
  | a :: b :: r => BitVec.ofNat 8 (a % 16 + 16 * b) :: packNibbles r

/-- Elements of width w as bytes. -/
def packE (w : Nat) (l : List Nat) : List Byte :=
  if w = 4 then packNibbles l
  else if w = 6 then (chunks 4 l.length l).flatMap (fun g =>
    leBytes 3 (g.getD 0 0 % 64 + 64 * (g.getD 1 0 % 64) + 4096 * (g.getD 2 0 % 64) + 262144 * (g.getD 3 0 % 64)))
  else l.flatMap (leBytes (w / 8))

/-! ### Stochastic rounding bits (R248) -/

/-- mix of R248. -/
def srMix (z : BitVec 64) : BitVec 64 :=
  let z := (z ^^^ (z >>> 30)) * 0xBF58476D1CE4E5B9#64
  let z := (z ^^^ (z >>> 27)) * 0x94D049BB133111EB#64
  z ^^^ (z >>> 31)

/-- srbits of R248. -/
def srBits (seed : BitVec 64) (step : Nat) (tensor : BitVec 32) (index : BitVec 64) : Nat :=
  let g : BitVec 64 := 0x9E3779B97F4A7C15#64
  let h := srMix (seed + g * (BitVec.ofNat 64 step + 1))
  let h := srMix (h + g * (tensor.setWidth 64 + 1))
  let h := srMix (h + g * (index + 1))
  (h >>> 32).toNat

end Sys2Proof.Machine
end

