-- ==== Sys2Proof/Machine/Operands.lean ====
section
/-! DEFINITION. The instruction word (03 Tables 3-2, 3-3, 3-7 to 3-10): fields of every operand form,
the used bits of every instruction, and the row of the command table an instruction belongs to. -/

namespace Sys2Proof.Machine

/-! ### Common fields (Table 3-2) -/

/-- OPCODE, bits [127:120]. -/
def wOp (w : Nat) : Nat := field w 127 120
/-- DELTA. -/
def wDelta (w : Nat) : Nat := field w 119 104
/-- XFER. -/
def wXfer (w : Nat) : Nat := field w 103 99
/-- BEAT. -/
def wBeat (w : Nat) : Nat := field w 98 96

/-! ### MX operands (Table 3-7) -/

/-- B of MX.LOADW, A of MX.MMA, D of MX.DRAIN; A of every VX opcode; LOC of MV and LK. -/
def w95 (w : Nat) : Nat := field w 95 81
/-- B_RP, A_RP of MX; WP of MX.DRAIN. -/
def mxRp (w : Nat) : Nat := field w 80 79
/-- S. -/
def mxS (w : Nat) : Nat := field w 78 64
/-- S_RP. -/
def mxSrp (w : Nat) : Nat := field w 63 62
/-- FMT, FMT_A. -/
def mxFmt (w : Nat) : Nat := field w 61 57
/-- ACC of MX.MMA. -/
def mmaAcc (w : Nat) : Nat := field w 56 55
/-- MODE of MX.MMA: FLOAT. -/
def mmaFloat (w : Nat) : Bool := bitAt w 54
/-- AUTO of MX.MMA. -/
def mmaAuto (w : Nat) : Bool := bitAt w 53
/-- CLR of MX.MMA. -/
def mmaClr (w : Nat) : Bool := bitAt w 52
/-- TRAP of MX.MMA. -/
def mmaTrap (w : Nat) : Bool := bitAt w 51
/-- ANCHOR of MX.MMA. -/
def mmaAnchor (w : Nat) : Int := sext 12 (field w 50 39)
/-- FMT_OUT of MX.DRAIN. -/
def drFmt (w : Nat) : Nat := field w 78 74
/-- ACC of MX.DRAIN. -/
def drAcc (w : Nat) : Nat := field w 73 72
/-- RND of MX.DRAIN. -/
def drRnd (w : Nat) : Nat := field w 71 70

/-! ### VX operands (Table 3-8) -/

/-- B. -/
def vxB (w : Nat) : Nat := field w 80 66
/-- D. -/
def vxD (w : Nat) : Nat := field w 65 51
/-- C. -/
def vxC (w : Nat) : Nat := field w 50 42
/-- LEN. -/
def vxLen (w : Nat) : Nat := field w 41 30
/-- FUNC. -/
def vxFunc (w : Nat) : Nat := field w 29 26
/-- FMT. -/
def vxFmt (w : Nat) : Nat := field w 25 21
/-- RND. -/
def vxRnd (w : Nat) : Nat := field w 20 19
/-- A_RP. -/
def vxArp (w : Nat) : Nat := field w 18 17
/-- B_RP. -/
def vxBrp (w : Nat) : Nat := field w 16 15
/-- WP. -/
def vxWp (w : Nat) : Nat := field w 14 13

/-! ### MV and LK operands (Table 3-9) -/

/-- LEN of MV and LK. -/
def mvLen (w : Nat) : Nat := field w 80 69
/-- RP or WP of MV.SEND and MV.RECV. -/
def mvPort (w : Nat) : Nat := field w 68 67
/-- DIE of MV.SEND and MV.RECV. -/
def mvDie (w : Nat) : Nat := field w 66 65
/-- UNIT of MV.SEND and MV.RECV. -/
def mvUnit (w : Nat) : Nat := field w 64 57
/-- WOP of MV.RECV. -/
def mvWop (w : Nat) : Nat := field w 56 54
/-- DESC of long-running instructions. -/
def mvDesc (w : Nat) : Nat := field w 68 63
/-- DIR of MV.DMA, MV.HOST, MV.CIST: out of the scratchpad. -/
def mvOut (w : Nat) : Bool := bitAt w 62
/-- WH of MV.DMA. -/
def dmaWh (w : Nat) : Nat := field w 61 58
/-- TAP of MV.DMA. -/
def dmaTap (w : Nat) : Nat := field w 57 56
/-- PORT of MV.DMA. -/
def dmaPort (w : Nat) : Nat := field w 55 54
/-- MODE of MV.DMA. -/
def dmaMode (w : Nat) : Nat := field w 53 50
/-- HADDR of MV.DMA. -/
def dmaHaddr (w : Nat) : Nat := field w 49 21
/-- PORT of MV.HOST and MV.CIST. -/
def hcPort (w : Nat) : Nat := field w 61 60
/-- ADDR of MV.HOST and MV.CIST. -/
def hcAddr (w : Nat) : Nat := field w 59 29
/-- RP of LK.INJECT, WP of LK.EXPECT. -/
def lkPort (w : Nat) : Nat := field w 62 61
/-- LINK. -/
def lkLink (w : Nat) : Nat := field w 60 59
/-- TMPL of LK.INJECT. -/
def lkTmpl (w : Nat) : Nat := field w 58 51
/-- AOFS of LK.INJECT. -/
def lkAofs (w : Nat) : Nat := field w 50 27
/-- XFER16 of LK.INJECT. -/
def injXfer (w : Nat) : Nat := field w 26 11
/-- XFER16 of LK.EXPECT. -/
def expXfer (w : Nat) : Nat := field w 58 43
/-- SRC_MOD of LK.EXPECT. -/
def expMod (w : Nat) : Nat := field w 42 29

/-! ### SB and CT operands (Table 3-10) -/

/-- DESC of SB.CLOSE. -/
def sbDesc (w : Nat) : Nat := field w 95 90
/-- COUNT of CT.LOOP. -/
def ctCount (w : Nat) : Nat := field w 95 80
/-- CNT of CT.LOOPR and CT.SETCNT. -/
def ctCnt (w : Nat) : Nat := field w 95 93
/-- CLOSE of CT.GATE. -/
def gateClose (w : Nat) : Bool := bitAt w 95
/-- BUDGET. -/
def gateB (w : Nat) : Nat := field w 94 71
/-- LIMIT. -/
def gateL (w : Nat) : Nat := field w 70 47
/-- ADD of CT.STAMP. -/
def stampAdd (w : Nat) : Bool := bitAt w 95
/-- VALUE of CT.STAMP. -/
def stampVal (w : Nat) : Nat := field w 94 90
/-- VALUE of CT.SETCNT. -/
def setVal (w : Nat) : Nat := field w 92 61
/-- Q of CT.FETCH. -/
def fetQ (w : Nat) : Nat := field w 95 94
/-- SRC of CT.FETCH. -/
def fetSrc (w : Nat) : Nat := field w 93 79
/-- N of CT.FETCH. -/
def fetN (w : Nat) : Nat := field w 78 73
/-- RP of CT.FETCH. -/
def fetRp (w : Nat) : Nat := field w 72 71

/-! ### Queues -/

/-- Code of a queue: 0 MX, 1 VX, 2 MV. -/
def qCode (q : Queue) : Nat :=
  match q with
  | .mx => 0
  | .vx => 1
  | .mv => 2

/-- The queue of a station. -/
def Station.queue (s : Station) (q : Queue) : QueueSt :=
  match q with
  | .mx => s.mx
  | .vx => s.vx
  | .mv => s.mv

/-- Changing a queue of a station. -/
def Station.onQueue (q : Queue) (f : QueueSt → QueueSt) (s : Station) : Station :=
  match q with
  | .mx => { s with mx := f s.mx }
  | .vx => { s with vx := f s.vx }
  | .mv => { s with mv := f s.mv }

/-- The instruction buffer of a queue. -/
def Station.ibuf (s : Station) (q : Queue) : IBuf :=
  match q with
  | .mx => s.ibufMx
  | .vx => s.ibufVx
  | .mv => s.ibufMv

/-- The queue that a code names. -/
def qOf (n : Nat) : Option Queue :=
  match n with
  | 0 => some .mx
  | 1 => some .vx
  | 2 => some .mv
  | _ => none

/-! ### Opcodes (Table 3-3) -/

/-- The opcodes of Table 3-3. -/
def opcodes : List Nat :=
  [0x11, 0x12, 0x13, 0x21, 0x22, 0x23, 0x24, 0x25, 0x26, 0x27, 0x28, 0x29, 0x31, 0x32, 0x33, 0x34] ++
  [0x35, 0x41, 0x50, 0x51, 0x52, 0x53, 0x54, 0x55, 0x56, 0x57, 0x58, 0x61, 0x62]

/-- Assigned, also under the plan's schedule profile (R93). -/
def opAssigned (h6 : Bool) (op : Nat) : Bool :=
  opcodes.contains op && !(h6 && (op == 0x25 || op == 0x29))

/-- The queue accepts the class (R89, Table 3-1). -/
def accepts (q : Queue) (op : Nat) : Bool :=
  let cls := op / 16
  cls == 4 || cls == 5 ||
  (match q with
   | .mx => cls == 1
   | .vx => cls == 2
   | .mv => cls == 3 || cls == 6)

/-- The instruction belongs to the VX class. -/
def isVx (op : Nat) : Bool := op / 16 == 2

/-- The bits that a VX instruction uses besides CLASS, OP and DELTA (Table 3-8 and 06). C of VX.OP counts as unused in the
functions that Table 6-2 says do not use it, and so do B and B_RP of a SELECT; with an unassigned FUNC the fields that some
function of the opcode uses count as used (DESIGN CHOICE, log 186). -/
def vxUsed (w : Nat) : Nat :=
  let a := span 95 81
  let b := span 80 66
  let d := span 65 51
  let c := span 50 42
  let len := span 41 30
  let func := span 29 26
  let fmt := span 25 21
  let rnd := span 20 19
  let arp := span 18 17
  let brp := span 16 15
  let wp := span 14 13
  let all := a + b + d + c + len + func + fmt + rnd + arp + brp + wp
  match wOp w with
  | 0x21 => if vxFunc w = 3 ∨ vxFunc w = 9 ∨ 9 < vxFunc w then all else all - c
  | 0x22 =>
    if vxFunc w = 0 then
      let la := vxFmt w = 0x0E ∨ vxC w % 32 = 0x0E
      if isMx (vxFmt w) ∨ la then all else all - b - brp
    else if vxFunc w = 1 ∨ vxFunc w = 2 then all - b - brp
    else all
  | 0x23 => all - b - c - brp
  | 0x24 => all - c - rnd
  | 0x25 => if vxFunc w = 0 then all - b - brp - rnd else all - rnd
  | 0x26 => all - c - rnd
  | 0x27 => if vxFunc w = 1 then a + len + func + arp else a + c + len + func + arp
  | 0x28 => a + arp + len + span 46 42 + span 53 51
  | 0x29 =>
    if vxFunc w = 0 then all - b - c - brp - rnd
    else if vxFunc w = 1 then all - c - wp - rnd
    else all - c - rnd
  | _ => all

/-- The used bits of an instruction (R14, R92). S and S_RP of MX.LOADW count as used for every format: a nonzero value is ignored
where the format has no MX scaling (DESIGN CHOICE, log 187). -/
def usedBits (w : Nat) : Nat :=
  let common := span 127 104
  match wOp w with
  | 0x11 => common + span 95 57
  | 0x12 => common + span 95 39
  | 0x13 => common + span 95 70
  | 0x31 => common + span 103 96 + span 95 57
  | 0x32 => common + span 103 96 + span 95 54
  | 0x33 => common + span 95 21
  | 0x34 => common + span 95 29
  | 0x35 => common + span 95 29
  | 0x61 => common + span 95 11
  | 0x62 => common + span 95 29
  | 0x41 => common + span 95 90
  | 0x51 => common + span 95 80
  | 0x52 => common + span 95 93
  | 0x54 => common + span 95 47
  | 0x55 => common + span 95 90
  | 0x56 => common + span 95 61
  | 0x57 => common + span 95 71
  | 0x21 | 0x22 | 0x23 | 0x24 | 0x25 | 0x26 | 0x27 | 0x28 | 0x29 => common + vxUsed w
  | _ => common

/-- The lowest nonzero reserved bit of an instruction (R14). -/
def reservedBit (w : Nat) : Option Nat :=
  lowestBit (w - maskBits 128 w (usedBits w)) 128 0

/-! ### Rows of the command table -/

/-- The commands of spec/opcode_table.json that are instructions of a queue. -/
inductive Row where
  | loadw | mma | drain
  | vxop | cvtConv | cvtBfsplit | cvtExpscan | cvtSplit | vxfunc | sumall | rowsum
  | topSelect | topMerge | vxstop | ocldLoad | ocldKey | cntld | amaxScan | amaxLoad
  | send | recv | dmaCopy | dmaDecode | dmaGather | dmaScore | dmaQload | dmaSgather
  | mvhost | mvcist | sbclose
  | wait | loop | loopr | endloop | gateOpen | gateClose | stamp | setcnt | fetch | stepend
  | inject | expect
  deriving DecidableEq, Repr

/-- The row of an instruction with an assigned opcode. A FUNC or MODE that no row names belongs to the
first row of its opcode, whose checks halt it (log 6). -/
def rowOf (w : Nat) : Option Row :=
  match wOp w with
  | 0x11 => some .loadw
  | 0x12 => some .mma
  | 0x13 => some .drain
  | 0x21 => some .vxop
  | 0x22 => some (match vxFunc w with
    | 1 => .cvtBfsplit
    | 2 => .cvtExpscan
    | 3 => .cvtSplit
    | _ => .cvtConv)
  | 0x23 => some .vxfunc
  | 0x24 => some (if vxFunc w = 1 then .rowsum else .sumall)
  | 0x25 => some (if vxFunc w = 1 then .topMerge else .topSelect)
  | 0x26 => some .vxstop
  | 0x27 => some (if vxFunc w = 1 then .ocldKey else .ocldLoad)
  | 0x28 => some .cntld
  | 0x29 => some (if vxFunc w = 1 then .amaxLoad else .amaxScan)
  | 0x31 => some .send
  | 0x32 => some .recv
  | 0x33 => some (match dmaMode w with
    | 1 | 2 | 3 => .dmaDecode
    | 4 => .dmaGather
    | 5 => .dmaScore
    | 6 => .dmaQload
    | 7 => .dmaSgather
    | _ => .dmaCopy)
  | 0x34 => some .mvhost
  | 0x35 => some .mvcist
  | 0x41 => some .sbclose
  | 0x50 => some .wait
  | 0x51 => some .loop
  | 0x52 => some .loopr
  | 0x53 => some .endloop
  | 0x54 => some (if gateClose w then .gateClose else .gateOpen)
  | 0x55 => some .stamp
  | 0x56 => some .setcnt
  | 0x57 => some .fetch
  | 0x58 => some .stepend
  | 0x61 => some .inject
  | 0x62 => some .expect
  | _ => none

end Sys2Proof.Machine
end

