-- ==== Sys2Proof/Machine/Scratch.lean ====
section
/-! DEFINITION. The scratchpad and the operand cache as a station reads and writes them: what a read in a
cycle sees (R54, R237), check codes (09 R375 to R383), flip masks (R406), accesses and their conflicts
(R51 to R53, R108). -/

namespace Sys2Proof.Machine

/-! ### What a read sees -/

/-- Bytes `base` at offset `off` with a write laid over them. -/
def overlay (base : List Byte) (off : Nat) (w : LateWrite) : List Byte :=
  let n := base.length
  let lo := if off ≤ w.off then w.off else off
  let hi := if off + n ≤ w.off + w.bytes.length then off + n else w.off + w.bytes.length
  if hi ≤ lo then base
  else base.take (lo - off) ++ (w.bytes.drop (lo - w.off)).take (hi - lo) ++ base.drop (hi - off)

/-- A write is seen by a read of cycle c (R54). A read in a queue's own count of cycles (R146) sees the
writes of its own count, and of the others only those from before the stop. -/
def seen (own : Option Nat) (c : Nat) (w : LateWrite) : Bool :=
  decide (w.cycle + w.delay ≤ c) &&
  (match own with
   | none => !w.own
   | some stop => w.own || decide (w.cycle < stop))

/-- A write put into the list of late writes, in order of cycle. -/
def addLate (w : LateWrite) : List LateWrite → List LateWrite
  | [] => [w]
  | x :: r => if w.cycle < x.cycle then w :: x :: r else x :: addLate w r

/-- n scratchpad bytes from an offset, within one beat, as a read of cycle c sees them. -/
def readScratch (m : Mach) (key : Nat) (own : Option Nat) (c off n : Nat) : List Byte :=
  ((stn m key).late.filter (seen own c)).foldl (fun l w => overlay l off w)
    (peeks m.mem.scratch (scratchAddr m key off) n)

/-- One operand-cache beat. -/
def readCache (m : Mach) (key : Nat) (own : Option Nat) (c beat : Nat) : List Byte :=
  ((stn m key).lateC.filter (seen own c)).foldl (fun l w => overlay l (128 * beat) w)
    (peeks m.mem.cache (cacheBase key + 128 * beat) 128)

/-! ### Check codes -/

/-- The write replaces the whole 64-bit word of that index (R383), or merges into it (R381). -/
def touches (w : LateWrite) (word : Nat) : Bool :=
  decide (w.off < 8 * word + 8) && decide (8 * word < w.off + w.bytes.length)

/-- The error mask of a stored word after a write: a written word has new check bits, and the flip mask
strikes the first one. -/
def errAfter (word : Nat) (e : BitVec 72) (w : LateWrite) : BitVec 72 :=
  if touches w word then (if word = w.off / 8 then w.flip else 0) else e

/-- The error mask of a scratchpad word as a read of cycle c meets it. -/
def wordErr (m : Mach) (key : Nat) (own : Option Nat) (c word : Nat) : BitVec 72 :=
  ((stn m key).late.filter (seen own c)).foldl (errAfter word) (tget 0 (stn m key).spErr ((stn m key).cell word))

/-- Number of set bits among the low n. -/
def popcount (x : Nat) : Nat → Nat
  | 0 => 0
  | n + 1 => b2n (bitAt x n) + popcount x n

/-- A word as it is delivered: with three or more errors that pass for one, free data (log 7). -/
def delivered (e : BitVec 72) (w : List Byte) : List Byte :=
  if popcount e.toNat 72 ≤ 2 then w else leBytes 8 (Config.eccBeyond (ofLe w) e.toNat)

/-- One scratchpad beat as a read of cycle c delivers it. -/
def readBeat (m : Mach) (key : Nat) (own : Option Nat) (c beat : Nat) : List Byte :=
  let l := readScratch m key own c (128 * beat) 128
  let s := stn m key
  if s.spErr = [] ∧ s.late.all (fun w => w.flip == 0) then l
  else (List.range 16).flatMap (fun i => delivered (wordErr m key own c (16 * beat + i)) ((l.drop (8 * i)).take 8))

/-- What a read finds of a word: sound, corrected, or uncorrectable (R375); beyond two bits the manual
says nothing and the choice is free (log 7). -/
inductive Check where
  | sound | corrected | bad
  deriving DecidableEq, Repr

/-- The check of an error mask. -/
def checkMask (e : BitVec 72) : Check :=
  match popcount e.toNat 72 with
  | 0 => .sound
  | 1 => .corrected
  | 2 => .bad
  | _ => if Config.eccBeyondSeen e.toNat then .bad else .corrected

/-- The words of a beat whose check gives a result, as positions 0 to 15. -/
def wordsThat (c : Check) (f : Nat → BitVec 72) (beat : Nat) : List Nat :=
  (List.range 16).filter (fun i => checkMask (f (16 * beat + i)) == c)

/-- Words as a mask. -/
def maskOf (l : List Nat) : Nat := l.foldl (fun a i => a + 2 ^ i) 0

/-- A record added to the fault history (R384, R391). -/
def record (h : HistRec) (m : Mach) : Mach := flashed { m with history := m.history ++ [h] }

/-- Records of the words of a beat of a slice; the operand cache has no remap entries (R388). -/
def recordWords (key beat what : Nat) (cache : Bool) (l : List Nat) (m : Mach) : Mach :=
  if cache then m
  else l.foldl (fun m i => record { kind := 0, place := key, unit := 16 * beat + i, what := what } m) m

/-- A correction becomes the recorded one unless that was made in a later cycle of the step (R378). -/
def EccLast.later (old new : EccLast) : EccLast := if old.valid && decide (new.cycle < old.cycle) then old else new

/-- Corrections of a read of a cycle (`none`: outside every cycle) counted and the last one recorded (R378, R391). -/
def noteCorrected (key : Nat) (src : Nat) (cache : Bool) (c : Option Nat) (beat : Nat) (l : List Nat) (m : Mach) : Mach :=
  match l.getLast? with
  | none => m
  | some i =>
    recordWords key beat 0 cache l
      (bumpBy .eccSpCe (iStn key) 0 l.length (onStn key (fun s => { s with
        eccLast := s.eccLast.later { cycle := c.getD s.eccLast.cycle, valid := true, src := src, cache := cache
                                     word := i, offset := 128 * beat } }) m))

/-- Uncorrectable words counted and recorded (R386, R391). -/
def noteBad (key : Nat) (cache : Bool) (beat : Nat) (l : List Nat) (m : Mach) : Mach :=
  if l = [] then m else recordWords key beat 1 cache l (bumpBy .eccSpUe (iStn key) 0 l.length m)

/-! ### Writes -/

/-- A write of whole 8-byte words. -/
def wholeWords (off n : Nat) : Bool := off % 8 == 0 && n % 8 == 0

/-- A write comes before the place of another, by cycle and then by port (R406). -/
def LateWrite.before (w : LateWrite) (y : Nat × Nat) : Bool :=
  decide (w.cycle < y.1) || (w.cycle == y.1 && decide (w.port < y.2))

/-- The write of the step that the flip mask has struck stands at that place. -/
def LateWrite.struckAt (w : LateWrite) (y : Nat × Nat) : Bool := w.cycle == y.1 && w.port == y.2 && w.flip != 0

/-- An armed flip mask strikes this write: none came before it since, or the one struck so far comes later in the step
(R406: the first write, and the lower port in one cycle). -/
def Station.strikes (s : Station) (w : LateWrite) : Bool :=
  s.flip.state == 1 || (s.flip.state == 2 && (match s.flip.struck with
    | some y => w.before y && s.late.any (fun x => x.struckAt y)
    | none => false))

/-- The station with its flip mask on a write, and on no other. -/
def Station.strike (s : Station) (w : LateWrite) : Station :=
  let spare (x : LateWrite) : LateWrite := match s.flip.struck with
    | some y => if x.struckAt y then { x with flip := 0 } else x
    | none => x
  { s with late := addLate { w with flip := s.flip.mask } (s.late.map spare)
           flip := { s.flip with state := 2, struck := some (w.cycle, w.port), firedAt := w.off / 8 * 8 } }

/-- A write made: kept among the late writes, struck by an armed flip mask (R406). -/
def writeScratch (key : Nat) (w : LateWrite) (m : Mach) : Mach :=
  onStn key (fun s => if s.strikes w then s.strike w else { s with late := addLate w s.late }) m

/-- Writes made in the order of their cycles and ports. -/
def writeAll (key : Nat) (l : List LateWrite) (m : Mach) : Mach :=
  (l.foldl (fun acc w => addLate w acc) []).foldl (fun m w => writeScratch key w m) m

/-- A late write becomes plain contents, with its words' check bits new. -/
def settle1 (key : Nat) (m : Mach) (w : LateWrite) : Mach :=
  let m := pokeScratch key w.off w.bytes m
  let words := (List.range (w.bytes.length / 8 + 2)).map (fun i => w.off / 8 + i)
  let cell := (stn m key).cell
  let strike (t : Table (BitVec 72)) (i : Nat) := tput 0 t (cell i) (errAfter i (tget 0 t (cell i)) w)
  onStn key (fun s => { s with spErr := (words.filter (touches w)).foldl strike s.spErr }) m

/-- The late writes that a test picks become plain contents. -/
def settleIf (key : Nat) (f : LateWrite → Bool) (m : Mach) : Mach :=
  let l := (stn m key).late
  let m := onStn key (fun s => { s with late := s.late.filter (fun w => !f w) }) m
  (l.filter f).foldl (settle1 key) m

/-- A late cache write becomes plain contents. -/
def settleC1 (key : Nat) (m : Mach) (w : LateWrite) : Mach :=
  let m := pokeCache key w.off w.bytes m
  let words := (List.range 16).map (fun i => w.off / 8 + i)
  onStn key (fun s => { s with ocErr := words.foldl tdel s.ocErr }) m

/-- The late cache writes that a test picks become plain contents. -/
def settleCIf (key : Nat) (f : LateWrite → Bool) (m : Mach) : Mach :=
  let l := (stn m key).lateC
  let m := onStn key (fun s => { s with lateC := s.lateC.filter (fun w => !f w) }) m
  (l.filter f).foldl (settleC1 key) m

/-- Every late write of a station becomes plain contents. -/
def settleStn (key : Nat) (m : Mach) : Mach := settleCIf key (fun _ => true) (settleIf key (fun _ => true) m)

/-! ### Accesses -/

/-- An access that an instruction makes: cycle, direction, port, beat, further cycles of its bank. -/
structure Access where
  cycle : Nat
  write : Bool
  port : Nat
  beat : Nat
  hold : Nat := 0
  deriving DecidableEq, Repr

/-- Bank of a beat (R46). -/
def bankOf (beat : Nat) : Nat := beat % 16

/-- The access as the station records it, for the instruction at a buffer offset. -/
def Access.record (q : Queue) (own : Option Nat) (iaddr : Nat) (a : Access) : Acc :=
  { cycle := a.cycle, write := a.write, port := a.port, bank := bankOf a.beat, hold := a.hold
    queue := qCode q, iaddr := iaddr
    own := match own with
      | none => false
      | some stop => decide (stop ≤ a.cycle) }

/-- Two accesses meet on a bank (R52, R53, R326). -/
def bankClash (a b : Acc) : Bool :=
  a.own == b.own && a.bank == b.bank &&
  decide (a.cycle ≤ b.cycle + b.hold) && decide (b.cycle ≤ a.cycle + a.hold)

/-- Two accesses meet on a port (R108). -/
def portClash (a b : Acc) : Bool :=
  a.own == b.own && a.write == b.write && a.port == b.port && a.cycle == b.cycle

/-- Two accesses meet on a bank or a port. -/
def anyClash (a b : Acc) : Bool := bankClash a b || portClash a b

/-- Cycle in which a clash of two accesses arises: that of the later one. -/
def clashCycle (a b : Acc) : Nat := if a.cycle ≤ b.cycle then b.cycle else a.cycle

/-- Clashes of new accesses with those recorded and among themselves: (cycle, subcode, argument). -/
def clashesOf (old : List Acc) : List Acc → List (Nat × Nat × Nat)
  | [] => []
  | a :: r =>
    (old ++ r).foldl (fun l b =>
      let l := if bankClash a b then (clashCycle a b, 2, a.bank) :: l else l
      if portClash a b then (clashCycle a b, 3, a.port) :: l else l) []
    ++ clashesOf old r

/-- The least pair in the order of R149: lowest subcode, then lowest argument. -/
def leastPair : List (Nat × Nat) → Option (Nat × Nat)
  | [] => none
  | x :: r =>
    match leastPair r with
    | none => some x
    | some y => some (if x.1 < y.1 ∨ (x.1 = y.1 ∧ x.2 ≤ y.2) then x else y)

/-- The conflict of the earliest cycle, and in it the one R108 and R149 name. -/
def firstClash (l : List (Nat × Nat × Nat)) : Option (Nat × Nat × Nat) :=
  match minOf (l.map (fun x => x.1)) with
  | none => none
  | some c => (leastPair ((l.filter (fun x => x.1 == c)).map (fun x => x.2))).map (fun y => (c, y))

end Sys2Proof.Machine
end

