-- ==== Sys2Proof/Machine/Footprint.lean ====
section
/-! DEFINITION. What each instruction is checked for and which beats it reads and writes in which cycles:
the conditions of Tables 3-13, 4-2, 4-6 and 6-10, the timing of 03, 04 and 06. -/

namespace Sys2Proof.Machine

/-- A cycle beyond every step. -/
def farAway : Nat := 2 ^ 40

/-! ### The place of a queue -/

/-- Entries before `pos` go when no open loop retains them (R88). -/
def QueueSt.trim (q : QueueSt) : QueueSt :=
  if q.loops = [] then { q with entries := q.entries.drop q.pos, pos := 0 } else q

/-- The queue after its next instruction, at entry `e`, has left (R88). -/
def QueueSt.advance (q : QueueSt) (e : QEntry) : QueueSt :=
  { q with pos := q.pos + 1, nextOff := e.off + 16 }.trim

/-- Nesting after an instruction of a skipped body (R133). -/
def skipNext (op n : Nat) : Nat :=
  match op with
  | 0x51 | 0x52 => n + 1
  | 0x53 => n - 1
  | _ => n

/-- The instructions of a skipped body that have entered the queue by a cycle are passed over (R133);
`fuel` bounds their number. -/
def passOver (upTo : Nat) : Nat → QueueSt → QueueSt
  | 0, q => q
  | fuel + 1, q =>
    if q.skip = 0 then q
    else
      match q.entries[q.pos]? with
      | none => q
      | some e =>
        if upTo < e.avail then q
        else passOver upTo fuel { q.advance e with skip := skipNext (wOp e.word.toNat) q.skip }

/-- The queue with every skipped instruction that it holds passed over. -/
def QueueSt.passed (q : QueueSt) : QueueSt := passOver farAway q.entries.length q

/-- Entries that a queue holds in a cycle (R88, R133). -/
def occAt (q : QueueSt) (c : Nat) : Nat := (passOver c q.entries.length q).entries.length

/-! ### Instructions -/

/-- The instruction at the head of a queue, where and when it issues. `own` is set while the queue runs
in its own count of cycles (R146): the cycle at which the partition stopped. `got` lists beats that it has read, `buf`
the matrix buffer that it uses, where these are known. -/
structure Ctx where
  fz : Fuses
  m : Mach
  p : Nat
  d : Nat
  unit : Nat
  pidx : Nat
  key : Nat
  q : Queue
  qs : QueueSt
  e : QEntry
  w : Nat
  c : Nat
  own : Option Nat
  got : List Got := []
  buf : Option Nat := none

/-- A beat as the instruction reads it in the cycle of its plan (R54). -/
def Ctx.beat (x : Ctx) (cache : Bool) (c b : Nat) : List Byte :=
  match x.got.find? (fun g => g.plan == c && g.beat == b && g.cache == cache) with
  | some g => g.bytes
  | none => if cache then readCache x.m x.key x.own c b else readBeat x.m x.key x.own c b

/-- A scratchpad beat as the instruction reads it. -/
def Ctx.read (x : Ctx) (c b : Nat) : List Byte := x.beat false c b

/-- What an instruction is checked for: OPERAND_RANGE conditions (subcode, argument), LOOP_NEST, the beat
ranges of its operands for bounds and regions, its accesses in time, its reads of the operand cache, the region it opens or closes, and
the checks of order 8 of R149 (reason, subcode, argument). -/
structure Spec where
  conds : List (Nat × Nat) := []
  nest : Bool := false
  reads : List (Nat × Nat) := []
  writes : List (Nat × Nat) := []
  acc : List Access := []
  creads : List (Nat × Nat) := []
  opens : Option (Nat × Nat × Nat) := none
  closes : Option Nat := none
  last : List (Nat × Nat × Nat) := []
  deriving DecidableEq, Repr

/-- A condition if a test holds. -/
def cond (b : Bool) (sub arg : Nat) : List (Nat × Nat) := if b then [(sub, arg)] else []

/-- FIELD_VALUE with the lowest bit of the field, if a test holds. -/
def fv (b : Bool) (arg : Nat) : List (Nat × Nat) := cond b 5 arg

/-- The station of the instruction. -/
def Ctx.st (x : Ctx) : Station := stn x.m x.key

/-- Reads of consecutive beats in given cycles. -/
def readsAt (port beat : Nat) (cycles : List Nat) : List Access :=
  (cycles.zipIdx).map (fun (c, j) => { cycle := c, write := false, port := port, beat := beat + j })

/-- Writes of given beats in given cycles. -/
def writesAt (port : Nat) (beats cycles : List Nat) (hold : Nat) : List Access :=
  (beats.zip cycles).map (fun (b, c) => { cycle := c, write := true, port := port, beat := b, hold := hold })

/-- Cycles c, c+1, … -/
def from_ (c n : Nat) : List Nat := (List.range n).map (fun j => c + j)

/-! ### Matrix engine (04) -/

/-- Beats of a 64 × 64 tile (Table 2-4). -/
def tileBeats (code : Nat) : Nat := 4 * width code

/-- FMT of MX.LOADW (R162). -/
def loadFmt (c : Nat) : Bool := (decide (1 ≤ c) && decide (c ≤ 8)) || isMx c

/-- The pair of an A and a B format stands in Table 4-1. -/
def pairOk (a b : Nat) : Bool :=
  let x := a % 16
  let y := b % 16
  loadFmt a && loadFmt b &&
  ((decide (2 ≤ x) && decide (x ≤ 5) && decide (1 ≤ y) && decide (y ≤ 5)) || (x == 1 && y == 1)
    || (decide (6 ≤ x) && x == y))

/-- D of Table 4-1 for an A format. -/
def mmaD (a : Nat) : Nat :=
  match a % 16 with
  | 1 => 32
  | 7 | 8 => 128
  | _ => 64

/-- The B buffer that an MX.MMA of cycle c uses (R166): of the latest load that is complete. -/
def mmaBuf (s : Station) (c : Nat) : Option Nat :=
  let ok (k : Nat) : Bool := (tget {} s.bbufs (k % 2)).valid && decide ((tget {} s.bbufs (k % 2)).complete ≤ c)
  if 1 ≤ s.loads ∧ ok (s.loads - 1) then some ((s.loads - 1) % 2)
  else if 2 ≤ s.loads ∧ ok (s.loads - 2) then some ((s.loads - 2) % 2)
  else none

/-- An accumulator set of a station. -/
def accSet (s : Station) (i : Nat) : AccSet := tget {} s.sets i

/-- MX.LOADW (R164, R169). -/
def specLoadw (x : Ctx) : Spec :=
  let w := x.w
  let f := mxFmt w
  let n := if loadFmt f then tileBeats f else 0
  let s := x.st
  let prev := tget {} s.bbufs ((s.loads + 1) % 2)
  let tgt := tget {} s.bbufs (s.loads % 2)
  let sc := if isMx f then 1 else 0
  { conds := fv (!loadFmt f) 57
      ++ fv ((decide (1 ≤ s.loads) && prev.valid && decide (x.c < prev.complete))
        || (tgt.valid && decide (x.c ≤ tgt.busy) && decide (1 ≤ tgt.busy))) 104
    reads := [(w95 w, n), (mxS w, sc)]
    acc := readsAt (mxSrp w) (mxS w) (from_ x.c sc) ++ readsAt (mxRp w) (w95 w) (from_ (x.c + 1) n) }

/-- The first latched field that differs (R175). -/
def latchDiff (w : Nat) (a : AccSet) : List (Nat × Nat) :=
  if mmaFloat w != a.isFloat then [(5, 54)]
  else if mmaAuto w != a.auto then [(5, 53)]
  else if mmaTrap w != a.trap then [(5, 51)]
  else if mmaAnchor w ≠ a.anchorField then [(5, 39)]
  else []

/-- MX.MMA (R162, R167, R169, R170, R174 to R176, R186, R193, R196). -/
def specMma (x : Ctx) : Spec :=
  let w := x.w
  let f := mxFmt w
  let s := x.st
  let a := accSet s (mmaAcc w)
  let b := mmaBuf s x.c
  let okF := loadFmt f && (match b with
    | some k => pairOk f (tget {} s.bbufs k).fmt
    | none => true)
  let n := if loadFmt f then tileBeats f else 0
  let sc := if isMx f then 1 else 0
  let dd := mmaD f
  { conds := fv (!okF) 57
      ++ fv (decide (x.c < s.mmaNext) || decide (x.c < a.drainEnd)) 104
      ++ cond b.isNone 0x13 0x12
      ++ (if mmaClr w then [] else
          if a.opened then latchDiff w a ++ cond (decide (2 ^ 26 ≤ a.count)) 0xB (2 ^ 26 + 1)
          else [(0x13, 0x12)])
      ++ fv (mmaAuto w && (decide (mmaAnchor w < -512) || decide (511 < mmaAnchor w))) 39
      ++ (if mmaFloat w then
          fv (f == 6) 54 ++ fv (mmaAuto w) 53 ++ fv (decide (mmaAnchor w ≠ 0)) 39 else [])
      ++ fv (mmaAuto w && isH6 x.m x.p) 53
    reads := [(w95 w, n), (mxS w, sc)]
    acc := readsAt (mxSrp w) (mxS w) (from_ x.c sc)
      ++ readsAt (mxRp w) (w95 w) ((List.range n).map (fun j => x.c + 1 + j * dd / n)) }

/-- FMT_OUT of MX.DRAIN (R198). -/
def drainFmt (isFloat : Bool) (c : Nat) : Bool :=
  [0x04, 0x05, 0x07, 0x08, 0x09, 0x0B].contains c || (c == 0x0E && !isFloat)

/-- The first output, in row-major order, that meets the condition of TRAP (R185). -/
def trapOutput (a : AccSet) : Option Nat :=
  a.outs.findIdx? (fun v => v.passed ||
    (!a.isFloat && v.tag == .num && (decide (v.v < -((2 ^ 95 : Nat) : Int)) || decide (((2 ^ 95 : Nat) : Int) - 1 < v.v))))

/-- MX.DRAIN (R168, R169, R185, R198, R861). An EMPTY set counts as ANCHORED, so that FMT_OUT 0x0E of one is UNMATCHED (DESIGN
CHOICE, log 185). -/
def specDrain (x : Ctx) : Spec :=
  let w := x.w
  let f := drFmt w
  let s := x.st
  let a := accSet s (drAcc w)
  let n := if drainFmt false f then tileBeats f else 0
  { conds := fv (decide (2 ≤ mxRp w)) 79 ++ fv (!drainFmt a.isFloat f) 74 ++ fv (decide (2 ≤ drRnd w)) 70
      ++ fv (decide (x.c < a.ready)
        || (List.range 4).any (fun i => decide (x.c < (accSet s i).drainEnd))) 104
      ++ cond (!a.opened) 0x13 0x13
    writes := [(w95 w, n)]
    acc := writesAt (mxRp w) (from_ (w95 w) n) (from_ (x.c + 4) n) 0
    last := if a.trap then
        match trapOutput a with
        | some i => [(0x0D, 0, drAcc w * 2 ^ 40 + i / 64 * 2 ^ 32 + i % 64 * 2 ^ 24)]
        | none => []
      else [] }

/-! ### Vector engine (06) -/

/-- Write cycles of R233: beat k no earlier than v + L + r_k and after beat k − 1. -/
def writeCycles (v l : Nat) : Nat → List Nat → List Nat
  | _, [] => []
  | prev, r :: rest =>
    let c := if prev + 1 ≤ v + l + r then v + l + r else prev + 1
    c :: writeCycles v l c rest

/-- Plan of a VX instruction under R233 to R235: conditions, run length n, source beats of A and whether
B is a stream, side beats at B, cache stream, destination beats in order, r_k of each, latency. -/
structure VxPlan where
  conds : List (Nat × Nat) := []
  n : Nat := 0
  nr : Nat := 0
  useB : Bool := false
  side : Nat := 0
  cache : Bool := false
  dst : List Nat := []
  deps : List Nat := []
  lat : Nat := 6

/-- Read cycle of source beat j as an offset (R233). -/
def srcOfs (n nr j : Nat) : Nat := j * n / nr

/-- The pipe that takes a VX instruction of cycle v, if one is free (R231). -/
def freePipe (s : Station) (v : Nat) : Option Bool :=
  if s.pipe0 ≤ v then some false else if s.pipe1 ≤ v then some true else none

/-- RND values (R247, R243): 3 never, and only 0 where it must be. -/
def rndBad (r : Nat) (must0 : Bool) : Bool := r == 3 || (must0 && r != 0)

/-- Element count, if it is whole (R232). -/
def elemCount (code len : Nat) : Option Nat :=
  if width code = 0 then none
  else if len * 1024 % width code = 0 then some (len * 1024 / width code) else none

/-- VX.OP (R236, R240, R241, R243). -/
def planOp (w : Nat) : VxPlan :=
  let f := vxFmt w
  let okF := [0x04, 0x05, 0x06, 0x07, 0x08, 0x09, 0x0B, 0x0C].contains f
  let n := vxLen w
  let useC := vxFunc w = 3 ∨ vxFunc w = 9
  { conds := fv (decide (9 < vxFunc w)) 26 ++ fv (!okF) 21
      ++ fv (rndBad (vxRnd w) (ifmt f).isSome) 19
      ++ fv (useC && decide (512 < vxC w + n)) 42 ++ fv (n == 0) 30
    n := n, nr := n, useB := true, cache := useC
    dst := from_ (vxD w) n, deps := List.range n }

/-- VX.FUNC (R262, R274, R310). -/
def planFunc (lp : LProf) (w : Nat) : VxPlan :=
  let n := vxLen w
  let f := vxFmt w
  { conds := fv (decide (3 < vxFunc w)) 26 ++ fv (!([0x07, 0x08, 0x09].contains f)) 21
      ++ fv (rndBad (vxRnd w) (f == 0x09)) 19 ++ fv (n == 0) 30
    n := n, nr := n, dst := from_ (vxD w) n, deps := List.range n
    lat := if vxFunc w = 3 ∧ lp ≠ .lpB0 then 14 else 12 }

/-- A tensor descriptor as read (R211 to R213). -/
structure TDesc where
  anchor : Int
  row : Option (List Int)
  col : Option (List Int)
  deriving DecidableEq, Repr

/-- Flag words of the descriptor at beat b. -/
def tdFlags (x : Ctx) (b : Nat) : Nat := leAt (x.read x.c b) 4 4

/-- Side beats of a descriptor: header, row exponents, column exponents. -/
def tdBeats (fl : Nat) : Nat := 1 + fl % 2 + fl / 2 % 2

/-- 64 signed 16-bit entries of a beat. -/
def halves (l : List Byte) : List Int := (chunks 2 64 l).map (fun x => sext 16 (ofLe x))

/-- The descriptor at beat b, its beats read in the issue cycle and the next two (R235). -/
def tdRead (x : Ctx) (b : Nat) : TDesc :=
  let h := x.read x.c b
  let fl := leAt h 4 4
  { anchor := sext 32 (leAt h 0 4)
    row := if fl % 2 = 1 then some (halves (x.read (x.c + 1) (b + 1))) else none
    col := if fl / 2 % 2 = 1 then some (halves (x.read (x.c + 1 + fl % 2) (b + 1 + fl % 2))) else none }

/-- The entry of a row or column beat is legal (R213). -/
def expOk (v : Int) : Bool := v == -32768 || (decide (-2048 ≤ v) && decide (v ≤ 2047))

/-- Byte offset of the first field of a descriptor outside Table 5-1 or R213 (R214), `noExp` where ROWEXP
and COLEXP must be 0 (R266); a beat outside the slice has no entry (R49). -/
def tdBad (x : Ctx) (b : Nat) (noExp : Bool) : Option Nat :=
  let h := x.read x.c b
  let t := tdRead x b
  let fl := leAt h 4 4
  let entries (b : Nat) (o : Option (List Int)) : List Int := if b < 32768 then o.getD [] else []
  if 32768 ≤ b then none
  else if t.anchor < -4096 ∨ 4095 < t.anchor then some 0
  else if 4 ≤ fl ∨ (noExp ∧ fl ≠ 0) then some 4
  else if (h.drop 8).any (fun x => x != 0) then some 8
  else
    match (entries (b + 1) t.row).findIdx? (fun v => !expOk v) with
    | some r => some (128 + 2 * r)
    | none =>
      ((entries (b + 1 + fl % 2) t.col).findIdx? (fun v => !expOk v)).map (fun r => 128 * (1 + fl % 2) + 2 * r)

/-- Effective anchor of element (r, c) (R212, R213); none if its row or column is NONFINITE. -/
def TDesc.at (t : TDesc) (r c : Nat) : Option Int :=
  let rx := (t.row.map (fun l => l.getD r 0)).getD 0
  let cx := (t.col.map (fun l => l.getD c 0)).getD 0
  if rx = -32768 ∨ cx = -32768 then none else some (t.anchor + rx + cx)

/-- Formats that CONV accepts as a pair (R252). -/
def convPair (s d : Nat) : Bool :=
  assigned s && assigned d && s != d && !((isMx s && d == 0x0E) || (s == 0x0E && isMx d))

/-- CONV (R252 to R257, R860). -/
def planConv (x : Ctx) : VxPlan :=
  let w := x.w
  let f := vxFmt w
  let t := vxC w % 32
  let la := f = 0x0E ∨ t = 0x0E
  let len := vxLen w
  let e := (elemCount f len).getD 0
  let wd := width t
  let mx4 := isMx f || isMx t
  let lenBad := len == 0 || (elemCount f len).isNone || (wd != 0 && e * wd % 1024 != 0)
    || (mx4 && e % 4096 != 0)
  let base := fv (!assigned f) 21 ++ fv (!convPair f t || (!la && decide (32 ≤ vxC w))) 42
    ++ fv (rndBad (vxRnd w) false) 19 ++ fv (assigned f && lenBad) 30
  let bad := if la then
      (match tdBad x (vxB w) false with
       | some o => [(5, 512 + o)]
       | none => [])
    else []
  if base.isEmpty then
    let nd := e * wd / 1024
    let nscale := if isMx t then e / 4096 else 0
    let side := if isMx f then e / 4096 else if la then tdBeats (tdFlags x (vxB w)) else 0
    let nw := nd + nscale
    let n := if len ≤ nw then nw else len
    let so := if side = 0 then 0 else side - 1
    let lastElem (k : Nat) : Nat :=
      let i := (1024 * (k + 1) - 1) / wd
      if isMx t then i / 32 * 32 + 31 else i
    let dep (k : Nat) : Nat :=
      let i := if k < nd then lastElem k else 4096 * (k - nd) + 4095
      let r := srcOfs n len (((i + 1) * width f - 1) / 1024)
      if r ≤ so then so else r
    { conds := bad, n := n, nr := len, side := side, dst := from_ (vxD w) nw
      deps := (List.range nw).map dep, lat := if mx4 || la then 8 else 6 }
  else { conds := base ++ bad, n := len, nr := len }

/-- BFSPLIT (R258, R259). -/
def planBfsplit (w : Nat) : VxPlan :=
  let len := vxLen w
  let p := vxC w
  let h := len / 2
  let nw := p * h
  { conds := fv (vxFmt w != 0x09) 21 ++ fv (p != 2 && p != 3) 42 ++ fv (vxRnd w != 0) 19
      ++ fv (len == 0 || len % 2 == 1) 30
    n := if len ≤ nw then nw else len, nr := len
    dst := (List.range nw).map (fun k => vxD w + k % p * h + k / p)
    deps := (List.range nw).map (fun k =>
      srcOfs (if len ≤ nw then nw else len) len (2 * (k / p) + 1)) }

/-- EXPSCAN (R260). -/
def planExpscan (w : Nat) : VxPlan :=
  let len := vxLen w
  { conds := fv (vxFmt w != 0x0A) 21 ++ fv (vxC w != 0) 42 ++ fv (vxRnd w != 0) 19 ++ fv (len != 256) 30
    n := len, nr := len, dst := [vxD w], deps := [len - 1], lat := 5 }

/-- SPLIT (R261). -/
def planSplit (w : Nat) : VxPlan :=
  let len := vxLen w
  let s := vxC w
  { conds := fv (vxFmt w != 0x0A) 21 ++ fv (s != 6 && s != 7) 42 ++ fv (vxRnd w != 0) 19
      ++ fv (len != 256) 30
    n := len, nr := len, side := 1
    dst := (List.range (32 * s)).map (fun k => vxD w + 32 * (k % s) + k / s) ++ [vxD w + 32 * s]
    deps := (List.range (32 * s)).map (fun k => 8 * (k / s) + 7) ++ [255], lat := 12 }

/-- VX.RED (R265, R266). -/
def planRed (x : Ctx) : VxPlan :=
  let w := x.w
  let f := vxFmt w
  let len := vxLen w
  let okF := [0x04, 0x05, 0x06, 0x07, 0x08, 0x09, 0x0A, 0x0B, 0x0C, 0x0E].contains f
  let e := (elemCount f len).getD 0
  let row := vxFunc w = 1
  let nw := if row then e / 256 else 1
  let bad := match tdBad x (vxB w) true with
    | some o => [(5, 512 + o)]
    | none => []
  { conds := fv (decide (1 < vxFunc w)) 26 ++ fv (!okF) 21
      ++ fv (len == 0 || (row && okF && e % 256 != 0)) 30 ++ bad
    n := if len ≤ nw then nw else len, nr := len, side := 1, dst := from_ (vxD w) nw
    deps := (List.range nw).map (fun k =>
      if row then srcOfs (if len ≤ nw then nw else len) len ((256 * (k + 1) * width f - 1) / 1024)
      else len - 1)
    lat := 10 }

/-- The specification of a planned VX instruction. -/
def specOfPlan (x : Ctx) (pl : VxPlan) : Spec :=
  let w := x.w
  let cyc := (List.range pl.nr).map (fun j => x.c + srcOfs pl.n pl.nr j)
  { conds := pl.conds ++ fv (freePipe x.st x.c).isNone 104
    reads := [(w95 w, pl.nr)] ++ (if pl.useB then [(vxB w, pl.nr)] else [])
      ++ (if pl.side = 0 then [] else [(vxB w, pl.side)])
    writes := [(vxD w, pl.dst.length)]
    acc := readsAt (vxArp w) (w95 w) cyc
      ++ (if pl.useB then readsAt (vxBrp w) (vxB w) cyc else [])
      ++ readsAt (vxBrp w) (vxB w) (from_ x.c pl.side)
      ++ writesAt (vxWp w) pl.dst (writeCycles x.c pl.lat (x.c + pl.lat - 1) pl.deps) 0
    creads := if pl.cache then (cyc.zipIdx).map (fun (c, j) => (c, vxC w + j)) else [] }

/-- WP of a writing VX instruction (R107). -/
def wpBad (w : Nat) : List (Nat × Nat) := fv (decide (2 ≤ vxWp w)) 13

/-- Latency profile of the plan. -/
def Ctx.lprof (x : Ctx) : LProf := ((varOf x.m x.p).map (fun v => v.lprof)).getD .lpC

/-- The plan of a VX instruction of R233. -/
def vxPlanOf (x : Ctx) : VxPlan :=
  match wOp x.w with
  | 0x21 => planOp x.w
  | 0x23 => planFunc x.lprof x.w
  | 0x24 => planRed x
  | _ =>
    match vxFunc x.w with
    | 0 => planConv x
    | 1 => planBfsplit x.w
    | 2 => planExpscan x.w
    | 3 => planSplit x.w
    | _ => { conds := [(5, 26)] }

/-- VX.OCLD (R236, R237, R250). -/
def specOcld (x : Ctx) : Spec :=
  let w := x.w
  let len := vxLen w
  let key := vxFunc w = 1
  let n := if key then 1 else len
  { conds := fv (decide (1 < vxFunc w)) 26 ++ fv (freePipe x.st x.c).isNone 104
      ++ fv (len == 0 || (key && len != 1)) 30 ++ fv (!key && decide (512 < vxC w + len)) 42
    reads := [(w95 w, n)], acc := readsAt (vxArp w) (w95 w) (from_ x.c n) }

/-- VX.CNTLD (03 Table 3-8). -/
def specCntld (x : Ctx) : Spec :=
  { conds := fv (freePipe x.st x.c).isNone 104 ++ fv (vxLen x.w != 1) 30
    reads := [(w95 x.w, 1)], acc := readsAt (vxArp x.w) (w95 x.w) [x.c] }

/-- VX.TOPK (R267 to R270). -/
def specTopk (x : Ctx) : Spec :=
  let w := x.w
  let len := vxLen w
  let f := vxFmt w
  let k := vxC w % 256 + 1
  let nk := (k + 15) / 16
  let merge := vxFunc w = 1
  let okF := if merge then f == 0x09 || f == 0x0B
    else [0x04, 0x05, 0x06, 0x07, 0x08, 0x09, 0x0B, 0x0C].contains f
  { conds := fv (decide (1 < vxFunc w)) 26 ++ fv (!okF) 21 ++ wpBad w
      ++ fv (len == 0 || (merge && len != nk)) 30 ++ fv (freePipe x.st x.c).isNone 104
    reads := [(w95 w, len)] ++ (if merge then [(vxB w, len)] else [])
    writes := [(vxD w, nk)]
    acc := readsAt (vxArp w) (w95 w) (from_ x.c len)
      ++ (if merge then readsAt (vxBrp w) (vxB w) (from_ x.c len) else [])
      ++ writesAt (vxWp w) (from_ (vxD w) nk) (from_ (x.c + len + 8) nk) 0 }

/-- Write cycles of VX.STOP (R273). -/
def stopCycles (v n : Nat) : List Nat :=
  (List.range ((n + 31) / 32)).map (fun k => v + 6 * (if 32 * k + 32 ≤ n then 32 * k + 32 else n) + 4)

/-- VX.STOP (R271, R273). -/
def specStop (x : Ctx) : Spec :=
  let w := x.w
  let n := vxLen w
  let nk := (n + 31) / 32
  { conds := fv (vxFunc w != 0) 26 ++ fv (vxFmt w != 0x0B) 21 ++ wpBad w
      ++ fv (n == 0) 30 ++ fv (freePipe x.st x.c).isNone 104
    reads := [(w95 w, n), (vxB w, 6 * n)]
    writes := [(vxD w, nk)]
    acc := readsAt (vxArp w) (w95 w) ((List.range n).map (fun i => x.c + 6 * i))
      ++ readsAt (vxBrp w) (vxB w) (from_ x.c (6 * n))
      ++ writesAt (vxWp w) (from_ (vxD w) nk) (stopCycles x.c n) 0 }

/-- VX.AMAX (R189 to R192). -/
def specAmax (x : Ctx) : Spec :=
  let w := x.w
  let len := vxLen w
  let f := vxFmt w
  let pipe := fv (freePipe x.st x.c).isNone 104
  if vxFunc w = 0 then
    { conds := fv (!loadFmt f) 21 ++ wpBad w ++ pipe
        ++ fv (len == 0 || (loadFmt f && !isMx f && (elemCount f len).isNone)) 30
      reads := [(w95 w, len)], writes := [(vxD w, 1)]
      acc := readsAt (vxArp w) (w95 w) (from_ x.c len)
        ++ writesAt (vxWp w) [vxD w] [x.c + len + 3] 0 }
  else if vxFunc w = 1 then
    { conds := fv (f != 0x0B) 21 ++ fv (len != 1) 30 ++ fv (decide (4 ≤ vxD w)) 51 ++ pipe
      reads := [(w95 w, 1), (vxB w, 1)]
      acc := readsAt (vxArp w) (w95 w) [x.c] ++ readsAt (vxBrp w) (vxB w) [x.c] }
  else { conds := [(5, 26)] ++ pipe }

/-! ### Mover (03, 08, 11) -/

/-- The virtual station exists on a die of the partition (R110). -/
def unitOk (m : Mach) (p d u : Nat) : Bool :=
  (part m p).dies.contains d &&
  (match planOf m p with
   | some pl => decide (u < 16 * gridRows pl.grid)
   | none => false)

/-- Two items of a detail argument (R315). -/
def pair24 (a b : Nat) : Nat := a * 2 ^ 24 + b % 2 ^ 24

/-- Streams that still run in cycle c. -/
def busySends (s : Station) (c : Nat) : Nat := (s.sends.filter (fun x => decide (c < x.cycle + x.len))).length

/-- Receive streams that still run in cycle c. -/
def busyRecvs (s : Station) (c : Nat) : Nat := (s.recvs.filter (fun x => decide (c < x.cycle + x.len))).length

/-- MV.SEND (R90, R110, R113). -/
def specSend (x : Ctx) : Spec :=
  let w := x.w
  let n := mvLen w
  { conds := fv (n == 0) 69 ++ cond (!unitOk x.m x.p (mvDie w) (mvUnit w)) 6 (pair24 (mvDie w) (mvUnit w))
      ++ cond (decide (4 ≤ busySends x.st x.c)) 7 0
    reads := [(w95 w, n)], acc := readsAt (mvPort w) (w95 w) (from_ x.c n) }

/-- MV.RECV (R90, R107, R110, R114, R326). -/
def specRecv (x : Ctx) : Spec :=
  let w := x.w
  let n := mvLen w
  { conds := fv (n == 0) 69 ++ fv (decide (2 ≤ mvPort w)) 67 ++ fv (decide (5 ≤ mvWop w)) 54
      ++ cond (!unitOk x.m x.p (mvDie w) (mvUnit w)) 6 (pair24 (mvDie w) (mvUnit w))
      ++ cond (decide (2 ≤ busyRecvs x.st x.c)) 7 1
    writes := [(w95 w, n)]
    acc := writesAt (mvPort w) (from_ (w95 w) n) (from_ x.c n) (if mvWop w = 0 then 0 else 2) }

/-- A scoreboard descriptor of a station. -/
def sbd (s : Station) (i : Nat) : Desc := tget {} s.sbd i

/-- The state of a descriptor for an instruction of a cycle of a step: one that an SB.CLOSE of that cycle or a later one
frees is still open (R128). -/
def Desc.stateAt (d : Desc) (step c : Nat) : DescState :=
  match d.closeAt with
  | some (n, k) => if n = step ∧ c ≤ k then d.was else d.state
  | none => d.state

/-- The state of a descriptor of the station for the instruction. -/
def Ctx.desc (x : Ctx) (i : Nat) : DescState := (sbd x.st i).stateAt (part x.m x.p).step x.c

/-- What every long-running instruction is checked for (R106, R121, R122). -/
def specLong (x : Ctx) (cs : List (Nat × Nat)) (last : List (Nat × Nat × Nat)) : Spec :=
  let w := x.w
  { conds := cs ++ fv (mvLen w == 0) 69
      ++ cond (decide (x.desc (mvDesc w) ≠ .free)) 0x11 (mvDesc w)
    opens := some (mvDesc w, w95 w, mvLen w), last := last }

/-- Beats of HBM in a wellhead (R334). -/
def wellBeats : Nat := 402653184

/-- DIR that a MODE of MV.DMA allows (Table 8-4). -/
def modeDirOk (mode : Nat) (out : Bool) : Bool :=
  match mode with
  | 0 => true
  | 1 | 2 | 3 | 4 | 5 | 7 => !out
  | 6 => out
  | _ => false

/-- HBM beats per tile of a decode (R338). -/
def decTile (mode : Nat) : Nat := if mode = 1 then 17 else 25

/-- The wellhead is one that the instruction may name (R111). -/
def wellOk (x : Ctx) (wh : Nat) : Bool :=
  wellFitted x.fz wh && (part x.m x.p).dies.contains (wellDie wh) &&
  (match planOf x.m x.p with
   | some pl => decide (pl.grid = .g512) || sixStack wh
   | none => false)

/-- MV.DMA (R111, R336). -/
def specDma (x : Ctx) : Spec :=
  let w := x.w
  let mode := dmaMode w
  let len := mvLen w
  let h := dmaHaddr w
  let dec := decide (1 ≤ mode) && decide (mode ≤ 3)
  specLong x (
    cond (!wellOk x (dmaWh w)) 6 (pair24 (wellDie (dmaWh w)) (wellUnit (dmaWh w)))
    ++ fv (dmaTap w == 3) 56 ++ fv (decide (wellBeats ≤ h)) 21
    ++ fv (!mvOut w && decide (2 ≤ dmaPort w)) 54
    ++ fv (!modeDirOk mode (mvOut w)) 50
    ++ fv ((dec && len % 64 != 0) || (mode == 6 && decide (16 < len))) 69
    ++ fv ((mode == 0 && decide (wellBeats < h + len))
      || (dec && decide (wellBeats < h + len / 64 * decTile mode))
      || (mode == 6 && decide (16 < h + len))) 21) []

/-- MV.HOST (R112, R361, R700). -/
def specHost (x : Ctx) : Spec :=
  let w := x.w
  let a := hcAddr w
  let n := mvLen w
  let q := part x.m x.p
  let sl := inSealed q a n
  specLong x (fv (!mvOut w && decide (2 ≤ hcPort w)) 60 ++ fv (sl && a % 32 != 0) 29 ++ fv (sl && n % 32 != 0) 69
    ++ cond (decide (q.hwLen < 128 * (a + n))
      || (sl && (decide (a < sealedUnit q) || decide (sealedUnit q + 32 * sealedBlocks q < a + n)))) 0x12 a) []

/-- MV.CIST (R112, R365, R366). -/
def specCist (x : Ctx) : Spec :=
  let w := x.w
  specLong x (fv (!mvOut w && decide (2 ≤ hcPort w)) 60 ++ fv (mvLen w % 32 != 0) 69
    ++ cond (decide ((part x.m x.p).nsBlocks < hcAddr w + (mvLen w + 31) / 32)) 0x12 (hcAddr w)) []

/-- A template that is not loaded (R473). -/
def noTemplate : Template :=
  { dstMod := 0, dstDie := 0, dstUnit := 0, op := 0, cls := 0, keyslot := 0, flags := 0, addr := 0 }

/-- A template that LK.INJECT may name (R473, Table 11-4). -/
def templateOk (y : Template) : Bool := (y.op == 1 || y.op == 4) && y.cls == 0

/-- LK.INJECT (R475, R709, R712). -/
def specInject (x : Ctx) : Spec :=
  let w := x.w
  let y := tget noTemplate (die x.m x.d).tmpls (lkTmpl w)
  let f := fslot x.m x.d y.keyslot
  specLong x (fv (!templateOk y) 51)
    (if y.keyslot ≠ 0 ∧ (f.ep (b2n f.wr)).st = 1 then []
     else [(0x0E, 2, y.keyslot * 2 ^ 40 + b2n f.wr * 2 ^ 39)])

/-- LK.EXPECT (R107). -/
def specExpect (x : Ctx) : Spec := specLong x (fv (decide (2 ≤ lkPort x.w)) 61) []

/-! ### Control (03) -/

/-- Value of a count register as a CT.LOOPR of cycle c latches it (R138): that of the last write issued
eight or more cycles before, and MV before VX before MX in one cycle (R139). -/
def cntAt (s : Station) (r c : Nat) : Nat :=
  ((s.cntLog.filter (fun x => x.reg == r && decide (x.cycle + 8 ≤ c))).getLast?.map
    (fun x => x.value)).getD (tget 0 s.cnt r)

/-- The value a count register holds. -/
def cntNow (s : Station) (r : Nat) : Nat :=
  ((s.cntLog.filter (fun x => x.reg == r)).getLast?.map (fun x => x.value)).getD (tget 0 s.cnt r)

/-- CT.GATE (R140 to R143, Table 3-10). -/
def specGate (x : Ctx) : Spec :=
  let w := x.w
  if gateClose w then
    { conds := fv (gateB w != 0) 71 ++ fv (gateL w != 0) 47
        ++ cond x.qs.gate.isNone 0x13 0x54 }
  else
    { conds := fv (decide (gateB w < 8)) 71 ++ fv (decide (gateL w < gateB w)) 47
        ++ cond x.qs.gate.isSome 0xD (qCode x.q) }

/-- CT.ENDLOOP (R137, R143). -/
def specEndloop (x : Ctx) : Spec :=
  { conds := match x.qs.loops with
      | [] => [(0x13, 0x53)]
      | l :: _ => cond (l.gated != x.qs.gate.map (fun g => g.g)) 0xE (qCode x.q) }

/-- CT.FETCH (R101 to R103, Table 3-10): the issuing entry does not count. -/
def specFetch (x : Ctx) : Spec :=
  let w := x.w
  let n := fetN w
  let s := x.st
  let tgt : List (Nat × Nat) := match qOf (fetQ w) with
    | none => [(5, 94)]
    | some q =>
      let b := s.ibuf q
      let here := if q = x.q then 1 else 0
      let free := 512 - (occAt (s.queue q) x.c - here)
      cond (decide (fetSrc w < b.base) || decide (b.base + b.len < fetSrc w + n)) 9
        (pair24 (fetQ w) (fetSrc w))
      ++ cond (decide (free < 8 * n)) 8 (pair24 (fetQ w) free)
  { conds := fv (n == 0) 73 ++ tgt
    reads := [(fetSrc w, n)], acc := readsAt (fetRp w) (fetSrc w) (from_ x.c n) }

/-- The specification of the instruction of its row. -/
def specRow (r : Row) (x : Ctx) : Spec :=
  match r with
  | .loadw => specLoadw x
  | .mma => specMma x
  | .drain => specDrain x
  | .vxop | .cvtConv | .cvtBfsplit | .cvtExpscan | .cvtSplit | .vxfunc | .sumall | .rowsum =>
    let s := specOfPlan x (vxPlanOf x)
    { s with conds := s.conds ++ wpBad x.w }
  | .topSelect | .topMerge => specTopk x
  | .vxstop => specStop x
  | .ocldLoad | .ocldKey => specOcld x
  | .cntld => specCntld x
  | .amaxScan | .amaxLoad => specAmax x
  | .send => specSend x
  | .recv => specRecv x
  | .dmaCopy | .dmaDecode | .dmaGather | .dmaScore | .dmaQload | .dmaSgather => specDma x
  | .mvhost => specHost x
  | .mvcist => specCist x
  | .sbclose =>
    { conds := cond (decide (x.desc (sbDesc x.w) = .free)) 0x13 0x41
      closes := some (sbDesc x.w) }
  | .wait | .stamp | .setcnt => {}
  | .loop => { conds := fv (ctCount x.w == 0) 80, nest := decide (4 ≤ x.qs.loops.length) }
  | .loopr =>
    { conds := cond x.qs.gate.isNone 0xC (ctCnt x.w)
        ++ cond (decide (65535 < cntAt x.st (ctCnt x.w) x.c)) 0xB (cntAt x.st (ctCnt x.w) x.c)
      nest := decide (4 ≤ x.qs.loops.length) }
  | .endloop => specEndloop x
  | .gateOpen | .gateClose => specGate x
  | .fetch => specFetch x
  | .stepend =>
    { conds := cond (!x.qs.loops.isEmpty && x.qs.gate.isNone) 0x10 (pair24 x.qs.loops.length 0) }
  | .inject => specInject x
  | .expect => specExpect x

end Sys2Proof.Machine
end

