-- ==== Sys2Proof/Machine/Effects.lean ====
section
/-! DEFINITION. What an instruction does beside its place in the queue (03 to 06): its writes, its change of the
station, and where an uncorrectable read stops it. -/

namespace Sys2Proof.Machine

/-- An access of a cycle comes before the first uncorrectable read. -/
def Cut.lets (k : Cut) (c : Nat) : Bool := decide (k.cycle = farAway ∨ c < k.cycle)

/-- What an instruction does beside its place in the queue: writes to the scratchpad and the operand cache,
a change of the station, the flags that it raises in VXE_FLAGS, INS_LAFLAGS and MXE_FLAGS, and whatever lies outside. -/
structure Eff where
  writes : List LateWrite := []
  cache : List LateWrite := []
  st : Station → Station := id
  vx : BitVec 5 := 0
  la : BitVec 3 := 0
  mx : BitVec 20 := 0
  next : Mach → Mach := id

/-- Writes of consecutive beats from a beat on, in given cycles. -/
def beatWrites (port beat : Nat) (cycles : List Nat) (l : List Byte) : List LateWrite :=
  ((chunks 128 cycles.length l).zip cycles).zipIdx.map (fun (y, j) =>
    { cycle := y.2, delay := 1, port := port, off := 128 * (beat + j), bytes := y.1 })

/-! ### Sends -/

/-- The 8-bit stamp of beat i (R115, R289): transfer ID in bits [7:3], beat index in bits [2:0]. -/
def stampOf (xfer stofs beat i : Nat) : Nat := (xfer + stofs) % 32 * 8 + (beat + i) % 8

/-- MV.SEND (R113, R115, R289): beats before an uncorrectable one are sent (R384). -/
def effSend (x : Ctx) (cut : Cut) : Eff :=
  let w := x.w
  let n := mvLen w
  let beats : List Beat := ((List.range n).filter (fun i => cut.lets (x.c + i))).map (fun i =>
    { srcDie := x.d, srcUnit := x.unit, dstDie := mvDie w, dstUnit := mvUnit w
      stamp := stampOf (wXfer w) x.qs.stofs (wBeat w) i, sent := x.c + i, step := (part x.m x.p).step
      rows := meshRows x.m x.p, bytes := x.read (x.c + i) (w95 w + i) })
  { st := fun s => { s with sends := s.sends ++ [{ cycle := x.c, len := n }] }
    next := fun m => { m with mesh := m.mesh ++ beats } }

/-! ### Fetch -/

/-- The eight instructions of a beat, with their offsets from BASE (R91). -/
def beatEntries (bytes : List Byte) (off avail : Nat) : List QEntry :=
  ((chunks 16 8 bytes).zipIdx).map (fun (l, j) =>
    { word := BitVec.ofNat 128 (ofLe l), off := off + 16 * j, avail := avail })

/-- An entry appended behind those that may issue no later; of two from different queues that may issue from one cycle
on, that of the earlier command comes first (DESIGN CHOICE, log 181). -/
def insertEntry (e : QEntry) : List QEntry → List QEntry
  | [] => [e]
  | y :: r => if e.avail < y.avail then e :: y :: r else y :: insertEntry e r

/-- Entries appended to a queue; those before `pos` stay. -/
def QueueSt.append (l : List QEntry) (q : QueueSt) : QueueSt :=
  { q with entries := q.entries.take q.pos ++ l.foldl (fun acc e => insertEntry e acc) (q.entries.drop q.pos) }

/-- CT.FETCH (R101, R103). -/
def effFetch (x : Ctx) (cut : Cut) : Eff :=
  let w := x.w
  let ks := (List.range (fetN w)).filter (fun k => cut.lets (x.c + k))
  match qOf (fetQ w) with
  | none => {}
  | some q =>
    let base := (x.st.ibuf q).base
    let es := ks.flatMap (fun k =>
      beatEntries (x.read (x.c + k) (fetSrc w + k)) (128 * (fetSrc w + k - base)) (x.c + k + 5))
    { st := fun s => s.onQueue q (fun y => y.append es) }

end Sys2Proof.Machine
end

