-- ==== Sys2Proof/Machine/Matrix.lean ====
section
/-! DEFINITION. The matrix engine (04): MX.LOADW, MX.MMA, MX.DRAIN, and the LA-256 read-out of 05. -/

namespace Sys2Proof.Machine

/-! ### Tiles (R158 to R161) -/

/-- n beats of a tile, each as a read of its own cycle sees it. -/
def readTile (x : Ctx) (beat : Nat) (cycles : List Nat) : List Byte :=
  (cycles.zipIdx).flatMap (fun (c, j) => x.read c (beat + j))

/-- The 64 scaled elements of a row of a tile (R159 to R161). -/
def tileRow (fmt : Nat) (tile scales : List Byte) (r : Nat) : List Num :=
  let n := 8 * width fmt
  let es := unpackE (width fmt) ((tile.drop (n * r)).take n)
  if isMx fmt then
    (es.zipIdx).map (fun (b, k) => scaledBy (leAt scales (2 * r + k / 32) 1) (decodeE fmt b))
  else es.map (decodeE fmt)

/-- The 64 rows of a tile. -/
def tileRows (fmt : Nat) (tile scales : List Byte) : List (List Num) :=
  (List.range 64).map (tileRow fmt tile scales)

/-! ### ANCHORED accumulation (R178 to R182) -/

/-- The flags of a set. -/
structure SetFl where
  inexact : Bool := false
  ovf : Bool := false
  invalid : Bool := false
  deriving DecidableEq, Repr

/-- Flags of either. -/
def SetFl.or (a b : SetFl) : SetFl :=
  { inexact := a.inexact || b.inexact, ovf := a.ovf || b.ovf, invalid := a.invalid || b.invalid }

/-- The tag of an output after a special term (R182). -/
def AccTag.join : AccTag → AccTag → AccTag
  | .num, t => t
  | t, .num => t
  | .pinf, .pinf => .pinf
  | .ninf, .ninf => .ninf
  | _, _ => .nan

/-- One more term of an output in units of 2^a (R178, R179, R182). -/
def addTerm (a : Int) (s : AccVal × SetFl) (t : Num) : AccVal × SetFl :=
  let (v, fl) := s
  match t with
  | .nan => ({ v with tag := .nan }, { fl with invalid := true })
  | .inf n =>
    let tag := v.tag.join (if n then .ninf else .pinf)
    ({ v with tag := tag }, { fl with invalid := fl.invalid || tag == .nan })
  | .fin n m e =>
    let (u, exact) := floorUnits n m e a
    if u < -((2 ^ 95 : Nat) : Int) then
      ({ v with v := v.v - ((2 ^ 95 : Nat) : Int), passed := true }, { fl with ovf := true })
    else if ((2 ^ 95 : Nat) : Int) - 1 < u then
      ({ v with v := v.v + (((2 ^ 95 : Nat) : Int) - 1), passed := true }, { fl with ovf := true })
    else ({ v with v := v.v + u }, { fl with inexact := fl.inexact || !exact })

/-- The terms of an output of an MX.MMA. -/
def termsOf (a b : List Num) : List Num := List.zipWith Num.mul a b

/-- An output of an ANCHORED set after an MX.MMA. -/
def anchoredOut (anchor : Int) (v : AccVal) (a b : List Num) : AccVal × SetFl :=
  (termsOf a b).foldl (addTerm anchor) (v, {})

/-! ### FLOAT mode (R194, R195) -/

/-- A value rounded to FP32 with the flags of R195. -/
def rneF (x : Num) : Num × SetFl :=
  let (b, f) := rne32 x
  let y := decodeF fp32 b
  (y, { inexact := f.inexact || f.ovf, ovf := f.ovf, invalid := y.isNan })

/-- The sum of two FP32 values, rounded. -/
def addF (a b : Num × SetFl) : Num × SetFl :=
  let (y, f) := rneF (a.1.add b.1)
  (y, (a.2.or b.2).or f)

/-- The exact sum of terms, rounded once. -/
def groupSum (l : List Num) : Num × SetFl :=
  match l with
  | [] => (.fin false 0 0, {})
  | t :: r => rneF (r.foldl Num.add t)

/-- An output of a FLOAT set after an MX.MMA. -/
def floatOut (v : AccVal) (a b : List Num) : AccVal × SetFl :=
  let t := termsOf a b
  let g (q : Nat) := groupSum ((t.drop (16 * q)).take 16)
  let (y, f) := addF (decodeF fp32 v.v.toNat, {}) (addF (addF (g 0) (g 1)) (addF (g 2) (g 3)))
  ({ v with v := ((rne32 y).1 : Nat), passed := v.passed || f.ovf }, f)

/-! ### Flags and sets -/

/-- The bits of MXE_FLAGS that a set's flags and read-out flags set (Table 4-9). -/
def mxeBits (set : Nat) (f : SetFl) (cvtInexact cvtOvf : Bool) : BitVec 20 :=
  BitVec.ofNat 20 (2 ^ set * (b2n f.inexact + 16 * b2n f.ovf + 256 * b2n f.invalid
    + 4096 * b2n cvtInexact + 65536 * b2n cvtOvf))

/-- The anchor register that an MX.MMA of cycle c uses (R191). -/
def axAt (s : Station) (i c : Nat) : Int :=
  ((s.axLog.filter (fun y => y.2.1 == i && decide (y.1 + 4 ≤ c))).getLast?.map (fun y => y.2.2)).getD
    (tget 0 s.ax i)

/-- Clamping to the range of anchors. -/
def clampAnchor (v : Int) : Int := if v < -2048 then -2048 else if 2047 < v then 2047 else v

/-- A set just cleared by an MX.MMA (R173, R193). -/
def clearedSet (s : Station) (w c : Nat) : AccSet :=
  { opened := true, isFloat := mmaFloat w, auto := mmaAuto w, trap := mmaTrap w
    anchorField := mmaAnchor w
    anchor := if mmaAuto w then clampAnchor (axAt s (mmaAcc w) c + mmaAnchor w) else mmaAnchor w
    count := 0, outs := List.replicate 4096 {} }

/-- The outputs of a set after the first n rows of an MX.MMA, and the flags raised. -/
def mmaOuts (a : AccSet) (ar br : List (List Num)) (n : Nat) : List AccVal × SetFl :=
  let upd (i : Nat) (v : AccVal) : AccVal × SetFl :=
    if i / 64 < n then
      let ra := ar.getD (i / 64) []
      let rb := br.getD (i % 64) []
      if a.isFloat then floatOut v ra rb else anchoredOut a.anchor v ra rb
    else (v, {})
  let l := (a.outs.zipIdx).map (fun (v, i) => upd i v)
  (l.map (fun y => y.1), l.foldl (fun f y => f.or y.2) {})

/-- Changing an accumulator set. -/
def Station.onSet (i : Nat) (f : AccSet → AccSet) (s : Station) : Station :=
  { s with sets := tmod {} s.sets i f }

/-! ### MX.LOADW -/

/-- MX.LOADW (R164, R165). One that an uncorrectable read stops does not count and leaves its buffer (DESIGN CHOICE, log
184). -/
def effLoadw (x : Ctx) (cut : Cut) : Eff :=
  let w := x.w
  let f := mxFmt w
  let n := tileBeats f
  if cut.cycle < farAway then {}
  else
    let tile := readTile x (w95 w) (from_ (x.c + 1) n)
    let scales := if isMx f then x.read x.c (mxS w) else []
    { st := fun s => { s with
        bbufs := tput {} s.bbufs (s.loads % 2)
          { valid := true, fmt := f, tile := tile, scales := scales, complete := x.c + n + 4 }
        loads := s.loads + 1 } }

/-! ### MX.MMA -/

/-- Rows of the A tile whose terms are added: all 64, or those before the failing row (R385). -/
def mmaRows (x : Ctx) (cut : Cut) : Nat :=
  let f := mxFmt x.w
  if farAway ≤ cut.cycle then 64
  else
    let w0 := cut.words.headD 0
    if isMx f ∧ cut.cycle = x.c then 4 * w0
    else (128 * (cut.beat - w95 x.w) + 8 * w0) / (8 * width f)

/-- The B buffer that an MX.MMA uses (R166): the one it took at its issue, where that is known. -/
def usedBuf (x : Ctx) : Option Nat := x.buf.or (mmaBuf x.st x.c)

/-- MX.MMA (R167, R173, R176, R178 to R183, R193 to R195). -/
def effMma (x : Ctx) (cut : Cut) : Eff :=
  let w := x.w
  let f := mxFmt w
  let n := tileBeats f
  let dd := mmaD f
  let i := mmaAcc w
  match usedBuf x with
  | none => {}
  | some k =>
    let b := tget {} x.st.bbufs k
    let tile := readTile x (w95 w) ((List.range n).map (fun j => x.c + 1 + j * dd / n))
    let scales := if isMx f then x.read x.c (mxS w) else []
    let a := if mmaClr w then clearedSet x.st w x.c else accSet x.st i
    let (outs, fl) := mmaOuts a (tileRows f tile scales) (tileRows b.fmt b.tile b.scales) (mmaRows x cut)
    let set : AccSet := { a with
      count := a.count + 1, outs := outs, ready := x.c + dd + 10
      inexact := a.inexact || fl.inexact, ovf := a.ovf || fl.ovf, invalid := a.invalid || fl.invalid
      drainEnd := (accSet x.st i).drainEnd }
    { st := fun s => { s with
        sets := tput {} s.sets i set
        bbufs := tmod {} s.bbufs k (fun y => { y with busy := x.c + 1 + dd })
        mmaNext := x.c + dd }
      mx := mxeBits i fl false false }

/-! ### MX.DRAIN -/

/-- The read-out of an ANCHORED output and whether it saturated (R181). -/
def readOut (v : AccVal) : Int × Bool :=
  match v.tag with
  | .num =>
    if v.v < -((2 ^ 95 : Nat) : Int) then (-((2 ^ 95 : Nat) : Int), true)
    else if ((2 ^ 95 : Nat) : Int) - 1 < v.v then (((2 ^ 95 : Nat) : Int) - 1, true)
    else (v.v, false)
  | _ => (0, false)

/-- The value of an output. -/
def outValue (a : AccSet) (v : AccVal) : Num :=
  if a.isFloat then decodeF fp32 v.v.toNat
  else
    match v.tag with
    | .nan => .nan
    | .pinf => .inf false
    | .ninf => .inf true
    | .num => ofInt (readOut v).1 a.anchor

/-- The rounding that RND of MX.DRAIN names. -/
def drainRnd (w : Nat) : Rnd := if drRnd w = 1 then .rtz else .rne

/-- An INT32 output (R202). -/
def drainInt (r : Rnd) (x : Num) : Nat × Fl :=
  match x with
  | .nan => (0, {})
  | .inf n => (twos 32 (if n then -((2 ^ 31 : Nat) : Int) else ((2 ^ 31 : Nat) : Int) - 1), { ovf := true })
  | .fin n m e =>
    let (t, inexact) := roundI r n m e
    let (u, sat) := satI 32 t
    (twos 32 u, { inexact := inexact, ovf := sat })

/-- An LA-256 output (R204). -/
def drainLa (v : AccVal) : Nat :=
  twos 256 (match v.tag with
    | .nan => laNan
    | .pinf => laPinf
    | .ninf => laNinf
    | .num => (readOut v).1)

/-- One output in its format, with the flags of its read-out (R199 to R204). -/
def drainOne (a : AccSet) (fmt : Nat) (r : Rnd) (v : AccVal) : Nat × Fl :=
  if fmt = 0x0E then (drainLa v, {})
  else
    match ffmt fmt with
    | some f => encodeF f r (outValue a v)
    | none => drainInt r (outValue a v)

/-- MX.DRAIN (R168, R177, R181, R183, R199 to R204). -/
def effDrain (x : Ctx) (_ : Cut) : Eff :=
  let w := x.w
  let f := drFmt w
  let i := drAcc w
  let a := accSet x.st i
  let n := tileBeats f
  let l := a.outs.map (drainOne a f (drainRnd w))
  let fl : Fl := l.foldl (fun (y : Fl) z => y.or z.2) {}
  let sat := !a.isFloat && a.outs.any (fun v => (readOut v).2)
  { writes := beatWrites (mxRp w) (w95 w) (from_ (x.c + 4) n) (packE (width f) (l.map (fun y => y.1)))
    st := fun s => s.onSet i (fun y => { y with ovf := y.ovf || sat, drainEnd := x.c + 4 + n })
    mx := mxeBits i { ovf := sat } fl.inexact fl.ovf }

end Sys2Proof.Machine
end

