-- ==== Sys2Proof/Machine/Kernels.lean ====
section
/-! DEFINITION. The kernels of VX.FUNC (06 R262 to R264): the exact functions to 60 bits and more, the error
bounds of Table 6-5, the special inputs of Table 6-6. A result bit that the manual leaves to the kernel is a
free value within its bound (log 11). -/

namespace Sys2Proof.Machine

/-- Fraction bits of the reference values. -/
def kBits : Nat := 96

/-- ⌊√n⌋ for n below 2^(2k). -/
def isqrt (n : Nat) : Nat → Nat → Nat
  | 0, r => r
  | k + 1, r => if (r + 2 ^ k) * (r + 2 ^ k) ≤ n then isqrt n k (r + 2 ^ k) else isqrt n k r

/-- 2^(f / 2^k) with kBits fraction bits, for a fraction f of k bits: `root` is 2^(2^-i), `acc` the product of
the roots whose bit is set. -/
def pow2Frac (f : Nat) : Nat → Nat → Nat → Nat
  | 0, _, acc => acc
  | k + 1, root, acc =>
    let root := isqrt (root * 2 ^ kBits) (kBits + 2) 0
    pow2Frac f k root (if bitAt f k then acc * root / 2 ^ kBits else acc)

/-- 2^x. -/
def refExp2 (neg : Bool) (m : Nat) (e : Int) : Num :=
  if m = 0 then .fin false 1 0
  else if 10 ≤ expOf m e then (if neg then .fin false 1 (-1000) else .inf false)
  else
    let x := (floorUnits neg m e (-64)).1
    let f := (x % ((2 ^ 64 : Nat) : Int)).toNat
    .fin false (pow2Frac f 64 (2 ^ (kBits + 1)) (2 ^ kBits)) (x / ((2 ^ 64 : Nat) : Int) - kBits)

/-- k fraction bits of log2 of y / 2^kBits, for y from 2^kBits to below 2^(kBits + 1). -/
def logBits : Nat → Nat → Nat → Nat
  | 0, _, acc => acc
  | k + 1, y, acc =>
    let y := y * y / 2 ^ kBits
    if 2 ^ (kBits + 1) ≤ y then logBits k (y / 2) (2 * acc + 1) else logBits k y (2 * acc)

/-- log2 x of a positive x. -/
def refLog2 (m : Nat) (e : Int) : Num :=
  let y := m * 2 ^ kBits / 2 ^ Nat.log2 m
  ofInt (expOf m e * ((2 ^ 64 : Nat) : Int) + logBits 64 y 0) (-64)

/-- 1 / x. -/
def refRecip (neg : Bool) (m : Nat) (e : Int) : Num :=
  let s := kBits + Nat.log2 m
  .fin neg (2 ^ s / m) (-(s : Int) - e)

/-- 1 / √x of a positive x. -/
def refRsqrt (m : Nat) (e : Int) : Num :=
  let m := if e % 2 = 0 then m else 2 * m
  let e := if e % 2 = 0 then e else e - 1
  let s := kBits + Nat.log2 m
  .fin false (isqrt (2 ^ (2 * s) / m) (s + 1) 0) (-(s : Int) - e / 2)

/-- The distance of two finite values. -/
def distance (a b : Num) : Num :=
  match a.add b.negate with
  | .fin _ m e => .fin false m e
  | v => v

/-- The error that Table 6-5 allows the FP32 value of the kernel: one ulp of FP32, which is 2^−16 ulp of BF16 and 2^−13
ulp of FP16, and in FP32 alone 2^−24 absolute for log2 of an x from 0.5 to below 2. -/
def kernelBound (func fmt : Nat) (x ref : Num) : Num :=
  match x, ref with
  | .fin _ m e, .fin _ rm re =>
    if func = 1 ∧ fmt = 0x09 ∧ (expOf m e = -1 ∨ expOf m e = 0) then .fin false 1 (-24)
    else .fin false 1 (if rm = 0 then -149 else if expOf rm re < -126 then -149 else expOf rm re - 23)
  | _, _ => .fin false 0 0

/-- The FP32 value that the kernel forms for an ordinary input: free within the bound (log 11). -/
def kernelValue (func fmt bits : Nat) (x ref : Num) : Nat :=
  let cand := Config.vxFunc func fmt bits % 2 ^ 32
  let v := decodeF fp32 cand
  match v, ref with
  | .fin _ _ _, .fin _ _ _ =>
    if (distance v ref).cmp (kernelBound func fmt x ref) = some 1 then (rne32 ref).1 else cand
  | _, _ => (rne32 ref).1

/-- An input of Table 6-6: its result and flags; an infinite result of ±0, which is finite, sets OVF and INEXACT beside
DIVZ (R262). -/
def kernelSpecial (func : Nat) (x : Num) : Option (Num × Fl) :=
  match x with
  | .nan => some (.nan, {})
  | .inf n =>
    some (match func with
      | 0 => (if n then .fin false 0 0 else .inf false, {})
      | 1 => if n then (.nan, { invalid := true }) else (.inf false, {})
      | 2 => (.fin n 0 0, {})
      | _ => if n then (.nan, { invalid := true }) else (.fin false 0 0, {}))
  | .fin n m _ =>
    if m = 0 then
      some (match func with
        | 0 => (.fin false 1 0, {})
        | 1 => (.inf true, { divz := true, ovf := true, inexact := true })
        | _ => (.inf n, { divz := true, ovf := true, inexact := true }))
    else if n ∧ (func = 1 ∨ func = 3) then some (.nan, { invalid := true })
    else none

/-- The reference value of an ordinary input. -/
def kernelRef (func : Nat) (neg : Bool) (m : Nat) (e : Int) : Num :=
  match func with
  | 0 => refExp2 neg m e
  | 1 => refLog2 m e
  | 2 => refRecip neg m e
  | _ => refRsqrt m e

/-- An element of VX.FUNC in a format and its flags (R262, Table 6-6). -/
def kernel (func fmt : Nat) (f : FFmt) (r : Rnd) (bits : Nat) : Nat × Fl :=
  let x := decodeF f bits
  match kernelSpecial func x, x with
  | some (v, fl), _ => ((encodeF f .rne v).1, fl)
  | none, .fin n m e =>
    let b := kernelValue func fmt bits x (kernelRef func n m e)
    let big : Fl := { ovf := true, inexact := true }
    if fmt = 0x09 then (b, match decodeF fp32 b with
      | .inf _ => big
      | _ => {})
    else
      let (y, fl) := encodeF f r (decodeF fp32 b)
      (y, match decodeF f y with
        | .inf _ => fl.or big
        | _ => fl)
  | none, _ => (0, {})

end Sys2Proof.Machine
end

