-- ==== Sys2Proof/Machine/Vector.lean ====
section
/-! DEFINITION. The vector engine (06), the emulated-FP64 splits and reductions of 05, and VX.CNTLD (03). -/

namespace Sys2Proof.Machine

/-! ### Streams -/

/-- Cycles in which source beats are read (R233). -/
def srcCycles (v : Nat) (pl : VxPlan) : List Nat := (List.range pl.nr).map (fun j => v + srcOfs pl.n pl.nr j)

/-- Source beats from a beat on, each as its own read cycle sees it. -/
def readStream (x : Ctx) (beat : Nat) (cycles : List Nat) : List Byte :=
  (cycles.zipIdx).flatMap (fun (c, j) => x.read c (beat + j))

/-- Operand-cache beats from beat C on. -/
def readCaches (x : Ctx) (cycles : List Nat) : List Byte :=
  (cycles.zipIdx).flatMap (fun (c, j) => x.beat true c (vxC x.w + j))

/-- Side beats (R235). -/
def sideBytes (x : Ctx) (n : Nat) : List Byte := readStream x (vxB x.w) (from_ x.c n)

/-- The pipe that takes the instruction is busy for n cycles (R231). -/
def takePipe (v n : Nat) (s : Station) : Station :=
  match freePipe s v with
  | some true => { s with pipe1 := v + n }
  | _ => { s with pipe0 := v + n }

/-- Bits of VXE_FLAGS (Table 6-11). -/
def Fl.bits (f : Fl) : BitVec 5 :=
  BitVec.ofNat 5 (pack [(1, b2n f.divz), (1, b2n f.invalid), (1, b2n f.ovf), (1, b2n f.sat), (1, b2n f.inexact)] 0)

/-- What a VX instruction produces: its destination bytes in the order of its destination beats, its flags,
how far VXE_SRKEY.BASE advances under RND 2, and the flags that each destination beat raises (R277). -/
structure VxOut where
  bytes : List Byte
  fl : Fl := {}
  la : LaFl := {}
  count : Nat := 0
  marks : Nat → Fl × LaFl := fun _ => ({}, {})

/-- Flags of several elements. -/
def orFl (l : List Fl) : Fl := l.foldl (fun (f : Fl) y => f.or y) {}

/-- LA-256 flags of several elements. -/
def orLa (l : List LaFl) : LaFl := l.foldl (fun (f : LaFl) y => f.or y) {}

/-- The elements of width w of which beat k holds a bit. -/
def ofBeat {α : Type} (w k : Nat) (l : List α) : List α :=
  let lo := 1024 * k / w
  (l.drop lo).take ((1024 * (k + 1) - 1) / w + 1 - lo)

/-- The output cut down to the flags of some of its beats. -/
def VxOut.only (o : VxOut) (ks : List Nat) : VxOut :=
  { o with fl := orFl (ks.map (fun k => (o.marks k).1)), la := orLa (ks.map (fun k => (o.marks k).2)) }

/-- The write cycles of a planned instruction. -/
def planCycles (v : Nat) (pl : VxPlan) : List Nat := writeCycles v pl.lat (v + pl.lat - 1) pl.deps

/-- Writes of beats that need not be consecutive. -/
def scatterWrites (port : Nat) (beats cycles : List Nat) (l : List Byte) : List LateWrite :=
  ((beats.zip cycles).zip (chunks 128 beats.length l)).map (fun (y, b) =>
    { cycle := y.2, delay := 1, port := port, off := 128 * y.1, bytes := b })

/-- The key advances at the issue of an instruction with RND 2 (R249). -/
def advanceKey (w count : Nat) (s : Station) : Station :=
  if vxRnd w = 2 then { s with srBase := s.srBase + BitVec.ofNat 64 count } else s

/-- The effect of a planned VX instruction; before an uncorrectable read it raises the flags of the beats that it has
written (R277, R219, R222, Table 9-2). -/
def effPlan (f : Ctx → VxPlan → VxOut) (x : Ctx) (cut : Cut) : Eff :=
  let pl := vxPlanOf x
  let o := f x pl
  let written := (((planCycles x.c pl).zipIdx).filter (fun y => cut.lets y.1)).map (fun y => y.2)
  let seen := if cut.cycle < farAway then o.only written else o
  { writes := scatterWrites (vxWp x.w) pl.dst (planCycles x.c pl) o.bytes
    st := fun s => advanceKey x.w o.count (takePipe x.c pl.n s)
    vx := seen.fl.bits, la := seen.la.bits }

/-! ### Rounding (R247 to R249) -/

/-- The rounding of destination element k. -/
def rndAt (x : Ctx) (k : Nat) : Rnd :=
  match vxRnd x.w with
  | 1 => .rtz
  | 2 => .sto (srBits x.st.vxeSeed (part x.m x.p).step x.st.srTensor (x.st.srBase + BitVec.ofNat 64 k))
  | _ => .rne

/-! ### VX.OP (R240 to R246) -/

/-- The result of a comparison as an element of width w (R244). -/
def truth (w : Nat) (b : Bool) : Nat := if b then 2 ^ w - 1 else 0

/-- An arithmetic result of integers (R243). -/
def intArith (w : Nat) (v : Int) : Nat × Fl :=
  let (u, s) := satI w v
  (twos w u, { sat := s })

/-- One element of VX.OP on an integer format of width w. -/
def opInt (w func a b c : Nat) : Nat × Fl :=
  let x := sext w a
  let y := sext w b
  match func with
  | 0 => intArith w (x + y)
  | 1 => intArith w (x - y)
  | 2 => intArith w (x * y)
  | 3 => intArith w (x * y + sext w c)
  | 4 => (if x ≤ y then a else b, {})
  | 5 => (if x ≤ y then b else a, {})
  | 6 => (truth w (x == y), {})
  | 7 => (truth w (decide (x < y)), {})
  | 8 => (truth w (decide (x ≤ y)), {})
  | _ => (if c = 0 then b else a, {})

/-- A floating-point arithmetic result: INVALID where a NaN comes from operands that are not. -/
def floatArith (f : FFmt) (r : Rnd) (v : Num) (nanIn : Bool) : Nat × Fl :=
  let (b, fl) := encodeF f r v
  (b, { fl with invalid := v.isNan && !nanIn })

/-- The smaller of two elements, −0 below +0 (R245). -/
def below (x y : Num) : Bool :=
  match x.cmp y with
  | some c => decide (c < 0) || (c == 0 && x.isNeg)
  | none => false

/-- One element of VX.OP on a floating-point format. -/
def opFloat (f : FFmt) (r : Rnd) (func a b c : Nat) : Nat × Fl :=
  let x := decodeF f a
  let y := decodeF f b
  let z := decodeF f c
  let nan2 := x.isNan || y.isNan
  match func with
  | 0 => floatArith f r (x.add y) nan2
  | 1 => floatArith f r (x.add y.negate) nan2
  | 2 => floatArith f r (x.mul y) nan2
  | 3 => floatArith f r ((x.mul y).add z) (nan2 || z.isNan)
  | 4 => if nan2 then (nanBits f, {}) else (if below y x then b else a, {})
  | 5 => if nan2 then (nanBits f, {}) else (if below x y then b else a, {})
  | 6 => (truth f.w (x.cmp y == some 0), {})
  | 7 => (truth f.w (x.cmp y == some (-1)), {})
  | 8 => (truth f.w (x.cmp y == some 0 || x.cmp y == some (-1)), {})
  | _ => (if c = 0 then b else a, {})

/-- Flags of the beats that hold elements of width w. -/
def elemMarks (w : Nat) (l : List (Nat × Fl)) (k : Nat) : Fl × LaFl := (orFl ((ofBeat w k l).map (fun y => y.2)), {})

/-- Results of elements with their flags joined. -/
def joinFl (l : List (Nat × Fl)) : List Nat × Fl :=
  (l.map (fun y => y.1), l.foldl (fun (f : Fl) y => f.or y.2) {})

/-- VX.OP. -/
def outOp (x : Ctx) (pl : VxPlan) : VxOut :=
  let w := x.w
  let cyc := srcCycles x.c pl
  let f := vxFmt w
  let wd := width f
  let as := unpackE wd (readStream x (w95 w) cyc)
  let bs := unpackE wd (readStream x (vxB w) cyc)
  let cs := if pl.cache then unpackE wd (readCaches x cyc) else as.map (fun _ => 0)
  let one (k : Nat) (y : Nat × Nat × Nat) : Nat × Fl :=
    match ffmt f with
    | some g => opFloat g (rndAt x k) (vxFunc w) y.1 y.2.1 y.2.2
    | none => opInt wd (vxFunc w) y.1 y.2.1 y.2.2
  let rs := ((as.zip (bs.zip cs)).zipIdx).map (fun (y, k) => one k y)
  let (l, fl) := joinFl rs
  { bytes := packE wd l, fl := fl, count := as.length, marks := elemMarks wd rs }

/-! ### CONV (R252 to R257) -/

/-- An element of Table 6-4 in a floating-point format. -/
def convFloat (f : FFmt) (r : Rnd) (v : Num) : Nat × Fl :=
  match v with
  | .nan => (nanBits f, { invalid := f.top == .finite })
  | .inf n =>
    match f.top with
    | .ieee => (signBit f n + infBits f, {})
    | .e4m3 => (0x7F, { invalid := true })
    | .finite => (signBit f n + maxBits f, { ovf := true })
  | .fin n m e => roundF f r n m e

/-- An element of Table 6-4 in an integer format of width w. -/
def convInt (w : Nat) (r : Rnd) (v : Num) : Nat × Fl :=
  match v with
  | .nan => (0, { invalid := true })
  | .inf n =>
    (twos w (if n then -((2 ^ (w - 1) : Nat) : Int) else ((2 ^ (w - 1) : Nat) : Int) - 1), { sat := true })
  | .fin n m e =>
    let (t, inexact) := roundI r n m e
    let (u, sat) := satI w t
    (twos w u, { inexact := inexact, sat := sat })

/-- An element in a format other than LA-256. -/
def convElem (dst : Nat) (r : Rnd) (v : Num) : Nat × Fl :=
  match ffmt dst with
  | some f => convFloat f r v
  | none => convInt (width dst) r v

/-- emax of R255. -/
def mxEmax (dst : Nat) : Int :=
  match dst % 16 with
  | 3 => 4
  | 4 => 8
  | 5 => 15
  | _ => 2

/-- An element of a block of a destination with MX scaling: saturated where it overflows (R255). -/
def mxElem (f : FFmt) (r : Rnd) (v : Num) : Nat × Fl :=
  match v with
  | .fin n m e =>
    let (b, fl) := roundF f r n m e
    if fl.ovf then (signBit f n + maxBits f, fl) else (b, fl)
  | _ => (0, {})

/-- A block of 32 elements, the first at position k: its scale, elements and flags (R255). -/
def mxBlock (dst : Nat) (f : FFmt) (rnd : Nat → Rnd) (k : Nat) (l : List Num) : Nat × List Nat × Fl :=
  if l.any (fun v => !v.isFin) then (0xFF, l.map (fun _ => 0), { invalid := true })
  else
    let tops := l.filterMap (fun v => match v with
      | .fin _ m e => if m = 0 then none else some (expOf m e)
      | _ => none)
    match tops with
    | [] => (0, l.map (fun _ => 0), {})
    | t :: r =>
      let top := r.foldl max t
      let s0 := top - mxEmax dst + 127
      let s := if s0 < 0 then 0 else if 254 < s0 then 254 else s0
      let (es, fl) := joinFl ((l.zipIdx).map (fun (v, i) => mxElem f (rnd (k + i)) (v.scale (127 - s))))
      (s.toNat, es, fl)

/-- The source elements of a CONV as values, LA-256 apart (R161, R256). -/
def convSource (src : Nat) (data side : List Byte) : List Num :=
  let es := unpackE (width src) data
  if isMx src then
    (es.zipIdx).map (fun (b, i) => scaledBy (leAt side (i / 32) 1) (decodeE src b))
  else es.map (decodeE src)

/-- The effective anchor of element e of a CONV (R257). -/
def convAnchor (t : TDesc) (w e : Nat) : Option Int :=
  let i := (64 * (4 * (vxC w / 32)) + e) % 4096
  t.at (i / 64) (i % 64)

/-- Source values, an LA-256 source read under its descriptor (R223). -/
def convValues (x : Ctx) (pl : VxPlan) (t : TDesc) : List Num :=
  let src := vxFmt x.w
  let data := readStream x (w95 x.w) (srcCycles x.c pl)
  if src = 0x0E then
    ((unpackE 256 data).zipIdx).map (fun (b, e) => ofLa (convAnchor t x.w e) (sext 256 b))
  else convSource src data (sideBytes x pl.side)

/-- A CONV into a format with MX scaling: data beats, then scale beats (R254). -/
def convMx (x : Ctx) (dst : Nat) (vs : List Num) : VxOut :=
  let f := (ffmt dst).getD e4m3
  let bl := ((chunks 32 vs.length vs).zipIdx).map (fun (l, i) => mxBlock dst f (rndAt x) (32 * i) l)
  let es := bl.flatMap (fun y => y.2.1)
  let fls := bl.map (fun y => y.2.2)
  let nd := vs.length * width dst / 1024
  { bytes := packE (width dst) es ++ bl.map (fun y => BitVec.ofNat 8 y.1)
    fl := orFl fls, count := vs.length
    marks := fun k => (orFl (if k < nd then ofBeat (32 * width dst) k fls else ofBeat 8 (k - nd) fls), {}) }

/-- CONV. -/
def outConv (x : Ctx) (pl : VxPlan) : VxOut :=
  let w := x.w
  let dst := vxC w % 32
  let la := vxFmt w = 0x0E ∨ dst = 0x0E
  let t : TDesc := if la then tdRead x (vxB w) else { anchor := 0, row := none, col := none }
  let vs := convValues x pl t
  if dst = 0x0E then
    let l := (vs.zipIdx).map (fun (v, e) => toLa (convAnchor t w e) v)
    { bytes := packE 256 (l.map (fun y => twos 256 y.1))
      la := orLa (l.map (fun y => y.2)), count := vs.length
      marks := fun k => ({}, orLa ((ofBeat 256 k l).map (fun y => y.2))) }
  else if isMx dst then convMx x dst vs
  else
    let rs := (vs.zipIdx).map (fun (v, k) => convElem dst (rndAt x k) v)
    let (l, fl) := joinFl rs
    { bytes := packE (width dst) l, fl := fl, count := vs.length, marks := elemMarks (width dst) rs }

/-! ### BFSPLIT (R258, R259) -/

/-- The parts of one FP32 element as BF16 bits, with flags. -/
def bfParts (p : Nat) (bits : Nat) : List Nat × Fl :=
  match decodeF fp32 bits with
  | .fin n m e =>
    let x : Num := .fin n m e
    let (b1, f1) := roundF bf16 .rne n m e
    let (b1, f1) : Nat × Fl :=
      if f1.ovf then (signBit bf16 n + maxBits bf16, { inexact := true, ovf := true }) else (b1, f1)
    let r1 := x.add (decodeF bf16 b1).negate
    let (b2, f2) := encodeF bf16 .rne r1
    let r2 := r1.add (decodeF bf16 b2).negate
    let (b3, f3) := encodeF bf16 .rne r2
    if p = 3 then ([b1, b2, b3], (f1.or f2).or f3) else ([b1, b2], f1.or f2)
  | v => ((encodeF bf16 .rne v).1 :: List.replicate (p - 1) 0, {})

/-- BFSPLIT: destination beats in sequence order, beat ⌊k / P⌋ of part k mod P. -/
def outBfsplit (x : Ctx) (pl : VxPlan) : VxOut :=
  let p := vxC x.w
  let es := unpackE 32 (readStream x (w95 x.w) (srcCycles x.c pl))
  let l := es.map (bfParts p)
  let partBytes (i : Nat) : List Byte := packE 16 (l.map (fun y => y.1.getD i 0))
  let parts := (List.range p).map partBytes
  let n := pl.dst.length
  { bytes := (List.range n).flatMap (fun k => ((parts.getD (k % p) []).drop (128 * (k / p))).take 128)
    fl := orFl (l.map (fun y => y.2)), count := es.length * p
    marks := fun k => (orFl ((ofBeat 16 (k / p) l).map (fun y => y.2)), {}) }

/-! ### EXPSCAN and SPLIT (R225 to R227, R260, R261) -/

/-- The scan value of a row (R260). -/
def scanValue (l : List Num) : Int :=
  if l.any (fun v => !v.isFin) then 32767
  else
    match l.filterMap (fun v => match v with
      | .fin _ m e => if m = 0 then none else some (expOf m e + 1)
      | _ => none) with
    | [] => -32768
    | t :: r => r.foldl max t

/-- The 64 rows of an FP64 tile. -/
def fp64Rows (l : List Byte) : List (List Num) :=
  (chunks 64 64 (unpackE 64 l)).map (fun r => r.map (decodeF fp64))

/-- EXPSCAN. -/
def outExpscan (x : Ctx) (pl : VxPlan) : VxOut :=
  let rows := fp64Rows (readStream x (w95 x.w) (srcCycles x.c pl))
  { bytes := packE 16 (rows.map (fun r => twos 16 (scanValue r))), count := 64 }

/-- trunc(2^k x) of a magnitude. -/
def truncAt (m : Nat) (e k : Int) : Nat :=
  if 0 ≤ e + k then m * 2 ^ (e + k).toNat else m / 2 ^ (-(e + k)).toNat

/-- The s slices of an element under σ (R226). -/
def slicesOf (s : Nat) (sigma : Int) (v : Num) : List Int × Bool :=
  match v with
  | .fin n m e =>
    if m = 0 then (List.replicate s 0, false)
    else if sigma ≤ expOf m e then (List.replicate s (signed n 127), true)
    else
      let t (i : Nat) : Nat := truncAt m e (7 * (i : Int) - sigma)
      ((List.range s).map (fun i => signed n (t (i + 1) - 128 * t i)), false)
  | _ => (List.replicate s 0, false)

/-- A row of SPLIT: the slices of its elements, its exponent entry, its flags (R261). -/
def splitRow (s : Nat) (scan : Int) (l : List Num) : List (List Int) × Int × Fl :=
  if scan = 32767 then (l.map (fun _ => List.replicate s 0), -32768, {})
  else if scan = -32768 then (l.map (fun _ => List.replicate s 0), 0, {})
  else if l.any (fun v => !v.isFin) then
    (l.map (fun _ => List.replicate s 0), -32768, { invalid := true })
  else
    let ys := l.map (slicesOf s scan)
    (ys.map (fun y => y.1), scan, { sat := ys.any (fun y => y.2) })

/-- SPLIT: position k = s × p + i is beat p of slice i; the exponent beat comes last. -/
def outSplit (x : Ctx) (pl : VxPlan) : VxOut :=
  let s := vxC x.w
  let rows := fp64Rows (readStream x (w95 x.w) (srcCycles x.c pl))
  let scans := halves (sideBytes x 1)
  let ys := (rows.zip scans).map (fun (r, v) => splitRow s v r)
  let slice (i : Nat) : List Byte :=
    packE 8 (ys.flatMap (fun y => y.1.map (fun e => twos 8 (e.getD i 0))))
  let slices := (List.range s).map slice
  { bytes := (List.range (32 * s)).flatMap (fun k => ((slices.getD (k % s) []).drop (128 * (k / s))).take 128)
      ++ packE 16 (ys.map (fun y => twos 16 y.2.1))
    fl := orFl (ys.map (fun y => y.2.2)), count := 4096 * s
    marks := fun k =>
      (orFl ((if k < 32 * s then (ys.drop (2 * (k / s))).take 2 else ys).map (fun y => y.2.2)), {}) }

/-! ### VX.FUNC (R262, R263) -/

/-- VX.FUNC. -/
def outFunc (x : Ctx) (pl : VxPlan) : VxOut :=
  let w := x.w
  let f := vxFmt w
  let es := unpackE (width f) (readStream x (w95 w) (srcCycles x.c pl))
  let rs := (es.zipIdx).map (fun (b, k) => kernel (vxFunc w) f ((ffmt f).getD fp32) (rndAt x k) b)
  let (l, fl) := joinFl rs
  { bytes := packE (width f) l, fl := fl, count := es.length, marks := elemMarks (width f) rs }

/-! ### VX.RED (R265, R266) -/

/-- The exact sum of LA-256 elements: finite values as integers, special values as Table 5-2 combines
them. -/
def laSum (l : List Int) : Int × LaFl :=
  let spec := l.filter (fun v => !laFinite v)
  match spec with
  | [] =>
    let v := l.foldl (· + ·) 0
    if laFinite v then (v, {}) else (laNan, { ovf := true })
  | t :: r => r.foldl (fun (y : Int × LaFl) v => ((laAdd y.1 v).1, y.2.or (laAdd y.1 v).2)) (t, {})

/-- The elements of VX.RED as LA-256 values with flags. -/
def redElems (x : Ctx) (pl : VxPlan) : List (Int × LaFl) :=
  let f := vxFmt x.w
  let data := readStream x (w95 x.w) (srcCycles x.c pl)
  let anchor := (tdRead x (vxB x.w)).anchor
  if f = 0x0E then (unpackE 256 data).map (fun b => (sext 256 b, {}))
  else (unpackE (width f) data).map (fun b => toLa (some anchor) (decodeE f b))

/-- SUMALL and ROWSUM, `run` elements to a sum. -/
def outRed (size : Nat) (x : Ctx) (pl : VxPlan) : VxOut :=
  let es := redElems x pl
  let g := if size = 0 then [es] else chunks size es.length es
  let sums := g.map (fun r => laSum (r.map (fun y => y.1)))
  let la (l : List (Int × LaFl)) : LaFl := orLa (l.map (fun y => y.2))
  { bytes := fitTo (128 * pl.dst.length) (packE 256 (sums.map (fun y => twos 256 y.1)))
    la := (la es).or (la sums), count := sums.length
    marks := fun k => ({}, (la ((g.drop (4 * k)).take 4).flatten).or (la (ofBeat 256 k sums))) }

/-! ### VX.TOPK (R267 to R270) -/

/-- A candidate: value, its 32 bits in a record, position or index. -/
structure Cand where
  v : Num
  bits : Nat
  idx : Nat

/-- NaN ranks below −∞; larger values first, then the lower index. -/
def Cand.before (a b : Cand) : Bool :=
  match a.v.cmp b.v with
  | some c => decide (0 < c) || (c == 0 && decide (a.idx < b.idx))
  | none => if a.v.isNan && b.v.isNan then decide (a.idx < b.idx) else b.v.isNan

/-- A candidate put into an ordered list. -/
def insertCand (c : Cand) : List Cand → List Cand
  | [] => [c]
  | y :: r => if c.before y then c :: y :: r else y :: insertCand c r

/-- The k first candidates in order. -/
def topK (k : Nat) (l : List Cand) : List Cand := l.foldl (fun acc c => (insertCand c acc).take k) []

/-- The value of an element as a record holds it (R268). -/
def recordBits (fmt bits : Nat) : Nat :=
  match ifmt fmt with
  | some w => twos 32 (sext w bits)
  | none => (rne32 (decodeE fmt bits)).1

/-- Records as bytes, filled up to k. -/
def topRecords (fmt k add : Nat) (l : List Cand) : List Byte :=
  let fill := leBytes 4 (if (ifmt fmt).isSome then 0x80000000 else 0x7FC00000) ++ leBytes 4 0xFFFFFFFF
  l.flatMap (fun c => leBytes 4 c.bits ++ leBytes 4 ((c.idx + add) % 2 ^ 32))
    ++ (List.replicate (k - l.length) fill).flatten

/-- K of VX.TOPK. -/
def topCount (w : Nat) : Nat := vxC w % 256 + 1

/-- The records go to the scratchpad as whole words, in the beats of R270; the rest of the last beat is not
written (log 13). -/
def topEff (x : Ctx) (l : List Byte) : Eff :=
  let w := x.w
  let nk := (topCount w + 15) / 16
  { writes := beatWrites (vxWp w) (vxD w) (from_ (x.c + vxLen w + 8) nk) l
    st := takePipe x.c (vxLen w) }

/-- SELECT (R267, R268). -/
def effTopSelect (x : Ctx) (_ : Cut) : Eff :=
  let w := x.w
  let f := vxFmt w
  let es := unpackE (width f) (readStream x (w95 w) (from_ x.c (vxLen w)))
  let cs := (es.zipIdx).map (fun (b, i) => ({ v := decodeE f b, bits := recordBits f b, idx := i } : Cand))
  let k := topCount w
  let add := if 256 ≤ vxC w then cntAt x.st 7 x.c else 0
  topEff x (topRecords f k add (topK k cs))

/-- The first k records of a list. -/
def readRecords (fmt k : Nat) (l : List Byte) : List Cand :=
  ((chunks 8 k l).map (fun r =>
    ({ v := decodeE fmt (leAt r 0 4), bits := leAt r 0 4, idx := leAt r 4 4 } : Cand)))

/-- MERGE (R269). -/
def effTopMerge (x : Ctx) (_ : Cut) : Eff :=
  let w := x.w
  let f := vxFmt w
  let k := topCount w
  let cyc := from_ x.c (vxLen w)
  let cs := readRecords f k (readStream x (w95 w) cyc) ++ readRecords f k (readStream x (vxB w) cyc)
  topEff x (topRecords f k 0 (topK k cs))

/-! ### VX.STOP (R271 to R273) -/

/-- INT32 words of bytes. -/
def words32 (l : List Byte) : List Nat := (chunks 4 l.length l).map ofLe

/-- Sequence q of a stop record ends the 16 last tokens (R272). -/
def seqHit (tokens : List Nat) (rec : List Nat) (q : Nat) : Bool :=
  let m := rec.getD (160 + q) 0
  decide (0 < m) && decide (m ≤ 16) &&
    (tokens.drop (16 - m)) == ((rec.drop (32 + 16 * q)).take m)

/-- The result word of a slot (R272). -/
def stopWord (state rec : List Nat) : Nat :=
  if state.getD 17 0 % 2 = 0 then 0
  else
    let tokens := state.take 16
    let last := state.getD 15 0
    let ids := rec.take 32
    let id := ids.findIdx? (fun v => v == last && v != 0xFFFFFFFF)
    let sq := (List.range 8).find? (seqHit tokens rec)
    let mx := rec.getD 168 0
    let maxHit := mx != 0 && decide (sext 32 mx ≤ sext 32 (state.getD 16 0))
    let any := id.isSome || sq.isSome || maxHit
    b2n id.isSome + 2 * b2n sq.isSome + 4 * sq.getD 0 + 32 * b2n maxHit + 64 * id.getD 0 + 2 ^ 31 * b2n any

/-- VX.STOP. -/
def effStop (x : Ctx) (_ : Cut) : Eff :=
  let w := x.w
  let n := vxLen w
  let nk := (n + 31) / 32
  let sa := readStream x (w95 w) ((List.range n).map (fun i => x.c + 6 * i))
  let sb := readStream x (vxB w) (from_ x.c (6 * n))
  let res := (List.range n).map (fun i =>
    stopWord (words32 ((sa.drop (128 * i)).take 128)) (words32 ((sb.drop (768 * i)).take 768)))
  { writes := scatterWrites (vxWp w) (from_ (vxD w) nk) (stopCycles x.c n) (fitTo (128 * nk) (packE 32 res))
    st := takePipe x.c (6 * n) }

/-! ### VX.OCLD, VX.CNTLD, VX.AMAX -/

/-- VX.OCLD LOAD (R237): cache beat C + i is written in cycle v + i + 2 and seen from v + i + 3. -/
def effOcldLoad (x : Ctx) (cut : Cut) : Eff :=
  let w := x.w
  let n := vxLen w
  { cache := ((List.range n).filter (fun i => cut.lets (x.c + i))).map (fun i =>
      { cycle := x.c + i + 2, delay := 1, port := 0, off := 128 * (vxC w + i)
        bytes := x.read (x.c + i) (w95 w + i) })
    st := takePipe x.c n }

/-- VX.OCLD KEY (R250). -/
def effOcldKey (x : Ctx) (cut : Cut) : Eff :=
  let l := x.read x.c (w95 x.w)
  { st := fun s =>
      let s := takePipe x.c 1 s
      if cut.cycle < farAway then s
      else { s with srTensor := BitVec.ofNat 32 (leAt l 0 4), srBase := BitVec.ofNat 64 (leAt l 8 8) } }

/-- Place of a queue in the order of writes to one count register of one cycle (R139): MV, VX, MX. -/
def cntRank (q : Queue) : Nat :=
  match q with
  | .mv => 0
  | .vx => 1
  | .mx => 2

/-- A count-register write put in its place by cycle and rank (R138, R139). -/
def insertCnt (w : CntWrite) : List CntWrite → List CntWrite
  | [] => [w]
  | y :: r =>
    if w.cycle < y.cycle ∨ (w.cycle = y.cycle ∧ w.rank < y.rank) then w :: y :: r else y :: insertCnt w r

/-- A count register written at an issue. -/
def writeCnt (x : Ctx) (reg v : Nat) (s : Station) : Station :=
  { s with cntLog := insertCnt { reg := reg, cycle := x.c, step := (part x.m x.p).step, rank := cntRank x.q
                                 value := v } s.cntLog }

/-- VX.CNTLD (03 Table 3-8). -/
def effCntld (x : Ctx) (cut : Cut) : Eff :=
  let l := x.read x.c (w95 x.w)
  { st := fun s =>
      let s := takePipe x.c 1 s
      if cut.cycle < farAway then s
      else writeCnt x (vxD x.w % 8) (leAt l (4 * (vxC x.w % 32)) 4) s }

/-- m of Table 4-4 for an element format. -/
def fmtM (code : Nat) : Int :=
  match code % 16 with
  | 1 | 2 => 3
  | 3 => 5
  | 4 => 9
  | _ => 16

/-- E of a SCAN (R190). -/
def amaxOf (fmt : Nat) (l : List Byte) : Int :=
  let es : List Int :=
    if isMx fmt then
      (l.filter (fun b => b != 0xFF)).map (fun b => (b.toNat : Int) - 127 + fmtM fmt - 1)
    else (unpackE (width fmt) l).filterMap (fun b => match decodeE fmt b with
      | .fin _ m e => if m = 0 then none else some (expOf m e)
      | _ => none)
  match es with
  | [] => -512
  | t :: r => r.foldl max t

/-- VX.AMAX SCAN (R189, R190). -/
def effAmaxScan (x : Ctx) (_ : Cut) : Eff :=
  let w := x.w
  let n := vxLen w
  let e := amaxOf (vxFmt w) (readStream x (w95 w) (from_ x.c n))
  { writes := [{ cycle := x.c + n + 3, delay := 1, port := vxWp w, off := 128 * vxD w
                 bytes := leBytes 4 (twos 32 e) ++ zeros 124 }]
    st := takePipe x.c n }

/-- Clamping to the range of MXE_AX (R191). -/
def clampAx (v : Int) : Int := if v < -2048 then -2048 else if 2047 < v then 2047 else v

/-- VX.AMAX LOAD (R191). -/
def effAmaxLoad (x : Ctx) (cut : Cut) : Eff :=
  let w := x.w
  let word (b : Nat) : Int := sext 32 (leAt (x.read x.c b) 0 4)
  { st := fun s =>
      let s := takePipe x.c 1 s
      if cut.cycle < farAway then s
      else { s with axLog := s.axLog ++ [(x.c, vxD w % 4, clampAx (word (w95 w) + word (vxB w)))] } }

end Sys2Proof.Machine
end

