-- ==== Sys2Proof/Machine/Recall.lean ====
section
/-! DEFINITION. The reads of instructions that are under way. A read sees the writes of the cycles before it (02 R54, 06
R237), those of instructions that issue after the reader too: as such writes are made, the reads that see them are made
again and the results follow (log 190). An access that meets another is not performed (R52, R108). -/

namespace Sys2Proof.Machine

/-! ### What an instruction reads -/

/-- An instruction of the row makes reads after its issue, or results of such reads (R168). -/
def Row.lingers (r : Row) : Bool :=
  match r with
  | .loadw | .mma | .drain | .vxop | .cvtConv | .cvtBfsplit | .cvtExpscan | .cvtSplit | .vxfunc | .sumall | .rowsum
  | .topSelect | .topMerge | .vxstop | .ocldLoad | .amaxScan | .send | .fetch => true
  | _ => false

/-- The effect of such an instruction. -/
def Row.effect (r : Row) : Ctx → Cut → Eff :=
  match r with
  | .loadw => effLoadw
  | .mma => effMma
  | .drain => effDrain
  | .vxop => effPlan outOp
  | .cvtConv => effPlan outConv
  | .cvtBfsplit => effPlan outBfsplit
  | .cvtExpscan => effPlan outExpscan
  | .cvtSplit => effPlan outSplit
  | .vxfunc => effPlan outFunc
  | .sumall => effPlan (outRed 0)
  | .rowsum => effPlan (outRed 64)
  | .topSelect => effTopSelect
  | .topMerge => effTopMerge
  | .vxstop => effStop
  | .ocldLoad => effOcldLoad
  | .amaxScan => effAmaxScan
  | .send => effSend
  | .fetch => effFetch
  | _ => fun _ _ => {}

/-- The error mask of a word of the operand cache as a read of cycle c meets it. -/
def cacheErr (m : Mach) (key : Nat) (own : Option Nat) (c word : Nat) : BitVec 72 :=
  if ((stn m key).lateC.filter (seen own c)).any (fun w => touches w word) then 0 else tget 0 (stn m key).ocErr word

/-- A read as its beat holds it now: cycle, memory, beat. -/
def gotNow (x : Ctx) (c : Nat) (cache : Bool) (b : Nat) : Got :=
  { plan := c, cycle := c, cache := cache, beat := b, own := x.own, bytes := x.beat cache c b }

/-- The reads of an instruction. -/
def gotsOf (x : Ctx) (sp : Spec) : List Got :=
  (sp.acc.filter (fun a => !a.write)).map (fun a => gotNow x a.cycle false a.beat)
  ++ sp.creads.map (fun (c, b) => gotNow x c true b)

/-- The error mask of a word of a beat as a read meets it. -/
def Got.err (m : Mach) (key : Nat) (g : Got) : Nat → BitVec 72 :=
  if g.cache then cacheErr m key g.own g.cycle else wordErr m key g.own g.cycle

/-- The words of a read whose check gives a result. -/
def Got.words (m : Mach) (key : Nat) (c : Check) (g : Got) : List Nat := wordsThat c (g.err m key) g.beat

/-- The first uncorrectable read (R239, R384): earliest cycle, then the order of the accesses. -/
def firstBad (m : Mach) (key : Nat) : List Got → Cut
  | [] => {}
  | g :: r =>
    let rest := firstBad m key r
    let l := g.words m key .bad
    if l = [] ∨ rest.cycle < g.cycle then rest else { cycle := g.cycle, beat := g.beat, words := l, cache := g.cache }

/-- The corrections that the reads up to a cycle make (R378), and the uncorrectable words of that cycle (R386). -/
def countReads (m0 : Mach) (key cut : Nat) (l : List Got) (m : Mach) : Mach :=
  l.foldl (fun m g =>
    if cut < g.cycle then m
    else
      let m := noteCorrected key 0 g.cache (some g.cycle) g.beat (g.words m0 key .corrected) m
      noteBad key g.cache g.beat (g.words m0 key .bad) m) m

/-! ### Making them again -/

/-- One of some writes is seen by a read. -/
def Got.met (ws wc : List LateWrite) (g : Got) : Bool :=
  !g.fixed && (if g.cache then wc else ws).any (fun w =>
    decide (w.off < 128 * g.beat + 128) && decide (128 * g.beat < w.off + w.bytes.length) && seen g.own g.cycle w)

/-- A read made again where it sees one of some writes. -/
def Got.again (m : Mach) (key : Nat) (ws wc : List LateWrite) (g : Got) : Got :=
  if g.met ws wc then
    { g with bytes := if g.cache then readCache m key g.own g.cycle g.beat else readBeat m key g.own g.cycle g.beat }
  else g

/-- The instruction under way as it issued, in a station whose matrix engine holds what it then held. -/
def Reader.ctx (fz : Fuses) (m : Mach) (key : Nat) (s : Station) (r : Reader) : Ctx :=
  let d := key / 256
  { fz := fz, m := onStn key (fun _ => { s with vxeSeed := r.seed, srTensor := r.tensor, srBase := r.base }) m
    p := partOf m d, d := d, unit := (unitOf m d (key % 256)).getD 0, pidx := key % 256, key := key, q := r.queue
    qs := { stofs := r.stofs }, e := { word := BitVec.ofNat 128 r.word, off := r.off }, w := r.word, c := r.cycle
    own := r.own, got := r.got, buf := some r.buf }

/-- What the instruction does, with the beats that it has read. -/
def Reader.eff (fz : Fuses) (m : Mach) (key : Nat) (s : Station) (r : Reader) : Eff :=
  match rowOf r.word with
  | some y => y.effect (r.ctx fz m key s) r.cut
  | none => {}

/-- A cycle of the queue's own count as a logical cycle of the step that goes on. -/
def backBy (stop d c : Nat) : Nat := if stop ≤ c then c - d else c

/-- The cycle in the count that goes on of a cycle of the instruction's plan (R146). -/
def Reader.place (r : Reader) (c : Nat) : Nat := r.back.foldl (fun c y => backBy y.1 y.2 c) c

/-- A write of some that stands at the place of another. -/
def samePlace (l : List LateWrite) (w : LateWrite) : Option LateWrite :=
  l.find? (fun y => y.cycle == w.cycle && y.port == w.port && y.off == w.off)

/-- Writes not yet contents take new bytes from those that stand at their places. -/
def renewWrites (l : List LateWrite) (old : List LateWrite) : List LateWrite :=
  old.map (fun w => match samePlace l w with
    | some y => { w with bytes := y.bytes }
    | none => w)

/-- Beats on the mesh take new bytes from those of the same sender, receiver, stamp and cycle. -/
def renewBeats (l : List Beat) (old : List Beat) : List Beat :=
  old.map (fun b => match l.find? (fun y => { y with bytes := b.bytes } == b) with
    | some y => y
    | none => b)

/-- Entries of a queue that have not issued take new words from those fetched from the same place. -/
def renewEntries (l : List QEntry) (q : QueueSt) : QueueSt :=
  { q with entries := (q.entries.zipIdx).map (fun (e, i) =>
      match l.find? (fun y => y.off == e.off && y.avail == e.avail) with
      | some y => if q.pos ≤ i then y else e
      | none => e) }

/-- The results of a buffer, in the buffer as it is timed. -/
def BBuf.withData (b y : BBuf) : BBuf := { b with tile := y.tile, scales := y.scales }

/-- The results of a set, in the set as it is timed. -/
def AccSet.withData (a y : AccSet) : AccSet :=
  { a with outs := y.outs, inexact := y.inexact, ovf := y.ovf, invalid := y.invalid }

/-- The matrix engine of a station takes the results that another holds. -/
def Station.withMx (s y : Station) : Station :=
  { s with bbufs := s.bbufs.map (fun e => (e.1, e.2.withData (tget {} y.bbufs e.1)))
           sets := s.sets.map (fun e => (e.1, e.2.withData (tget {} y.sets e.1))) }

/-- A flag register after what it owes to the instructions under way has changed: `base` it held before them. -/
def reflag {n : Nat} (base old new now : BitVec n) : BitVec n :=
  let old := old &&& ~~~base
  let new := new &&& ~~~base
  (now &&& ~~~(old &&& ~~~new)) ||| (new &&& ~~~old)

/-- The union of flags. -/
def orBits {n : Nat} (l : List (BitVec n)) : BitVec n := l.foldl (fun a b => a ||| b) 0

/-- What has been made again so far: the matrix engine as the next instruction finds it, the readers with their flags, the
writes, beats and fetched entries. -/
structure Redo where
  s : Station
  readers : List Reader := []
  writes : List LateWrite := []
  cache : List LateWrite := []
  beats : List Beat := []
  mx : List QEntry := []
  vx : List QEntry := []
  mv : List QEntry := []

/-- The writes of an instruction, at their places in the count that goes on. -/
def Reader.writes (r : Reader) (l : List LateWrite) : List LateWrite :=
  (l.filter (fun w => r.cut.lets w.cycle)).map (fun w => { w with cycle := r.place w.cycle })

/-- One instruction made again, if it or, for the matrix engine, one before it in the step has changed. -/
def redoOne (fz : Fuses) (key : Nat) (m : Mach) (hot : Reader → Bool) (y : Redo) (r : Reader) : Redo :=
  if !hot r then { y with readers := y.readers ++ [r] }
  else
    let e := r.eff fz m key y.s
    let bare : Station := { y.s with mx := {}, vx := {}, mv := {} }
    let t := e.st bare
    let late (l : List QEntry) : List QEntry := l.map (fun e => { e with avail := r.place e.avail })
    { s := if r.queue = .mx then t else y.s
      readers := y.readers ++ [{ r with vx := e.vx, la := e.la, mx := e.mx }]
      writes := y.writes ++ r.writes e.writes, cache := y.cache ++ r.writes e.cache
      beats := y.beats ++ (e.next { m with mesh := [] }).mesh
      mx := y.mx ++ late t.mx.entries, vx := y.vx ++ late t.vx.entries, mv := y.mv ++ late t.mv.entries }

/-- The station in which the first instruction under way issued, as far as results depend on it. -/
def Station.atBase (s : Station) : Station :=
  match s.stepBase with
  | some b => { s with bbufs := b.bbufs, loads := b.loads, sets := b.sets }
  | none => s

/-- The station after its instructions under way, `was`, have been made again. -/
def Station.renew (was : List Reader) (mxToo : Bool) (y : Redo) (s : Station) : Station :=
  let b : StepBase := s.stepBase.getD { bbufs := [], loads := 0, sets := [], vx := 0, la := 0, mx := 0 }
  let s := if mxToo then s.withMx y.s else s
  { s with
    readers := y.readers, late := renewWrites y.writes s.late, lateC := renewWrites y.cache s.lateC
    mx := renewEntries y.mx s.mx, vx := renewEntries y.vx s.vx, mv := renewEntries y.mv s.mv
    vxeFlags := reflag b.vx (orBits (was.map (fun r => r.vx))) (orBits (y.readers.map (fun r => r.vx))) s.vxeFlags
    laFlags := reflag b.la (orBits (was.map (fun r => r.la))) (orBits (y.readers.map (fun r => r.la))) s.laFlags
    mxeFlags := reflag b.mx (orBits (was.map (fun r => r.mx))) (orBits (y.readers.map (fun r => r.mx))) s.mxeFlags }

/-- Instructions under way whose reads have changed from `was` are made again, and their results with them. -/
def redo (fz : Fuses) (key : Nat) (was now : List Reader) (m : Mach) : Mach :=
  let changed (r : Reader) : Bool := !was.contains r
  let mxToo := now.any (fun r => changed r && r.queue == .mx)
  let hot (r : Reader) : Bool := changed r || (mxToo && r.queue == .mx)
  let y := now.foldl (redoOne fz key m hot) { s := (stn m key).atBase }
  onStn key (Station.renew was mxToo y) { m with mesh := renewBeats y.beats m.mesh }

/-- Late writes that one list holds and the other does not. -/
def unlike (a b : List LateWrite) : List LateWrite := a.filter (fun w => !b.contains w)

/-- The reads that see some writes are made again; `fuel` bounds how far one leads to the next. -/
def takeAgain (fz : Fuses) (key : Nat) : Nat → List LateWrite → List LateWrite → Mach → Mach
  | 0, _, _, m => m
  | fuel + 1, ws, wc, m =>
    let s := stn m key
    if s.readers.all (fun r => !r.got.any (Got.met ws wc)) then m
    else
      let now := s.readers.map (fun r => { r with got := r.got.map (Got.again m key ws wc) })
      if now = s.readers then m
      else
        let m := redo fz key s.readers now m
        takeAgain fz key fuel (unlike (stn m key).late s.late) (unlike (stn m key).lateC s.lateC) m

/-- Cycles of the longest step (R279): no chain of reads and writes is longer. -/
def longestStep : Nat := 2 ^ 22

/-- The reads of a station that see some writes are made again. -/
def recallFor (fz : Fuses) (key : Nat) (ws wc : List LateWrite) (m : Mach) : Mach :=
  if ws = [] ∧ wc = [] then m else takeAgain fz key longestStep ws wc m

/-- The reads of a station that see writes made, or taken back, since `was` are made again. -/
def recallSince (fz : Fuses) (key : Nat) (was m : Mach) : Mach :=
  let a := stn was key
  let b := stn m key
  if b.readers = [] then m
  else recallFor fz key (unlike b.late a.late ++ unlike a.late b.late) (unlike b.lateC a.lateC) m

/-! ### Accesses that are not performed (R52, R108) -/

/-- What a read that is not performed delivers: the manual does not say (log 9). -/
def lostBytes (m : Mach) (g : Got) : List Byte :=
  leBytes 128 (Config.choice ((g.cycle * 2 ^ 16 + g.beat) * 2 ^ 64 + m.freeCtr))

/-- A read that is not performed. -/
def Got.lose (m : Mach) (g : Got) : Got := { g with fixed := true, bytes := lostBytes m g }

/-- The access is that read of an instruction of the queue. -/
def Acc.isRead (a : Acc) (q : Queue) (off : Nat) (g : Got) : Bool :=
  !a.write && !g.cache && a.queue == qCode q && a.iaddr == off && a.cycle == g.cycle && a.bank == bankOf g.beat

/-- Reads of an instruction that some accesses name are not performed. -/
def loseGots (m : Mach) (hit : List Acc) (q : Queue) (off : Nat) (l : List Got) : List Got :=
  l.map (fun g => if hit.any (fun a => a.isRead q off g) then g.lose m else g)

/-- A write that one of some accesses makes. -/
def LateWrite.isOf (w : LateWrite) (hit : List Acc) : Bool :=
  hit.any (fun a => a.write && a.cycle == w.cycle && a.port == w.port && a.own == w.own)

/-- Some accesses of a station are not performed: its reads deliver free bytes, its writes are taken back. -/
def loseAccs (fz : Fuses) (key : Nat) (hit : List Acc) (m : Mach) : Mach :=
  if hit = [] then m
  else
    let was := (stn m key).readers
    let gone := (stn m key).late.filter (fun w => w.isOf hit)
    let now := was.map (fun r => { r with got := loseGots m hit r.queue r.off r.got })
    let m := onStn key (fun s => { s with
      acc := s.acc.map (fun a => if hit.contains a then { a with lost := true } else a)
      late := s.late.filter (fun w => !w.isOf hit) }) m
    recallFor fz key gone [] (if now = was then m else redo fz key was now m)

end Sys2Proof.Machine
end

