-- ==== Sys2Proof/Machine/Release.lean ====
section
/-! DEFINITION. The release of a hold (07 R295, R297, R301), the return of a queue that ran in its own count of cycles
(03 R146, R148), and the assertion of a cause (R294). -/

namespace Sys2Proof.Machine

/-! ### Halts of a station -/

/-- The station of a unit stops and its partition halts, in a cycle, unless the station has stopped before (R151, R154). -/
def haltStation (fz : Fuses) (p d unit pidx : Nat) (q : Queue) (cycle reason sub arg : Nat) (iaddr : Option Nat) (m : Mach) :
    Mach :=
  match (stn m (stKey d pidx)).halted with
  | some h => if h < cycle then m else go m
  | none => go m
where
  /-- The station stops and the partition halts. -/
  go (m : Mach) : Mach :=
    haltPart fz p { reason := reason, die := d, queue := qCode q, unit := unit, pidx := pidx
                    cycle := cycle, iaddr := iaddr, subcode := sub, arg := arg, station := true
                    issuer := none }
      (onStn (stKey d pidx) (fun s => { s with halted := some (cycle : Int) }) m)

/-! ### Release (R295, R301) -/

/-- Length of the union of half-open intervals, which are given in order of their starts. -/
def unionLen (from_ : Int) : List (Int × Int) → Nat
  | [] => 0
  | (a, b) :: r =>
    let lo := if a < from_ then from_ else a
    if b ≤ lo then unionLen lo r else (b - lo).toNat + unionLen b r

/-- An interval put in order of its start. -/
def insertIv (x : Int × Int) : List (Int × Int) → List (Int × Int)
  | [] => [x]
  | y :: r => if x.1 < y.1 then x :: y :: r else y :: insertIv x r

/-- The units that assert a cause in a hold, each once. -/
def unitsOf (k : Nat) (l : List CauseSt) : List (Nat × Nat) :=
  ((l.filter (fun c => c.code == k)).map (fun c => (c.die, c.unit))).foldr
    (fun y acc => if acc.contains y then acc else y :: acc) []

/-- Wall cycles for which a unit asserts a cause (R301). -/
def heldFor (k : Nat) (l : List CauseSt) (u : Nat × Nat) : Nat :=
  let mine := l.filter (fun c => c.code == k && c.die == u.1 && c.unit == u.2)
  let iv := (mine.map (fun c => (c.since, c.clear.getD c.since))).foldr insertIv []
  match iv with
  | [] => 0
  | y :: _ => unionLen y.1 iv

/-- HLD_CNT increments of a cause. -/
def causeCycles (k : Nat) (l : List CauseSt) : Nat := (unitsOf k l).foldl (fun n u => n + heldFor k l u) 0

/-- The register that counts a cause (R301, R323). -/
def causeReg (k : Nat) : Reg :=
  match k with
  | 0 => .hldCntDma
  | 1 => .hldCntLink
  | 2 => .hldCntCistern
  | 3 => .hldCntHost
  | 4 => .hldCntRefresh
  | _ => .hldCntGate

/-- The wall cycle r of R295. -/
def releaseAt (h : Hold) : Int :=
  h.causes.foldl (fun r c => match c.clear with
    | some k => if r < k then k else r
    | none => r) h.first

/-- Hold cycles of the step, for its telemetry record (Table 19-7). -/
def StepHolds.add (s : StepHolds) (total : Nat) (per : Nat → Nat) : StepHolds :=
  { total := s.total + total, episodes := s.episodes + 1
    causes := (List.range 6).foldl (fun t k => tmod 0 t k (fun n => n + per k)) s.causes }

/-- The counters of a hold that ends (R301); HLD_EPISODES counts it here too (DEDUCED, log 41). -/
def countHold (p : Nat) (h : Hold) (m : Mach) : Mach :=
  let total := (releaseAt h - h.first).toNat
  let per (k : Nat) : Nat := causeCycles k h.causes
  let m := (List.range 6).foldl (fun m k => bumpBy (causeReg k) (iPart p) 0 (per k) m) m
  let m := bump .hldEpisodes (iPart p) (bumpBy .hldCntTotal (iPart p) 0 total m)
  onPart p (fun q => { q with stepHolds := q.stepHolds.add total per }) m

/-! ### A queue that ran in its own count (R146) -/

/-- A late write of the own count, placed in the count that goes on. -/
def backLate (stop d : Nat) (w : LateWrite) : LateWrite :=
  if w.own then { w with cycle := backBy stop d w.cycle, own := false } else w

/-- A reader of the own count, placed in the count that goes on; its reads from before the resumption are settled. -/
def Reader.return (stop d : Nat) (r : Reader) : Reader :=
  { r with
    back := r.back ++ [(stop, d)]
    got := r.got.map (fun g =>
      if g.own.isSome then
        let c := backBy stop d g.cycle
        { g with cycle := c, own := none, fixed := g.fixed || decide (c < stop) }
      else g) }

/-- A queue's own count comes to its end: the partition resumes at cycle `stop`, d cycles later in wall time
than that cycle fell in the own count. -/
def backQueue (stop d : Nat) (q : Queue) (s : Station) : Station :=
  let b := backBy stop d
  let mine (w : CntWrite) : Bool := w.rank == cntRank q && decide (stop ≤ w.cycle)
  let s := s.onQueue q (fun y => { y with entries := y.entries.map (fun e => { e with avail := b e.avail }) })
  let s : Station := { s with
    acc := s.acc.map (fun a => if a.own && a.queue == qCode q then { a with cycle := b a.cycle, own := false } else a)
    readers := s.readers.map (fun r => if r.queue = q then r.return stop d else r)
    cntLog := ((s.cntLog.filter mine).map (fun w => { w with cycle := b w.cycle })).foldl (fun l w => insertCnt w l)
      (s.cntLog.filter (fun w => !mine w)) }
  match q with
  | .mx => { s with
      mmaNext := b s.mmaNext
      bbufs := s.bbufs.map (fun (k, y) => (k, { y with complete := b y.complete, busy := b y.busy }))
      sets := s.sets.map (fun (k, y) => (k, { y with ready := b y.ready, drainEnd := b y.drainEnd })) }
  | .vx => { s with
      pipe0 := b s.pipe0, pipe1 := b s.pipe1
      axLog := s.axLog.map (fun y => (b y.1, y.2)) }
  | .mv => s

/-- Late writes of a station at the resumption: those from before it become contents, the rest go on in order. -/
def backWrites (stop d key : Nat) (m : Mach) : Mach :=
  let gone (w : LateWrite) : Bool := decide ((backLate stop d w).cycle < stop)
  let m := settleCIf key gone (settleIf key gone m)
  let back (l : List LateWrite) : List LateWrite := l.foldl (fun l w => addLate (backLate stop d w) l) []
  onStn key (fun s => { s with late := back s.late, lateC := back s.lateC }) m

/-- Accesses of some that meet one of others in a cycle. -/
def metIn (k : Nat) (others l : List Acc) : List Acc :=
  l.filter (fun a => others.any (fun b => anyClash a b && clashCycle a b == k))

/-- Accesses of a region that fall after the resumption keep the limits of R52 and R108 with those of the other queues. -/
def checkBack (fz : Fuses) (d unit stop : Nat) (q : Queue) (was : List Acc) (m : Mach) : Mach :=
  match physOf m d unit with
  | none => m
  | some pidx =>
    let key := stKey d pidx
    let region (a : Acc × Acc) : Bool := a.1.own && a.1.queue == qCode q && decide (stop ≤ a.2.cycle)
    let l := was.zip (stn m key).acc
    let mine := (l.filter region).map (fun a => a.2)
    let rest := ((l.filter (fun a => !region a)).map (fun a => a.2)).filter (fun a => decide (stop ≤ a.cycle + a.hold))
    match firstClash ((clashesOf rest mine).filter (fun y => (metIn y.1 rest mine) ≠ [])) with
    | none => m
    | some (k, sub, arg) =>
      haltStation fz (partOf m d) d unit pidx q k 0x03 sub arg ((metIn k rest mine).head?.map (fun a => a.iaddr))
        (loseAccs fz key (metIn k rest mine ++ metIn k mine rest) { m with freeCtr := m.freeCtr + 1 })

/-- The reads of a station that are not settled are made again. -/
def recallAll (fz : Fuses) (key : Nat) (m : Mach) : Mach :=
  recallFor fz key (stn m key).late (stn m key).lateC m

/-- The queues that ran in their own count return to the step's. -/
def endOwn (fz : Fuses) (h : Hold) (d : Nat) (m : Mach) : Mach :=
  (h.causes.filter (fun c => c.code == 5)).foldl (fun m c =>
    match keyOf m c.die c.unit, qOf c.queue with
    | some key, some q =>
      let stop := h.stop.toNat
      let was := (stn m key).acc
      checkBack fz c.die c.unit stop q was (recallAll fz key (backWrites stop d key (onStn key (backQueue stop d q) m)))
    | _, _ => m) m

/-- LATE_STEP (R827): the step in progress and those before it start late. -/
def tellLate (p : Nat) (m : Mach) : Mach :=
  let q := part m p
  if m.evtCfg.lateThr * 1000 < q.late ∧ m.evtCfg.lateN ≤ q.lateRun + 1 ∧ q.lateTold = false then
    raiseEvt 0x0003 1 (iPart p) q.late (onPart p (fun q => { q with lateTold := true }) m)
  else m

/-- Nanoseconds of some core cycles of a partition. -/
def cyclesNs (q : Part) (n : Nat) : Nat := n * 4 / quarters q.cur

/-- The earlier of two ends of a step, if any. -/
def earlierStop (a : Option Int) (b : Int) : Option Int := some (match a with
  | some x => if x ≤ b then x else b
  | none => b)

/-- A hold whose causes have all cleared is released in wall cycle r: its stop cycle executes in wall cycle r + 6 (R295).
After a halt it is not (R304). One that began in the pre-step cycles counts in the start lateness (R297). -/
def resume (fz : Fuses) (p : Nat) (h : Hold) (m : Mach) : Mach :=
  let m := countHold p h m
  let q := part m p
  let r := releaseAt h
  if h.carried ∨ !runs m p then
    onPart p (fun q => { q with hold := none, lastStop := if h.carried then q.lastStop else earlierStop q.lastStop h.stop })
      (reachNs (q.startNs + cyclesNs q (r + 6).toNat) m)
  else
    let shift := r + 6 - h.stop
    let d := (shift - q.shift).toNat
    let late := if h.stop < 6 then cyclesNs q d else 0
    tellLate p (onPart p (fun q => { q with
      hold := none, shift := shift, late := q.late + late
      resumes := q.resumes ++ [{ stop := h.stop, shift := q.shift, r := r }] }) (endOwn fz h d m))

/-- A cause asserted in logical cycle x (R294): the first assertion sets the stop point, later ones of the same hold do
not move it. A hold in which no cause is asserted any more has been released (R295), and a further one begins. -/
def assertCause (fz : Fuses) (p : Nat) (x : Int) (c : CauseSt) (m : Mach) : Mach :=
  match (part m p).hold with
  | some h =>
    if openCauses h = [] ∧ releaseAt h ≤ c.since then
      let m := resume fz p h m
      startHold p (c.since - (part m p).shift) c m
    else onPart p (fun q => { q with hold := some { h with causes := h.causes ++ [c] } }) m
  | none => startHold p x c m

end Sys2Proof.Machine
end

