-- ==== Sys2Proof/Machine/Issue.lean ====
section
/-! DEFINITION. The issue of an instruction: which instruction is next and in which cycle (03 Table 3-5), the
checks of R149 in their order, the hold check (R125, R128), and what an issue leaves in the station. -/

namespace Sys2Proof.Machine

/-! ### The next instruction of a queue -/

/-- The issue cycle of Table 3-5. -/
def issueCycle (q : QueueSt) (w : Nat) : Nat := if q.firstRow then wDelta w else q.ref + wDelta w

/-- A cause of a hold is that of the elastic region of this queue (R146). -/
def gateCause (d unit : Nat) (q : Queue) (c : CauseSt) : Bool :=
  c.code == 5 && c.die == d && c.unit == unit && c.queue == qCode q

/-- The stop cycle, while the queue runs its elastic region in its own count (R146). -/
def ownOf (m : Mach) (p d unit : Nat) (q : Queue) : Option Nat :=
  match (part m p).hold with
  | some h =>
    if !h.carried && (openCauses h).any (gateCause d unit q) then some h.stop.toNat else none
  | none => none

/-- The next instruction of a queue of a virtual station and its issue. -/
def ctxAt (fz : Fuses) (m : Mach) (d unit : Nat) (q : Queue) : Option Ctx := do
  let pidx ← physOf m d unit
  let key := stKey d pidx
  let qs := ((stn m key).queue q).passed
  let e ← qs.entries[qs.pos]?
  let w := e.word.toNat
  let p := partOf m d
  some { fz := fz, m := m, p := p, d := d, unit := unit, pidx := pidx, key := key, q := q, qs := qs
         e := e, w := w, c := issueCycle qs w, own := ownOf m p d unit q }

/-- The next instruction of a queue and its issue. -/
def ctxOf (fz : Fuses) (m : Mach) (a : At) : Option Ctx := ctxAt fz m a.die.val a.unit.val a.q

/-- A unit acts in a cycle of the step in progress: nothing has stopped its partition or its station before
it (R151, R294, R304, R313). -/
def acts (m : Mach) (p key : Nat) (own : Option Nat) (c : Int) : Bool :=
  let q := part m p
  q.inStep
  && q.lasts c
  && (match q.hold with
      | some h => h.carried || decide (c < h.stop) || own.isSome
      | none => true)
  && (match (stn m key).halted with
      | some h => decide (c ≤ h)
      | none => true)

/-- The queue takes part in the step and has not ended (R97). -/
def active (s : Station) (q : Queue) : Bool := (s.ibuf q).len != 0 && !(s.queue q).ended

/-- The cycle in which the queue passes the on-time bound of its region (R146). -/
def Gate.bound (g : Gate) : Int := (g.g : Int) + g.b - 6

/-! ### Halts of a unit -/

/-- A halt raised by a unit of a station, in a cycle (R151, R154). -/
def haltUnit (x : Ctx) (cycle : Nat) (reason sub arg : Nat) (iaddr : Option Nat) (m : Mach) : Mach :=
  haltStation x.fz x.p x.d x.unit x.pidx x.q cycle reason sub arg iaddr m

/-- What the checks of R149 find. -/
inductive Verdict where
  | halt (cycle reason sub arg : Nat)
  | wait (l : List (Nat × Option Int))
  | pass
  deriving DecidableEq, Repr

/-- Cycle in which a queue halts for an instruction that is late (R104). -/
def lateCycle (avail w : Nat) : Nat := if avail ≤ w - 1 then avail else w - 1

/-- The instruction is not in its queue in time: by the cycle in which it would issue, or by cycle W − 1 (R104). -/
def notIn (x : Ctx) : Bool := decide (x.c < x.e.avail) || decide (stepW x.m x.p - 1 < x.e.avail)

/-- Offset that the record of QUEUE_UNDERRUN holds (R104). -/
def lateOff (x : Ctx) : Nat := if x.e.avail ≤ stepW x.m x.p - 1 then x.e.off else x.qs.nextOff

/-- An open loop whose body this instruction would make longer than 448 (R136); the CT.ENDLOOP of a body
does not belong to it (R131, log 8). -/
def bodyTooLong (x : Ctx) : Bool :=
  (x.qs.loops.zipIdx).any (fun (l, i) =>
    decide (448 ≤ x.qs.pos - l.start) && !(i == 0 && wOp x.w == 0x53))

/-- GATE_ILLEGAL (R142). -/
def gateIllegal (x : Ctx) : Bool :=
  x.qs.gate.isSome && !([1, 2, 5].contains (wOp x.w / 16) && wOp x.w != 0x58)

/-- OPERAND_RANGE conditions that every instruction is checked for (R95, R96, R136, R142, R284, R288): an effect past the
end of the step is an access, or a write of VX.OCLD two cycles after its read (R237). -/
def commonConds (x : Ctx) (sp : Spec) : List (Nat × Nat) :=
  let w := stepW x.m x.p
  cond (!x.qs.firstRow && wDelta x.w == 0) 4 0
  ++ fv ((isH6 x.m x.p && isVx (wOp x.w) && x.qs.refVx && !x.qs.firstRow && wDelta x.w == 1)
      || decide (w ≤ x.c) || sp.acc.any (fun a => decide (w ≤ a.cycle + (if rowOf x.w = some .ocldLoad then 2 else 0)))) 104
  ++ cond (bodyTooLong x) 0xA (qCode x.q)
  ++ cond (gateIllegal x) 0xF (wOp x.w)

/-- The new accesses as the station records them. -/
def newAccs (x : Ctx) (sp : Spec) : List Acc := sp.acc.map (fun a => a.record x.q x.own x.e.off)

/-- Accesses that can meet a new one. -/
def nearAccs (x : Ctx) : List Acc := x.st.acc.filter (fun a => decide (x.c ≤ a.cycle + a.hold))

/-- Clashes of the instruction's accesses, by cycle (R51 to R53, R108). -/
def clashes (x : Ctx) (sp : Spec) : List (Nat × Nat × Nat) := clashesOf (nearAccs x) (newAccs x sp)

/-- The first operand range, in beats, that leaves the slice (R49, R106): first offset and length. Of several the manual
names none; reads come before writes, in the order of the operands, and the region opened last (DESIGN CHOICE, log 188). -/
def boundsBad (sp : Spec) : Option (Nat × Nat) :=
  let opened := match sp.opens with
    | some (_, b, n) => [(b, n)]
    | none => []
  ((sp.reads ++ sp.writes ++ opened).find? (fun (b, n) => decide (n ≠ 0) && decide (32768 < b + n))).map
    (fun (b, n) => (128 * b, 128 * n))

/-- First byte offset at which beats meet a descriptor's region. -/
def meets (b n : Nat) (d : Desc) : Option Nat :=
  if n ≠ 0 ∧ b < d.base + d.len ∧ d.base < b + n then some (128 * (if b ≤ d.base then d.base else b)) else none

/-- The descriptors that are open for an instruction (R119, R128), `more` among them. -/
def openDescs (x : Ctx) (more : List (Nat × Desc)) : List (Nat × Desc) :=
  x.st.sbd.filter (fun y => x.desc y.1 ≠ .free) ++ more

/-- The descriptor was opened in the check cycle of this instruction or later (R126). -/
def openedLate (x : Ctx) (d : Desc) : Bool :=
  d.openStep == (part x.m x.p).step && decide ((x.c : Int) - 6 ≤ d.openAt)

/-- The lowest of the offsets. -/
def firstMeet (l : List (Nat × Nat)) (d : Desc) : Option Nat :=
  minOf (l.filterMap (fun (b, n) => meets b n d))

/-- REGION_CONFLICT (R122, R123, R126): descriptor and first overlapping offset. -/
def regionBad (x : Ctx) (sp : Spec) (more : List (Nat × Desc)) : Option (Nat × Nat) :=
  let opened := match sp.opens with
    | some (_, b, n) => [(b, n)]
    | none => []
  (openDescs x more).findSome? (fun (i, d) =>
    let r := if !d.out && openedLate x d then sp.reads else []
    (firstMeet (sp.writes ++ opened ++ r) d).map (fun o => (i, o)))

/-- The state of a descriptor as a check in a wall cycle sees it (R120): PENDING, with the wall cycle in
which the check will find it READY where that is known. One opened after the check of its SB.CLOSE counts as PENDING there
(DESIGN CHOICE, log 182). -/
def pendingAt (m : Mach) (p : Nat) (st : DescState) (d : Desc) (wall : Int) : Option (Option Int) :=
  match st with
  | .free => none
  | .pending => some none
  | .ready =>
    if d.readyStep = (part m p).step ∧ wall ≤ d.readyAt then some (some (d.readyAt + 1)) else none

/-- A cause of a check in a logical cycle that has cleared belongs to a hold that is released already. -/
def heldThen (q : Part) (c : Int) (r : Option Int) : Bool :=
  match r with
  | none => false
  | some k => q.resumes.any (fun y => decide (c < y.stop) && decide (k ≤ y.r))

/-- Descriptors for which the hold check of an instruction fails (R125, R127, R128). -/
def holdFails (x : Ctx) (sp : Spec) : List (Nat × Option Int) :=
  let c : Int := (x.c : Int) - 6
  x.st.sbd.filterMap (fun (i, d) =>
    if sp.closes = some i ∨ (d.out = false ∧ (firstMeet sp.reads d).isSome) then
      ((pendingAt x.m x.p (x.desc i) d (wallOf x.m x.p c)).map (fun r => (i, r))).filter
        (fun y => !heldThen (part x.m x.p) c y.2)
    else none)

/-- The checks of R149, in order; `here` are conflicts of its issue cycle, `more` regions that other queues open in it. -/
def verdictWith (x : Ctx) (sp : Spec) (here : List (Nat × Nat)) (more : List (Nat × Desc)) : Verdict :=
  let op := wOp x.w
  let q := qCode x.q
  if notIn x then
    .halt (lateCycle x.e.avail (stepW x.m x.p)) 0x08 0 (pair24 q (lateOff x))
  else if !(opAssigned (isH6 x.m x.p) op && accepts x.q op) then .halt x.c 0x01 0 (pair24 q op)
  else match reservedBit x.w with
  | some b => .halt x.c 0x02 0 b
  | none =>
  match leastPair (sp.conds ++ commonConds x sp ++ here) with
  | some (sub, arg) => .halt x.c 0x03 sub arg
  | none =>
  if sp.nest then .halt x.c 0x09 0 q
  else match boundsBad sp with
  | some (o, n) => .halt x.c 0x04 0 (pair24 o n)
  | none =>
  match regionBad x sp more with
  | some (i, o) => .halt x.c 0x05 0 (pair24 i o)
  | none =>
  match sp.last with
  | (r, sub, arg) :: _ => .halt x.c r sub arg
  | [] =>
  match holdFails x sp with
  | [] => .pass
  | l => .wait l

/-! ### The other queues in the issue cycle (R119, R150, R151) -/

/-- The specification of the instruction of a context. -/
def specOf (x : Ctx) : Spec :=
  match rowOf x.w with
  | some r => specRow r x
  | none => {}

/-- Conflicts of the issue cycle with some accesses (R52, R108). -/
def clashWith (x : Ctx) (sp : Spec) (old : List Acc) : List (Nat × Nat) :=
  ((clashesOf old (newAccs x sp)).filter (fun y => y.1 == x.c)).map (fun y => y.2)

/-- What the checks find of an instruction by itself. -/
def verdictAlone (x : Ctx) (sp : Spec) : Verdict := verdictWith x sp (clashWith x sp (nearAccs x)) []

/-- The limit of the region passes before this instruction would issue. -/
def pastLimit (x : Ctx) : Option Gate := x.qs.gate.filter (fun g => decide (g.g + g.l < x.c))

/-- The instructions that the other queues of the station issue in the same cycle. -/
def peers (x : Ctx) : List Ctx :=
  ((([Queue.mx, .vx, .mv].filter (fun q => q != x.q)).filterMap (ctxAt x.fz x.m x.d x.unit)).filter (fun y =>
    y.c == x.c && y.own == x.own && active y.st y.q && (pastLimit y).isNone))

/-- Those of them that pass the checks by themselves. -/
def goodPeers (x : Ctx) : List Ctx := (peers x).filter (fun y => verdictAlone y (specOf y) == .pass)

/-- The accesses of some instructions. -/
def accsOf (l : List Ctx) : List Acc := l.flatMap (fun y => newAccs y (specOf y))

/-- Direction of a long-running instruction (Table 3-11). -/
def opensOut (w : Nat) : Bool :=
  match wOp w with
  | 0x61 => true
  | 0x62 => false
  | _ => mvOut w

/-- The region that an instruction opens in this cycle (R119). -/
def opening (x : Ctx) : Option (Nat × Desc) :=
  (specOf x).opens.map (fun (i, b, n) =>
    (i, { state := .pending, out := opensOut x.w, base := b, len := n, openAt := x.c, openStep := (part x.m x.p).step }))

/-- The checks of R149 at the issue of an instruction: it also meets the accesses of the queues behind it in the order of
R150, and the regions that others open in its cycle. -/
def verdict (x : Ctx) (sp : Spec) : Verdict :=
  let l := goodPeers x
  verdictWith x sp (clashWith x sp (nearAccs x ++ accsOf (l.filter (fun y => decide (qCode x.q < qCode y.q)))))
    (l.filterMap opening)

/-- A queue before this one in the order of R150 halts for a conflict with this instruction. -/
def clashAhead (x : Ctx) (sp : Spec) : Bool :=
  (clashWith x sp (accsOf ((goodPeers x).filter (fun y => decide (qCode y.q < qCode x.q))))) != []

/-- The instruction halts its unit in its issue cycle. -/
def stopsHere (x : Ctx) : Bool :=
  match verdictAlone x (specOf x) with
  | .halt k _ _ _ => k == x.c
  | _ => false

/-- The queue halts for want of an instruction: in which cycle, and the offset recorded (R104). -/
def QueueSt.underrun (q : QueueSt) (w : Nat) : Option (Nat × Nat) :=
  match q.entries[q.pos]? with
  | none => some (w - 1, q.nextOff)
  | some e =>
    if w - 1 < e.avail then some (w - 1, q.nextOff)
    else if issueCycle q e.word.toNat < e.avail then some (e.avail, e.off)
    else none

/-- No instruction of the queue issues by a cycle. -/
def QueueSt.idleTo (q : QueueSt) (c : Nat) : Bool :=
  match q.entries[q.pos]? with
  | none => true
  | some e => decide (c < issueCycle q e.word.toNat) || decide (c < e.avail)

/-- The queue has an instruction that would issue only past the step (R285). -/
def QueueSt.stepOpen (q : QueueSt) (w : Nat) : Bool :=
  match q.underrun w, q.entries[q.pos]? with
  | none, some e => decide (w ≤ issueCycle q e.word.toNat)
  | _, _ => false

/-- A queue halts in a cycle in which it issues nothing: QUEUE_UNDERRUN, GATE_TIMEOUT, STEP_OPEN. -/
def QueueSt.idleStops (q : QueueSt) (w c : Nat) : Bool :=
  (match q.gate with
    | some g => decide (g.g + g.l = c) && q.idleTo c
    | none => false)
  || decide ((q.underrun w).map (fun y => y.1) = some c) || (q.stepOpen w && decide (c = w - 1))

/-- Another queue of the station halts in the cycle of the instruction without one of its own. -/
def idleStop (x : Ctx) : Bool :=
  ([Queue.mx, .vx, .mv].filter (fun q => q != x.q)).any (fun q =>
    active x.st q && decide (ownOf x.m x.p x.d x.unit q = x.own)
      && (x.st.queue q).passed.idleStops (stepW x.m x.p) x.c)

/-- The stamp that a slot expects (R289). -/
def RecvSt.stamp (r : RecvSt) (i : Nat) : Nat := r.xfer * 8 + (r.beat + i) % 8

/-- The slot of a receive stream in a cycle. -/
def RecvSt.slot (r : RecvSt) (c : Nat) : Option Nat :=
  if r.cycle ≤ c ∧ c < r.cycle + r.len ∧ r.taken ≤ c - r.cycle then some (c - r.cycle) else none

/-- The beat that the local port delivers to a station in a cycle (R72). -/
def deliveredBeat (m : Mach) (step d unit c : Nat) : Option Beat :=
  m.mesh.find? (fun b => b.lane.isNone && b.dstDie == d && b.dstUnit == unit && b.step == step && b.due == c)

/-- The slots of the station in a cycle. -/
def slotsIn (s : Station) (c : Nat) : List (RecvSt × Nat) := s.recvs.filterMap (fun r => (r.slot c).map (fun i => (r, i)))

/-- A beat is the one that a slot expects (R290). -/
def slotFits (b : Option Beat) (y : RecvSt × Nat) : Bool :=
  match b with
  | some b => b.stamp == y.1.stamp y.2 && b.srcDie == y.1.die && b.srcUnit == y.1.unit
  | none => false

/-- The receive stream that an MV.RECV holds (R114, R289). -/
def recvSt (x : Ctx) : RecvSt :=
  { cycle := x.c, len := mvLen x.w, loc := w95 x.w, wp := mvPort x.w, die := mvDie x.w, unit := mvUnit x.w
    wop := mvWop x.w, xfer := (wXfer x.w + x.qs.stofs) % 32, beat := wBeat x.w, iaddr := x.e.off }

/-- The slots of a cycle that find no beat of theirs (R290). -/
def slotsUnmet (b : Option Beat) (l : List (RecvSt × Nat)) : List (RecvSt × Nat) :=
  let live := l.filter (fun y => !y.1.dead)
  match live.find? (slotFits b) with
  | some y => live.erase y
  | none => live

/-- The slots that some instructions open in the cycle. -/
def slotsOpened (l : List Ctx) : List (RecvSt × Nat) :=
  (l.filter (fun y => rowOf y.w == some Row.recv)).map (fun y => (recvSt y, 0))

/-- A slot of the cycle other than the instruction's own does not find its beat, or a beat finds no slot (R290, R291). -/
def slotStop (x : Ctx) : Bool :=
  let b := deliveredBeat x.m (part x.m x.p).step x.d x.unit x.c
  let mine := slotsOpened [x]
  let slots := slotsIn x.st x.c ++ slotsOpened (goodPeers x) ++ mine
  (slotsUnmet b slots).any (fun y => !mine.contains y) || (b.isSome && slots == [])

/-- Something else halts a unit of the station in the cycle of the instruction (R151). -/
def othersStop (x : Ctx) : Bool := (peers x).any stopsHere || idleStop x || (x.own.isNone && slotStop x)

/-! ### Hold checks and regions past their budget -/

/-- The hold cause of a descriptor's instruction. -/
def causeOf (x : Ctx) (i : Nat) (r : Option Int) : CauseSt :=
  { die := x.d, unit := x.unit, code := (sbd x.st i).cause, desc := i
    since := wallOf x.m x.p ((x.c : Int) - 6), queue := qCode x.q, iaddr := x.e.off, clear := r }

/-- The same check of the same instruction has asserted its cause already. -/
def CauseSt.same (a b : CauseSt) : Bool :=
  a.die == b.die && a.unit == b.unit && a.code == b.code && a.desc == b.desc && a.queue == b.queue
    && a.iaddr == b.iaddr

/-- A cause asserted once. -/
def assertOnce (fz : Fuses) (p : Nat) (cycle : Int) (c : CauseSt) (m : Mach) : Mach :=
  match (part m p).hold with
  | some h => if h.causes.any (fun y => y.same c) then m else assertCause fz p cycle c m
  | none => assertCause fz p cycle c m

/-- Causes asserted for the descriptors whose check failed (R125, R128, R294). -/
def assertWaits (x : Ctx) (l : List (Nat × Option Int)) (m : Mach) : Mach :=
  l.foldl (fun m (i, r) => assertOnce x.fz x.p ((x.c : Int) - 6) (causeOf x i r) m) m

/-- The accesses, writes and reads of a queue from a cycle on fall in its own count (R146). -/
def markOwn (key : Nat) (q : Queue) (stop : Nat) (m : Mach) : Mach :=
  onStn key (fun s =>
    let mine (a : Acc) : Bool := a.queue == qCode q && decide (stop ≤ a.cycle)
    let of (w : LateWrite) : Bool := s.acc.any (fun a => mine a && a.write && a.cycle == w.cycle && a.port == w.port)
    let got (g : Got) : Got := if stop ≤ g.cycle then { g with own := some stop } else g
    { s with acc := s.acc.map (fun a => if mine a then { a with own := true } else a)
             late := s.late.map (fun w => if of w then { w with own := true } else w)
             readers := s.readers.map (fun r => if r.queue = q then { r with got := r.got.map got } else r) }) m

/-- A queue asserts the cause GATE in the cycle in which it passes its bound (R146), if it runs there. -/
def assertGate (fz : Fuses) (p d unit key : Nat) (q : Queue) (g : Gate) (m : Mach) : Mach :=
  if acts m p key (ownOf m p d unit q) g.bound then
    let m := assertOnce fz p g.bound { die := d, unit := unit, code := 5, desc := 0xFFFFFF
                                       since := wallOf m p g.bound, queue := qCode q, iaddr := g.iaddr } m
    match (part m p).hold with
    | some h => if h.carried then m else markOwn key q h.stop.toNat m
    | none => m
  else m

/-- A region that the issue of this instruction finds past its bound has asserted GATE (R146). -/
def autoGate (x : Ctx) (m : Mach) : Mach :=
  match x.qs.gate with
  | some g => if g.bound < (x.c : Int) then assertGate x.fz x.p x.d x.unit x.key x.q g m else m
  | none => m

/-- GATE_TIMEOUT (R147, R154): a hold of cause GATE in force ends as a halt. -/
def haltGate (x : Ctx) (g : Gate) (m : Mach) : Mach :=
  let m := assertGate x.fz x.p x.d x.unit x.key x.q g m
  if acts m x.p x.key (ownOf m x.p x.d x.unit x.q) (g.g + g.l) then
    haltUnit x (g.g + g.l) 0x0A (qCode x.q) (pair24 g.l g.g) (some g.iaddr) m
  else m

/-! ### The effect of an issue -/

/-- The instruction's own accesses that meet another in a cycle (R52, R108). -/
def lostHere (x : Ctx) (k : Nat) (sp : Spec) : List Acc :=
  let new := newAccs x sp
  ((new.zipIdx).filter (fun (a, i) =>
    (nearAccs x ++ ((new.zipIdx).filter (fun (_, j) => j != i)).map (fun y => y.1)).any
      (fun b => anyClash a b && clashCycle a b == k))).map (fun y => y.1)

/-- Earlier accesses that meet one of the instruction's in a cycle. -/
def lostBefore (x : Ctx) (k : Nat) (sp : Spec) : List Acc := metIn k (newAccs x sp) (nearAccs x)

/-- The queue and the access list after an issue; `lost` of its accesses are not performed. -/
def issued (x : Ctx) (sp : Spec) (lost : List Acc) (s : Station) : Station :=
  { (s.onQueue x.q (fun _ => { x.qs.advance x.e with
      ref := x.c, firstRow := false, refVx := isVx (wOp x.w) })) with
    acc := s.acc ++ (newAccs x sp).map (fun a => if lost.contains a then { a with lost := true } else a) }

/-- The station after an effect. -/
def Eff.on (e : Eff) (s : Station) : Station :=
  let t := e.st s
  { t with vxeFlags := t.vxeFlags ||| e.vx, laFlags := t.laFlags ||| e.la, mxeFlags := t.mxeFlags ||| e.mx }

/-- The instruction as it is under way. -/
def readerOf (x : Ctx) (cut : Cut) (got : List Got) (e : Eff) : Reader :=
  { queue := x.q, word := x.w, cycle := x.c, off := x.e.off, own := x.own, stofs := x.qs.stofs, cut := cut, got := got
    buf := (mmaBuf x.st x.c).getD 0, seed := x.st.vxeSeed, tensor := x.st.srTensor, base := x.st.srBase
    vx := e.vx, la := e.la, mx := e.mx }

/-- The station follows an instruction whose results depend on its reads; `was` is the station before the issue. -/
def follow (x : Ctx) (cut : Cut) (got : List Got) (e : Eff) (was s : Station) : Station :=
  if (rowOf x.w).any Row.lingers then
    { s with
      readers := s.readers ++ [readerOf x cut got e]
      stepBase := some (s.stepBase.getD
        { bbufs := was.bbufs, loads := was.loads, sets := was.sets, vx := was.vxeFlags, la := was.laFlags, mx := was.mxeFlags }) }
  else s

/-- The station after the issue and the effect of an instruction. -/
def onIssue (x : Ctx) (sp : Spec) (lost : List Acc) (cut : Cut) (got : List Got) (e : Eff) (m : Mach) : Mach :=
  onStn x.key (fun s => follow x cut got e s (e.on (issued x sp lost s))) m

/-- A write of an instruction, marked if it falls in its queue's own count of cycles (R146). -/
def ownWrite (x : Ctx) (w : LateWrite) : LateWrite :=
  { w with own := match x.own with
    | some stop => decide (stop ≤ w.cycle)
    | none => false }

/-- Writes of the operand cache put to those not yet seen by every later read. -/
def cacheAll (key : Nat) (l : List LateWrite) (m : Mach) : Mach :=
  if l = [] then m else onStn key (fun s => { s with lateC := l.foldl (fun l w => addLate w l) s.lateC }) m

/-- The writes of an instruction are made, and the reads of those under way that see them are made again (R54). -/
def writeOut (x : Ctx) (ws wc : List LateWrite) (m : Mach) : Mach :=
  recallFor x.fz x.key ws wc (cacheAll x.key wc (writeAll x.key ws m))

/-- The instruction of a context issues and passed its checks: its accesses, its effect, and the halts that
its later cycles raise (R52, R108, R384). -/
def perform (x : Ctx) (sp : Spec) (eff : Ctx → Cut → Eff) (m : Mach) : Mach :=
  let got := gotsOf x sp
  let cut := firstBad x.m x.key got
  let late := (firstClash (clashes x sp)).filter (fun y => decide (y.1 ≤ cut.cycle))
  let lost := match late with
    | some y => lostHere x y.1 sp
    | none => []
  let got := if lost = [] then got else loseGots x.m lost x.q x.e.off got
  let e := eff (if lost = [] then x else { x with got := got }) cut
  let m := countReads x.m x.key cut.cycle got m
  let m := match late with
    | some y => loseAccs x.fz x.key (lostBefore x y.1 sp) { m with freeCtr := m.freeCtr + 1 }
    | none => m
  let m := onIssue x sp lost cut got e m
  let ws := ((e.writes.filter (fun w => cut.lets w.cycle)).map (ownWrite x)).filter (fun w => !w.isOf lost)
  let m := e.next (writeOut x ws (e.cache.map (ownWrite x)) m)
  match late with
  | some (k, sub, arg) =>
    haltUnit x k 0x03 sub arg (some x.e.off) { m with freeCtr := m.freeCtr + 1 }
  | none =>
    if cut.cycle = farAway then m
    else haltUnit x cut.cycle 0x0C (if cut.cache then 2 else 1)
      (pair24 (if cut.cache then cut.beat else 128 * cut.beat) (maskOf cut.words)) (some x.e.off) m

/-- A halt of the instruction's unit that its checks find; a conflict of accesses is one of both instructions (R52). -/
def haltChecked (x : Ctx) (sp : Spec) (cycle reason sub arg : Nat) (m : Mach) : Mach :=
  if acts m x.p x.key x.own cycle then
    haltUnit x cycle reason sub arg (some (if reason = 0x08 then lateOff x else x.e.off))
      (if reason = 0x03 ∧ (sub = 2 ∨ sub = 3) then
        loseAccs x.fz x.key (lostBefore x x.c sp) { m with freeCtr := m.freeCtr + 1 } else m)
  else m

/-- The instruction of a context comes to its issue cycle; in a cycle in which a unit of the station halts, no unit of
it issues (R151). -/
def issueAt (x : Ctx) (sp : Spec) (eff : Ctx → Cut → Eff) (m : Mach) : Mach :=
  match verdict x sp with
  | .halt cycle reason sub arg => haltChecked x sp cycle reason sub arg m
  | .wait l => assertWaits x l m
  | .pass =>
    if othersStop x ∨ clashAhead x sp ∨ (stn m x.key).halted = some (x.c : Int) then m else perform x sp eff m

/-- The next instruction of a queue, if it is of this row, comes to its issue cycle. Where no instruction of
the row can issue there, nothing happens (log 10). -/
def issue (a : At) (r : Row) (spec : Ctx → Spec) (eff : Ctx → Cut → Eff) (fz : Fuses) (m : Mach) : Mach :=
  match ctxOf fz m a with
  | none => m
  | some x =>
    if rowOf x.w ≠ some r ∨ active x.st x.q = false then m
    else
      match pastLimit x with
      | some g => haltGate x g m
      | none =>
        let m := autoGate x m
        let x := { x with m := m, own := ownOf m x.p x.d x.unit x.q }
        if acts m x.p x.key x.own x.c then issueAt x (spec x) eff m else m

end Sys2Proof.Machine
end

