-- ==== Sys2Proof/Machine/Sequence.lean ====
section
/-! DEFINITION. Control instructions (03): waits, loops, elastic regions, stamp offsets, count registers, fetch
and the end of a queue's work; the halts of a queue without an instruction. -/

namespace Sys2Proof.Machine

/-- An effect on the queue that issues. -/
def onOwn (x : Ctx) (f : QueueSt → QueueSt) : Eff := { st := fun s => s.onQueue x.q f }

/-! ### Waits, loops -/

/-- CT.WAIT (03 after R98). -/
def execCtWait (a : At) (s : State) : Host.Outcome State Fault Refusal :=
  run s (issue a .wait (specRow .wait) (fun _ _ => {}))

/-- A loop opens on the entry after the instruction (R131, R132). -/
def pushLoop (n : Nat) (q : QueueSt) : QueueSt :=
  { q with loops := { start := q.pos, left := n, gated := q.gate.map (fun g => g.g) } :: q.loops }

/-- CT.LOOP. -/
def execCtLoop (a : At) (s : State) : Host.Outcome State Fault Refusal :=
  run s (issue a .loop (specRow .loop) (fun x _ => onOwn x (pushLoop (ctCount x.w))))

/-- CT.LOOPR (R133): a latched 0 skips the body. -/
def effLoopr (x : Ctx) (_ : Cut) : Eff :=
  let n := cntAt x.st (ctCnt x.w) x.c
  onOwn x (fun q => if n = 0 then { q with skip := 1 } else pushLoop n q)

/-- CT.LOOPR. -/
def execCtLoopr (a : At) (s : State) : Host.Outcome State Fault Refusal :=
  run s (issue a .loopr (specRow .loopr) effLoopr)

/-- The end of a trip (R131). -/
def endTrip (q : QueueSt) : QueueSt :=
  match q.loops with
  | [] => q
  | l :: r =>
    if 1 < l.left then { q with loops := { l with left := l.left - 1 } :: r, pos := l.start }
    else { q with loops := r }.trim

/-- CT.ENDLOOP. -/
def execCtEndloop (a : At) (s : State) : Host.Outcome State Fault Refusal :=
  run s (issue a .endloop (specRow .endloop) (fun x _ => onOwn x endTrip))

/-! ### Elastic regions -/

/-- CT.GATE opening a region (R140). -/
def effGateOpen (x : Ctx) (_ : Cut) : Eff :=
  onOwn x (fun q => { q with gate := some { g := x.c, b := gateB x.w, l := gateL x.w, iaddr := x.e.off } })

/-- CT.GATE, opening. -/
def execCtGateOpen (a : At) (s : State) : Host.Outcome State Fault Refusal :=
  run s (issue a .gateOpen (specRow .gateOpen) effGateOpen)

/-- CT.GATE closing a region (R94, R146, R296): the next instruction counts from g + B, and the cause of the
queue clears. -/
def effGateClose (x : Ctx) (_ : Cut) : Eff :=
  { st := fun s => s.onQueue x.q (fun q =>
      match q.gate with
      | some g => { q with gate := none, ref := g.g + g.b, refVx := false }
      | none => q)
    next := clearCause x.p (wallOf x.m x.p x.c) (gateCause x.d x.unit x.q) }

/-- CT.GATE, closing. -/
def execCtGateClose (a : At) (s : State) : Host.Outcome State Fault Refusal :=
  run s (issue a .gateClose (specRow .gateClose) effGateClose)

/-! ### Stamp offset, count registers -/

/-- CT.STAMP (R116). -/
def effStamp (x : Ctx) (_ : Cut) : Eff :=
  onOwn x (fun q => { q with stofs := if stampAdd x.w then (q.stofs + stampVal x.w) % 32 else stampVal x.w })

/-- CT.STAMP. -/
def execCtStamp (a : At) (s : State) : Host.Outcome State Fault Refusal :=
  run s (issue a .stamp (specRow .stamp) effStamp)

/-- CT.SETCNT (R138, R139). -/
def effSetcnt (x : Ctx) (_ : Cut) : Eff := { st := writeCnt x (ctCnt x.w) (setVal x.w) }

/-- CT.SETCNT. -/
def execCtSetcnt (a : At) (s : State) : Host.Outcome State Fault Refusal :=
  run s (issue a .setcnt (specRow .setcnt) effSetcnt)

/-! ### Fetch -/

/-- CT.FETCH. -/
def execCtFetch (a : At) (s : State) : Host.Outcome State Fault Refusal :=
  run s (issue a .fetch (specRow .fetch) effFetch)

/-! ### End of a queue's work in a step -/

/-- CT.STEPEND (R97): the next instruction is the first after it (R94). -/
def effStepend (x : Ctx) (_ : Cut) : Eff := onOwn x (fun q => { q with ended := true, firstRow := true, refVx := false })

/-- CT.STEPEND. -/
def execCtStepend (a : At) (s : State) : Host.Outcome State Fault Refusal :=
  run s (issue a .stepend (specRow .stepend) effStepend)

/-- The place of a queue, without an instruction. -/
def seatOf (fz : Fuses) (m : Mach) (a : At) : Option Ctx := do
  let d := a.die.val
  let pidx ← physOf m d a.unit.val
  let key := stKey d pidx
  let p := partOf m d
  some { fz := fz, m := m, p := p, d := d, unit := a.unit.val, pidx := pidx, key := key, q := a.q
         qs := ((stn m key).queue a.q).passed, e := { word := 0, off := 0 }, w := 0, c := 0
         own := ownOf m p d a.unit.val a.q }

/-- A halt of a queue in a cycle in which it issues nothing. -/
def idleHalt (x : Ctx) (cycle reason sub arg : Nat) (iaddr : Option Nat) (m : Mach) : Mach :=
  match pastLimit { x with c := cycle } with
  | some _ => m
  | none =>
    let m := autoGate { x with c := cycle } m
    if active x.st x.q && acts m x.p x.key (ownOf m x.p x.d x.unit x.q) cycle then
      haltUnit x cycle reason sub arg iaddr m
    else m

/-- QUEUE_UNDERRUN (R104). -/
def queueUnderrun (a : At) (fz : Fuses) (m : Mach) : Mach :=
  match seatOf fz m a with
  | none => m
  | some x =>
    match x.qs.underrun (stepW m x.p) with
    | none => m
    | some (c, off) => idleHalt x c 0x08 0 (pair24 (qCode x.q) off) (some off) m

/-- QUEUE_UNDERRUN. -/
def execQueueUnderrun (a : At) (s : State) : Host.Outcome State Fault Refusal :=
  run s (queueUnderrun a)

/-- STEP_OPEN (R285): a queue without CT.STEPEND in cycle W − 1. -/
def stepOpen (a : At) (fz : Fuses) (m : Mach) : Mach :=
  match seatOf fz m a with
  | none => m
  | some x =>
    let w := stepW m x.p
    if x.qs.stepOpen w then idleHalt x (w - 1) 0x03 0x10 (pair24 x.qs.loops.length (b2n x.qs.gate.isSome)) none m else m

/-- STEP_OPEN. -/
def execStepOpen (a : At) (s : State) : Host.Outcome State Fault Refusal := run s (stepOpen a)

/-- The next instruction's opcode is unassigned or of a class the queue does not accept (R89, R93). -/
def opIllegal (x : Ctx) : Bool := !(opAssigned (isH6 x.m x.p) (wOp x.w) && accepts x.q (wOp x.w))

/-- ILLEGAL_OPCODE: such an instruction comes to its issue cycle. -/
def illegalOpcode (a : At) (fz : Fuses) (m : Mach) : Mach :=
  match ctxOf fz m a with
  | none => m
  | some x =>
    if opIllegal x = false ∨ active x.st x.q = false then m
    else
      match pastLimit x with
      | some g => haltGate x g m
      | none =>
        let m := autoGate x m
        let x := { x with m := m, own := ownOf m x.p x.d x.unit x.q }
        if acts m x.p x.key x.own x.c then issueAt x {} (fun _ _ => {}) m else m

/-- ILLEGAL_OPCODE. -/
def execIllegalOpcode (a : At) (s : State) : Host.Outcome State Fault Refusal := run s (illegalOpcode a)

end Sys2Proof.Machine
end

