-- ==== Sys2Proof/Machine/Holds.lean ====
section
/-! DEFINITION. Holds (07 R293 to R303): the checks that assert a cause, the release, the limit; the budget and
limit of an elastic region (03 R146 to R148). -/

namespace Sys2Proof.Machine

/-! ### Asserting -/

/-- HOLD_CHECK (R125, R128, R297): the next instruction of a queue is checked six cycles before its issue. -/
def holdCheck (a : At) (fz : Fuses) (m : Mach) : Mach :=
  match ctxOf fz m a with
  | none => m
  | some x =>
    match rowOf x.w with
    | none => m
    | some r =>
      if opIllegal x || !active x.st x.q || !acts m x.p x.key x.own ((x.c : Int) - 6) then m
      else assertWaits x (holdFails x (specRow r x)) m

/-- HOLD_CHECK. -/
def execHoldCheck (a : At) (s : State) : Host.Outcome State Fault Refusal := run s (holdCheck a)

/-- GATE_HOLD (R146): a region passes its bound. -/
def gateHold (a : At) (fz : Fuses) (m : Mach) : Mach :=
  match seatOf fz m a with
  | none => m
  | some x =>
    match x.qs.gate with
    | none => m
    | some g => if x.qs.idleTo g.bound.toNat then assertGate x.fz x.p x.d x.unit x.key x.q g m else m

/-- GATE_HOLD. -/
def execGateHold (a : At) (s : State) : Host.Outcome State Fault Refusal := run s (gateHold a)

/-- GATE_TIMEOUT (R147): a region reaches its limit. -/
def gateTimeout (a : At) (fz : Fuses) (m : Mach) : Mach :=
  match seatOf fz m a with
  | none => m
  | some x =>
    match x.qs.gate with
    | none => m
    | some g => if x.qs.idleTo (g.g + g.l) then haltGate x g m else m

/-- GATE_TIMEOUT. -/
def execGateTimeout (a : At) (s : State) : Host.Outcome State Fault Refusal := run s (gateTimeout a)

/-! ### Release -/

/-- HOLD_RELEASE (R148, R295, R298): once every cause has cleared, the partition goes on; after a halt it does
not (R304). A hold that stops the partition between two steps is released there. -/
def holdRelease (p : Nat) (fz : Fuses) (m : Mach) : Mach :=
  match (part m p).hold with
  | none => m
  | some h => if openCauses h ≠ [] ∨ (h.carried ∧ (part m p).inStep) then m else resume fz p h m

/-- HOLD_RELEASE. -/
def execHoldRelease (p : Fin 4) (s : State) : Host.Outcome State Fault Refusal :=
  run s (holdRelease p.val)

/-! ### Limit -/

/-- The earliest of the causes still asserted. -/
def firstOpen : List CauseSt → Option CauseSt
  | [] => none
  | c :: r =>
    match firstOpen r with
    | none => some c
    | some d => some (if c.since ≤ d.since then c else d)

/-- The halt HOLD_LIMIT of a hold, for the unit of a cause. -/
def limitHalt (fz : Fuses) (p : Nat) (h : Hold) (c : CauseSt) (m : Mach) : Mach :=
  let edge := c.queue == 3
  haltPart fz p { reason := 0x0F, die := c.die, queue := c.queue, unit := c.unit
                  pidx := if edge then 0xFF else (physOf m c.die c.unit).getD 0xFF
                  cycle := h.stop, iaddr := if edge then none else some c.iaddr, subcode := c.code
                  arg := pair24 c.desc ((nowNs m - h.sinceNs) / 1000), station := true, issuer := none } m

/-- HOLD_LIMIT (R302): 100 ms of module time have passed since the first assertion. -/
def holdLimit (p : Nat) (fz : Fuses) (m : Mach) : Mach :=
  match (part m p).hold with
  | none => m
  | some h =>
    match firstOpen (openCauses h) with
    | none => m
    | some c => if runs m p then limitHalt fz p h c (reachNs (h.sinceNs + 100000001) m) else m

/-- HOLD_LIMIT. -/
def execHoldLimit (p : Fin 4) (s : State) : Host.Outcome State Fault Refusal :=
  run s (holdLimit p.val)

end Sys2Proof.Machine
end

