-- ==== Sys2Proof/Machine/Mover.lean ====
section
/-! DEFINITION. The stream mover (03 R90, R113 to R118): sends, receives, and the opening of long-running
transfers to and from HBM, host memory and the cistern (08), and SB.CLOSE. -/

namespace Sys2Proof.Machine

/-! ### Streams -/

/-- MV.SEND. -/
def execMvSend (a : At) (s : State) : Host.Outcome State Fault Refusal :=
  run s (issue a .send specSend effSend)

/-- MV.RECV (R114): its slots wait for their beats. -/
def effRecv (x : Ctx) (_ : Cut) : Eff :=
  { st := fun s => { s with recvs := s.recvs ++ [recvSt x] } }

/-- MV.RECV. -/
def execMvRecv (a : At) (s : State) : Host.Outcome State Fault Refusal :=
  run s (issue a .recv specRecv effRecv)

/-! ### Long-running transfers (R118, Table 3-11) -/

/-- The descriptor that a long-running instruction opens. -/
def openDesc (x : Ctx) (out : Bool) (cause : Nat) (s : Station) : Station :=
  let d : Desc :=
    { state := .pending, out := out, cause := cause, base := w95 x.w, len := mvLen x.w, openAt := x.c
      openStep := (part x.m x.p).step, readyAt := 0, readyStep := 0, iaddr := x.e.off }
  { s with sbd := tput {} s.sbd (mvDesc x.w) d }

/-- The transfer that a long-running instruction requests: kind 0 MV.DMA, 1 MV.HOST, 2 MV.CIST,
3 LK.INJECT, 4 LK.EXPECT. -/
def xferOf (x : Ctx) (kind : Nat) (out : Bool) (port addr mode : Nat) : Xfer :=
  { key := x.key, die := x.d, unit := x.unit, desc := mvDesc x.w, kind := kind, out := out, loc := w95 x.w
    len := mvLen x.w, port := port, addr := addr, mode := mode, iaddr := x.e.off }

/-- The request goes along its lane to a tap of an edge station (08 R327), where it arrives after their travel time
(R70). -/
def askAt (x : Ctx) (d unit tap : Nat) (t : Xfer) : Xfer :=
  let rows := meshRows x.m x.p
  { t with tap := tap
           asked := ((part x.m x.p).step, x.c + travel rows (spotOf rows x.d x.unit 0) (spotOf rows d unit tap)) }

/-- A request comes before another at an edge station. -/
def Xfer.sooner (a b : Xfer) : Bool :=
  decide (a.asked.1 < b.asked.1) || (a.asked.1 == b.asked.1 && decide (a.asked.2 < b.asked.2))

/-- A request put among those of an edge station in the order of their arrival (R333); of two that arrive in one cycle the
one of the earlier command comes first (DESIGN CHOICE, log 189). -/
def insertReq (t : Xfer) : List Xfer → List Xfer
  | [] => [t]
  | y :: r => if t.sooner y then t :: y :: r else y :: insertReq t r

/-- MV.DMA (R335): the request goes to the wellhead. -/
def effDma (x : Ctx) (_ : Cut) : Eff :=
  let w := x.w
  let t := askAt x (wellDie (dmaWh w)) (wellUnit (dmaWh w)) (dmaTap w)
    (xferOf x 0 (mvOut w) (dmaPort w) (dmaHaddr w) (dmaMode w))
  { st := openDesc x (mvOut w) 0, next := onWell (dmaWh w) (fun h => { h with queue := insertReq t h.queue }) }

/-- MV.DMA COPY. -/
def execMvDmaCopy (a : At) (s : State) : Host.Outcome State Fault Refusal :=
  run s (issue a .dmaCopy specDma effDma)

/-- MV.DMA DEC_E2M1, DEC_E2M3, DEC_E3M2. -/
def execMvDmaDecode (a : At) (s : State) : Host.Outcome State Fault Refusal :=
  run s (issue a .dmaDecode specDma effDma)

/-- MV.DMA GATHER. -/
def execMvDmaGather (a : At) (s : State) : Host.Outcome State Fault Refusal :=
  run s (issue a .dmaGather specDma effDma)

/-- MV.DMA SCORE. -/
def execMvDmaScore (a : At) (s : State) : Host.Outcome State Fault Refusal :=
  run s (issue a .dmaScore specDma effDma)

/-- MV.DMA QLOAD. -/
def execMvDmaQload (a : At) (s : State) : Host.Outcome State Fault Refusal :=
  run s (issue a .dmaQload specDma effDma)

/-- MV.DMA SGATHER. -/
def execMvDmaSgather (a : At) (s : State) : Host.Outcome State Fault Refusal :=
  run s (issue a .dmaSgather specDma effDma)

/-- A transfer put before the host gateway of a die. -/
def pushHost (d : Nat) (t : Xfer) (m : Mach) : Mach :=
  { m with hosts := tmod [] m.hosts d (insertReq t) }

/-- MV.HOST (R361). -/
def effHost (x : Ctx) (_ : Cut) : Eff :=
  let w := x.w
  { st := openDesc x (mvOut w) 3
    next := pushHost x.d (askAt x x.d 0xF8 0 (xferOf x 1 (mvOut w) (hcPort w) (hcAddr w) 0)) }

/-- MV.HOST. -/
def execMvHost (a : At) (s : State) : Host.Outcome State Fault Refusal :=
  run s (issue a .mvhost specHost effHost)

/-- MV.CIST (R365). -/
def effCist (x : Ctx) (_ : Cut) : Eff :=
  let w := x.w
  { st := openDesc x (mvOut w) 2, next := pushHost x.d (askAt x x.d 0xF8 0 (xferOf x 2 (mvOut w) (hcPort w) (hcAddr w) 0)) }

/-- MV.CIST. -/
def execMvCist (a : At) (s : State) : Host.Outcome State Fault Refusal :=
  run s (issue a .mvcist specCist effCist)

/-! ### SB.CLOSE -/

/-- The region of an LK.EXPECT that a descriptor opened is closed (11 R493). -/
def closeRegion (d key desc : Nat) (m : Mach) : Mach :=
  { m with links := tmod [] m.links d (fun l => l.filter (fun t => !(t.kind == 4 && t.key == key && t.desc == desc))) }

/-- SB.CLOSE frees its descriptor, for instructions of later cycles (R128); only STATE changes (R157). -/
def effClose (x : Ctx) (_ : Cut) : Eff :=
  { next := closeRegion x.d x.key (sbDesc x.w)
    st := fun s => { s with sbd := tmod {} s.sbd (sbDesc x.w) (fun d => { d with
      state := .free, was := x.desc (sbDesc x.w), closeAt := some ((part x.m x.p).step, x.c) }) } }

/-- SB.CLOSE. -/
def execSbClose (a : At) (s : State) : Host.Outcome State Fault Refusal :=
  run s (issue a .sbclose (specRow .sbclose) effClose)

/-! ### Receive slots (07 R290, R291) -/

/-- DETAIL argument of a stamp halt (Table 7-7). -/
def stampArg (expected : Option (Nat × Nat)) (beat : Option Beat) : Nat :=
  pack [(8, (expected.map (fun e => e.1)).getD 0), (1, b2n expected.isNone), (1, b2n beat.isNone)
    , (8, (beat.map (fun b => b.stamp)).getD 0), (2, (beat.map (fun b => b.srcDie)).getD 0)
    , (8, (beat.map (fun b => b.srcUnit)).getD 0), (8, 0), (12, (expected.map (fun e => e.2)).getD 0)] 0

/-- A halt of a station in a cycle, raised by a slot or by a beat without one. -/
def haltSlot (fz : Fuses) (p d unit pidx c reason arg : Nat) (r : Option RecvSt) (m : Mach) : Mach :=
  haltPart fz p { reason := reason, die := d, queue := if r.isSome then 2 else 3, unit := unit, pidx := pidx
                  cycle := c, iaddr := r.map (fun y => y.iaddr), subcode := 0, arg := arg, station := true
                  issuer := none }
    (onStn (stKey d pidx) (fun s => { s with halted := match s.halted with
      | some h => some (if h ≤ (c : Int) then h else c)
      | none => some (c : Int) }) m)

/-- A 32-bit FP32 sum under RNE with the flags of INS_FLAGS (Table 8-2, Table 8-13). -/
def insFp32 (d e : Nat) : Nat × BitVec 4 :=
  let x := decodeF fp32 d
  let y := decodeF fp32 e
  let (b, f) := rne32 (x.add y)
  (b, BitVec.ofNat 4 (b2n (f.inexact || f.ovf) + 2 * b2n f.ovf
    + 4 * b2n ((x.add y).isNan && !x.isNan && !y.isNan)))

/-- An insole operation on one element: result, INS_FLAGS, INS_LAFLAGS (Table 8-2). -/
def insOp (wop d e : Nat) : Nat × BitVec 4 × BitVec 3 :=
  match wop with
  | 1 => ((insFp32 d e).1, (insFp32 d e).2, 0)
  | 2 =>
    let v := sext 32 d + sext 32 e
    ((d + e) % 2 ^ 32, if (satI 32 v).2 then 8 else 0, 0)
  | 3 =>
    let (v, f) := laAdd (sext 256 d) (sext 256 e)
    (twos 256 v, 0, f.bits)
  | 4 => (if sext 32 d ≤ sext 32 e then e else d, 0, 0)
  | _ => (e, 0, 0)

/-- Element width of an insole operation. -/
def insWidth (wop : Nat) : Nat := if wop = 3 then 256 else 32

/-- Parts of a beat that are written: pieces of `size` bytes none of whose words is uncorrectable (R382,
R384). -/
def goodParts (size : Nat) (bad : List Nat) (l : List Byte) : List (Nat × List Byte) :=
  if bad = [] then [(0, l)]
  else (((chunks size l.length l).zipIdx).map (fun (y, i) => (size * i, y))).filter (fun (o, y) =>
    !bad.any (fun w => decide (8 * w < o + y.length) && decide (o < 8 * w + 8)))

/-- Bytes written into a station's slice by an insole operation or a store in a cycle: results, the writes,
flags, and the checks of the read-modify-write (R325, R326, R381, R382, R408). `quick`: outside the logical cycles, where
an operation is over before the next one begins. Answers the words that are uncorrectable. -/
def insWrite (key wop port cycle : Nat) (quick : Bool) (off : Nat) (bytes : List Byte) (m : Mach) : Mach × List Nat :=
  if wop = 0 then
    (writeScratch key { cycle := cycle, delay := 1, port := port, off := off, bytes := bytes } m, [])
  else
    let w := insWidth wop
    let beat := off / 128
    let at_ := if quick then cycle + 1 else cycle
    let err := wordErr m key none at_
    let here (i : Nat) : Bool := decide (off < 128 * beat + 8 * i + 8) && decide (128 * beat + 8 * i < off + bytes.length)
    let bad := (wordsThat .bad err beat).filter here
    let fixed := (wordsThat .corrected err beat).filter here
    let old := ((readBeat m key none at_ beat).drop (off % 128)).take bytes.length
    let es := (unpackE w old).zip (unpackE w bytes)
    let rs := es.map (fun y => insOp wop y.1 y.2)
    let parts := goodParts (if wop = 3 then 32 else 8) (bad.map (fun i => i - off % 128 / 8)) (packE w (rs.map (fun y => y.1)))
    let size := w / 8
    let ok (i : Nat) : Bool := parts.any (fun (o, y) => decide (o ≤ size * i) && decide (size * i < o + y.length))
    let done := ((rs.zipIdx).filter (fun (_, i) => ok i)).map (fun y => y.1)
    let m := noteCorrected key 1 false (some cycle) beat fixed m
    let m := parts.foldl (fun m (o, y) =>
      writeScratch key { cycle := cycle, delay := if quick then 1 else 3, port := port, off := off + o, bytes := y } m) m
    let m := onStn key (fun s => { s with
      insFlags := done.foldl (fun f y => f ||| y.2.1) s.insFlags
      laFlags := done.foldl (fun f y => f ||| y.2.2) s.laFlags }) m
    (m, bad)

/-- A slot's own write has met another access and is not performed (R52, R108). -/
def slotLost (s : Station) (r : RecvSt) (i c : Nat) : Bool :=
  s.acc.any (fun a => a.lost && a.write && a.queue == 2 && a.cycle == c && a.port == r.wp && a.bank == bankOf (r.loc + i))

/-- A beat written under a slot (R290, R325). -/
def takeBeat (fz : Fuses) (p d unit pidx c : Nat) (r : RecvSt) (i : Nat) (b : Beat) (m : Mach) : Mach :=
  let key := stKey d pidx
  let off := 128 * (r.loc + i)
  let m := bump .stnRxbeats (iStn key) (onStn key (fun s => { s with
    stampLast := { cycle := c, step := (part m p).step, a := b.srcDie, b := b.stamp, c := 0 } }) m)
  if slotLost (stn m key) r i c then m
  else
    let y := insWrite key r.wop r.wp c false off b.bytes m
    let m := recallSince fz key m y.1
    if y.2 = [] then m
    else
      haltPart fz p { reason := 0x0C, die := d, queue := 2, unit := unit, pidx := pidx, cycle := c
                      iaddr := some r.iaddr, subcode := 1, arg := pair24 off (maskOf y.2), station := true
                      issuer := none }
        (noteBad key false (off / 128) y.2 (onStn key (fun s => { s with halted := some (c : Int) }) m))

/-- The slots of a cycle are decided; those that halt hold their stream (R291). -/
def closeSlots (c : Nat) (dead : List RecvSt) (s : Station) : Station :=
  { s with recvs := s.recvs.map (fun r =>
      match r.slot c with
      | some i => { r with taken := i + 1, dead := r.dead || dead.contains r }
      | none => r) }

/-- The stamp check of a cycle (Table 7-3, R290, R291). -/
def beatReceive (fz : Fuses) (d unit c : Nat) (m : Mach) : Mach :=
  let p := partOf m d
  match physOf m d unit with
  | none => m
  | some pidx =>
    if !executes m p c then m
    else
      let key := stKey d pidx
      let m := if 2 ≤ c then routerForward d unit 0 (c - 2) m else m
      let beat := deliveredBeat m (part m p).step d unit c
      let slots := slotsIn (stn m key) c
      let live := slots.filter (fun y => !y.1.dead)
      let m := match beat with
        | some b => { m with mesh := m.mesh.erase b }
        | none => m
      let halt (reason : Nat) (b : Option Beat) (m : Mach) (y : RecvSt × Nat) : Mach :=
        haltSlot fz p d unit pidx c reason (stampArg (some (y.1.stamp y.2, y.2)) b) (some y.1) m
      match beat, live, live.find? (slotFits beat) with
      | none, _, _ =>
        live.foldl (halt 0x07 none) (onStn key (closeSlots c (live.map (fun y => y.1))) m)
      | some b, _, some y =>
        let rest := live.erase y
        let m := onStn key (closeSlots c (rest.map (fun z => z.1))) m
        rest.foldl (halt 0x07 none) (takeBeat fz p d unit pidx c y.1 y.2 b m)
      | some b, y :: _, none =>
        halt 0x06 (some b) (onStn key (closeSlots c (live.map (fun z => z.1))) m) y
      | some b, [], none =>
        let m := onStn key (closeSlots c []) m
        if slots = [] then haltSlot fz p d unit pidx c 0x06 (stampArg none (some b)) none m else m

/-- BEAT_RECEIVE. -/
def execBeatReceive (die : Fin 4) (unit : Fin 128) (cycle : Nat) (s : State) :
    Host.Outcome State Fault Refusal :=
  run s (fun fz => beatReceive fz die.val unit.val cycle)

end Sys2Proof.Machine
end

