-- ==== Sys2Proof/Machine/Memory.lean ====
section
/-! DEFINITION. The wellheads (08): transfers at an edge station, page states and keys (R349 to R353, 16 R713 to R716),
check symbols (09), the operations beside memory, refresh and background re-encryption. -/

namespace Sys2Proof.Machine

/-! ### Where a transfer is -/

/-- The edge station that holds a transfer: a wellhead, the host gateway or the link stations of a die. -/
inductive Lane where
  | well (w : Nat)
  | host (d : Nat)
  | link (d : Nat)
  deriving DecidableEq, Repr

/-- The transfers of an edge station, in the order of their requests. -/
def laneList (m : Mach) : Lane → List Xfer
  | .well w => (well m w).queue
  | .host d => tget [] m.hosts d
  | .link d => tget [] m.links d

/-- Changing the transfers of an edge station. -/
def onLane (l : Lane) (f : List Xfer → List Xfer) (m : Mach) : Mach :=
  match l with
  | .well w => onWell w (fun h => { h with queue := f h.queue }) m
  | .host d => { m with hosts := tmod [] m.hosts d f }
  | .link d => { m with links := tmod [] m.links d f }

/-- Every edge station. -/
def lanes : List Lane := (List.range 16).map .well ++ (List.range 4).map .host ++ (List.range 4).map .link

/-- The transfer of a descriptor of a station. -/
def findXfer (m : Mach) (key desc : Nat) : Option (Lane × Xfer) :=
  lanes.findSome? (fun l =>
    ((laneList m l).find? (fun t => t.key == key && t.desc == desc)).map (fun t => (l, t)))

/-- A transfer changed. -/
def putXfer (l : Lane) (t t' : Xfer) (m : Mach) : Mach :=
  onLane l (fun q => q.map (fun y => if y = t then t' else y)) m

/-- A transfer that ends. -/
def endXfer (l : Lane) (t : Xfer) (m : Mach) : Mach := onLane l (fun q => q.erase t) m

/-! ### Halts of an edge station -/

/-- A halt raised by a wellhead for a transfer (R346, R347). -/
def wellHalt (fz : Fuses) (w : Nat) (t : Xfer) (cycle reason sub arg : Nat) (m : Mach) : Mach :=
  let p := partOf m t.die
  haltPart fz p { reason := reason, die := wellDie w, queue := 2, unit := wellUnit w, pidx := 0xFF
                  cycle := stopCycle m p cycle, iaddr := some t.iaddr, subcode := sub, arg := arg, station := true
                  issuer := some (t.die, t.unit) } m

/-- A halt raised by the host gateway for a transfer (Table 9-2, R701). -/
def hostHalt (fz : Fuses) (t : Xfer) (cycle sub arg : Nat) (m : Mach) : Mach :=
  let p := partOf m t.die
  haltPart fz p { reason := 0x0C, die := t.die, queue := 2, unit := 0xF8, pidx := 0xFF
                  cycle := stopCycle m p cycle, iaddr := some t.iaddr, subcode := sub, arg := arg, station := true
                  issuer := some (t.die, t.unit) } m

/-- A halt raised by the station for a beat of a transfer that it reads (Table 9-2). -/
def laneHalt (fz : Fuses) (t : Xfer) (cycle beat : Nat) (words : List Nat) (m : Mach) : Mach :=
  let p := partOf m t.die
  let c := stopCycle m p cycle
  haltPart fz p { reason := 0x0C, die := t.die, queue := 2, unit := t.unit, pidx := t.key % 256
                  cycle := c, iaddr := some t.iaddr, subcode := 1, arg := pair24 (128 * beat) (maskOf words)
                  station := true, issuer := none }
    (noteBad t.key false beat words
      (if runs m p then onStn t.key (fun s => { s with halted := some (s.halted.getD c) }) m else m))

/-! ### Sectors of HBM (R376 to R380) -/

/-- Where the errors of a sector of a beat are listed: by its place in the stack (R389). -/
def sectorKey (h : Well) (a s : Nat) : Nat := 4 * h.place a + s

/-- Error symbols of a sector of a beat. -/
def sectorErr (h : Well) (a s : Nat) : List (Nat × Nat) := tget [] h.secErr (sectorKey h a s)

/-- What a read finds of a sector (R376); with three or more erroneous symbols the result is free (log 7). -/
def checkSector (l : List (Nat × Nat)) : Check :=
  match l with
  | [] => .sound
  | [_] => .corrected
  | [_, _] => .bad
  | _ => if Config.eccBeyondSeen (l.foldl (fun n y => n * 2 ^ 16 + y.1 * 2 ^ 8 + y.2) 1) then .bad else .corrected

/-- A sector as it is delivered. -/
def sectorData (l : List (Nat × Nat)) (bytes : List Byte) : List Byte :=
  if l.length ≤ 2 then bytes
  else leBytes 32 (Config.eccBeyond (ofLe bytes) (l.foldl (fun n y => n * 2 ^ 16 + y.1 * 2 ^ 8 + y.2) 1))

/-- A correction of a sector counted and recorded (R378). -/
def noteSector (w a s src : Nat) (l : List (Nat × Nat)) (m : Mach) : Mach :=
  record { kind := 1, place := w, unit := 4 * a + s, what := 0 }
    (bump .eccWhCe (iWell w) (onWell w (fun h => { h with
      eccLast := { valid := true, src := src, cache := false, word := 64 * ((l.head?.map (fun y => y.1)).getD 0) + s
                   offset := a } }) m))

/-- An uncorrectable sector counted and recorded (R386, R391). -/
def noteBadSector (w a s : Nat) (m : Mach) : Mach :=
  record { kind := 1, place := w, unit := 4 * a + s, what := 1 } (bump .eccWhUe (iWell w) m)

/-- Corrections that the stack's on-die ECC makes in a read of a beat and reports to the wellhead (R380). -/
def noteSoft (w a : Nat) (m : Mach) : Mach :=
  let h := well m w
  bumpBy .eccWhOdc (iWell w) 0 ((List.range 4).filter (fun s => h.soft.contains (sectorKey h a s))).length m

/-- A sector checked (R376): a correction or an uncorrectable sector is counted. -/
def checkOne (w a : Nat) (m : Mach) (s : Nat) : Mach :=
  let l := sectorErr (well m w) a s
  match checkSector l with
  | .sound => m
  | .corrected => noteSector w a s 0 l m
  | .bad => noteBadSector w a s m

/-- The four sectors of a beat that is read are checked; answers the lowest that is uncorrectable. -/
def checkBeat (w a : Nat) (m : Mach) : Mach × Option Nat :=
  ((List.range 4).foldl (checkOne w a) (noteSoft w a m)
  , (List.range 4).find? (fun s => checkSector (sectorErr (well m w) a s) == .bad))

/-! ### Pages and keys (R350 to R353) -/

/-- State of the page of a beat. -/
def pageOf (h : Well) (a : Nat) : Page := tget .filled h.pages (a / 32)

/-- Pages in an epoch: COUNT0 and COUNT1 of WLH_KEY. -/
def pageCount (h : Well) (e : Page) : Nat := (h.pages.filter (fun y => y.2 == e)).length

/-- The page state of the write epoch. -/
def writePage (h : Well) : Page := if h.wrEpoch then .epoch1 else .epoch0

/-- Slot number of a page state. -/
def slotOf (e : Page) : Nat := if e = .epoch1 then 1 else 0

/-- The key slot of an epoch is LOADED. -/
def keyLoaded (h : Well) (slot : Nat) : Bool :=
  if slot = 1 then h.slot1 == .loaded else h.slot0 == .loaded

/-- DETAIL argument of a wellhead key fault (R712). -/
def keyArg (w slot a : Nat) : Nat := w * 2 ^ 44 + slot * 2 ^ 43 + a

/-- What stops an access of HBM: reason, subcode, argument. -/
structure HbmStop where
  reason : Nat
  sub : Nat
  arg : Nat
  deriving DecidableEq, Repr

/-- The 512 bits of an AES-256-XTS key that the security processor has drawn (16 R713). -/
def hbmKey (draw : Nat) : Nat := Config.random draw % 2 ^ 512

/-- The tweak of a beat (R349). -/
def hbmTweak (w a : Nat) : Nat := a + 2 ^ 32 * w

/-- What the stack holds of a beat that was encrypted under a key (R349). -/
def cipherBeat (draw w a : Nat) (plain : List Byte) : List Byte := xtsEncrypt (hbmKey draw) (hbmTweak w a) plain

/-- The key in a slot. -/
def slotKey (h : Well) (slot : Nat) : Nat := if slot = 1 then h.key1 else h.key0

/-- The key under which the page of a beat was written. -/
def pageKey (h : Well) (a : Nat) : Nat := tget 0 h.pageKeys (a / 32)

/-- A beat decrypted with a key: under the key of its encryption it is what was encrypted, under another what AES-256-XTS makes
of the stored beat. -/
def underKey (was now w a : Nat) (plain : List Byte) : List Byte :=
  if was = now then plain else xtsDecrypt (hbmKey now) (hbmTweak w a) (cipherBeat was w a plain)

/-- The beat of a page in an epoch as its sectors deliver it, decrypted with the key of the epoch's slot (R349, R351). -/
def clearBeat (m : Mach) (w a : Nat) (e : Page) : List Byte :=
  let h := well m w
  underKey (pageKey h a) (slotKey h (slotOf e)) w a ((List.range 4).flatMap (fun s =>
    sectorData (sectorErr h a s) (peeks m.mem.hbm (beatAddr m w a + 32 * s) 32)))

/-- A read of a beat (R351, R353, R376, R384). -/
def readHbm (w a : Nat) (m : Mach) : Mach × Except HbmStop (List Byte) :=
  let e := pageOf (well m w) a
  if e = .filled then (m, .ok (zeros 128))
  else
    match checkBeat w a (bump .wlhRdbeats (iWell w) m) with
    | (m, some s) => (m, .error { reason := 0x0C, sub := 3, arg := w * 2 ^ 44 + s * 2 ^ 42 + a })
    | (m, none) =>
      if keyLoaded (well m w) (slotOf e) then (m, .ok (clearBeat m w a e))
      else (m, .error { reason := 0x0E, sub := 1, arg := keyArg w (slotOf e) a })

/-- Error symbols of a flip mask on a sector (R407). -/
def flipSymbols (mask : BitVec 72) : List (Nat × Nat) :=
  ((List.range 8).map (fun i => (i, field mask.toNat (8 * i + 7) (8 * i))) ++ [(32, field mask.toNat 71 64)]).filter
    (fun y => y.2 != 0)

/-- An armed flip mask strikes the first beat of a write (R407, R408). -/
def strikeHbm (w a : Nat) (m : Mach) : Mach :=
  onWell w (fun h =>
    if h.flip.state = 1 then
      { h with secErr := tput [] h.secErr (sectorKey h a 0) (flipSymbols h.flip.mask)
               flip := { h.flip with state := 2, firedAt := 4 * a } }
    else h) m

/-- Sectors of a wellhead that hold what was just written, without errors. -/
def soundSectors (l : List (Nat × Nat)) (h : Well) : Well :=
  { h with secErr := l.foldl (fun t y => tdel t (sectorKey h y.1 y.2)) h.secErr
           soft := h.soft.filter (fun k => !l.any (fun y => sectorKey h y.1 y.2 == k)) }

/-- The sectors of some beats. -/
def sectorsOf (l : List Nat) : List (Nat × Nat) := l.flatMap (fun b => (List.range 4).map (fun s => (b, s)))

/-- A beat stored with sound check symbols. -/
def storeBeat (w a : Nat) (l : List Byte) (m : Mach) : Mach :=
  strikeHbm w a (onWell w (soundSectors (sectorsOf [a]))
    (pokeHbm (beatAddr m w a) l (bump .wlhWrbeats (iWell w) m)))

/-- The beats of a page. -/
def pageBeats (a : Nat) : List Nat := (List.range 32).map (fun i => a / 32 * 32 + i)

/-- A page takes the write epoch and the key of its slot. -/
def takeEpoch (w a : Nat) (m : Mach) : Mach :=
  onWell w (fun h => { h with pages := tput .filled h.pages (a / 32) (writePage h)
                              pageKeys := tput 0 h.pageKeys (a / 32) (slotKey h (slotOf (writePage h))) }) m

/-- One sector of a page that is re-encrypted (R352), its data under the old key as the write key now finds it: written anew,
or kept with its errors. -/
def resector (w : Nat) (m : Mach) (y : Nat × Nat) : Mach :=
  let l := sectorErr (well m w) y.1 y.2
  let at_ := beatAddr m w y.1 + 32 * y.2
  let anew (m : Mach) : Mach :=
    onWell w (soundSectors [y]) (pokeHbm at_ (sectorData l (peeks m.mem.hbm at_ 32)) m)
  match checkSector l with
  | .sound => onWell w (soundSectors [y]) m
  | .corrected => anew (noteSector w y.1 y.2 0 l m)
  | .bad => raiseEvt 0x0032 1 (iWell w) (4 * y.1 + y.2) (noteBadSector w y.1 y.2 m)

/-- A beat of a page that is re-encrypted, decrypted with the old slot's key. -/
def rekey (w : Nat) (e : Page) (m : Mach) (a : Nat) : Mach :=
  let h := well m w
  let m := noteSoft w a m
  if pageKey h a = slotKey h (slotOf e) then m
  else
    pokeHbm (beatAddr m w a)
      (underKey (pageKey h a) (slotKey h (slotOf e)) w a (peeks m.mem.hbm (beatAddr m w a) 128)) m

/-- A page re-encrypted under the write epoch (R352, R715). -/
def reencrypt (w a : Nat) (m : Mach) : Mach :=
  let e := pageOf (well m w) a
  let m := bumpBy .wlhWrbeats (iWell w) 0 32 (bumpBy .wlhRdbeats (iWell w) 0 32 m)
  let m := (pageBeats a).foldl (rekey w e) m
  strikeHbm w (a / 32 * 32) (takeEpoch w a ((sectorsOf (pageBeats a)).foldl (resector w) m))

/-- A write of a beat (R352, R353), one of the beats [lo, hi) that its transfer writes; the other beats of a FILLED page
are written first. -/
def writeHbm (w lo hi a : Nat) (l : List Byte) (m : Mach) : Mach × Option HbmStop :=
  let h := well m w
  let e := pageOf h a
  let stop (slot : Nat) : Option HbmStop := some { reason := 0x0E, sub := 1, arg := keyArg w slot a }
  if keyLoaded h (slotOf (writePage h)) = false then (m, stop (slotOf (writePage h)))
  else if e = .filled then
    let rest := (pageBeats a).filter (fun b => decide (b < lo) || decide (hi ≤ b))
    let m := rest.foldl (fun m b => storeBeat w b (zeros 128) m) m
    (storeBeat w a l (takeEpoch w a m), none)
  else if e ≠ writePage h then
    if keyLoaded h (slotOf e) then (storeBeat w a l (reencrypt w a m), none) else (m, stop (slotOf e))
  else (storeBeat w a l m, none)

/-! ### Wellhead operations (R335 to R344) -/

/-- Consecutive beats read. -/
def readRun (w : Nat) : Nat → Nat → Mach → Mach × Except HbmStop (List Byte)
  | _, 0, m => (m, .ok [])
  | a, n + 1, m =>
    match readHbm w a m with
    | (m, .error e) => (m, .error e)
    | (m, .ok l) =>
      match readRun w (a + 1) n m with
      | (m, .error e) => (m, .error e)
      | (m, .ok r) => (m, .ok (l ++ r))

/-- OPERAND_RANGE of a list (Table 8-8). -/
def listStop (sub a b : Nat) : HbmStop := { reason := 0x03, sub := sub, arg := pair24 a b }

/-- The extents of a GATHER list, list beat by list beat (R339, Table 8-8); `i` counts the entries taken. -/
def gatherList (w desc count xlen : Nat) : Nat → Nat → Nat → Mach → Mach × Except HbmStop (List Nat)
  | 0, _, _, m => (m, .ok [])
  | fuel + 1, a, i, m =>
    if wellBeats ≤ a then (m, .error (listStop 0x21 desc i))
    else
      match readHbm w a m with
      | (m, .error e) => (m, .error e)
      | (m, .ok l) =>
        let n := if count - i ≤ 32 then count - i else 32
        let es := (List.range n).map (fun j => leAt l (4 * j) 4)
        match es.findIdx? (fun e => decide (wellBeats < e + xlen)) with
        | some j => (m, .error (listStop 0x21 desc (i + j)))
        | none =>
          match gatherList w desc count xlen fuel (a + 1) (i + n) m with
          | (m, .error e) => (m, .error e)
          | (m, .ok r) => (m, .ok (es ++ r))

/-- HADDRs of the beats of extents. -/
def extentBeats (xlen : Nat) (l : List Nat) : List Nat := l.flatMap (fun e => from_ e xlen)

/-- GATHER: the source beats (R339). -/
def startGather (w : Nat) (t : Xfer) (m : Mach) : Mach × Except HbmStop (List Nat) :=
  match readHbm w t.addr m with
  | (m, .error e) => (m, .error e)
  | (m, .ok h) =>
    let count := leAt h 0 4
    let xlen := leAt h 4 4
    if count = 0 ∨ 4095 < count ∨ xlen = 0 ∨ 4095 < xlen ∨ count * xlen ≠ t.len ∨ (h.drop 8).any (fun b => b != 0) then
      (m, .error (listStop 0x20 t.desc 0))
    else
      match gatherList w t.desc count xlen ((count + 31) / 32) (t.addr + 1) 0 m with
      | (m, .error e) => (m, .error e)
      | (m, .ok l) => (m, .ok (extentBeats xlen l))

/-- One element product of a page score (R341), none for a NaN; an element of the query below +0, −0 among
them, takes the mean (log 14). -/
def scoreTerm (q mean max : Nat) : Option Int :=
  let c := (decodeE 0x04 q).mul (decodeE 0x04 (if q < 128 then max else mean))
  match c with
  | .fin n a e => some (signed n (a * 2 ^ (e + 18).toNat / 2 ^ (-(e + 18)).toNat))
  | _ => none

/-- The score of a page (R341). -/
def pageScore (q mean max : List Byte) : Option Int :=
  (List.range 128).foldl (fun s d =>
    match s, scoreTerm (leAt q d 1) (leAt mean d 1) (leAt max d 1) with
    | some v, some c => some (v + c)
    | _, _ => none) (some 0)

/-- A page before another in the selection (R342). -/
def scoreBefore (a b : Int × Nat) : Bool := decide (b.1 < a.1) || (a.1 == b.1 && decide (a.2 < b.2))

/-- A page put in its place among the best. -/
def insertScore (x : Int × Nat) : List (Int × Nat) → List (Int × Nat)
  | [] => [x]
  | y :: r => if scoreBefore x y then x :: y :: r else y :: insertScore x r

/-- The k best pages, in ascending order of their numbers (R342). -/
def bestPages (k : Nat) (l : List Int) : List Nat :=
  let best := (l.zipIdx).foldl (fun acc y => (insertScore y acc).take k) []
  (List.range l.length).filter (fun p => best.any (fun y => y.2 == p))

/-- The 32-bit indices of a selection, with 0xFFFF_FFFF beyond it (R342). -/
def indexBytes (len : Nat) (l : List Nat) : List Byte :=
  l.flatMap (leBytes 4) ++ List.replicate (128 * len - 4 * l.length) 255

/-- SCORE: the selection, stored, and the index beats (R341, R342). -/
def startScore (w : Nat) (t : Xfer) (m : Mach) : Mach × Except HbmStop (List Byte) :=
  match readHbm w t.addr m with
  | (m, .error e) => (m, .error e)
  | (m, .ok h) =>
    let p := leAt h 0 4
    let k := leAt h 4 2
    let slot := leAt h 6 1
    let np := (p + 31) / 32
    if p = 0 ∨ 65536 < p ∨ k = 0 ∨ 256 < k ∨ p < k ∨ 15 < slot ∨ (h.drop 7).any (fun b => b != 0)
        ∨ (k + 31) / 32 ≠ t.len ∨ wellBeats < t.addr + 1 + np + 2 * p then
      (m, .error (listStop 0x22 t.desc 0))
    else
      match readRun w (t.addr + 1) (np + 2 * p) m with
      | (m, .error e) => (m, .error e)
      | (m, .ok l) =>
        let q := fitTo 128 (tget [] (well m w).queries slot)
        let page (i : Nat) : Nat := leAt l (4 * i) 4
        let beat (i : Nat) : List Byte := (l.drop (128 * i)).take 128
        let ss := (List.range p).map (fun i => pageScore q (beat (np + 2 * i)) (beat (np + 2 * i + 1)))
        let sel := bestPages k (ss.map (fun s => s.getD (-(2 ^ 63 : Nat))))
        let m := onWell w (fun x => { x with
          selections := tput [] x.selections slot (sel.map (fun i => (i, page i)))
          flags := if ss.any (fun s => s.isNone) then x.flags ||| 4 else x.flags }) m
        (m, .ok (indexBytes t.len sel))

/-- SGATHER: the source beats (R343, R344, Table 8-8). -/
def startSgather (w : Nat) (t : Xfer) (m : Mach) : Mach × Except HbmStop (List Nat) :=
  match readHbm w t.addr m with
  | (m, .error e) => (m, .error e)
  | (m, .ok h) =>
    let slot := leAt h 0 1
    let xlen := leAt h 4 4
    let ofs := leAt h 8 4
    let first := leAt h 12 2
    let num := leAt h 14 2
    if 15 < slot ∨ (h.drop 1).take 3 ≠ zeros 3 ∨ xlen = 0 ∨ 4095 < xlen ∨ wellBeats ≤ ofs ∨ 255 < first
        ∨ num = 0 ∨ 256 < num ∨ num * xlen ≠ t.len ∨ (h.drop 16).any (fun b => b != 0) then
      (m, .error (listStop 0x20 t.desc 0))
    else
      let sel := tget [] (well m w).selections slot
      if sel.length < first + num then (m, .error (listStop 0x23 t.desc slot))
      else
        let l := ((sel.drop first).take num).map (fun y => y.2 + ofs)
        match l.findIdx? (fun e => decide (wellBeats < e + xlen)) with
        | some j => (m, .error (listStop 0x21 t.desc j))
        | none => (m, .ok (extentBeats xlen l))

/-- A started transfer ends in a halt: its descriptor stays PENDING (R347). -/
def stopXfer (fz : Fuses) (w : Nat) (t : Xfer) (cycle : Nat) (e : HbmStop) (m : Mach) : Mach :=
  wellHalt fz w t cycle e.reason e.sub e.arg (endXfer (.well w) t m)

/-- The start of a transfer by a wellhead (R333): lists are read and checked. -/
def startWell (fz : Fuses) (w cycle : Nat) (t : Xfer) (m : Mach) : Mach :=
  let go (src : List Nat) (buf : List Byte) : Xfer := { t with started := true, src := src, buffered := buf }
  match t.mode with
  | 4 =>
    match startGather w t m with
    | (m, .error e) => stopXfer fz w t cycle e m
    | (m, .ok l) => putXfer (.well w) t (go l []) m
  | 5 =>
    match startScore w t m with
    | (m, .error e) => stopXfer fz w t cycle e m
    | (m, .ok l) => putXfer (.well w) t (go [] l) m
  | 7 =>
    match startSgather w t m with
    | (m, .error e) => stopXfer fz w t cycle e m
    | (m, .ok l) => putXfer (.well w) t (go l []) m
  | _ => putXfer (.well w) t (go (from_ t.addr t.len) []) m

/-! ### Accesses that no instruction made -/

/-- A wellhead needs a key slot that is not LOADED for a packet or for a weight chunk: it halts its partition (R353); no
instruction and no station issued the access. -/
def keyHalt (fz : Fuses) (w : Nat) (e : HbmStop) (m : Mach) : Mach :=
  let p := partOf m (wellDie w)
  if e.reason = 0x0E then
    haltPart fz p { reason := e.reason, die := wellDie w, queue := 2, unit := wellUnit w, pidx := 0xFF
                    cycle := stopCycle m p (cycleNow m p), iaddr := .none, subcode := e.sub, arg := e.arg, station := true
                    issuer := .none } m
  else m

/-! ### Refresh (R354 to R360) -/

/-- A cause REFRESH of the wellhead is asserted. -/
def refreshing (m : Mach) (p w : Nat) : Bool :=
  match (part m p).hold with
  | some h => (openCauses h).any (fun c => c.code == 4 && c.unit == wellUnit w)
  | none => false

/-- A wellhead that owes 9 units holds its partition while a step is in progress, unless it is marked UNUSED (R357,
R360). -/
def refreshCause (fz : Fuses) (w : Nat) (cycle wall : Int) (m : Mach) : Mach :=
  let p := partOf m (wellDie w)
  if (well m w).debt = 9 ∧ (well m w).unused = false ∧ stepping m p = true ∧ refreshing m p w = false then
    assertCause fz p cycle { die := wellDie w, unit := wellUnit w, code := 4, desc := 0xFFFFFF, since := wall
                             queue := 3, iaddr := 0 } m
  else m

/-- A tick of a wellhead (R354): ticks count from its power-on, also those in which the stack refreshes itself; the rate
that the sensor calls for is in force from this tick on. -/
def Well.tick (h : Well) : Well :=
  let n := h.ticks + 1
  let debt := if !h.selfref && (h.hotNext || n % 2 == 0) then (if h.debt < 9 then h.debt + 1 else 9) else h.debt
  { h with ticks := n, debt := debt, hot := h.hotNext }

/-- REFRESH_TICK (R354, R357): debt accrues, and at 9 units the wellhead holds the partition. -/
def refreshTick (w : Nat) (cycle wall : Int) (fz : Fuses) (m : Mach) : Mach :=
  if wellFitted fz w then refreshCause fz w cycle wall (onWell w Well.tick m) else m

/-- REFRESH_TICK. -/
def execRefreshTick (w : Fin 16) (cycle wall : Int) (s : State) : Host.Outcome State Fault Refusal :=
  run s (refreshTick w.val cycle wall)

/-- The windows in force of a wellhead in a step class (R358, R359). -/
def windowsOf (c : StepClass) (w : Nat) (hot : Bool) : WinSet :=
  match c.wins.find? (fun y => y.wh == w) with
  | some y => if hot then y.hot else y.normal
  | none => .unused

/-- A cycle leaves at least 800 cycles of a window (R356). -/
def inWindow (l : List RWindow) (cycle : Nat) : Bool :=
  l.any (fun y => decide (y.start ≤ cycle) && decide (cycle + 800 ≤ y.start + y.len))

/-- A wellhead may refresh in a cycle (R356, R357, R360). -/
def mayRefresh (m : Mach) (w cycle : Nat) : Bool :=
  let p := partOf m (wellDie w)
  let h := well m w
  !stepping m p || h.unused || refreshing m p w
  || (match (part m p).hold with
      | some y => !y.carried && decide (y.stop ≤ (cycle : Int))
      | none => false)
  || (match windowsOf (classOf m p (part m p).step) w h.setHot with
      | .unused => true
      | .windows l => inWindow l cycle)

/-- REFRESH_UNIT (R355 to R357): one owed unit is performed; at debt 0 the cause clears. -/
def refreshUnit (w cycle : Nat) (wall : Int) (m : Mach) : Mach :=
  let h := well m w
  let p := partOf m (wellDie w)
  if h.debt = 0 ∨ mayRefresh m w cycle = false then m
  else
    let m := bump .wlhRefunits (iWell w) (onWell w (fun h => { h with debt := h.debt - 1 }) m)
    if h.debt = 1 then clearCause p wall (fun c => c.code == 4 && c.unit == wellUnit w) m else m

/-- REFRESH_UNIT. -/
def execRefreshUnit (w : Fin 16) (cycle : Nat) (wall : Int) (s : State) : Host.Outcome State Fault Refusal :=
  run s (fun _ => refreshUnit w.val cycle wall)

/-! ### Background re-encryption (16 R715, R716) -/

/-- The page state of the old epoch. -/
def oldPage (h : Well) : Page := if h.wrEpoch then .epoch0 else .epoch1

/-- The old slot is zeroised once no page needs it (R716). -/
def dropOld (w : Nat) (m : Mach) : Mach :=
  onWell w (fun h =>
    if pageCount h (oldPage h) ≠ 0 then h
    else if h.wrEpoch then { h with slot0 := .empty } else { h with slot1 := .empty }) m

/-- The wellheads of a partition. -/
def partWells (fz : Fuses) (m : Mach) (p : Nat) : List Nat :=
  (List.range 16).filter (fun w => wellFitted fz w && (part m p).dies.contains (wellDie w))

/-- A rotation ends when every wellhead has dropped its old slot (R716). -/
def endRotation (fz : Fuses) (p : Nat) (m : Mach) : Mach :=
  if (partWells fz m p).all (fun w => let h := well m w
      (if h.wrEpoch then h.slot0 else h.slot1) == .empty) then
    bump .secRotations (iPart p) (onPart p (fun q => { q with rot := { q.rot with state := 0 } }) m)
  else m

/-- PAGE_REENCRYPT: the next page of the old epoch, in ascending HADDR (R715). -/
def pageReencrypt (w : Nat) (fz : Fuses) (m : Mach) : Mach :=
  let p := partOf m (wellDie w)
  if (part m p).rot.state ≠ 2 ∨ wellFitted fz w = false then m
  else
    let h := well m w
    let m := match h.pages.find? (fun y => y.2 == oldPage h) with
      | some (g, _) => reencrypt w (32 * g) m
      | none => m
    endRotation fz p (dropOld w m)

/-- PAGE_REENCRYPT. -/
def execPageReencrypt (w : Fin 16) (s : State) : Host.Outcome State Fault Refusal :=
  run s (pageReencrypt w.val)

end Sys2Proof.Machine
end

