-- ==== Sys2Proof/Machine/Lanes.lean ====
section
/-! DEFINITION. Long-running transfers between an edge station and a slice (08 R327 to R333, R361 to R369, 11 R474): where
their requests and beats stand, how the beats meet the scratchpad (R330), and their end. -/

namespace Sys2Proof.Machine

/-! ### When a lane acts -/

/-- When a lane touches the scratchpad of a station: in a logical cycle of the step in progress; while a hold has stopped
the partition before a cycle; or while the partition executes no cycle, between steps or after the end of its plan. -/
inductive LaneAt where
  | cycle (c : Nat)
  | held (stop : Nat)
  | idle
  deriving DecidableEq, Repr

/-- When a lane of a station acts in a command that names a cycle. -/
def laneAt (m : Mach) (key cycle : Nat) : LaneAt :=
  let p := partOf m (key / 256)
  if !stepping m p then .idle
  else
    match (part m p).hold with
    | some h => if h.carried || decide ((cycle : Int) < h.stop) then .cycle cycle else .held h.stop.toNat
    | none => .cycle cycle

/-- The cycle at which its writes stand; in a hold the last one before the stop. -/
def LaneAt.when : LaneAt → Option Nat
  | .cycle c => some c
  | .held s => if s = 0 then none else some (s - 1)
  | .idle => none

/-- The cycle of which its reads see the contents. -/
def LaneAt.sees : LaneAt → Nat
  | .cycle c => c
  | .held s => s
  | .idle => farAway

/-- From which cycle on a beat that it sends goes along its lane: none moves while the partition is stopped (R332). -/
def LaneAt.sends : LaneAt → Nat
  | .cycle c => c
  | .held s => s
  | .idle => 0

/-! ### Beats on the mesh (R327, R331, R332) -/

/-- Die and unit of the edge station at the end of a lane; a transfer of the Lerek link has none (R327). -/
def Lane.edge : Lane → Option (Nat × Nat)
  | .well w => some (wellDie w, wellUnit w)
  | .host d => some (d, 0xF8)
  | .link _ => none

/-- A beat of a transfer on the mesh; what it carries is taken where it is read. -/
def laneGhost (m : Mach) (edge : Nat × Nat) (t : Xfer) (sent : Nat) : Beat :=
  let p := partOf m t.die
  let a := if t.out then (t.die, t.unit) else edge
  let b := if t.out then edge else (t.die, t.unit)
  { srcDie := a.1, srcUnit := a.2, dstDie := b.1, dstUnit := b.2, stamp := 0, sent := sent, step := (part m p).step
    bytes := [], rows := meshRows m p, tap := t.tap, lane := some (t.key, t.desc) }

/-- Beats of a transfer on the mesh. -/
def onWay (m : Mach) (t : Xfer) : List Beat := m.mesh.filter (fun b => b.lane == some (t.key, t.desc))

/-- Beats of a transfer that a router or a crossing has discarded. -/
def lostOf (m : Mach) (t : Xfer) : Nat := ((stn m t.key).laneLost.filter (fun i => i == t.desc)).length

/-- Beats put into a lane, one a cycle. -/
def sendLane (b : Beat) : Nat → Mach → Mach
  | 0, m => m
  | n + 1, m => sendLane b n (throughTap b m)

/-- The edge station sends what it may of a transfer into its lane: as long as fewer than 16 beats wait at the station, which
beats on their way reach later (R331; log 55). Between steps, when no logical cycle passes, up to 16 are at the station. -/
def feed (l : Lane) (key desc : Nat) (at_ : LaneAt) (m : Mach) : Mach :=
  match l.edge, (laneList m l).find? (fun t => t.key == key && t.desc == desc) with
  | some e, some t =>
    if t.out || !t.started then m
    else
      let b := laneGhost m e t at_.sends
      let room := t.moved + 16 + (if at_ = .idle then 0 else b.travel)
      let n := (if t.len ≤ room then t.len else room) - t.fed
      putXfer l t { t with fed := t.fed + n } (if at_ = .idle then m else sendLane b n m)
  | _, _ => m

/-- Beats that a transfer has moved in a hold. -/
def movedHeld (m : Mach) (t : Xfer) (stop : Nat) : Nat :=
  ((stn m t.key).laneAcc.filter (fun a => a.own && a.cycle == stop && a.iaddr == t.iaddr)).length

/-- The next beat of an inbound transfer stands at the station: one that waits there, or the first of those on their way that
has arrived, which leaves the mesh. -/
def atStation (m : Mach) (t : Xfer) (before : Nat) : Option Mach :=
  if 0 < t.fed - t.moved - (onWay m t).length - lostOf m t then some m
  else ((onWay m t).find? (fun b => decide (b.due < before))).map (fun b => { m with mesh := m.mesh.erase b })

/-- The station can move the next beat of a transfer between its buffer of 16 beats and the scratchpad (R331, R332): the mesh as
it then is. -/
def laneMesh (l : Lane) (t : Xfer) (at_ : LaneAt) (m : Mach) : Option Mach :=
  match l.edge, at_ with
  | none, _ => some m
  | some _, .idle => some (if t.out then m else { m with mesh := m.mesh.filter (fun b => b.lane != some (t.key, t.desc)) })
  | some e, .cycle c => if t.out then some (throughTap (laneGhost m e t c) m) else atStation m t (c + 1)
  | some e, .held s =>
    if 16 ≤ movedHeld m t s then none
    else if t.out then some (throughTap (laneGhost m e t s) m)
    else atStation m t s

/-! ### Requests (R333) -/

/-- A request has reached its edge station. -/
def arrived (m : Mach) (cycle : Nat) (t : Xfer) : Bool :=
  let here := t.asked.1 == (part m (partOf m t.die)).step
  match laneAt m t.key cycle with
  | .cycle c => !here || decide (t.asked.2 ≤ c)
  | .held s => !here || decide (t.asked.2 < s)
  | .idle => true

/-- The transfers of an edge station that hold a place among its 64. -/
def startedOf (l : List Xfer) : List Xfer := l.filter (fun t => t.started)

/-- WELLHEAD_REQUEST_START (R333): the first transfer that has not started, once its request has arrived, while fewer than 64
have. -/
def requestStart (e : Edge) (cycle : Nat) (fz : Fuses) (m : Mach) : Mach :=
  let lane := match e with
    | .well w => Lane.well w.val
    | .host d => Lane.host d.val
  let q := laneList m lane
  match q.find? (fun t => !t.started) with
  | none => m
  | some t =>
    if 64 ≤ (startedOf q).length ∨ arrived m cycle t = false then m
    else
      feed lane t.key t.desc (laneAt m t.key cycle) (match e with
        | .well w => startWell fz w.val cycle t m
        | .host _ => putXfer lane t { t with started := true } m)

/-- WELLHEAD_REQUEST_START. -/
def execWellheadRequestStart (e : Edge) (cycle : Nat) (s : State) : Host.Outcome State Fault Refusal :=
  run s (requestStart e cycle)

/-! ### Beats of a lane (R330) -/

/-- The port or the bank is used or held in that cycle by a scheduled access, or by another access beside them, for one that holds
its bank for some further cycles (R51, R52, R330). -/
def laneBlocked (s : Station) (write : Bool) (port beat hold c : Nat) : Bool :=
  (s.acc ++ s.laneAcc.filter (fun a => !a.own)).any (fun a =>
    (a.write == write && a.port == port && a.cycle == c)
    || (a.bank == bankOf beat && decide (a.cycle ≤ c + hold) && decide (c ≤ a.cycle + a.hold)))

/-- An access beside the scheduled ones is recorded; `iaddr` names the instruction of its transfer. -/
def recordLane (key : Nat) (write : Bool) (port beat hold iaddr : Nat) (at_ : LaneAt) (m : Mach) : Mach :=
  let acc (c : Nat) (own : Bool) : Acc :=
    { cycle := c, write := write, port := port, bank := bankOf beat, hold := hold, queue := 2, iaddr := iaddr, own := own }
  match at_ with
  | .cycle c => onStn key (fun s => { s with laneAcc := s.laneAcc ++ [acc c false] }) m
  | .held c => onStn key (fun s => { s with laneAcc := s.laneAcc ++ [acc c true] }) m
  | .idle => m

/-- Bytes put into the slice of a station beside its scheduled accesses. -/
def laneWrite (fz : Fuses) (key port off : Nat) (at_ : LaneAt) (l : List Byte) (m : Mach) : Mach :=
  match at_.when with
  | some c =>
    let w : LateWrite := { cycle := c, delay := 1, port := port, off := off, bytes := l }
    recallFor fz key [w] [] (writeScratch key w m)
  | none =>
    settleStn key (writeScratch key { cycle := 0, delay := 1, port := port, off := off, bytes := l } (settleStn key m))

/-- A beat of the slice of a station as a lane reads it: corrections, the uncorrectable words, the data. -/
def laneRead (key beat : Nat) (at_ : LaneAt) (m : Mach) : Mach × List Nat × List Byte :=
  let err := wordErr m key none at_.sees
  (noteCorrected key 0 false at_.when beat (wordsThat .corrected err beat) m, wordsThat .bad err beat
  , readBeat m key none at_.sees beat)

/-- The tile of a decode: 64 beats of BF16, and its WLH_FLAGS (R338). -/
def decodeTile (mode : Nat) (tile scales : List Byte) : List Byte × BitVec 3 :=
  let vs := (tileRows (0x10 + mode) tile scales).flatten
  let rs := vs.map (encodeF bf16 .rne)
  (packE 16 (rs.map (fun y => y.1)),
    BitVec.ofNat 3 (b2n (rs.any (fun y => y.2.ovf)) + 2 * b2n (vs.any (fun v => v.isNan))))

/-- The next beat of a transfer out of HBM, and the transfer with what it keeps. -/
def nextIn (w : Nat) (t : Xfer) (m : Mach) : Mach × Except HbmStop (List Byte × Xfer) :=
  let i := t.moved
  match t.mode with
  | 5 => (m, .ok ((t.buffered.drop (128 * i)).take 128, t))
  | 1 | 2 | 3 =>
    let n := decTile t.mode
    if i % 64 = 0 then
      match readRun w (t.addr + i / 64 * n) n m with
      | (m, .error e) => (m, .error e)
      | (m, .ok l) =>
        let (tile, f) := decodeTile t.mode (l.take (128 * (n - 1))) (l.drop (128 * (n - 1)))
        let m := onWell w (fun h => { h with flags := h.flags ||| f }) m
        (m, .ok (tile.take 128, { t with buffered := tile }))
    else (m, .ok ((t.buffered.drop (128 * (i % 64))).take 128, t))
  | _ =>
    match readHbm w (t.src.getD i 0) m with
    | (m, .error e) => (m, .error e)
    | (m, .ok l) => (m, .ok (l, t))

/-- A beat of a wellhead's transfer into the slice. -/
def wellIn (fz : Fuses) (w : Nat) (t : Xfer) (at_ : LaneAt) (cycle : Nat) (m : Mach) : Mach :=
  match nextIn w t m with
  | (m, .error e) => stopXfer fz w t cycle e m
  | (m, .ok (l, t')) =>
    putXfer (.well w) t { t' with moved := t.moved + 1 } (laneWrite fz t.key t.port (128 * (t.loc + t.moved)) at_ l m)

/-- A beat of a wellhead's transfer out of the slice (R337, R340). -/
def wellOut (fz : Fuses) (w : Nat) (t : Xfer) (at_ : LaneAt) (cycle : Nat) (m : Mach) : Mach :=
  match laneRead t.key (t.loc + t.moved) at_ m with
  | (m, b :: r, _) => laneHalt fz t cycle (t.loc + t.moved) (b :: r) (endXfer (.well w) t m)
  | (m, [], l) =>
    let done (m : Mach) : Mach := putXfer (.well w) t { t with moved := t.moved + 1 } m
    if t.mode = 6 then done (onWell w (fun h => { h with queries := tput [] h.queries (t.addr + t.moved) l }) m)
    else
      match writeHbm w t.addr (t.addr + t.len) (t.addr + t.moved) l m with
      | (m, some e) => stopXfer fz w t cycle e m
      | (m, none) => done m

/-- The sealed block that a beat of an MV.HOST belongs to. -/
def sealedBlock (q : Part) (t : Xfer) : Option Nat :=
  if inSealed q t.addr t.len then some ((t.addr + t.moved - sealedUnit q) / 32) else none

/-- What stops a beat that MV.HOST reads (Table 9-2, R701): subcode and argument. -/
def hostFails (m : Mach) (q : Part) (t : Xfer) : Option (Nat × Nat) :=
  if m.hostErr.contains (hostAddr q (t.addr + t.moved) / 128) then some (4, t.addr + t.moved)
  else
    match sealedBlock q t with
    | some b => if (readSealed m (partOf m t.die) b).isSome then none else some (6, b)
    | none => none

/-- The beat that MV.HOST reads next, as it is delivered: out of a sealed block decrypted (R361, R697). -/
def hostBeat (m : Mach) (q : Part) (t : Xfer) : List Byte :=
  match sealedBlock q t with
  | some b =>
    (((readSealed m (partOf m t.die) b).getD []).drop (128 * ((t.addr + t.moved - sealedUnit q) % 32))).take 128
  | none => peeks m.mem.host (hostAddr q (t.addr + t.moved)) 128

/-- A beat into the slice from host memory (R361, R384, R701). -/
def hostIn (fz : Fuses) (t : Xfer) (at_ : LaneAt) (cycle : Nat) (m : Mach) : Mach :=
  let q := part m (partOf m t.die)
  match hostFails m q t with
  | some (sub, arg) => hostHalt fz t cycle sub arg (endXfer (.host t.die) t m)
  | none =>
    let l := hostBeat m q t
    putXfer (.host t.die) t { t with moved := t.moved + 1, buffered := t.buffered ++ l }
      (laneWrite fz t.key t.port (128 * (t.loc + t.moved)) at_ l m)

/-- A beat that is gathered into a block of 4 KiB, which is stored once all 32 of its beats have been read (R369, R697). -/
def gatherBeat (l : Lane) (t : Xfer) (bytes : List Byte) (store : List Byte → Mach → Mach) (m : Mach) : Mach :=
  let b := t.buffered ++ bytes
  if b.length < 4096 then putXfer l t { t with moved := t.moved + 1, buffered := b } m
  else putXfer l t { t with moved := t.moved + 1, buffered := [] } (store b m)

/-- A beat out of the slice to host memory (R364) or the cistern (R369). -/
def hostOut (fz : Fuses) (t : Xfer) (at_ : LaneAt) (cycle : Nat) (m : Mach) : Mach :=
  let p := partOf m t.die
  let q := part m p
  match laneRead t.key (t.loc + t.moved) at_ m with
  | (m, b :: r, _) => laneHalt fz t cycle (t.loc + t.moved) (b :: r) (endXfer (.host t.die) t m)
  | (m, [], l) =>
    if t.kind = 2 then gatherBeat (.host t.die) t l (writeBlock p (t.addr + t.moved / 32)) m
    else
      match sealedBlock q t with
      | some b => gatherBeat (.host t.die) t l (writeSealed p b) m
      | none => putXfer (.host t.die) t { t with moved := t.moved + 1 } (pokeHost (hostAddr q (t.addr + t.moved)) l m)

/-- A beat into the slice from the cistern (R365, R367); no beat of a block that fails its check is written (R377, Table
9-2). -/
def cistIn (fz : Fuses) (t : Xfer) (at_ : LaneAt) (cycle : Nat) (m : Mach) : Mach :=
  let p := partOf m t.die
  let b := t.addr + t.moved / 32
  match (if t.moved % 32 = 0 then cistFails m p b else none) with
  | some code => hostHalt fz t cycle 5 (code * 2 ^ 40 + b) (endXfer (.host t.die) t m)
  | none =>
    let l := peeks m.mem.cist (cistAddr p t.addr + 128 * t.moved) 128
    putXfer (.host t.die) t { t with moved := t.moved + 1, buffered := t.buffered ++ l }
      (laneWrite fz t.key t.port (128 * (t.loc + t.moved)) at_ l m)

/-- The header of packet i of an LK.INJECT (R474), under a template; `src` of the transfer holds the step of its
issue. -/
def injectHdr (m : Mach) (t : Xfer) (y : Template) (i : Nat) : Header :=
  let last := decide (t.len ≤ 32 * i + 32)
  { newHdr m t.die t.unit with
    dstMod := y.dstMod, dstDie := y.dstDie, dstUnit := y.dstUnit, op := y.op, cls := 0, keyslot := y.keyslot
    flags := y.flags + (if last then 2 else 0), addr := y.addr + 128 * (t.addr + 32 * i), xfer := t.xfer16
    step := t.src.headD 0 % 65536, keyEpoch := b2n (fslot m t.die y.keyslot).wr }

/-- A beat of an LK.INJECT: every 32 beats, or what remains, leave as a packet (R474). -/
def linkOut (fz : Fuses) (t : Xfer) (at_ : LaneAt) (cycle : Nat) (m : Mach) : Mach :=
  match laneRead t.key (t.loc + t.moved) at_ m with
  | (m, b :: r, _) => laneHalt fz t cycle (t.loc + t.moved) (b :: r) (endXfer (.link t.die) t m)
  | (m, [], l) =>
    let n := t.moved + 1
    let buf := t.buffered ++ l
    if n % 32 = 0 ∨ t.len ≤ n then
      let y := tget noTemplate (die m t.die).tmpls t.tmpl
      sendPair fz t.die 0 (injectHdr m t y ((n - 1) / 32)) buf (some (t.key, t.desc))
        (putXfer (.link t.die) t { t with moved := n, buffered := [] } m)
    else putXfer (.link t.die) t { t with moved := n, buffered := buf } m

/-- One beat of a transfer moves, into the slice or out of it. -/
def moveBeat (fz : Fuses) (l : Lane) (t : Xfer) (at_ : LaneAt) (cycle : Nat) (m : Mach) : Mach :=
  match l with
  | .well w => if t.out then wellOut fz w t at_ cycle m else wellIn fz w t at_ cycle m
  | .host _ =>
    if t.out then hostOut fz t at_ cycle m
    else if t.kind = 1 then hostIn fz t at_ cycle m else cistIn fz t at_ cycle m
  | .link _ => if t.kind = 3 then linkOut fz t at_ cycle m else m

/-! ### The order of the host gateway and the cistern (R364, R368) -/

/-- Beats of the transfer are still to move. -/
def Xfer.open_ (t : Xfer) : Bool := t.started && decide (t.moved < t.len)

/-- The cistern does not serve the transfer: it writes nothing from 80 °C on, and is off after its trip (18 Table 18-4). -/
def cold (m : Mach) (t : Xfer) : Bool := t.kind == 2 && (m.pwr.cistern == 3 || (m.pwr.cistern == 2 && t.out))

/-- Partitions whose namespaces have requests pending at the cistern; while a hold has stopped one, its lanes take nothing. -/
def cistPending (m : Mach) : List Nat :=
  (List.range 4).filter (fun p => (part m p).hold.isNone
    && m.hosts.any (fun y => y.2.any (fun t => t.kind == 2 && t.open_ && !cold m t && partOf m t.die == p)))

/-- The partition whose next block the cistern controller serves: weighted round robin (R368). -/
def cistNext (m : Mach) : Option Nat :=
  let l := cistPending m
  let (p, left) := m.cistTurn
  if l.contains p && decide (0 < left) then some p
  else ([1, 2, 3, 4].map (fun i => (p + i) % 4)).find? (fun q => l.contains q)

/-- A partition's turn after one block of it. -/
def cistServed (p : Nat) (m : Mach) : Mach :=
  let (q, left) := m.cistTurn
  { m with cistTurn := if q = p ∧ 0 < left then (p, left - 1) else (p, (part m p).share - 1) }

/-- The beat is the one with which the cistern serves a block: the first of a read, the last of a write (R369). -/
def blockBeat (t : Xfer) : Bool := t.kind == 2 && t.moved % 32 == (if t.out then 31 else 0)

/-- The edge station takes the next beat of a transfer now: beats of MV.HOST reach host memory in the order of the requests of
one die (R364), blocks of the cistern in the order of R368. -/
def inTurn (m : Mach) (l : Lane) (t : Xfer) (at_ : LaneAt) : Bool :=
  (!(t.kind == 1 && t.out)
    || ((laneList m l).takeWhile (fun y => y != t)).all (fun y => !(y.kind == 1 && y.out && decide (y.moved < y.len))))
  && (!blockBeat t || (match at_ with
      | .held _ => true
      | _ => cistNext m == some (partOf m t.die)))

/-! ### LANE_BEAT_ACCESS -/

/-- The access of the next beat finds its port and bank free (R330); while the partition is stopped or between steps they
are. -/
def laneFree (m : Mach) (t : Xfer) (at_ : LaneAt) : Bool :=
  match at_ with
  | .cycle c => !laneBlocked (stn m t.key) (!t.out) t.port (t.loc + t.moved) 0 c
  | _ => true

/-- One beat of a transfer at its station. -/
def stepLane (fz : Fuses) (l : Lane) (t : Xfer) (at_ : LaneAt) (cycle : Nat) (m : Mach) : Mach :=
  match laneMesh l t at_ m with
  | none => m
  | some m =>
    let m := if blockBeat t then cistServed (partOf m t.die) m else m
    feed l t.key t.desc at_ (moveBeat fz l t at_ cycle
      (recordLane t.key (!t.out) t.port (t.loc + t.moved) 0 t.iaddr at_ m))

/-- LANE_BEAT_ACCESS: one beat of a started transfer through its port, in a cycle that leaves port and bank free (R330). -/
def laneBeat (d unit desc cycle : Nat) (fz : Fuses) (m : Mach) : Mach :=
  match keyOf m d unit with
  | none => m
  | some key =>
    match findXfer m key desc with
    | none => m
    | some (l, t) =>
      let at_ := laneAt m key cycle
      if t.open_ && decide (t.moved + lostOf m t < t.len) && laneFree m t at_ && !cold m t && inTurn m l t at_ then
        stepLane fz l t at_ cycle m
      else m

/-- LANE_BEAT_ACCESS. -/
def execLaneBeatAccess (die : Fin 4) (unit : Fin 128) (desc : Fin 64) (cycle : Nat) (s : State) :
    Host.Outcome State Fault Refusal :=
  run s (laneBeat die.val unit.val desc.val cycle)

/-! ### The end of a transfer (R118, R120, R296) -/

/-- A descriptor becomes READY in a wall cycle, and the causes that wait for it clear. -/
def becomeReady (d unit key desc : Nat) (wall : Int) (m : Mach) : Mach :=
  let p := partOf m d
  let q := part m p
  let at_ : Int := if q.inStep then wall else -7
  let m := onStn key (fun s => { s with sbd := tmod {} s.sbd desc (fun e => { e with
    state := .ready, readyAt := at_, readyStep := q.step }) }) m
  clearCause p (wall + 1) (fun c => decide (c.code < 4) && c.die == d && c.unit == unit && c.desc == desc) m

/-- Packets of a descriptor that wait ahead of a transmit store, or for a route (R432, R490). -/
def waitsAhead (m : Mach) (key desc : Nat) : Bool :=
  let mine (o : OutPkt) : Bool := o.src == some (key, desc)
  m.ports.any (fun y => y.2.ahead.any mine) || m.dies.any (fun y => y.2.held.any (fun h => mine h.out))

/-- The transfer is complete (Table 3-11): an LK.EXPECT counts units of 32 bytes, and the packets of an LK.INJECT have
entered a transmit store. -/
def xferDone (m : Mach) (t : Xfer) : Bool :=
  t.started && !t.ready && decide ((if t.kind = 4 then 4 * t.len else t.len) ≤ t.moved)
    && (t.kind != 3 || !waitsAhead m t.key t.desc)

/-- Where a read of host memory or the cistern began and how long it is, in bytes of its INPUT range (Table 15-6). -/
def fetchSpan (t : Xfer) : Nat × Nat := if t.kind = 1 then (128 * t.addr, 128 * t.len) else (4096 * t.addr, 128 * t.len)

/-- A read from an INPUT range is journalled and compared (15, R663). -/
def noteFetch (t : Xfer) (m : Mach) : Mach :=
  let p := partOf m t.die
  let (a, n) := fetchSpan t
  let ranges := ((planOf m p).map (fun pl => pl.inputs)).getD []
  let kind := t.kind - 1
  if (t.kind = 1 ∨ t.kind = 2) ∧ t.out = false ∧ ranges.any (fun y =>
      y.kind == kind && decide (y.addr ≤ a) && decide (a + n ≤ y.addr + y.len)) = true then
    fetchRead p kind a n (sha256 t.buffered) m
  else m

/-- A transfer that is complete leaves its edge station; the region of an LK.EXPECT stays open until SB.CLOSE (11 R493). -/
def retire (l : Lane) (t : Xfer) (m : Mach) : Mach :=
  if t.kind = 4 then putXfer l t { t with ready := true } m else endXfer l t m

/-- DESCRIPTOR_READY: the last beat of the transfer has moved. -/
def descriptorReady (d unit desc : Nat) (wall : Int) (m : Mach) : Mach :=
  match keyOf m d unit with
  | none => m
  | some key =>
    match findXfer m key desc with
    | none => m
    | some (l, t) =>
      if xferDone m t then noteFetch t (becomeReady d unit key desc wall (retire l t m)) else m

/-- DESCRIPTOR_READY. -/
def execDescriptorReady (die : Fin 4) (unit : Fin 128) (desc : Fin 64) (wall : Int) (s : State) :
    Host.Outcome State Fault Refusal :=
  run s (fun _ => descriptorReady die.val unit.val desc.val wall)

end Sys2Proof.Machine
end

