-- ==== Sys2Proof/Machine/Times.lean ====
section
/-! DEFINITION. Module time at a port (12 R543 to R549): the state of a port, validity of PTP, the payload of a time
marker and the moment it leaves. -/

namespace Sys2Proof.Machine

/-- Module time at a port. -/
def mport (m : Mach) (k : Nat) : MPort := tget {} m.clk.ports k

/-- Changing module time at a port. -/
def onMport (k : Nat) (f : MPort → MPort) (m : Mach) : Mach :=
  { m with clk := { m.clk with ports := tmod {} m.clk.ports k f } }

/-- PTP_VALID (R543). -/
def ptpValid (m : Mach) : Bool :=
  match m.clk.lastSync with
  | some t => decide (m.clk.wall ≤ t + 4000000000)
  | none => false

/-- MTIME now, in 2^-16 ns. -/
def mtime16 (m : Mach) : Nat := m.clk.acc / 2 ^ 24

/-- MTIME at an earlier wall time, in 2^-16 ns. -/
def mtimeAt (m : Mach) (wall : Nat) : Nat :=
  let n := m.clk.wall - wall
  let back : Int := (n : Int) * 2 ^ 40 + (n : Int) * m.clk.adj / 10
  (m.clk.acc - back.toNat) / 2 ^ 24

/-- MFLAGS of this module (Table 12-3), without ECHO_VALID. -/
def markFlags (m : Mach) : Nat := 2 * b2n (m.clk.st != 0) + 4 * b2n (m.clk.st == 2) + 8 * b2n (ptpValid m)

/-- TURN of a marker that leaves now, if there is a marker to echo (R547). -/
def markTurn (m : Mach) (k : Nat) : Option (Nat × Nat) :=
  match (mport m k).got with
  | none => none
  | some (q, at_) =>
    let u := (mtime16 m - at_) / 256
    if u < 2 ^ 32 then some (q, u) else none

/-- The payload of a time marker that leaves a port now (Table 12-3, R546). -/
def markBytes (m : Mach) (k seq : Nat) : List Byte :=
  let t := mtime16 m
  let e := markTurn m k
  let q := (e.map (fun y => y.1)).getD 0
  let u := (e.map (fun y => y.2)).getD 0
  leBytes 1 1 ++ leBytes 1 (b2n e.isSome + markFlags m) ++ leBytes 2 seq ++ leBytes 2 q ++ leBytes 2 (t % 65536)
    ++ leBytes 8 (t / 65536) ++ leBytes 4 u ++ zeros 12

/-- The packet is a time marker of this end. -/
def isMarker (p : Packet) : Bool := p.hdr.isLocal && p.hdr.op == 5 && p.payload.head? == some 1

/-- A marker's packet as it leaves a port, and the record of its departure (R546, R549). -/
def leaveMarker (k : Nat) (p : Packet) (m : Mach) : Packet × Mach :=
  if isMarker p then
    let seq := leAt p.payload 2 2
    let t := mtime16 m
    let keep (l : List (Nat × Nat)) : List (Nat × Nat) :=
      let l := l.filter (fun y => y.1 != seq) ++ [(seq, t)]
      l.drop (l.length - 4)
    ({ p with payload := markBytes m k seq }, onMport k (fun x => { x with sent := keep x.sent }) m)
  else (p, m)

end Sys2Proof.Machine
end

