-- ==== Sys2Proof/Machine/Link.lean ====
section
/-! DEFINITION. The Lerek link (10): link units, the receive pool's grants and the transmit store, replay, the down
decision, priming, width changes and retrains, the link commands. -/

namespace Sys2Proof.Machine

/-! ### Widths and lane groups (R413, R455) -/

/-- Width code and lanes of every group: the largest width first, then the lowest-numbered. -/
def groups : List (Nat × Nat) :=
  [(0, 0xFF), (1, 0x0F), (1, 0xF0), (2, 0x03), (2, 0x0C), (2, 0x30), (2, 0xC0)]

/-- Lanes a lie within lanes b. -/
def within (a b : Nat) : Bool := maskBits 8 a b == a

/-- Picoseconds per byte at a width (R414). -/
def psPerByte (w : Nat) : Nat :=
  match w with
  | 0 => 5
  | 1 => 10
  | _ => 20

/-- The group of a width change (R455). -/
def groupFor (inUse usable : Nat) : Option (Nat × Nat) := groups.find? (fun g => within g.2 inUse && within g.2 usable)

/-- Lanes that a port finds usable. -/
def Port.usable (q : Port) : Nat := 255 - q.unusable % 256

/-! ### The prefix (Table 10-2) -/

/-- A unit of a kind other than PKT. -/
def ctlUnit (kind arg : Nat) : LinkUnit :=
  { kind := kind, cls := 2, arg := arg, ack := 0, crCls := 0, cr := 0, len16 := 0, want := 0, resv := 0
    lcrcOk := true, fecOk := true, pkt := none }

/-- The next packet of a class that has not been sent. -/
def Port.head (q : Port) (c : Nat) : Option OutPkt := q.store.find? (fun o => o.lseq.isNone && o.cls == c)

/-- Credit of a class (R423). -/
def Port.credit (q : Port) (c : Nat) : Nat := (q.cr.get c + 65536 - q.used.get c % 65536) % 65536

/-- The next packet of a class that has its credit (R423). -/
def Port.next (q : Port) (c : Nat) : Option OutPkt :=
  (q.head c).filter (fun o => decide (units o.pkt.size ≤ q.credit c))

/-- WANT (Table 10-2). -/
def Port.want (q : Port) : Nat :=
  (List.range 4).foldl (fun a c => if (q.head c).isSome && (q.next c).isNone then a + 2 ^ c else a) 0

/-- The class whose grant the next prefix carries (R426): in rotation among those that changed. -/
def Port.crNext (q : Port) : Nat :=
  (((List.range 4).map (fun i => (q.crTurn + i) % 4)).find? (fun c => bitAt q.crDue c)).getD q.crTurn

/-- An acknowledgement, a grant or a change of WANT is due (R426, R427, R431). -/
def Port.due (q : Port) : Bool := q.ackDue || q.crDue != 0 || q.want != q.wantSent

/-- A unit sent: its prefix takes ACK, CR, WANT and LCRC (R415), and the transmitter is busy until its last byte (R414). -/
def sendUnit (k : Nat) (u : LinkUnit) (m : Mach) : Mach :=
  let q := port m k
  let c := q.crNext
  let start := if q.busy ≤ 1000 * m.clk.wall then 1000 * m.clk.wall else q.busy
  let stop := start + (16 + 16 * u.len16) * psPerByte q.width
  let u : LinkUnit := { u with ack := (q.rxNext + 0xFFFFFF) % 2 ^ 24, crCls := c, cr := q.granted.get c, want := q.want }
  let m := onPort k (fun x => { x with busy := stop, lastSent := (stop + 999) / 1000, crDue := dropBit x.crDue c
                                       crTurn := (c + 1) % 4, ackDue := false, wantSent := q.want }) m
  { m with out := m.out ++ [.unit k u u.lcrc] }

/-! ### Receiving (R417, R418, R428, R430 to R432) -/

/-- The port is in a state in which it receives units. -/
def Port.hears (q : Port) : Bool := [4, 5, 6, 7, 9].contains q.st

/-- A unit that R418 discards. -/
def badUnit (u : LinkUnit) : Bool :=
  u.kind == 0 || decide (9 < u.kind) || u.resv != 0
  || (if u.kind = 1 then decide (u.len16 < 4) || decide (259 < u.len16) else u.len16 != 0 || u.cls != 2)

/-- An acknowledgement taken (R431 to R433). -/
def takeAck (k a : Nat) (m : Mach) : Mach :=
  let q := port m k
  let d := (a + 2 ^ 24 - q.txAcked) % 2 ^ 24
  let sent := (q.txNext + 2 ^ 24 - 1 - q.txAcked) % 2 ^ 24
  if d = 0 then m
  else if sent < d then (if d < 2 ^ 23 then bump .lrkKindDrop (iPort k) m else m)
  else
    let open_ (o : OutPkt) : Bool :=
      match o.lseq with
      | some l => decide (d < (l + 2 ^ 24 - q.txAcked) % 2 ^ 24)
      | none => true
    let store := q.store.filter open_
    let now := m.clk.wall
    let timer := (store.find? (fun o => o.lseq.isSome)).map (fun o => if now < o.sentAt then o.sentAt else now)
    pump k (onPort k (fun x => { x with txAcked := a, store := store, expiries := 0, timer := timer }) m)

/-- The fields of every prefix taken: ACK, the grant, WANT (R423 to R425). -/
def takePrefix (k : Nat) (u : LinkUnit) (m : Mach) : Mach :=
  let m := takeAck k u.ack m
  onPort k (fun q =>
    let q := { q with cr := q.cr.mod u.crCls (fun _ => u.cr), peerWant := u.want }
    shareOut m.clk.wall q.shared q) m

/-- A unit received (R417, R418, R437, R439): none when it is discarded. -/
def hear (k : Nat) (u : LinkUnit) (m : Mach) : Mach × Bool :=
  let q := port m k
  if !q.hears then (m, false)
  else if !u.lcrcOk || !u.fecOk then (bump .lrkLcrcErr (iPort k) m, false)
  else
    let m := onPort k (fun x => { x with lastHeard := m.clk.wall }) m
    if badUnit u then (bump .lrkKindDrop (iPort k) m, false) else (takePrefix k u m, true)

/-- An acknowledgement becomes due. -/
def Port.oweAck (q : Port) (now : Nat) : Port :=
  { q with ackDue := true, dueAt := if q.ackDue || q.crDue != 0 then q.dueAt else now }

/-- The packet that a unit carries is as long as its LEN16 says (R416). -/
def carried (u : LinkUnit) (p : Packet) : Packet :=
  { p with payload := fitTo (16 * u.len16 - (if p.hdr.keyslot = 0 then 32 else 48)) p.payload }

/-- A packet of a unit (R416, R421, R428, R430). -/
def acceptPkt (k : Nat) (u : LinkUnit) (pkt : Packet) (m : Mach) : Mach :=
  let q := port m k
  let p := carried u pkt
  let n := units p.size
  let now := m.clk.wall
  if u.arg % 2 ^ 24 = q.rxNext then
    if q.outst.get u.cls < n then bump .lrkCreditViol (iPort k) m
    else
      onPort k (fun q => { (q.oweAck now) with
        rxNext := (q.rxNext + 1) % 2 ^ 24, outst := q.outst.mod u.cls (fun x => x - n)
        holds := q.holds.mod u.cls (fun x => x + n)
        inbox := q.inbox ++ [{ pkt := p, port := k, cls := u.cls, len16 := u.len16, at_ := now }] }) m
  else
    let m := bump .lrkSeqDrop (iPort k) m
    if (q.rxNext + 2 ^ 24 - 1 - u.arg % 2 ^ 24) % 2 ^ 24 < 2 ^ 23 then onPort k (fun q => q.oweAck now) m else m

/-- PKT: a packet unit received. -/
def recvPkt (k : Nat) (u : LinkUnit) (m : Mach) : Mach :=
  match hear k u m with
  | (m, false) => m
  | (m, true) =>
    match u.pkt with
    | some p => if u.kind = 1 ∧ (port m k).active = true then acceptPkt k u p m else m
    | none => m

/-- PKT. -/
def execPkt (port : Fin 16) (u : LinkUnit) (s : State) : Host.Outcome State Fault Refusal :=
  run s (fun _ => recvPkt port.val u)

/-- LINK: a LINK or KEEPALIVE unit received. -/
def execLink (port : Fin 16) (u : LinkUnit) (s : State) : Host.Outcome State Fault Refusal :=
  run s (fun _ m => (hear port.val u m).1)

/-! ### Keep-alive (R436) -/

/-- No unit may be sent between WIDTH_MARK and the end of realignment (R456). -/
def Port.silent (q : Port) : Bool :=
  match q.op with
  | some o => o.tx
  | none => false

/-- KEEPALIVE: one is sent after 1 µs, or 100 µs in DOZE, without a unit. -/
def keepAlive (k : Nat) (m : Mach) : Mach :=
  let q := port m k
  if !q.hears || q.silent then m
  else sendUnit k (ctlUnit 3 0) (reachWall (q.lastSent + (if q.slowKeep then 100000 else 1000)) m)

/-- KEEPALIVE. -/
def execKeepalive (port : Fin 16) (s : State) : Host.Outcome State Fault Refusal :=
  run s (fun _ => keepAlive port.val)

/-! ### Transmission (R419, R420) -/

/-- What a port sends next. -/
inductive Choice where
  | ctl (u : LinkUnit)
  | bare
  | again (o : OutPkt)
  | fresh (o : OutPkt)
  | nothing
  deriving DecidableEq, Repr

/-- Bytes of C2 packets sent in the last 10 µs. -/
def c2Bytes (now : Nat) (l : List (Nat × Nat)) : Nat :=
  (l.filter (fun y => decide (now < y.1 + 10000))).foldl (fun n y => n + y.2) 0

/-- The C2 packet that may be sent now (R420): 1 % of the payload rate in any 10 µs, at most one ahead of a C0
packet. -/
def Port.nextC2 (q : Port) (now : Nat) : Option OutPkt :=
  (q.next 2).filter (fun o =>
    decide (c2Bytes now q.c2Log + 16 + o.pkt.size ≤ 100000 / psPerByte q.width)
      && ((q.next 0).isNone || q.c2Ahead == 0))

/-- The choice of R419, at a moment; a port that is not ACTIVE sends LINK units only (R448, R450). -/
def Port.choose (q : Port) (now : Nat) : Choice :=
  let free := (q.next 0).isNone || decide (q.ctlAhead < 20)
  if q.silent then .nothing
  else if q.active && !q.ctl.isEmpty && free then .ctl (q.ctl.headD (ctlUnit 2 0))
  else if q.due && free && decide (q.dueAt + 100 ≤ now) then .bare
  else
    let pick : Option Choice :=
      if !q.active then none
      else
        match q.store.find? (fun o => o.again) with
        | some o => some (.again o)
        | none => ((q.nextC2 now).or ((q.next 0).or ((q.next 3).or (q.next 1)))).map .fresh
    match pick with
    | some c => c
    | none => if q.due && free then .bare else .nothing

/-- A unit other than PKT counted against R420. -/
def noteCtl (k : Nat) (m : Mach) : Mach :=
  onPort k (fun q => { q with ctlAhead := if (q.next 0).isSome then q.ctlAhead + 1 else 0 }) m

/-- The unit of a packet under its LSEQ, a time marker stamped as it leaves (R546). -/
def sendPkt (k lseq : Nat) (o : OutPkt) (m : Mach) : Mach :=
  let (p, m) := leaveMarker k o.pkt m
  sendUnit k { ctlUnit 1 lseq with cls := o.cls, len16 := p.size / 16, pkt := some p } m

/-- The last byte of a packet just sent is noted (R433). -/
def noteSent (k l : Nat) (m : Mach) : Mach :=
  onPort k (fun q => { q with store := q.store.map (fun x => if x.lseq = some l then { x with sentAt := q.lastSent } else x) }) m

/-- The timer of R433 starts from the end of the unit just sent. -/
def startTimer (k : Nat) (m : Mach) : Mach := onPort k (fun q => { q with timer := some q.lastSent }) m

/-- A packet sent for the first time (R423, R429). -/
def sendFresh (k : Nat) (o : OutPkt) (m : Mach) : Mach :=
  let q := port m k
  let l := q.txNext
  let sent := q.store.filter (fun x => x.lseq.isSome)
  let rest := (q.store.filter (fun x => x.lseq.isNone)).erase o
  let now := m.clk.wall
  let log := q.c2Log.filter (fun y => decide (now < y.1 + 10000))
  let m := onPort k (fun q => { q with
    store := sent ++ [{ o with lseq := some l }] ++ rest, txNext := (l + 1) % 2 ^ 24
    used := q.used.mod o.cls (fun x => (x + units o.pkt.size) % 65536)
    c2Log := if o.cls = 2 then log ++ [(now, 16 + o.pkt.size)] else log
    c2Ahead := if o.cls = 2 then (if (q.next 0).isSome then q.c2Ahead + 1 else 0) else if o.cls = 0 then 0 else q.c2Ahead
    ctlAhead := if o.cls = 0 then 0 else q.ctlAhead }) m
  let m := noteSent k l (sendPkt k l o m)
  if sent = [] then startTimer k m else m

/-- A packet sent again (R434): the replayed oldest restarts the timer. -/
def sendAgain (k : Nat) (o : OutPkt) (m : Mach) : Mach :=
  let oldest := ((port m k).store.head?) == some o
  let m := onPort k (fun q => { q with store := q.store.map (fun x => if x = o then { x with again := false } else x) }) m
  let m := noteSent k (o.lseq.getD 0) (sendPkt k (o.lseq.getD 0) o m)
  if oldest then startTimer k m else m

/-- A unit of a width change, retrain or DOZE sent (R456, R458). -/
def sendCtl (fz : Fuses) (k : Nat) (u : LinkUnit) (m : Mach) : Mach :=
  let m := sendUnit k u (noteCtl k (onPort k (fun q => { q with ctl := q.ctl.drop 1 }) m))
  if u.kind = 7 then onPort k (fun q => { q with op := q.op.map (fun o => { o with tx := true }) }) m
  else if u.kind = 6 ∧ u.arg = 5 ∧ (port m k).retrain = true then downPort fz k 4 true m
  else m

/-- UNIT_TRANSMIT: the previous unit has left, and the next is chosen and started. -/
def transmit (k : Nat) (fz : Fuses) (m : Mach) : Mach :=
  if !(port m k).hears then m
  else
    let m := pump k (reachWall (((port m k).busy + 999) / 1000) m)
    match (port m k).choose m.clk.wall with
    | .ctl u => sendCtl fz k u m
    | .bare => sendUnit k (ctlUnit 2 0) (noteCtl k m)
    | .again o => sendAgain k o m
    | .fresh o => sendFresh k o m
    | .nothing => m

/-- UNIT_TRANSMIT. -/
def execUnitTransmit (port : Fin 16) (s : State) : Host.Outcome State Fault Refusal :=
  run s (transmit port.val)

/-! ### Requests (R454 to R461) -/

/-- A unit put in the queue of width changes, retrains and DOZE. -/
def queueCtl (k : Nat) (u : LinkUnit) (m : Mach) : Mach := onPort k (fun q => { q with ctl := q.ctl ++ [u] }) m

/-- A request of this end: its kind and mask, and when it was made. -/
def askPeer (k kind mask : Nat) (m : Mach) : Mach :=
  queueCtl k (ctlUnit kind (if kind = 4 then mask else 0))
    (onPort k (fun q => { q with req := some (kind, mask, m.clk.wall) }) m)

/-- The conditions of R454 evaluated: a lane in use is unusable, and no operation is under way (R461). -/
def evalLanes (k : Nat) (m : Mach) : Mach :=
  let q := port m k
  if q.st ≠ 6 ∨ q.req.isSome = true ∨ q.op.isSome = true ∨ q.retrain = true ∨ within q.lanes q.usable = true then m
  else if (groupFor q.lanes q.usable).isSome then askPeer k 4 q.usable m
  else askPeer k 5 0 m

/-- This end leads when both have made a request (R460). -/
def leads (m : Mach) (k : Nat) : Bool :=
  let q := port m k
  decide (m.moduleId < q.peerMod) || (m.moduleId == q.peerMod && decide (k < q.peerPort))

/-- The peer's request is for this end to acknowledge: it has no request of its own, or follows (R460). -/
def yields (m : Mach) (k : Nat) : Bool :=
  let q := port m k
  q.st == 6 && !q.retrain && (q.req.isNone || !leads m k)

/-- This end's own request abandoned. -/
def dropReq (k : Nat) (m : Mach) : Mach :=
  onPort k (fun q => { q with req := none, ctl := q.ctl.filter (fun u => u.kind != 4 && u.kind != 5) }) m

/-- A width change begins (R456): WIDTH_MARK follows as the last unit at the old width. -/
def startWidth (k : Nat) (g : Nat × Nat) (t : Nat) (m : Mach) : Mach :=
  queueCtl k (ctlUnit 7 0)
    (onPort k (fun q => { q with st := 7, op := some { lanes := g.2, width := g.1, start := t } }) m)

/-- WIDTH_REQ received (R455, R460). -/
def recvWidthReq (k : Nat) (u : LinkUnit) (m : Mach) : Mach :=
  match hear k u m with
  | (m, false) => m
  | (m, true) =>
    if u.kind ≠ 4 ∨ yields m k = false then m
    else
      match groupFor (port m k).lanes (u.arg % 256) with
      | none => m
      | some g => startWidth k g m.clk.wall (queueCtl k (ctlUnit 6 4) (dropReq k m))

/-- WIDTH_REQ. -/
def execWidthReq (port : Fin 16) (u : LinkUnit) (s : State) : Host.Outcome State Fault Refusal :=
  run s (fun _ => recvWidthReq port.val u)

/-- RETRAIN_REQ received (R458, R460): the port goes down once its acknowledgement is sent. -/
def recvRetrainReq (k : Nat) (u : LinkUnit) (m : Mach) : Mach :=
  match hear k u m with
  | (m, false) => m
  | (m, true) =>
    if u.kind ≠ 5 ∨ yields m k = false then m
    else onPort k (fun q => { q with retrain := true }) (queueCtl k (ctlUnit 6 5) (dropReq k m))

/-- RETRAIN_REQ. -/
def execRetrainReq (port : Fin 16) (u : LinkUnit) (s : State) : Host.Outcome State Fault Refusal :=
  run s (fun _ => recvRetrainReq port.val u)

/-- REQ_ACK received (R456, R458). -/
def recvReqAck (k : Nat) (u : LinkUnit) (fz : Fuses) (m : Mach) : Mach :=
  match hear k u m with
  | (m, false) => m
  | (m, true) =>
    match (port m k).req with
    | none => m
    | some (kind, mask, t) =>
      if u.kind ≠ 6 ∨ u.arg % 16 ≠ kind then m
      else
        let m := onPort k (fun q => { q with req := none }) m
        if kind = 5 then downPort fz k 4 true m
        else
          match groupFor (port m k).lanes mask with
          | some g => startWidth k g t m
          | none => m

/-- REQ_ACK. -/
def execReqAck (port : Fin 16) (u : LinkUnit) (s : State) : Host.Outcome State Fault Refusal :=
  run s (recvReqAck port.val u)

/-- WIDTH_MARK received: the receiver switches (R456). -/
def recvWidthMark (k : Nat) (u : LinkUnit) (m : Mach) : Mach :=
  match hear k u m with
  | (m, false) => m
  | (m, true) =>
    if u.kind = 7 then onPort k (fun q => { q with op := q.op.map (fun o => { o with rx := true }) }) m else m

/-- WIDTH_MARK. -/
def execWidthMark (port : Fin 16) (u : LinkUnit) (s : State) : Host.Outcome State Fault Refusal :=
  run s (fun _ => recvWidthMark port.val u)

/-- LANE_REALIGN: the width change is complete at this end (R456, R457, R461). -/
def realign (k : Nat) (m : Mach) : Mach :=
  match (port m k).op with
  | none => m
  | some o =>
    if o.tx && o.rx then
      let m := onPort k (fun q => { q with st := 6, width := o.width, lanes := o.lanes, op := none }) m
      evalLanes k (raiseEvt 0x0012 1 (iPort k) o.width (bump .lrkWidthChg (iPort k) m))
    else m

/-- LANE_REALIGN. -/
def execLaneRealign (port : Fin 16) (s : State) : Host.Outcome State Fault Refusal :=
  run s (fun _ => realign port.val)

/-- REQ_TIMEOUT: a request without REQ_ACK is abandoned after 10 µs (R459). -/
def reqTimeout (k : Nat) (m : Mach) : Mach :=
  match (port m k).req with
  | none => m
  | some (_, _, t) => evalLanes k (dropReq k (reachWall (t + 10000) m))

/-- REQ_TIMEOUT. -/
def execReqTimeout (port : Fin 16) (s : State) : Host.Outcome State Fault Refusal :=
  run s (fun _ => reqTimeout port.val)

/-- WIDTH_CHANGE_TIMEOUT: a width change not complete within 4 µs of its WIDTH_REQ (R457). -/
def widthTimeout (k : Nat) (fz : Fuses) (m : Mach) : Mach :=
  match (port m k).op with
  | none => m
  | some o => downPort fz k 4 false (reachWall (o.start + 4000) m)

/-- WIDTH_CHANGE_TIMEOUT. -/
def execWidthChangeTimeout (port : Fin 16) (s : State) : Host.Outcome State Fault Refusal :=
  run s (widthTimeout port.val)

/-! ### DOZE (R440) -/

/-- DOZE received, in ACTIVE: before it, and in MISWIRED, no unit answers it (R440, R448, R450). -/
def recvDoze (k : Nat) (u : LinkUnit) (m : Mach) : Mach :=
  match hear k u m with
  | (m, false) => m
  | (m, true) =>
    if u.kind ≠ 8 ∨ (port m k).active = false then m
    else if u.arg % 2 = 1 then queueCtl k (ctlUnit 9 1) (onPort k (fun q => { q with peerDoze := true }) m)
    else onPort k (fun q => { q with peerDoze := false }) m

/-- DOZE. -/
def execDoze (port : Fin 16) (u : LinkUnit) (s : State) : Host.Outcome State Fault Refusal :=
  run s (fun _ => recvDoze port.val u)

/-- DOZE_ACK received: keep-alives every 100 µs from then on. -/
def recvDozeAck (k : Nat) (u : LinkUnit) (m : Mach) : Mach :=
  match hear k u m with
  | (m, false) => m
  | (m, true) =>
    if u.kind = 9 ∧ u.arg % 2 = 1 then onPort k (fun q => { q with slowKeep := q.doze }) m else m

/-- DOZE_ACK. -/
def execDozeAck (port : Fin 16) (u : LinkUnit) (s : State) : Host.Outcome State Fault Refusal :=
  run s (fun _ => recvDozeAck port.val u)

/-- The module enters or leaves DOZE: every port tells its peer. -/
def dozePorts (enter : Bool) (m : Mach) : Mach :=
  ((List.range 16).filter (fun k => (port m k).active)).foldl (fun m k =>
    queueCtl k (ctlUnit 8 (b2n enter)) (onPort k (fun q => { q with doze := enter, slowKeep := false }) m)) m

/-! ### Replay and down (R433 to R439) -/

/-- REPLAY_TIMEOUT. -/
def replayTimeout (k : Nat) (fz : Fuses) (m : Mach) : Mach :=
  match (port m k).timer with
  | none => m
  | some t =>
    let m := bump .lrkTimeouts (iPort k) (reachWall (t + 2 * (port m k).rtt + 1000) m)
    if 3 ≤ (port m k).expiries then downPort fz k 2 false m
    else
      let n := ((port m k).store.filter (fun o => o.lseq.isSome)).length
      bumpBy .lrkReplayed (iPort k) 0 n
        (onPort k (fun q => { q with
          expiries := q.expiries + 1, timer := none
          store := q.store.map (fun o => if o.lseq.isSome then { o with again := true } else o) }) m)

/-- REPLAY_TIMEOUT. -/
def execReplayTimeout (port : Fin 16) (s : State) : Host.Outcome State Fault Refusal :=
  run s (replayTimeout port.val)

/-- The down time in ns (R437). -/
def Port.downTime (q : Port) : Nat := if q.peerDoze then 1600000 else 1000 * q.downUs

/-- SILENCE. -/
def silence (k : Nat) (fz : Fuses) (m : Mach) : Mach :=
  let q := port m k
  if [5, 6, 7].contains q.st then downPort fz k 1 false (reachWall (q.lastHeard + q.downTime) m) else m

/-- SILENCE. -/
def execSilence (port : Fin 16) (s : State) : Host.Outcome State Fault Refusal :=
  run s (silence port.val)

/-- LOCK_LOSS on a lane in use; a port leaves MISWIRED otherwise (R448). -/
def lockLoss (k lane : Nat) (fz : Fuses) (m : Mach) : Mach :=
  if (port m k).hears && (port m k).st != 9 && bitAt (port m k).lanes lane then downPort fz k 3 false m else m

/-- LOCK_LOSS. -/
def execLockLoss (port : Fin 16) (lane : Fin 8) (s : State) : Host.Outcome State Fault Refusal :=
  run s (lockLoss port.val lane.val)

/-! ### Priming (R445 to R451) -/

/-- A port may be primed: an optical port only once the location is set (R8). -/
def mayPrime (m : Mach) (k : Nat) : Bool := decide (k < 8) || m.located

/-- Priming starts: the configuration is taken (R465), from DETECT or, after a retrain, from EQUALISE (R458). -/
def startPriming (k : Nat) (m : Mach) : Mach :=
  onPort k (fun q => { q.reset with st := if q.fromEq then 2 else 1, fromEq := false, unusable := 0
                                    thrNow := q.laneThr, widthNow := q.cfgWidth }) m

/-- PRIME_RETRY: priming of a port that is down, after its interval (R439). -/
def primeRetry (k : Nat) (m : Mach) : Mach :=
  let q := port m k
  if q.st = 8 ∧ q.enable = true ∧ mayPrime m k = true then startPriming k (reachWall (q.downAt + q.backoff) m) else m

/-- PRIME_RETRY. -/
def execPrimeRetry (port : Fin 16) (s : State) : Host.Outcome State Fault Refusal :=
  run s (fun _ => primeRetry port.val)

/-- A priming fails (R438, R439, R445). -/
def failPriming (fz : Fuses) (k : Nat) (m : Mach) : Mach :=
  let m := downPort fz k 6 false (bump .lrkPrimeFail (iPort k) m)
  onPort k (fun q => { q with backoff := if 2 * q.backoff ≤ 1000000000 then 2 * q.backoff else 1000000000 }) m

/-- PRIME_FAIL: a phase exceeds its limit. -/
def primeFail (k : Nat) (fz : Fuses) (m : Mach) : Mach :=
  if [2, 3, 4, 5].contains (port m k).st then failPriming fz k m else m

/-- PRIME_FAIL. -/
def execPrimeFail (port : Fin 16) (s : State) : Host.Outcome State Fault Refusal :=
  run s (primeFail port.val)

/-- DETECT: signal on the lanes. -/
def execDetect (port : Fin 16) (s : State) : Host.Outcome State Fault Refusal :=
  run s (fun _ m => if (Sys2Proof.Machine.port m port.val).st = 1 then
    onPort port.val (fun q => { q with st := 2 }) m else m)

/-- EQUALISE: both equalisers are tuned. -/
def execEqualise (port : Fin 16) (s : State) : Host.Outcome State Fault Refusal :=
  run s (fun _ m => if (Sys2Proof.Machine.port m port.val).st = 2 then
    onPort port.val (fun q => { q with st := 3 }) m else m)

/-- A route entry names a port for its module. -/
def namesPort (e : RouteEntry) (k : Nat) : Bool :=
  (e.firstValid && e.firstPort == k) || (e.secondKind == 1 && e.secondPort == k)

/-- The peer of a port is the one that R36, R37 or, for an optical port, the route table gives (R39); a table that
names the port for no module gives none (DEDUCED, log 23). -/
def wired (m : Mach) (k : Nat) (y : PeerIdent) : Bool :=
  let s := m.moduleId % 8
  if k < 7 then y.mod % 8 == (s + k + 1) % 8 && y.port == 6 - k
  else if k = 7 then y.mod % 8 == (if s % 2 = 0 then s + 1 else s - 1) && y.port == 7
  else
    let r := rteOf m (arrivalTable m k)
    let t := if r.epoch then r.r1 else r.r0
    t.all (fun e => !namesPort e.2 k) || namesPort (r.entry r.epoch y.mod) k

/-- What this end sends in LOCK_ALIGN (R446): its module ID, whose pod and shelf are 0 until the location is set, its port, the
lanes it finds usable and its configured width. -/
def identOut (k own : Nat) (m : Mach) : Mach :=
  { m with out := m.out ++ [.ident k (if m.located then m.moduleId else m.moduleId % 8) own (port m k).widthNow] }

/-- LOCK_ALIGN (R39, R446 to R448). -/
def lockAlign (k : Nat) (y : PeerIdent) (fz : Fuses) (m : Mach) : Mach :=
  let q := port m k
  if q.st ≠ 3 then m
  else
    let top := if q.widthNow ≤ y.width then y.width else q.widthNow
    let own := y.ownLanes.toNat
    let m := identOut k own m
    let m := onPort k (fun q => { q with peerMod := y.mod % 16384, peerPort := y.port % 16, unusable := 255 - own
                                         lastHeard := m.clk.wall, lastSent := m.clk.wall }) m
    match groups.find? (fun g => decide (top ≤ g.1) && within g.2 own && within g.2 y.lanes.toNat) with
    | none => failPriming fz k m
    | some g =>
      let m := onPort k (fun q => { q with width := g.1, lanes := g.2 }) m
      if wired m k y then onPort k (fun q => { q with st := 4 }) m
      else raiseEvt 0x0011 1 (iPort k) (y.mod % 16384 * 65536 + y.port % 16) (onPort k (fun q => { q with st := 9 }) m)

/-- LOCK_ALIGN. -/
def execLockAlign (port : Fin 16) (peer : PeerIdent) (s : State) : Host.Outcome State Fault Refusal :=
  run s (lockAlign port.val peer)

/-- TIME (R449): 16 markers are exchanged, of each the round trip measured and the turnaround that the peer reports in 2^-4 ns;
the first offset in 2^-8 ns. -/
def timePhase (k : Nat) (markers : List (Nat × Nat)) (offset : Int) (m : Mach) : Mach :=
  match minOf (markers.map (fun y => y.1 - y.2)) with
  | none => m
  | some r =>
    if (port m k).st ≠ 4 ∨ markers.length ≠ 16 then m
    else
      let m := { m with out := m.out ++ [.timing k 16] }
      let m := onMport k (fun x => { x with rtt := r, offset := offset, fresh := x.fresh ++ [offset] }) m
      onPort k (fun q => { q with st := 5, rtt := (r + 15) / 16 % 2 ^ 32, timed := true, lastHeard := m.clk.wall }) m

/-- TIME. -/
def execTime (port : Fin 16) (markers : List (Nat × Nat)) (offset : Int) (s : State) : Host.Outcome State Fault Refusal :=
  run s (fun _ => timePhase port.val markers offset)

/-- R_c of every class. -/
def reserves : Quad := { c0 := reserve 0, c1 := reserve 1, c2 := reserve 2, c3 := reserve 3 }

/-- Entry to ACTIVE (R423, R429, R444, R451). -/
def enterActive (k : Nat) (m : Mach) : Mach :=
  let now := m.clk.wall
  let busyPart := runs m (partOf m (portDie k))
  onPort k (fun q => { q with
    st := 6, rxNext := 0, txNext := 0, txAcked := 0xFFFFFF, store := [], granted := reserves, outst := reserves
    cr := reserves, used := {}, peerWant := 0, wantSent := 0, crDue := 0, ackDue := false, timer := none, expiries := 0
    turn := 0, crTurn := 0, lastHeard := now, lastSent := now, backoff := 1000000, fresh := busyPart }) m

/-- AUTH (R450, 16): a peer that fails ends the priming; else the port is ACTIVE, and held packets are routed again
(R484). -/
def authPhase (k : Nat) (ok : Bool) (fz : Fuses) (m : Mach) : Mach :=
  if (port m k).st ≠ 5 then m
  else if ok then reholdAll (enterActive k m)
  else failPriming fz k m

/-- AUTH. -/
def execAuth (port : Fin 16) (peerOk : Bool) (s : State) : Host.Outcome State Fault Refusal :=
  run s (authPhase port.val peerOk)

/-- LOSS_OF_SIGNAL (R448): back to DETECT; an ACTIVE port first goes down, so that its packets move (DESIGN CHOICE,
log 24). -/
def lossOfSignal (k : Nat) (fz : Fuses) (m : Mach) : Mach :=
  let q := port m k
  if q.active then startPriming k (downPort fz k 3 false m)
  else if [2, 3, 4, 5, 9].contains q.st then startPriming k (onPort k (fun x => { x with fromEq := false }) m)
  else m

/-- LOSS_OF_SIGNAL. -/
def execLossOfSignal (port : Fin 16) (s : State) : Host.Outcome State Fault Refusal :=
  run s (lossOfSignal port.val)

/-! ### Error windows (R453, R454) -/

/-- LANE_WINDOW: the end of a 1 ms window. -/
def laneWindow (k : Nat) (w : LaneWindow) (m : Mach) : Mach :=
  let q := port m k
  if q.lanes = 0 then m
  else
    let m := (List.range 8).foldl (fun m i => bumpBy .lrkLaneSym (iPort k) i (w.sym.getD i 0) m) m
    let m := bumpBy .lrkFecUnc (iPort k) 0 w.fecUnc (bumpBy .lrkFecCorr (iPort k) 0 w.fecCorr m)
    let bad (i : Nat) : Bool := bitAt q.lanes i && q.thrNow != 0 && decide (q.thrNow < w.sym.getD i 0)
    let m := onPort k (fun q => { q with
      unusable := (List.range 8).foldl (fun a i => if bad i then putBit a i else a) q.unusable }) m
    evalLanes k m

/-- LANE_WINDOW. -/
def execLaneWindow (port : Fin 16) (w : LaneWindow) (s : State) : Host.Outcome State Fault Refusal :=
  run s (fun _ => laneWindow port.val w)

/-! ### Registers (Tables 10-8 to 10-13) -/

/-- LRK_STATE. -/
def lrkState (q : Port) : Nat :=
  pack [(4, q.st), (2, q.width), (8, q.lanes), (8, q.unusable), (1, b2n q.peerDoze), (1, b2n q.doze), (4, 0)
    , (4, q.cause), (4, q.peerPort), (14, 0), (14, q.peerMod)] 0

/-- LRK_SEQ. -/
def lrkSeq (q : Port) : Nat := pack [(24, q.rxNext), (24, q.txNext), (24, q.txAcked), (24, bytesOf q.store)] 0

/-- The counters of Table 10-13 but those of the lanes. -/
def linkCtrs : List (String × Reg) :=
  [("LRK_FEC_CORR", .lrkFecCorr), ("LRK_FEC_UNC", .lrkFecUnc), ("LRK_LCRC_ERR", .lrkLcrcErr)
  , ("LRK_SEQ_DROP", .lrkSeqDrop), ("LRK_KIND_DROP", .lrkKindDrop), ("LRK_CREDIT_VIOL", .lrkCreditViol)
  , ("LRK_TIMEOUTS", .lrkTimeouts), ("LRK_REPLAYED", .lrkReplayed), ("LRK_DOWNS", .lrkDowns)
  , ("LRK_PRIME_FAIL", .lrkPrimeFail), ("LRK_WIDTH_CHG", .lrkWidthChg)]

/-! ### Link commands (Table 10-7) -/

/-- A link command: it acts on the partition that holds the port (R463). -/
def linkCommand (v : Via) (k code : Nat) (body : Mach → Mach) (m : Mach) : Mach :=
  command v (some (partOf m (portDie k))) code body m

/-- LINK_STATUS. -/
def linkStatus (v : Via) (k : Nat) (m : Mach) : Mach :=
  let q := port m k
  complete v .ok 0 (.fields [("LRK_STATE", lrkState q), ("LRK_RTT", q.rtt), ("LRK_SEQ", lrkSeq q)]) m

/-- LINK_STATUS. -/
def execLinkStatus (v : Via) (port : Fin 16) (s : State) : Host.Outcome State Fault Refusal :=
  run s (fun _ => linkCommand v port.val 0x501 (linkStatus v port.val))

/-- LINK_PRIME: down with cause COMMAND; priming starts after the interval of R439, which begins at 1 ms again. -/
def linkPrime (v : Via) (k : Nat) (fz : Fuses) (m : Mach) : Mach :=
  if (port m k).st = 0 then answer v .badState m
  else
    let m := downPort fz k 5 false m
    answer v .ok (onPort k (fun q => { q with backoff := 1000000, downAt := m.clk.wall, fromEq := false }) m)

/-- LINK_PRIME. -/
def execLinkPrime (v : Via) (port : Fin 16) (s : State) : Host.Outcome State Fault Refusal :=
  run s (fun fz => linkCommand v port.val 0x502 (linkPrime v port.val fz))

/-- LINK_DISABLE: down with cause COMMAND, and held OFF. -/
def linkDisable (v : Via) (k : Nat) (fz : Fuses) (m : Mach) : Mach :=
  let m := downPort fz k 5 false m
  answer v .ok (onPort k (fun q => { q with st := 0, enable := false }) m)

/-- LINK_DISABLE. -/
def execLinkDisable (v : Via) (port : Fin 16) (s : State) : Host.Outcome State Fault Refusal :=
  run s (fun fz => linkCommand v port.val 0x503 (linkDisable v port.val fz))

/-- A port that is OFF moves to DETECT, if it may be primed. -/
def wakePort (k : Nat) (m : Mach) : Mach :=
  if (port m k).st = 0 ∧ (port m k).enable = true ∧ mayPrime m k = true then
    startPriming k (onPort k (fun q => { q with fromEq := false, backoff := 1000000 }) m)
  else m

/-- LINK_ENABLE; an optical port without a location stays OFF (R8). -/
def linkEnable (v : Via) (k : Nat) (m : Mach) : Mach :=
  if (port m k).st ≠ 0 then answer v .badState m
  else answer v .ok (wakePort k (onPort k (fun q => { q with enable := true }) m))

/-- LINK_ENABLE. -/
def execLinkEnable (v : Via) (port : Fin 16) (s : State) : Host.Outcome State Fault Refusal :=
  run s (fun _ => linkCommand v port.val 0x504 (linkEnable v port.val))

/-- LINK_WIDTH. -/
def linkWidth (v : Via) (k mask : Nat) (m : Mach) : Mach :=
  let q := port m k
  if q.st ≠ 6 ∨ (groupFor q.lanes mask).isNone = true then answer v .badState m
  else answer v .ok (askPeer k 4 mask (dropReq k m))

/-- LINK_WIDTH. -/
def execLinkWidth (v : Via) (port : Fin 16) (mask : BitVec 8) (s : State) : Host.Outcome State Fault Refusal :=
  run s (fun _ => linkCommand v port.val 0x505 (linkWidth v port.val mask.toNat))

/-- LINK_COUNTERS. -/
def linkCounters (v : Via) (k : Nat) (m : Mach) : Mach :=
  complete v .ok 0 (.fields (linkCtrs.map (fun y => (y.1, (ctr m y.2 (iPort k) 0).word))
    ++ (List.range 8).map (fun i => ("LRK_LANE_SYM", (ctr m .lrkLaneSym (iPort k) i).word)))) m

/-- LINK_COUNTERS. -/
def execLinkCounters (v : Via) (port : Fin 16) (s : State) : Host.Outcome State Fault Refusal :=
  run s (fun _ => linkCommand v port.val 0x506 (linkCounters v port.val))

end Sys2Proof.Machine
end

