-- ==== Sys2Proof/Machine/Commits.lean ====
section
/-! DEFINITION. Protected commits and the surge tank's reserve (18 R778 to R780). -/

namespace Sys2Proof.Machine

/-- The energy, in mJ, that the last test must show for a commit: 1.2 times Table 18-1. -/
def Commit.need : Commit → Nat
  | .park _ _ => 7200
  | .fw => 3000

/-- The last test shows the energy of a commit (R780). -/
def reserveOk (m : Mach) (c : Commit) : Bool := decide (c.need ≤ m.pwr.energy)

/-- A test that is due starts once the tank is at 54 V (R779). -/
def startTest (m : Mach) : Mach :=
  if m.pwr.tank = 1 ∧ (m.pwr.testDue ∨ m.pwr.selfTest ∨ m.pwr.tests ≠ []) then
    { m with pwr := { m.pwr with tank := 2 } }
  else m

/-- A commit comes forward: it waits for another in progress (R780), else its test falls due (R779). -/
def askCommit (c : Commit) (m : Mach) : Mach :=
  match m.pwr.commit with
  | some _ => { m with pwr := { m.pwr with commits := m.pwr.commits ++ [c] } }
  | none => startTest { m with pwr := { m.pwr with commit := some c, testDue := true } }

/-- A commit that ran on the tank has completed: the failure record says so, and the module is OFF (R782, R822). -/
def endFailing (m : Mach) : Mach :=
  { m with pwr := { m.pwr with
    commit := none, commits := [], testDue := false, toStart := false, failing := false, failed := m.pwr.failed.map (fun y => (y.1, true))
    st := 4, inTransit := false, target := 4 } }

/-- The commit in progress ends, and the next one's test falls due. -/
def endCommit (m : Mach) : Mach :=
  if m.pwr.failing then endFailing m
  else
    match m.pwr.commits with
    | [] => { m with pwr := { m.pwr with commit := none, testDue := false, toStart := false } }
    | c :: r => startTest { m with pwr := { m.pwr with commit := some c, commits := r, testDue := true, toStart := false } }

/-- A commit is the one in progress, and has started. -/
def commitReady (m : Mach) (c : Commit) : Bool := m.pwr.commit == some c && !m.pwr.testDue && !m.pwr.toStart

end Sys2Proof.Machine
end

