-- ==== Sys2Proof/Machine/Requests.lean ====
section
/-! DEFINITION. Sessions and requests of a home partition (13): the tables, output records, the end of a request,
the manifest and its rung, and what a swap of the weights (14) does to them. -/

namespace Sys2Proof.Machine

/-! ### The serving plan -/

/-- The SERVE section of the plan of a partition. -/
def serveOf (m : Mach) (p : Nat) : Option Serve := (planOf m p).bind (fun pl => pl.serve)

/-- The partition is the home of a serving plan. -/
def isHome (m : Mach) (p : Nat) : Bool :=
  match serveOf m p with
  | some s => s.home
  | none => false

/-- Changing the serving engine of a partition. -/
def onSrv (p : Nat) (f : Srv → Srv) (m : Mach) : Mach := onPart p (fun q => { q with srv := f q.srv }) m

/-- A session entry. -/
def sess (m : Mach) (p i : Nat) : Session := tget {} (part m p).srv.sess i

/-- Changing a session entry. -/
def onSess (p i : Nat) (f : Session → Session) (m : Mach) : Mach :=
  onSrv p (fun s => { s with sess := tmod {} s.sess i f }) m

/-- A request entry. -/
def req (m : Mach) (p i : Nat) : Req := tget {} (part m p).srv.reqs i

/-- Changing a request entry. -/
def onReq (p i : Nat) (f : Req → Req) (m : Mach) : Mach :=
  onSrv p (fun s => { s with reqs := tmod {} s.reqs i f }) m

/-- Changing the weights of a partition. -/
def onWgt (p : Nat) (f : Wgt → Wgt) (m : Mach) : Mach := onPart p (fun q => { q with wgt := f q.wgt }) m

/-- A session ID (R561). -/
def sessId (gen i : Nat) : Nat := gen * 2 ^ 16 + i

/-- A request ID (R561). -/
def reqId (gen i : Nat) : Nat := gen * 2 ^ 12 + i

/-- The entry that a session ID names (R562). -/
def findSess (m : Mach) (p sid : Nat) : Option Nat :=
  if (sess m p (sid % 2 ^ 16)).gen = sid / 2 ^ 16 then some (sid % 2 ^ 16) else none

/-- The entry that a request ID names (R562). -/
def findReq (m : Mach) (p rid : Nat) : Option Nat :=
  if (req m p (rid % 2 ^ 12)).gen = rid / 2 ^ 12 then some (rid % 2 ^ 12) else none

/-- The lowest index from `i` on whose entry satisfies a test, where an unlisted entry does. -/
def lowestFree {α : Type} (f : α → Bool) : Nat → Table α → Nat
  | i, [] => i
  | i, (k, v) :: r => if i < k then i else if f v then k else lowestFree f (k + 1) r

/-- An entry freed: the generation advances (R561). -/
def Session.freed (s : Session) : Session := { gen := (s.gen + 1) % 2 ^ 16 }

/-- An entry freed: the generation advances (R561). -/
def Req.freed (r : Req) : Req := { gen := (r.gen + 1) % 2 ^ 20 }

/-- A swap of the weights holds the requests of the partition (R633, R636). -/
def swapping (m : Mach) (p : Nat) : Bool :=
  (part m p).wgt.swap.isSome || (part m p).wgt.phase != 0

/-- The weight-set digest in force at a step (R635). -/
def wsetAt (m : Mach) (p step : Nat) : Digest :=
  let w := (part m p).wgt
  match planOf m p with
  | some pl => if pl.weights then (if step < w.since then w.old else w.digest) else 0
  | none => 0

/-- The step that a record written now names: the one in progress, or between two steps the one before. -/
def recStep (m : Mach) (p : Nat) : Nat := if (part m p).inStep then (part m p).step else (part m p).step - 1

/-! ### Records (R581 to R586, R705) -/

/-- The parameters of a request. -/
def Req.par (r : Req) : ReqParams :=
  r.params.getD { session := 0, promptLen := 0, promptAddr := 0, ringAddr := 0, ringEntries := 16, maxNew := 0
                  seed := 0, temp := 0, topK := 1, nStopId := 0, nStopSeq := 0, pred := 0, rflags := 0, resv := 0
                  stopIds := [], stopSeqs := [], stopLens := [] }

/-- The bytes of an output record (Table 13-5). -/
def OutRec.bytes (o : OutRec) (id phase : Nat) : List Byte :=
  leBytes 4 id ++ leBytes 4 o.seq ++ leBytes 4 (o.token.getD 0xFFFFFFFF) ++ leBytes 2 o.logprob
    ++ leBytes 2 (pack [(1, phase), (3, 0), (3, o.kind), (1, b2n o.token.isSome), (5, o.index), (2, o.status)
      , (1, b2n o.last)] 0)
    ++ leBytes 8 o.prov ++ leBytes 4 o.ctx ++ leBytes 4 (o.step % 2 ^ 32)

/-- PHASE of a record (R584). -/
def recPhase (seq entries : Nat) : Nat := 1 - seq / entries % 2

/-- Bytes of a ring slot. -/
def slotSize (chan : Bool) : Nat := if chan then 64 else 32

/-- The header of a channel envelope: DIR and COUNTER (R703). -/
def envHeader (dir counter : Nat) : List Byte := leBytes 1 dir ++ zeros 7 ++ leBytes 8 counter

/-- The nonce of an envelope (R703). -/
def envNonce (header : List Byte) : List Byte := header.take 1 ++ header.drop 5

/-- The 64 bytes of a record on a channel (R705): ciphertext, tag, and the header with the record's PHASE in its last bit. -/
def sealRecord (key : BitVec 256) (l : List Byte) (counter phase : Nat) : List Byte :=
  let h := envHeader 1 (counter % 2 ^ 63)
  let c := gcmCrypt key.toNat (envNonce h) l
  c ++ gcmTag key.toNat (envNonce h) h c ++ envHeader 1 (counter % 2 ^ 63 + 2 ^ 63 * phase)

/-- A record put into the ring of its request (R583). -/
def putRecord (p i : Nat) (o : OutRec) (m : Mach) : Mach :=
  let r := req m p i
  let ring := r.par.ringAddr
  let n := r.par.ringEntries
  let ph := recPhase o.seq n
  let l := o.bytes (reqId r.gen i) ph
  match (sess m p r.sess).channel with
  | none => pokeHost (ring + 64 + 32 * (o.seq % n)) l m
  | some c =>
    let k := tget {} (part m p).sec.channels c
    onPart p (fun q => { q with sec := { q.sec with
      channels := tmod {} q.sec.channels c (fun x => { x with next := x.next + 1 }) } })
      (pokeHost (ring + 64 + 64 * (o.seq % n)) (sealRecord k.key l k.next ph) m)

/-- The counter that a terminal status moves. -/
def endReg (status : Nat) : Reg :=
  match status with
  | 1 => .srvCompleted
  | 2 => .srvCancelled
  | _ => .srvFailed

/-- What follows the writing of a terminal record: the REQUEST record (R648), the session IDLE, the entry free. -/
def afterLast (fz : Fuses) (p i : Nat) (o : OutRec) (m : Mach) : Mach :=
  let r := req m p i
  let m := if r.prov = 0 then m
    else
      let (a, b) := match r.first with
        | some n => (n, r.lastStep)
        | none => (o.step, o.step)
      createRecord p r.prov (provRecord fz m p 2 a b false (wsetAt m p b) r.input) m
  let m := bump (endReg o.status) (iPart p) m
  onReq p i Req.freed (onSess p r.sess (fun s => { s with st := .idle, req := none }) m)

/-- The first waiting record of a request written (R585), with what follows; the serving interrupt under NOTIFY. -/
def writeRecord (fz : Fuses) (p i : Nat) (m : Mach) : Mach :=
  let r := req m p i
  match r.out with
  | [] => m
  | o :: rest =>
    let m := putRecord p i o m
    let m := onReq p i (fun x => { x with
      out := rest
      st := if rest = [] ∧ x.st = .outWait ∧ x.ended = false then .decode else x.st }) m
    let full := decide (o.seq + 1 = consumed m r.par.ringAddr + r.par.ringEntries - 16)
    let m := if o.last then afterLast fz p i o m else m
    if bitAt r.par.rflags 1 && (o.last || full) then interrupt p 1 m else m

/-- A record queued; 64 waiting records put a request into OUTPUT_WAIT (R585). -/
def queueRecord (p i : Nat) (token : Option (Nat × Nat)) (kind index status : Nat) (last : Bool) (m : Mach) : Mach :=
  let r := req m p i
  let o : OutRec := { seq := r.seq, token := token.map (fun t => t.1), logprob := (token.map (fun t => t.2)).getD 0
                      kind := kind, index := index, status := status, last := last, ctx := (sess m p r.sess).len
                      step := recStep m p, prov := r.prov }
  let waits := decide (64 ≤ r.out.length + 1) && r.st == .decode && !last
  let m := onReq p i (fun x => { x with out := x.out ++ [o], seq := x.seq + 1, ended := last
                                        st := if waits then .outWait else x.st }) m
  if waits then bump .srvRingWait (iPart p) m else m

/-- The terminal fold of the session chain (R649). -/
def foldEnd (p i : Nat) (m : Mach) : Mach :=
  let w := wsetAt m p (recStep m p)
  onSess p (req m p i).sess (fun s => { s with
    chain := sha256 ([4] ++ digestBytes s.chain ++ leBytes 4 s.len ++ digestBytes w) }) m

/-- A request comes to its end: its terminal record is queued, with a token only if the last one ended it (R586). -/
def endRequest (p i : Nat) (token : Option (Nat × Nat)) (kind index status : Nat) (m : Mach) : Mach :=
  let m := queueRecord p i token kind index status true m
  foldEnd p i (onSrv p (fun s => { s with queue := s.queue.erase i }) m)

/-- The requests that are open. -/
def openReqs (m : Mach) (p : Nat) : List Nat :=
  (((part m p).srv.reqs).filter (fun y => y.2.st != .free)).map (fun y => y.1)

/-- A ring has room (R585). -/
def hasRoom (m : Mach) (r : Req) : Bool :=
  match r.out with
  | [] => false
  | o :: _ => decide (o.seq < consumed m r.par.ringAddr + r.par.ringEntries)

/-- The waiting records of a request written in the order of their numbers, as far as its ring has room (R585); `fuel`
bounds their number. -/
def writeWaiting (fz : Fuses) (p i : Nat) : Nat → Mach → Mach
  | 0, m => m
  | n + 1, m => if hasRoom m (req m p i) then writeWaiting fz p i n (writeRecord fz p i m) else m

/-- The waiting records of every open request written, as far as their rings have room: so much is done before the next
commit point (R585). -/
def writeDue (fz : Fuses) (p : Nat) (m : Mach) : Mach :=
  (openReqs m p).foldl (fun m i => writeWaiting fz p i (req m p i).out.length m) m

/-- Every waiting record of a request written, whether or not its ring has room; `fuel` bounds their number. -/
def flushRecords (fz : Fuses) (p i : Nat) : Nat → Mach → Mach
  | 0, m => m
  | n + 1, m => flushRecords fz p i n (writeRecord fz p i m)

/-- The requests of an unloaded plan end FAILED, and sessions that are not PARKED are freed (R607). -/
def failAll (fz : Fuses) (p : Nat) (m : Mach) : Mach :=
  let m := (openReqs m p).foldl (fun m i =>
    let m := if (req m p i).ended then m else endRequest p i none 0 0 3 m
    flushRecords fz p i (req m p i).out.length m) m
  onSrv p (fun s => { s with sess := s.sess.map (fun (i, x) => (i, if x.st = .parked then x else x.freed)) }) m

/-! ### Stop conditions (R578 to R580) -/

/-- The last tokens of a list equal a sequence of length above 0. -/
def endsWith (l s : List Nat) : Bool :=
  decide (0 < s.length) && decide (s.length ≤ l.length) && l.drop (l.length - s.length) == s

/-- The stop conditions that a token meets, as (kind, index), lowest kind first. -/
def stopOf (r : ReqParams) (gen : List Nat) (tok : Nat) (pred : Bool) (len maxCtx : Nat) : Option (Nat × Nat) :=
  let ids := (r.stopIds.take r.nStopId)
  let seqs := ((r.stopSeqs.zip r.stopLens).take r.nStopSeq).map (fun y => y.1.take y.2)
  match ids.findIdx? (fun x => x == tok), seqs.findIdx? (fun s => endsWith gen s) with
  | some i, _ => some (1, i)
  | none, some i => some (2, i)
  | none, none =>
    if r.maxNew ≠ 0 ∧ r.maxNew ≤ gen.length then some (3, 0)
    else if r.pred ≠ 0 ∧ pred then some (4, 0)
    else if maxCtx ≤ len then some (5, 0)
    else none

/-! ### Manifests (R567 to R570, R632 to R637) -/

/-- Prompt tokens of a request, those to be processed again among them (R634). -/
def promptTotal (m : Mach) (p i : Nat) : Nat :=
  (sess m p (req m p i).sess).again.length + (req m p i).prompt.length - (req m p i).done

/-- Prompt tokens of a request that no sealed manifest takes yet. -/
def unsched (m : Mach) (p i : Nat) : Nat := promptTotal m p i - (req m p i).sched

/-- The requests that hold decode slots in step n (R569). -/
def slotsAt (m : Mach) (p s n : Nat) : List Nat :=
  (((part m p).srv.reqs).filter (fun (i, r) =>
    !r.cancel && !r.ended &&
    (match r.st with
     | .decode => true
     | .queued | .prefill =>
       unsched m p i == 0 && (match r.lastChunk with
         | some c => decide (c + s ≤ n)
         | none => true)
     | _ => false))).map (fun y => y.1)

/-- The slots of S micro-batches of s slots each, filled across the micro-batches. -/
def fillSlots (s k : Nat) (l : List Nat) : List (Option Nat) :=
  (List.range (s * k)).map (fun i => l[i % k * s + i / k]?)

/-- Prefill ranges of up to `budget` tokens from the head of the queue. -/
def takePrefill (m : Mach) (p : Nat) : Nat → List Nat → List (Nat × Nat)
  | _, [] => []
  | budget, i :: r =>
    let n := unsched m p i
    if budget = 0 then []
    else if n = 0 then takePrefill m p budget r
    else if n ≤ budget then (i, n) :: takePrefill m p (budget - n) r
    else [(i, budget)]

/-- A prefill range is taken by the manifest of step n. -/
def takeRange (p n : Nat) (m : Mach) (y : Nat × Nat) : Mach :=
  let left := unsched m p y.1 - y.2
  onReq p y.1 (fun r => { r with sched := r.sched + y.2, st := if r.st = .queued then .prefill else r.st
                                 lastChunk := if left = 0 then some n else r.lastChunk }) m

/-- The lowest rung with enough slots (R569). -/
def rungFor (s : Serve) (need : Nat) : Nat :=
  (s.rungs.findIdx? (fun r => decide (need ≤ r.s * s.stages))).getD (s.rungs.length - 1)

/-- The rung of the next manifest (R569): up at once, down after 64 consecutive seals. -/
def nextRung (x : Srv) (want : Nat) : Srv :=
  if want < x.rung then
    let top := if x.lower = 0 ∨ x.lowMax < want then want else x.lowMax
    if 63 ≤ x.lower then { x with rung := top, lower := 0, lowMax := 0 }
    else { x with lower := x.lower + 1, lowMax := top }
  else { x with rung := want, lower := 0, lowMax := 0 }

/-- The first step whose manifest is not sealed yet. -/
def firstUnsealed (m : Mach) (p lead : Nat) : Nat :=
  match (part m p).srv.commitStep with
  | some c => c + lead + 1
  | none => (part m p).step + lead

/-- The layer groups of the plan of a partition. -/
def groupCount (m : Mach) (p : Nat) : Nat :=
  (((planOf m p).bind (fun pl => pl.wswap)).map (fun w => w.groups.length)).getD 0

/-- Every member has reported every group: those on this module by their state, those elsewhere by a free choice. -/
def groupsDone (m : Mach) (p : Nat) : Bool × Mach :=
  match planOf m p with
  | none => (false, m)
  | some pl =>
    let mine := m.parts.all (fun (q, x) =>
      match x.plan with
      | some y => y.digest != pl.digest || decide (x.wgt.groups = groupCount m q)
      | none => true)
    if pl.members.any (fun y => y.1 != m.moduleId) then
      let (n, m) := draw m
      (mine && n % 2 == 0, m)
    else (mine, m)

/-- Re-prefill at RESUME (R634, R649): every resident session starts again from its token log. -/
def prefillAgain (p : Nat) (m : Mach) : Mach :=
  let w := (part m p).wgt.digest
  let resident (x : Session) : Bool := x.st == .idle || x.st == .active
  let l := ((part m p).srv.sess.filter (fun y => resident y.2)).map (fun y => y.1)
  let m := l.foldl (fun m i => onSess p i (fun s => { s with
    len := 0, again := s.log ++ s.again, log := []
    chain := sha256 ([6] ++ digestBytes s.chain ++ digestBytes w) }) m) m
  (openReqs m p).foldl (fun m i =>
    if (req m p i).ended then m
    else
      let m := onReq p i (fun r => { r with sched := 0, lastChunk := none
                                            st := if r.st = .outWait then r.st else .queued }) m
      if (part m p).srv.queue.contains i then m else onSrv p (fun s => { s with queue := s.queue ++ [i] }) m) m

/-- RESUME (R632, R634, R635, R637): the staged set becomes the current one, from the manifest of step n on. -/
def resumeSwap (p n : Nat) (m : Mach) : Mach :=
  let x := (part m p).wgt
  let m := bump .wgtSwaps (iPart p) (onWgt p (fun w => { w with
    st := 2, stage := 0, phase := 0, mkey := w.skey, digest := w.sdigest, sdigest := 0, old := w.digest, since := n
    cur := w.staged.map (fun y => y.1), staged := none, swap := none, verified := [] }) m)
  let m := journal p { kind := 6, pos := posNow m p, step := stepNow m p
                       payload := digestBytes (part m p).wgt.digest } m
  let m := if x.ctx = 1 then prefillAgain p m else m
  match x.swap with
  | some v => answer v .ok m
  | none => m

/-- Free bytes of a free length: the layout of a manifest in the journal is not stated (R568). -/
def freeBlob (m : Mach) : List Byte × Mach :=
  let (n, m) := draw m
  let (x, m) := draw m
  (leBytes (n % 4097) x, m)

/-- A manifest sealed: kept, journalled, sent to every other member (R568). -/
def sealManifest (p : Nat) (f : Manifest) (m : Mach) : Mach :=
  let (l, m) := freeBlob m
  let m := journal p { kind := 7, pos := 2, step := stepNow m p, payload := l } m
  let ms := ((planOf m p).map (fun pl => pl.members)).getD []
  let m := onSrv p (fun s => { s with sealedM := s.sealedM ++ [f] }) m
  { m with out := m.out ++ (ms.filter (fun y => y != (m.moduleId, p))).map (fun y => .manifest y.1 y.2 f) }

/-- The manifest of step n with requests in it. -/
def fullManifest (p n : Nat) (s : Serve) (m : Mach) : Manifest × Mach :=
  let l := slotsAt m p s.stages n
  let m := onSrv p (fun x => nextRung x (rungFor s l.length)) m
  let k := (part m p).srv.rung
  let r := s.rungs.getD k { variant := 0, s := 1, p := 0, commit := 0, bounds := [] }
  let pf := takePrefill m p r.p (part m p).srv.queue
  let m := pf.foldl (takeRange p n) m
  let m := onSrv p (fun x => { x with queue := x.queue.filter (fun i => unsched m p i != 0) }) m
  let id (i : Nat) : Nat := reqId (req m p i).gen i
  ({ step := n, rung := k, slots := (fillSlots r.s s.stages l).map (fun o => o.map id)
     prefill := pf.map (fun y => (id y.1, y.2)) }, m)

/-- A manifest with every slot EMPTY. -/
def emptyManifest (n k : Nat) (s : Serve) : Manifest :=
  let w := (s.rungs.getD k { variant := 0, s := 1, p := 0, commit := 0, bounds := [] }).s
  { step := n, rung := k, slots := List.replicate (w * s.stages) none, prefill := [] }

/-- The swap rung of the plan. -/
def swapRungOf (m : Mach) (p : Nat) : Nat :=
  (((planOf m p).bind (fun pl => pl.wswap)).map (fun x => x.swapRung)).getD 0

/-- A manifest of the journal applied in replay (R662); one that leaves the swap rung is that of RESUME. -/
def replayManifest (p : Nat) (f : Manifest) (m : Mach) : Mach :=
  let w := (part m p).wgt
  let m := if w.phase = 2 ∧ w.swap.isSome ∧ f.rung ≠ swapRungOf m p then resumeSwap p f.step m else m
  let ranges := f.prefill.filterMap (fun y => (findReq m p y.1).map (fun i => (i, y.2)))
  let m := ranges.foldl (takeRange p f.step) m
  sealManifest p f (onSrv p (fun x => { x with
    rung := f.rung, queue := x.queue.filter (fun i => unsched m p i != 0) }) m)

/-- The manifest of step n sealed at a commit point (R568, R569, R632); in replay the journal gives it (R662). -/
def sealAt (p n : Nat) (s : Serve) (m : Mach) : Mach :=
  let w := (part m p).wgt
  match (part m p).det.replay with
  | some j =>
    match j.manifests.find? (fun f => f.step == n) with
    | some f => replayManifest p f m
    | none => m
  | none =>
    let full (m : Mach) : Mach := let (f, m) := fullManifest p n s m; sealManifest p f m
    if swapping m p = false ∨ n < w.barrier then full m
    else if n + 1 < w.barrier + s.stages then sealManifest p (emptyManifest n (rungFor s 0) s) m
    else
      let swapRung := swapRungOf m p
      if w.phase = 2 ∧ w.swap.isSome then
        let (ok, m) := groupsDone m p
        if ok then full (resumeSwap p n m) else sealManifest p (emptyManifest n swapRung s) m
      else sealManifest p (emptyManifest n swapRung s) m

end Sys2Proof.Machine
end

