-- ==== Sys2Proof/Machine/Reset.lean ====
section
/-! DEFINITION. Partition reset: what PLAN_UNLOAD (07 R318) and the SCRUB phase of a teardown (16) return to its Reset
value. -/

namespace Sys2Proof.Machine

/-- Entries of a table changed; one that reads as an unlisted one is not listed. -/
def tmapIf {α : Type} [DecidableEq α] (d : α) (sel : Nat → Bool) (f : α → α) (t : Table α) : Table α :=
  (t.map (fun y => if sel y.1 then (y.1, f y.2) else y)).filter (fun y => decide (y.2 ≠ d))

/-- A mask that has not fired is disarmed (R408). -/
def EccFlip.disarm (f : EccFlip) : EccFlip := if f.state = 1 then { f with state := 0 } else f

/-- A recorded correction between two steps. -/
def EccLast.settled (e : EccLast) : EccLast := { e with cycle := 0 }

/-- A mask between two steps: what it struck stays struck. -/
def EccFlip.settled (f : EccFlip) : EccFlip := { f with struck := none }

/-- A station at partition reset (R86, R157, R165, R172, R207, R224, R238, R276, R324, R373): its slice keeps its
contents, and the records of 09 stay (R411). -/
def Station.reset (s : Station) : Station :=
  { spErr := s.spErr, eccLast := s.eccLast.settled, flip := s.flip.disarm.settled, spMap := s.spMap }

/-- A wellhead at partition reset (R30, R373, R408). -/
def Well.reset (h : Well) : Well :=
  { h with queries := [], selections := [], queue := [], setHot := false, unused := false, selfref := false
           flags := 0, flip := h.flip.disarm }

/-- Counters of a partition that partition reset clears (R324, R610, R674). -/
def partCtrs : List Reg :=
  [.hldCntDma, .hldCntLink, .hldCntCistern, .hldCntHost, .hldCntRefresh, .hldCntGate, .hldCntTotal, .hldEpisodes
  , .seqSecondary, .srvCommitted, .srvCompleted, .srvCancelled, .srvFailed, .srvSpecProposed, .srvSpecAccepted] ++
  [.srvSpecRejected, .srvRingWait, .srvRungChg, .srvParks, .srvUnparks, .srvDigestFail, .detJentries, .detRefused, .detDiverge
  , .detTruncs, .provRecords, .provBatches, .provLost]

/-- Counters of a die, a station or a wellhead that partition reset clears (R86, R324, R373). -/
def dieCtrs : List Reg :=
  [.stnXingDropE, .stnXingDropW, .stnCollide, .stnRxbeats, .wlhRdbeats, .wlhWrbeats, .wlhRefunits]

/-- The counter at a place of the table falls to the reset of a partition. -/
def resetsCtr (p : Nat) (dies : List Nat) (key : Nat) : Bool :=
  let r := key / 2 ^ 48
  let inst := key / 2 ^ 16 % 2 ^ 32
  let low := inst % 0x10000000
  match inst / 0x10000000 with
  | 1 => low == p && partCtrs.any (fun x => regNum x == r)
  | 2 => dies.contains low && dieCtrs.any (fun x => regNum x == r)
  | 3 => dies.contains (low / 256) && dieCtrs.any (fun x => regNum x == r)
  | 4 => dies.contains (wellDie low) && dieCtrs.any (fun x => regNum x == r)
  | _ => false

/-- A die at partition reset (R84, R86, R519); `admitE` and `admitW` are beats in flight. -/
def Die.reset (x : Die) : Die :=
  { x with grid := 0, enabled := 0, fit := 0, admitE := [], admitW := [], taps := [], pairs := [], rwins := [], cache := []
           asks := [], reorder := [] }

/-- A partition at partition reset: the assignment, the host window, the namespace, keys and parked sessions stay. -/
def Part.reset (q : Part) : Part :=
  { dies := q.dies, hwBase := q.hwBase, hwLen := q.hwLen, sealedLen := q.sealedLen, sealedKey := q.sealedKey
    sealedCtr := q.sealedCtr, nsBlocks := q.nsBlocks, nsValid := q.nsValid, nsCtr := q.nsCtr, share := q.share, dirty := q.dirty
    rot := q.rot, sec := q.sec, srv := { sess := q.srv.sess }, wgt := { targets := q.wgt.targets } }

/-- A die's units reset. -/
def resetDie (d : Nat) (m : Mach) : Mach :=
  let keys := (m.stations.filter (fun y => y.1 / 256 == d)).map (fun y => y.1)
  let m := keys.foldl (fun m k => settleStn k m) m
  let m := (die m d).reorder.foldl (fun m w => freePool w.inp m) m
  let m := onDie d Die.reset m
  { m with
    mem := { m.mem with cache := wipe m.mem.cache (cacheBase (stKey d 0)) (cacheBase (stKey (d + 1) 0)) }
    stations := tmapIf {} (fun k => k / 256 == d) Station.reset m.stations
    wells := tmapIf {} (fun w => wellDie w == d) Well.reset m.wells
    hosts := tdel m.hosts d, links := tdel m.links d
    mesh := m.mesh.filter (fun b => b.srcDie != d && b.dstDie != d) }

/-- The long commands of a partition that its reset cuts off: fetch, stage and swap with ABORTED, park and unpark with
IO_ERROR (DESIGN CHOICE, log 21). -/
def cutOff (p : Nat) (m : Mach) : Mach :=
  let w := (part m p).wgt
  let m := match w.job with
    | some j => answer j.via .aborted m
    | none => m
  let m := match w.swap with
    | some v => answer v .aborted m
    | none => m
  (part m p).srv.sess.foldl (fun m y =>
    match y.2.via with
    | some v => answer v .ioError (onSess p y.1 (fun s => { s with
        via := none, writing := none, st := if s.st = .unparking then .parked else s.st }) m)
    | none => m) m

/-- Commits of parks of a partition are given up. -/
def dropCommits (p : Nat) (m : Mach) : Mach :=
  let mine : Commit → Bool
    | .park q _ => q == p
    | .fw => false
  let m := { m with pwr := { m.pwr with commits := m.pwr.commits.filter (fun c => !mine c) } }
  match m.pwr.commit with
  | some c => if mine c then endCommit m else m
  | none => m

/-- Partition reset. -/
def partitionReset (p : Nat) (m : Mach) : Mach :=
  let dies := (part m p).dies
  let m := dropCommits p (cutOff p m)
  let m := dies.foldl (fun m d => resetDie d m) m
  onPart p Part.reset { m with ctrs := m.ctrs.filter (fun y => !resetsCtr p dies y.1) }

end Sys2Proof.Machine
end

