-- ==== Sys2Proof/Machine/Plans.lean ====
section
/-! DEFINITION. The plan commands (07 R278 to R322, 19 R828, R829): the loader's checks and what it loads, start, stop
and unload of a plan, the fault record. -/

namespace Sys2Proof.Machine

/-! ### Fits (02 R75 to R80) -/

/-- The highest row that is neither disabled nor adjacent to a disabled one (R78). -/
def extraRow (dis : List Nat) : Option Nat :=
  (List.range 9).reverse.find? (fun p => dis.all (fun q => p != q && p + 1 != q && q + 1 != p))

/-- Rows disabled until two are; `fuel` bounds their number. -/
def fillRows : Nat → List Nat → List Nat
  | 0, l => l
  | n + 1, l => if 2 ≤ l.length then l else
    match extraRow l with
    | some p => fillRows n (p :: l)
    | none => l

/-- The disabled rows of a die for a grid class (R77, R78). -/
def disabledRows (g : GridClass) (defects : List Nat) : List Nat :=
  match g with
  | .g512 => if defects = [] then [8] else defects
  | .g448 => fillRows 2 defects

/-- The defect map of a die fits a grid class (R79). -/
def gridFits (g : GridClass) (defects : List Nat) : Bool :=
  match g with
  | .g512 => decide (defects.length ≤ 1)
  | .g448 => decide (defects.length ≤ 2) && defects.all (fun p => !defects.contains (p + 1))

/-- The defect map of a die. -/
def defectsOf (fz : Fuses) (d : Nat) : List Nat := fz.defects.getD d []

/-- ENABLED of STN_ROWMAP. -/
def enabledMask (dis : List Nat) : Nat :=
  (List.range 9).foldl (fun a p => if dis.contains p then a else a + 2 ^ p) 0

/-! ### The image (Tables 7-1, 8-9, 13-3) -/

/-- Windows of R359: at least 800 cycles long, ascending, apart, inside the step. -/
def windowsOk (w : Nat) : Nat → List RWindow → Bool
  | _, [] => true
  | lo, y :: r => decide (lo ≤ y.start) && decide (800 ≤ y.len) && decide (y.start + y.len ≤ w)
      && windowsOk w (y.start + y.len) r

/-- One set of windows (R359). -/
def winSetOk (w : Nat) (s : WinSet) : Bool :=
  match s with
  | .unused => true
  | .windows l => decide (l.length ≤ 128) && windowsOk w 0 l

/-- The wellheads of a plan's dies: under grid class G448 those of the six-stack sets (01 R27). -/
def plannedWells (g : GridClass) (dies : List Nat) : List Nat :=
  (List.range 16).filter (fun w => dies.contains (wellDie w) && (g == .g512 || sixStack w))

/-- WINDOWS_c of a class: wellheads of the plan's dies, each once, and none missing (R359). -/
def wellWindowsOk (g : GridClass) (dies : List Nat) (c : StepClass) : Bool :=
  c.wins.all (fun y => dies.contains (wellDie y.wh) && winSetOk c.w y.normal && winSetOk c.w y.hot
    && decide ((c.wins.filter (fun z => z.wh == y.wh)).length = 1))
  && (plannedWells g dies).all (fun w => c.wins.any (fun y => y.wh == w))

/-- A step class within the ranges of Table 7-1. -/
def classOk (g : GridClass) (dies : List Nat) (c : StepClass) : Bool :=
  decide (4096 ≤ c.w) && decide (c.w < 2 ^ 32) && decide (2000 ≤ c.t) && decide (c.t < 2 ^ 32) && wellWindowsOk g dies c

/-- A variant within the ranges of Table 7-1 (R279, R828). -/
def variantOk (g : GridClass) (dies : List Nat) (v : VariantImage) : Bool :=
  decide (1 ≤ v.classes.length) && decide (v.classes.length ≤ 16) && v.classes.all (classOk g dies)
  && decide (1 ≤ v.pattern.length) && decide (v.pattern.length ≤ 64)
  && v.pattern.all (fun c => decide (c < v.classes.length))

/-- A tier-map entry has an assigned place, zero reserved bytes, and an extent inside its wellhead, the sealed data
blocks of the host window or the namespace (R370, R702). -/
def tierOk (q : Part) (e : TierEntry) : Bool :=
  e.resv == 0 &&
  (match e.place with
   | 0 => decide (e.home + 32 * e.blocks ≤ wellBeats)
   | 1 => decide (e.back + e.blocks ≤ q.nsBlocks)
   | 2 => decide (sealedUnit q ≤ e.back) && decide (e.back + 32 * e.blocks ≤ sealedUnit q + 32 * sealedBlocks q)
   | _ => false)

/-- Layer boundaries of one member in one rung lie at most 270,000 cycles apart (R566). -/
def boundsOk (w : Nat) : Nat → List Nat → Bool
  | last, [] => decide (w ≤ last + 270000)
  | last, b :: r => decide (last ≤ b) && decide (b ≤ last + 270000) && decide (b ≤ w) && boundsOk w b r

/-- A rung within Table 13-3 and R567, its boundaries in every class of its variant (R566). -/
def rungOk (vs : List VariantImage) (s : Serve) (r : Rung) : Bool :=
  match vs[r.variant]? with
  | none => false
  | some v =>
    decide (1 ≤ r.s) && decide (r.s * s.stages ≤ 1024) && decide (r.p ≤ 16384) && r.p % 64 == 0
    && v.classes.all (fun c => decide (r.commit < c.w)
      && r.bounds.all (fun l => decide (l.length ≤ 64) && boundsOk c.w 0 l))

/-- The SERVE section (Table 13-3). -/
def serveOk (vs : List VariantImage) (s : Serve) : Bool :=
  decide (1 ≤ s.stages) && decide (s.stages ≤ 64) && decide (1 ≤ s.rungs.length) && decide (s.rungs.length ≤ 8)
  && s.rungs.all (rungOk vs s) && decide (1 ≤ s.maxCtx) && decide (s.maxCtx < 2 ^ 32) && decide (s.draftK ≤ 8)
  && decide (s.preds ≤ 16) && decide (2 ≤ s.lead) && decide (s.lead ≤ 16)

/-- The image is valid (load status IMAGE_INVALID otherwise). -/
def imageOk (q : Part) (pl : PlanImage) : Bool :=
  pl.valid && [1, 2, 4].contains pl.dies.length && decide (1 ≤ pl.variants.length) && decide (pl.variants.length ≤ 16)
  && decide (2 ≤ pl.vlead) && decide (pl.vlead ≤ 64) && pl.variants.all (variantOk pl.grid pl.dies)
  && pl.tierMap.all (tierOk q) && decide (pl.collectives.length ≤ 256)
  && (match pl.serve with
      | some s => serveOk pl.variants s
      | none => true)

/-! ### Words of the instruction buffers (01 R29, 03 R132) -/

/-- Bytes laid over others at an offset. -/
def layOver (base : List Byte) (off : Nat) (l : List Byte) : List Byte :=
  base.take off ++ l.take (base.length - off) ++ base.drop (off + l.length)

/-- The bytes that the image places in a station from a beat on; bytes that it does not place read as zero here. -/
def imageBytes (pl : PlanImage) (d u beat n : Nat) : List Byte :=
  (pl.data.filter (fun y => y.die == d && y.unit == u)).foldl (fun l y =>
    if beat ≤ y.beat then layOver l (128 * (y.beat - beat)) y.bytes
    else layOver l 0 (y.bytes.drop (128 * (beat - y.beat)))) (zeros (128 * n))

/-- The words of every instruction buffer of every variant, read as instructions. -/
def bufferWords (pl : PlanImage) : List Nat :=
  pl.variants.flatMap (fun v => v.bufs.flatMap (fun b => [b.mx, b.vx, b.mv].flatMap (fun i =>
    (chunks 16 (8 * i.len) (imageBytes pl b.die b.unit i.base i.len)).map ofLe)))

/-- Wellheads that a plan names (R29). -/
def namedWells (pl : PlanImage) : List Nat :=
  ((bufferWords pl).filter (fun w => wOp w == 0x33)).map dmaWh
  ++ (pl.tierMap.filter (fun e => e.place == 0)).map (fun e => e.wh)
  ++ pl.variants.flatMap (fun v => v.classes.flatMap (fun c =>
      (c.wins.filter (fun y => y.normal != .unused || y.hot != .unused)).map (fun y => y.wh)))

/-! ### Load status (Table 7-10) -/

/-- A named resource is absent, or a die has failed or is off (R29, R530, R800, R819). -/
def resourceAbsent (fz : Fuses) (m : Mach) (pl : PlanImage) : Bool :=
  (namedWells pl).any (fun w => !wellFitted fz w || (pl.grid == .g448 && !sixStack w))
  || pl.dies.any (fun d => (die m d).failed || m.pwr.offDies.contains d)

/-- A stepping accepts a latency profile (R309). -/
def profileOk (fz : Fuses) (l : LProf) : Bool :=
  match l with
  | .lpC => true
  | .lpA1 => !fz.b0
  | .lpB0 => fz.b0

/-- The spillway of a class is at least 3 % (R286): W / 2.25 against 0.97 T. -/
def spillwayOk (c : StepClass) : Bool := decide (400 * c.w ≤ 873 * c.t)

/-- The round trip of a port is measured and within its bound (R307). -/
def budgetOk (m : Mach) (y : Nat × Nat) : Bool := (port m y.1).timed && decide ((port m y.1).rtt ≤ y.2)

/-- The load status of an image, the lowest that applies (R320). -/
def loadStatus (fz : Fuses) (m : Mach) (p : Nat) (pl : PlanImage) : Nat :=
  let q := part m p
  if !imageOk q pl then 1
  else if !(pl.dies.all q.dies.contains && q.dies.all pl.dies.contains) then 2
  else if (pl.grid == .g512 && !fz.full) || pl.dies.any (fun d => !gridFits pl.grid (defectsOf fz d)) then 3
  else if !profileOk fz ((pl.variants.head?.map (fun v => v.lprof)).getD .lpC) then 4
  else if resourceAbsent fz m pl then 5
  else if !pl.variants.all (fun v => v.classes.all spillwayOk) then 6
  else if !pl.rtt.all (budgetOk m) then 7
  else if (bufferWords pl).any (fun w => wOp w == 0x51 && ctCount w == 0) then 8
  else 0

/-! ### Loading -/

/-- A die fitted to the grid class of the plan (R77 to R80, R84). The slice of a station whose row was disabled and is enabled
again holds what it held (DESIGN CHOICE, log 180). -/
def fitDie (fz : Fuses) (g : GridClass) (m : Mach) (d : Nat) : Mach :=
  onDie d (fun x => { x with grid := gridCode g, fit := 1
                             enabled := enabledMask (disabledRows g (defectsOf fz d)) }) m

/-- Bytes of the image placed in a slice. -/
def placeData (m : Mach) (y : StationData) : Mach :=
  match keyOf m y.die y.unit with
  | none => m
  | some k =>
    settle1 k m { cycle := 0, delay := 1, port := 0, off := 128 * y.beat
                  bytes := y.bytes.take (4194304 - 128 * y.beat) }

/-- The instruction buffers of a variant (R99, R828). -/
def setBufs (dies : List Nat) (v : VariantImage) (m : Mach) : Mach :=
  let none_ : IBuf := { base := 0, len := 0 }
  let bare (s : Station) : Station := { s with ibufMx := none_, ibufVx := none_, ibufMv := none_ }
  let m := { m with stations := tmapIf {} (fun k => dies.contains (k / 256)) bare m.stations }
  v.bufs.foldl (fun m b =>
    match keyOf m b.die b.unit with
    | none => m
    | some k => onStn k (fun s => { s with ibufMx := b.mx, ibufVx := b.vx, ibufMv := b.mv }) m) m

/-- The header templates of a variant on the dies of its partition (R473, R828). -/
def setTmpls (dies : List Nat) (v : VariantImage) (m : Mach) : Mach :=
  dies.foldl (fun m d => onDie d (fun x => { x with
    tmpls := (v.tmpls.filter (fun y => y.die == d)).foldl (fun t y => tput noTemplate t y.idx y.tmpl) [] }) m) m

/-- VXE_SEED of every enabled station (R276). -/
def setSeed (dies : List Nat) (seed : BitVec 64) (m : Mach) : Mach :=
  (dies.flatMap (fun d => (fitRows m d).flatMap (fun r => (List.range 16).map (fun c => stKey d (16 * r + c))))).foldl
    (fun m k => onStn k (fun s => { s with vxeSeed := seed }) m) m

/-- An epoch that carried C0 traffic under an earlier load is SPENT (R709). -/
def KeyEpoch.spend (k : KeyEpoch) : KeyEpoch :=
  if k.c0 then { k with c0 := false, st := if k.st = 1 then 3 else k.st } else k

/-- The fabric slots of a die at a load (R709). -/
def spendSlots (m : Mach) (d : Nat) : Mach :=
  let spent (f : FSlot) : FSlot := { f with ep0 := f.ep0.spend, ep1 := f.ep1.spend }
  onDie d (fun x => { x with slots := tmapIf {} (fun _ => true) spent x.slots }) m

/-- The pair entries of the plan's peers on a die (R487). -/
def makePairs (peers : List (Nat × Nat)) (m : Mach) (d : Nat) : Mach :=
  peers.foldl (fun m y => enterPair d y.1 y.2 (fun x => { x with live := true, c0 := {} }) m) m

/-- H3 and H7 in self-refresh under a G448 plan on CD1 and CD3 (R30). -/
def selfRefresh (fz : Fuses) (g : GridClass) (dies : List Nat) (m : Mach) : Mach :=
  [6, 7, 14, 15].foldl (fun m w =>
    if fz.full && dies.contains (wellDie w) then onWell w (fun h => { h with selfref := decide (g = .g448) }) m
    else m) m

/-- A plan is loaded. -/
def loadPlan (fz : Fuses) (p : Nat) (pl : PlanImage) (m : Mach) : Mach :=
  let dies := pl.dies
  let m := dies.foldl (fitDie fz pl.grid) m
  let m := onPart p (fun q => { q with st := .loaded, plan := some pl, step := 0, variant := 0, varBase := 0 }) m
  let m := pl.data.foldl placeData m
  let m := match pl.variants.head? with
    | some v => setTmpls dies v (setBufs dies v m)
    | none => m
  let m := setSeed dies pl.seed m
  let m := dies.foldl (makePairs pl.peers) (dies.foldl spendSlots m)
  selfRefresh fz pl.grid dies m

/-- FIT after a load that is rejected (R84). -/
def rejectFit (fz : Fuses) (p st : Nat) (g : GridClass) (m : Mach) : Mach :=
  (part m p).dies.foldl (fun m d =>
    onDie d (fun x => { x with grid := 0, enabled := 0
                               fit := if st = 3 ∧ gridFits g (defectsOf fz d) = false then 2 else 0 }) m) m

/-- PLAN_LOAD (R318 to R320, R738). -/
def planLoad (v : Via) (p : Nat) (pl : PlanImage) (fz : Fuses) (m : Mach) : Mach :=
  if (part m p).st ≠ .empty then answer v .badState m
  else
    match loadStatus fz m p pl with
    | 0 => answer v .ok (loadPlan fz p pl m)
    | st => complete v .loadRejected st .empty (rejectFit fz p st pl.grid m)

/-- PLAN_LOAD. -/
def execPlanLoad (v : Via) (p : Fin 4) (image : PlanImage) (s : State) : Host.Outcome State Fault Refusal :=
  run s (fun fz => command v (some p.val) 0x201 (planLoad v p.val image fz))

/-! ### Start and stop -/

/-- A queue takes the first beats of its buffer, up to 64 (R100). -/
def fillQueue (k : Nat) (m : Mach) (q : Queue) : Mach :=
  let b := (stn m k).ibuf q
  let n := if b.len ≤ 64 then b.len else 64
  let es := (List.range n).flatMap (fun i => beatEntries (readBeat m k none farAway (b.base + i)) (128 * i) 0)
  onStn k (fun s => s.onQueue q (fun y => { y with entries := es, nextOff := 128 * n })) m

/-- Every queue of the partition is filled before the plan's first step. -/
def fillQueues (dies : List Nat) (m : Mach) : Mach :=
  ((m.stations.filter (fun y => dies.contains (y.1 / 256))).map (fun y => y.1)).foldl
    (fun m k => [Queue.mx, .vx, .mv].foldl (fillQueue k) m) m

/-- The journal's PLAN and WEIGHTS entries at the plan's first start (Table 15-6). -/
def journalStart (fz : Fuses) (p anchor : Nat) (pl : PlanImage) (m : Mach) : Mach :=
  let m := journal p { kind := 1, pos := 0, step := 0
                       payload := digestBytes pl.digest ++ digestBytes (configDigest fz m p)
                         ++ leBytes 8 pl.seed.toNat ++ leBytes 8 anchor } m
  if pl.weights then
    journal p { kind := 6, pos := 0, step := 0, payload := digestBytes (part m p).wgt.digest } m
  else m

/-- Entries that waited for a new destination are written first (R659). -/
def flushJournal (p : Nat) (m : Mach) : Mach :=
  (part m p).det.pending.foldl (fun m e => journal p e m) (onDet p (fun x => { x with pending := [] }) m)

/-- The weights allow a start (R625, R661). -/
def weightsOk (m : Mach) (p : Nat) (pl : PlanImage) : Bool :=
  (!pl.weights || (part m p).wgt.st == 2) &&
  (match (part m p).det.replay with
   | some j => (match j.wset with
     | some w => w == (part m p).wgt.digest
     | none => true)
   | none => true)

/-- PLAN_START (R318, R321, R554, R625). -/
def planStart (v : Via) (p anchor : Nat) (fz : Fuses) (m : Mach) : Mach :=
  let q := part m p
  match q.plan with
  | none => answer v .badState m
  | some pl =>
    if q.st ≠ .loaded ∧ q.st ≠ .stopped then answer v .badState m
    else if pl.members.any (fun y => y.1 != m.moduleId) && m.clk.st == 0 then answer v .timeUnset m
    else if !weightsOk m p pl then answer v .weightsInvalid m
    else
      let m := onPart p (fun q => { q with st := .running, release := anchor }) m
      let m := if q.st = .loaded then journalStart fz p anchor pl (fillQueues q.dies m) else flushJournal p m
      answer v .ok m

/-- PLAN_START. -/
def execPlanStart (v : Via) (p : Fin 4) (anchor : Nat) (s : State) : Host.Outcome State Fault Refusal :=
  run s (fun fz => command v (some p.val) 0x202 (planStart v p.val anchor fz))

/-- PLAN_STOP (R318, R322). -/
def planStop (v : Via) (p : Nat) (m : Mach) : Mach :=
  if (part m p).st = .running then answer v .ok (stopPlan p m) else answer v .badState m

/-- PLAN_STOP. -/
def execPlanStop (v : Via) (p : Fin 4) (s : State) : Host.Outcome State Fault Refusal :=
  run s (fun _ => command v (some p.val) 0x203 (planStop v p.val))

/-- PLAN_STATUS (R318): state, step number, lateness and hold counts. -/
def planStatus (v : Via) (p : Nat) (m : Mach) : Mach :=
  let q := part m p
  let n (r : Reg) : Nat := (ctr m r (iPart p) 0).count
  complete v .ok 0 (.fields [("STATE", q.st.code), ("STEP", q.step), ("LATE", q.late), ("DMA", n .hldCntDma)
    , ("LINK", n .hldCntLink), ("CISTERN", n .hldCntCistern), ("HOST", n .hldCntHost), ("REFRESH", n .hldCntRefresh)
    , ("GATE", n .hldCntGate), ("TOTAL", n .hldCntTotal), ("EPISODES", n .hldEpisodes)]) m

/-- PLAN_STATUS. -/
def execPlanStatus (v : Via) (p : Fin 4) (s : State) : Host.Outcome State Fault Refusal :=
  run s (fun _ => command v (some p.val) 0x204 (planStatus v p.val))

/-- PLAN_UNLOAD (R318, R607): partition reset, after the terminal records of a serving plan. -/
def planUnload (v : Via) (p : Nat) (fz : Fuses) (m : Mach) : Mach :=
  let q := part m p
  if q.st ≠ .loaded ∧ q.st ≠ .stopped ∧ q.st ≠ .halted then answer v .badState m
  else
    let m := cutOff p m
    let m := if (serveOf m p).isSome then failAll fz p m else m
    answer v .ok (partitionReset p m)

/-- PLAN_UNLOAD. -/
def execPlanUnload (v : Via) (p : Fin 4) (s : State) : Host.Outcome State Fault Refusal :=
  run s (fun fz => command v (some p.val) 0x205 (planUnload v p.val fz))

/-- FAULT_READ (R314, R317). -/
def execFaultRead (v : Via) (p : Fin 4) (s : State) : Host.Outcome State Fault Refusal :=
  run s (fun _ => command v (some p.val) 0x206 (fun m => complete v .ok 0 (.bytes (faultBytes m p.val)) m))

/-! ### PLAN_VARIANT (19 R829, R832) -/

/-- A switch armed; of two that name one step, that of the lower origin stays (R832). -/
def arm (p : Nat) (a : Armed) (m : Mach) : Mach :=
  onPart p (fun q =>
    match q.armed.find? (fun x => x.step == a.step) with
    | none => { q with armed := q.armed ++ [a] }
    | some x =>
      if a.originMod < x.originMod ∨ (a.originMod = x.originMod ∧ a.originDie < x.originDie) then
        { q with armed := q.armed.map (fun y => if y = x then a else y) }
      else q) m

/-- Payload of a VARIANT packet (Table 19-9). -/
def variantBytes (a : Armed) (dig : List Byte) : List Byte :=
  [4] ++ leBytes 1 a.variant ++ leBytes 2 a.originMod ++ leBytes 1 a.originDie ++ [0] ++ leBytes 6 a.step ++ zeros 4
    ++ dig

/-- A VARIANT packet to the lowest die of another member, sealed under the session slot that names it. -/
def sendVariant (fz : Fuses) (p : Nat) (a : Armed) (m : Mach) (y : Nat × Nat) : Mach :=
  match sealSlot m p y.1 y.2 with
  | none => m
  | some (s, e) =>
    let h : Header := { newHdr m p 0xF0 with dstMod := y.1, dstDie := y.2, dstUnit := 0xF0, keyslot := s, keyEpoch := e }
    sendPair fz p 2 h (variantBytes a (digest16 m p)) none m

/-- PLAN_VARIANT (R829); a switch that the journal gives takes effect at the step that comes (R662). -/
def planVariant (v : Via) (p n step : Nat) (fz : Fuses) (m : Mach) : Mach :=
  let q := part m p
  match q.plan with
  | none => answer v .badState m
  | some pl =>
    if q.st ≠ .running then answer v .badState m
    else if journalRefuses m p v then refuseJournalled p v m
    else
      let replayed := v.caller = .journal
      let e := if replayed then q.step else if step = 0 then q.step + pl.vlead else step
      if pl.variants.length ≤ n ∨ (¬ replayed ∧ e < q.step + 2) then answer v .range m
      else
        let a : Armed := { variant := n, step := e, originMod := m.moduleId, originDie := p, payload := payloadOf m v }
        let m := arm p a m
        let others := pl.members.filter (fun y => y != (m.moduleId, p))
        answer v .ok (if replayed then m else others.foldl (sendVariant fz p a) m)

/-- PLAN_VARIANT. -/
def execPlanVariant (v : Via) (p : Fin 4) (variant step : Nat) (s : State) : Host.Outcome State Fault Refusal :=
  run s (fun fz => command v (some p.val) 0x207 (planVariant v p.val variant step fz))

end Sys2Proof.Machine
end

