-- ==== Sys2Proof/Machine/Fabric.lean ====
section
/-! DEFINITION. Packets as a module receives them (11 R485 to R503): the checks of Table 11-5, order within a pair, the
targets of Table 11-6, requests and responses, LK.INJECT and LK.EXPECT. -/

namespace Sys2Proof.Machine

/-! ### LK.INJECT and LK.EXPECT -/

/-- A transfer put before the link stations of a die. -/
def pushLink (d : Nat) (t : Xfer) (m : Mach) : Mach :=
  { m with links := tmod [] m.links d (fun l => l ++ [t]) }

/-- LK.INJECT opens an OUT region (Table 3-11); the step of its issue goes into its headers (R474). -/
def effInject (x : Ctx) (_ : Cut) : Eff :=
  let w := x.w
  { st := openDesc x true 1
    next := pushLink x.d { xferOf x 3 true (lkPort w) (lkAofs w) (lkLink w) with
      started := true, tmpl := lkTmpl w, xfer16 := injXfer w, src := [(part x.m x.p).step] } }

/-- LK.INJECT. -/
def execLkInject (a : At) (s : State) : Host.Outcome State Fault Refusal :=
  run s (issue a .inject (specRow .inject) effInject)

/-- LK.EXPECT opens an IN region for an inbound transfer (Table 3-11, R493). -/
def effExpect (x : Ctx) (_ : Cut) : Eff :=
  let w := x.w
  { st := openDesc x false 1
    next := pushLink x.d { xferOf x 4 false (lkPort w) 0 (lkLink w) with
      started := true, xfer16 := expXfer w, srcMod := expMod w } }

/-- LK.EXPECT. -/
def execLkExpect (a : At) (s : State) : Host.Outcome State Fault Refusal :=
  run s (issue a .expect specExpect effExpect)

/-! ### Checks 1 to 6 (Table 11-5) -/

/-- A packet's length and class agree with its link prefix (R471). -/
def prefixOk (i : InPkt) : Bool :=
  let h := i.pkt.hdr
  16 * i.len16 == 32 + 32 * h.len + 16 * b2n (h.keyslot != 0) && (i.cls == h.cls || (i.cls == 3 && h.escaped))

/-- A header's fields are assigned (R472). -/
def headerOk (m : Mach) (h : Header) : Bool :=
  decide (1 ≤ h.op) && decide (h.op ≤ 5) && decide (h.cls < 3) && h.resv == 0 && !h.flag 7
  && (!h.isLocal || (h.hops == 0 && h.dstMod == m.moduleId))
  && (!h.unordered || (h.op == 5 && h.cls == 2 && !h.isLocal))

/-- CTYPE of a CONTROL packet. -/
def ctype (p : Packet) : Nat := leAt p.payload 0 1

/-- The partition that holds a die takes packets for it (R485 order 4, R680). -/
def dieHeld (m : Mach) (d : Nat) : Bool := (part m (partOf m d)).sec.st != 0

/-- KEYSLOT is accepted (R486, R709). -/
def slotOk (m : Mach) (i : InPkt) : Bool :=
  let h := i.pkt.hdr
  if h.keyslot = 0 then
    h.isLocal && h.op == 5 && (ctype i.pkt == 1 || ctype i.pkt == 2) && (port m i.port).active
  else
    let st := ((fslot m h.dstDie h.keyslot).ep h.keyEpoch).st
    st == 1 || st == 3

/-- A packet discarded and counted. -/
def dropPkt (i : InPkt) (r : Reg) (d : Nat) (m : Mach) : Mach := bump r (iDie d) (freePool i m)

/-! ### Targets (R492 to R496) -/

/-- The kinds of unit that a packet may name (Table 11-6). -/
inductive Aim where
  | station (key : Nat)
  | well (w : Nat)
  | host
  | link
  | none
  deriving DecidableEq, Repr

/-- The unit that a packet names. -/
def aimOf (fz : Fuses) (m : Mach) (h : Header) : Aim :=
  let u := h.dstUnit
  if u < 0x80 then
    match keyOf m h.dstDie u with
    | some k => .station k
    | .none => .none
  else if 0xE0 ≤ u ∧ u < 0xF0 then
    (if wellFitted fz (u - 0xE0) && wellDie (u - 0xE0) == h.dstDie then .well (u - 0xE0) else .none)
  else if 0xF0 ≤ u ∧ u < 0xF4 then .link
  else if u = 0xF8 then .host
  else .none

/-- The open LK.EXPECT region that takes a packet (R493). -/
def regionFor (m : Mach) (h : Header) (n : Nat) : Option Xfer :=
  (tget [] m.links h.dstDie).find? (fun t =>
    t.kind == 4 && t.unit == h.dstUnit && t.xfer16 == h.xfer && t.srcMod == h.srcMod
      && decide (128 * t.loc ≤ h.addr) && decide (h.addr + n ≤ 128 * (t.loc + t.len)))

/-- Bytes [a, a + n) lie within an enabled window of the destination die that admits the packet (R494); in a teardown
nothing is admitted (R718). -/
def windowFor (m : Mach) (h : Header) (op a n : Nat) : Bool :=
  (part m (partOf m h.dstDie)).sec.st != 3 && (die m h.dstDie).rwins.any (fun y =>
    let w := y.2
    w.enable && w.unit == h.dstUnit && w.srcMod == h.srcMod && w.keyslot == h.keyslot && bitAt w.ops (op - 1)
      && decide (w.base ≤ a) && decide (a + n ≤ w.base + w.len))

/-- RADDR, RLEN and REPLY of a READ_REQ (Table 11-8). -/
def readArgs (p : Packet) : Nat × Nat × Nat := (leAt p.payload 0 6, leAt p.payload 8 4, leAt p.payload 14 6)

/-- A READ_REQ is one that R497 and Table 11-8 lay out. -/
def readOk (p : Packet) : Bool :=
  let (_, n, _) := readArgs p
  p.hdr.len == 1 && p.hdr.cls == 1 && p.hdr.tag != 0 && decide (32 ≤ n) && decide (n ≤ 4096) && n % 32 == 0
  && leAt p.payload 6 2 == 0 && leAt p.payload 12 2 == 0 && leAt p.payload 20 12 == 0

/-- Bytes of a wellhead or of the partition's host window. -/
def aimSize (m : Mach) (h : Header) (a : Aim) : Nat :=
  match a with
  | .well _ => 128 * wellBeats
  | _ => (part m (partOf m h.dstDie)).hwLen

/-- The subcode with which a packet fails R492 to R494 (Table 11-7), if it does. -/
def targetFails (fz : Fuses) (m : Mach) (p : Packet) : Option Nat :=
  let h := p.hdr
  let n := 32 * h.len
  match aimOf fz m h with
  | .none => some 0x31
  | .station _ =>
    if (h.op ≠ 1 ∧ h.op ≠ 4) ∨ h.cls ≠ 0 then some 0x32
    else if h.addr % 32 = 0 ∧ h.addr < 2 ^ 22 ∧ (regionFor m h n).isSome = true then none else some 0x30
  | .link =>
    if h.op ≠ 5 then some 0x32
    else
      let c := ctype p
      if h.addr = 0 ∧ ((1 ≤ c ∧ c ≤ 3 ∧ h.isLocal = true) ∨ (c = 4 ∧ h.isLocal = false ∧ h.unordered = false)
          ∨ (c = 5 ∧ h.unordered = true)) then none else some 0x32
  | a =>
    if h.op = 1 then
      let well := match a with
        | .well _ => true
        | _ => false
      let aligned := if well then h.addr % 128 == 0 && n % 128 == 0 else h.addr % 32 == 0
      if aligned && decide (h.addr + n ≤ aimSize m h a) && windowFor m h 1 h.addr n then none else some 0x30
    else if h.op = 2 ∧ h.cls = 1 ∧ h.tag ≠ 0 then
      let (r, k, _) := readArgs p
      let aligned := match a with
        | .well _ => true
        | _ => r % 32 == 0
      if readOk p && aligned && decide (r + k ≤ aimSize m h a) && windowFor m h 2 r k then none else some 0x30
    else some 0x32

/-- A packet that fails its target (R495): a C0 packet halts the destination partition, any other is discarded. -/
def failTarget (fz : Fuses) (i : InPkt) (sub : Nat) (m : Mach) : Mach :=
  let h := i.pkt.hdr
  let p := partOf m h.dstDie
  let m := freePool i m
  if h.cls = 0 then
    let named : Option Nat := if h.dstUnit < 0x80 then physOf m h.dstDie h.dstUnit else .none
    haltPart fz p { reason := 0x03, die := if named.isSome then h.dstDie else portDie i.port, queue := 3
                    unit := if named.isSome then h.dstUnit else portUnit i.port, pidx := named.getD 0xFF
                    cycle := stopCycle m p (cycleNow m p), iaddr := .none, subcode := sub
                    arg := h.srcMod * 2 ^ 34 + h.xfer * 2 ^ 18, station := true, issuer := .none } m
  else raiseEvt 0x0017 0 (iDie h.dstDie) h.srcMod (bump .rteRemoteDrop (iDie h.dstDie) m)

/-- A packet delivered in its order (R495, R496): it waits for its execution, unless its partition runs no plan or its
target fails. A READ_RESP is judged when it executes (R498). -/
def deliver (fz : Fuses) (i : InPkt) (m : Mach) : Mach :=
  let h := i.pkt.hdr
  if h.cls = 0 ∧ runs m (partOf m h.dstDie) = false then dropPkt i .rteRemoteDrop h.dstDie m
  else
    match (if h.op = 3 then Option.none else targetFails fz m i.pkt) with
    | some sub => failTarget fz i sub m
    | .none => onDie h.dstDie (fun x => { x with deliver := x.deliver ++ [i] }) m

/-! ### Order (R487 to R489) -/

/-- The key of a packet in the response cache. -/
def cacheFor (m : Mach) (h : Header) : Option Cached :=
  (die m h.dstDie).cache.find? (fun c => c.mod == h.srcMod && c.die == h.srcDie && c.tag == h.tag)

/-- A response sent as a new packet of class C1 (R498, R502). -/
def sendResp (fz : Fuses) (d : Nat) (r : Packet) (m : Mach) : Mach :=
  let h := r.hdr
  sendPair fz d 1 { h with keyEpoch := b2n (fslot m d h.keyslot).wr, epoch := b2n (part m (partOf m d)).rte.epoch
                           step := (part m (partOf m d)).step % 65536 } r.payload .none m

/-- A duplicate (R502). -/
def duplicate (fz : Fuses) (i : InPkt) (m : Mach) : Mach :=
  let h := i.pkt.hdr
  match (if h.retry then cacheFor m h else .none) with
  | some c => sendResp fz h.dstDie c.resp (bump .rteCacheHit (iDie h.dstDie) (freePool i m))
  | .none => dropPkt i .rteDup h.dstDie m

/-- Packets of a pair and class that waited for the packet just delivered follow it; `fuel` bounds their number. -/
def drainOrder (fz : Fuses) (d mod peer cls : Nat) : Nat → Mach → Mach
  | 0, m => m
  | fuel + 1, m =>
    let n := ((pairOf m d mod peer).cls cls).next
    let mine (w : Waiting) : Bool :=
      w.inp.pkt.hdr.srcMod == mod && w.inp.pkt.hdr.srcDie == peer && w.inp.pkt.hdr.cls == cls && w.ext == n
    match (die m d).reorder.find? mine with
    | .none => m
    | some w =>
      let m := onDie d (fun x => { x with reorder := x.reorder.erase w }) m
      let m := onPair d mod peer (fun x => x.onCls cls (fun y => { y with next := n + 1 })) m
      drainOrder fz d mod peer cls fuel (deliver fz w.inp m)

/-- A packet waits for those before it (R488): in the reorder store of 512 KiB, where it frees its pool units, or while that store is
full in its receive pool. -/
def awaitOrder (d : Nat) (i : InPkt) (ext : Nat) (m : Mach) : Mach :=
  let kept := ((die m d).reorder.filter (fun w => !w.inp.pooled)).foldl (fun n w => n + w.inp.pkt.size) 0
  let room := decide (kept + i.pkt.size ≤ 2 ^ 19)
  let m := if room then freePool i m else m
  onDie d (fun x => { x with reorder := x.reorder ++
    [{ inp := if room then { i with pooled := false } else i, ext := ext, since := m.clk.wall }] }) m

/-- A packet in the order of its pair and class (R488). -/
def order (fz : Fuses) (i : InPkt) (m : Mach) : Mach :=
  let h := i.pkt.hdr
  let d := h.dstDie
  let pr := pairOf m d h.srcMod h.srcDie
  if !pr.live then dropPkt i .rteRemoteDrop d m
  else
    let n := (pr.cls h.cls).next
    let ahead := (h.pseq + 65536 - n % 65536) % 65536
    if ahead = 0 then
      let m := onPair d h.srcMod h.srcDie (fun x => x.onCls h.cls (fun y => { y with next := n + 1 })) m
      let m := deliver fz i m
      drainOrder fz d h.srcMod h.srcDie h.cls (die m d).reorder.length m
    else if ahead ≤ 16383 then
      if (die m d).reorder.any (fun w => w.inp.pkt.hdr.srcMod == h.srcMod && w.inp.pkt.hdr.srcDie == h.srcDie
          && w.inp.pkt.hdr.cls == h.cls && w.ext == n + ahead) then dropPkt i .rteDup d m
      else awaitOrder d i (n + ahead) m
    else duplicate fz i m

/-- The checks of Table 11-5 on a packet that arrived at a port of die d. -/
def checkPacket (fz : Fuses) (k d : Nat) (i : InPkt) (m : Mach) : Mach :=
  let h := i.pkt.hdr
  if h.hcrc ≠ h.crc then raiseEvt 0x0015 0 (iDie d) k (dropPkt i .rteHcrcErr d m)
  else if !prefixOk i || !headerOk m h then dropPkt i .rteHdrErr d m
  else if h.dstMod ≠ m.moduleId then
    if 15 ≤ h.hops then dropPkt i .rteHopsDrop d m
    else forward fz { i with pkt := { i.pkt with hdr := { h with hops := h.hops + 1 } } } m
  else if !dieHeld m h.dstDie then dropPkt i .rteRemoteDrop h.dstDie m
  else if !slotOk m i then dropPkt i .rteKeyDrop h.dstDie m
  else if h.keyslot ≠ 0 ∧ i.pkt.tagOk = false then
    raiseEvt 0x0016 1 (iDie h.dstDie) h.srcMod (dropPkt i .rteAuthFail h.dstDie m)
  else if h.isLocal || h.unordered then deliver fz i m
  else order fz i m

/-- PACKET_RECEIVE: the next accepted packet of a port under the checks of Table 11-5. -/
def packetReceive (k : Nat) (fz : Fuses) (m : Mach) : Mach :=
  match (port m k).inbox with
  | [] => m
  | i :: r => checkPacket fz k (portDie k) i (onPort k (fun q => { q with inbox := r }) m)

/-- PACKET_RECEIVE. -/
def execPacketReceive (port : Fin 16) (s : State) : Host.Outcome State Fault Refusal :=
  run s (packetReceive port.val)

/-! ### Executing the packet at the front of a die -/

/-- The front packet of a die, if it passes a test. -/
def front (m : Mach) (d : Nat) (f : Packet → Bool) : Option InPkt :=
  ((die m d).deliver.head?).filter (fun i => f i.pkt)

/-- The front packet of a die has executed: it leaves, and its pool units are free. -/
def executed (d : Nat) (i : InPkt) (m : Mach) : Mach :=
  freePool i (onDie d (fun x => { x with deliver := x.deliver.drop 1 }) m)

/-- The latest free cycle before `n`, and not before `lo`, for a write through a port into a bank that it holds for some further
cycles (R330). -/
def freeBefore (s : Station) (port beat hold lo : Nat) : Nat → Option Nat
  | 0 => .none
  | c + 1 =>
    if c < lo then .none
    else if laneBlocked s true port beat hold c then freeBefore s port beat hold lo c
    else some c

/-- The cycle from which on a write to a beat comes after those that have been made to it. -/
def afterWrites (s : Station) (beat gap : Nat) : Nat :=
  (s.late.filter (fun w => decide (w.off < 128 * beat + 128) && decide (128 * beat < w.off + w.bytes.length))).foldl
    (fun n w => if n ≤ w.cycle + gap then w.cycle + gap else n) 0

/-- Cycles for writes to beats, the last beat first, each before the one that follows it. -/
def spread (s : Station) (port hold : Nat) : List Nat → Nat → Option (List Nat)
  | [], _ => some []
  | b :: r, n =>
    let lo := afterWrites s b (hold + 1)
    match freeBefore s port b hold lo (if n ≤ lo then lo + 1 else n) with
    | .none => .none
    | some c => (spread s port hold r c).map (fun l => c :: l)

/-- When the pieces of a packet, one in each beat, are written into a slice: in the last free cycles up to the one of the command,
in a hold or between steps at once; none while there are no such cycles yet. -/
def pieceTimes (m : Mach) (key port hold : Nat) (at_ : LaneAt) (ps : List (Nat × List Byte)) : Option (List LaneAt) :=
  match at_ with
  | .cycle c => (spread (stn m key) port hold (ps.map (fun y => y.1 / 128)).reverse (c + 1)).map
      (fun l => l.reverse.map .cycle)
  | _ => some (ps.map (fun _ => at_))

/-- The pieces of an inbound WRITE stored, each in its cycle (R330, R493). -/
def storePieces (fz : Fuses) (key port : Nat) (l : List ((Nat × List Byte) × LaneAt)) (m : Mach) : Mach :=
  l.foldl (fun m y => laneWrite fz key port y.1.1 y.2 y.1.2 (recordLane key true port (y.1.1 / 128) 0 0 y.2 m)) m

/-- Payload bytes of an LK.EXPECT region that have arrived, in units of 32 bytes. -/
def countRegion (d : Nat) (t : Xfer) (n : Nat) (m : Mach) : Mach :=
  putXfer (.link d) t { t with moved := t.moved + n } m

/-- The response to a request: data or a status (R498). -/
def respTo (m : Mach) (p : Packet) (addr : Nat) (l : List Byte) : Packet :=
  let h := p.hdr
  let r : Header := { newHdr m h.dstDie h.dstUnit with
    dstMod := h.srcMod, dstDie := h.srcDie, dstUnit := h.srcUnit, op := 3, cls := 1, keyslot := h.keyslot, tag := h.tag
    addr := addr }
  { hdr := r, payload := l, tagOk := true }

/-- A request has executed: its response is kept and sent (R498, R501). -/
def respond (fz : Fuses) (p : Packet) (addr : Nat) (l : List Byte) (m : Mach) : Mach :=
  let h := p.hdr
  let r := respTo m p addr l
  sendResp fz h.dstDie r (onDie h.dstDie (fun x => { x with
    cache := x.cache ++ [{ mod := h.srcMod, die := h.srcDie, tag := h.tag, resp := r, at_ := m.clk.wall }] }) m)

/-- A completion status (R498). -/
def statusLine (st : Nat) : List Byte := leBytes 1 st ++ zeros 31

/-- Beats written to a wellhead, of a write of the beats [lo, hi); the status of R498. -/
def writeBeats (fz : Fuses) (w lo hi : Nat) : Nat → List (List Byte) → Mach → Mach × Nat
  | _, [], m => (m, 0)
  | a, l :: r, m =>
    match writeHbm w lo hi a l m with
    | (m, some e) => (keyHalt fz w e m, 1)
    | (m, .none) => writeBeats fz w lo hi (a + 1) r m

/-- A write of host memory that does not replace the whole of a unit merges into it, and finds it uncorrectable (log 25). -/
def mergeFails (m : Mach) (a n : Nat) : Bool :=
  m.hostErr.any (fun u => decide (a < 128 * u + 128) && decide (128 * u < a + n) && !covers a n 128 u)

/-- Bytes written to the host window by a packet, as they come. -/
def writeWindow (p a : Nat) (l : List Byte) (m : Mach) : Mach :=
  pokeHost ((part m p).hwBase + a) l m

/-- The data of a WRITE or a READ_RESP put into a wellhead or the host window, or handed to firmware by the link station whose unit
it names; the status of R498. -/
def putRemote (fz : Fuses) (h : Header) (a : Nat) (l : List Byte) (m : Mach) : Mach × Nat :=
  match aimOf fz m h with
  | .well w =>
    let ls := chunks 128 l.length l
    writeBeats fz w (a / 128) (a / 128 + ls.length) (a / 128) ls m
  | .host =>
    let p := partOf m h.dstDie
    if mergeFails m ((part m p).hwBase + a) l.length then (m, 2) else (writeWindow p a l m, 0)
  | .link => (onDie h.dstDie (fun x => { x with replies := x.replies ++ [(a, l)] }) m, 0)
  | _ => (m, 1)

/-- A packet is a request (R497). -/
def isAsk (h : Header) : Bool := h.cls == 1 && h.tag != 0

/-- A request may execute: the response cache has room (R501). -/
def cacheRoom (m : Mach) (h : Header) : Bool := !isAsk h || decide ((die m h.dstDie).cache.length < 1024)

/-- WRITE (R492 to R494, R498). -/
def recvWrite (d : Nat) (fz : Fuses) (m : Mach) : Mach :=
  match front m d (fun p => p.hdr.op == 1) with
  | .none => m
  | some i =>
    let h := i.pkt.hdr
    let l := i.pkt.payload.take (32 * h.len)
    if !cacheRoom m h then m
    else
      match targetFails fz m i.pkt with
      | some sub => failTarget fz i sub (onDie d (fun x => { x with deliver := x.deliver.drop 1 }) m)
      | .none =>
        match aimOf fz m h, regionFor m h (32 * h.len) with
        | .station key, some t =>
          let ps := beatPieces l.length h.addr l
          match pieceTimes m key t.port 0 (laneAt m key (cycleNow m (partOf m d))) ps with
          | some cs => executed d i (storePieces fz key t.port (ps.zip cs) (countRegion d t h.len m))
          | .none => m
        | .station _, .none => m
        | _, _ =>
          let (m, st) := putRemote fz h h.addr l m
          executed d i (if isAsk h then respond fz i.pkt 0 (statusLine st) m else m)

/-- WRITE. -/
def execWrite (die : Fin 4) (s : State) : Host.Outcome State Fault Refusal := run s (recvWrite die.val)

/-- Beats of a wellhead read for a request: the data, unless the code or the key stops it. -/
def readBeats (fz : Fuses) (w : Nat) : Nat → Nat → Mach → Mach × Option (List Byte)
  | _, 0, m => (m, some [])
  | a, n + 1, m =>
    match readHbm w a m with
    | (m, .error e) => (keyHalt fz w e m, .none)
    | (m, .ok l) =>
      match readBeats fz w (a + 1) n m with
      | (m, .none) => (m, .none)
      | (m, some r) => (m, some (l ++ r))

/-- Bytes of host memory contain a unit that cannot be corrected. -/
def hostBad (m : Mach) (a n : Nat) : Bool :=
  m.hostErr.any (fun u => decide (a < 128 * u + 128) && decide (128 * u < a + n))

/-- READ_REQ (R497, R498): data, or a status for a read that fails (DESIGN CHOICE, log 25). -/
def recvReadReq (d : Nat) (fz : Fuses) (m : Mach) : Mach :=
  match front m d (fun p => p.hdr.op == 2) with
  | .none => m
  | some i =>
    let h := i.pkt.hdr
    let (a, n, reply) := readArgs i.pkt
    if !cacheRoom m h then m
    else
      match targetFails fz m i.pkt with
      | some sub => failTarget fz i sub (onDie d (fun x => { x with deliver := x.deliver.drop 1 }) m)
      | .none =>
        match aimOf fz m h with
        | .well w =>
          let lo := a / 128
          match readBeats fz w lo ((a + n + 127) / 128 - lo) m with
          | (m, .none) => executed d i (respond fz i.pkt reply (statusLine 2) m)
          | (m, some l) => executed d i (respond fz i.pkt reply ((l.drop (a - 128 * lo)).take n) m)
        | _ =>
          let q := part m (partOf m d)
          executed d i (respond fz i.pkt reply
            (if hostBad m (q.hwBase + a) n then statusLine 2 else peeks m.mem.host (q.hwBase + a) n) m)

/-- READ_REQ. -/
def execReadReq (die : Fin 4) (s : State) : Host.Outcome State Fault Refusal := run s (recvReadReq die.val)

/-- READ_RESP (R498): the data goes to REPLY of the requesting unit, and the request is complete; one that waits may be issued
(R499). -/
def recvReadResp (d : Nat) (fz : Fuses) (m : Mach) : Mach :=
  match front m d (fun p => p.hdr.op == 3) with
  | .none => m
  | some i =>
    let h := i.pkt.hdr
    let mine (r : Request) : Bool :=
      r.pkt.hdr.tag == h.tag && r.pkt.hdr.dstMod == h.srcMod && r.pkt.hdr.dstDie == h.srcDie
    match (die m d).reqs.find? mine with
    | .none => bump .rteRespDup (iDie d) (executed d i m)
    | some r =>
      let m := onDie d (fun x => { x with reqs := x.reqs.erase r }) m
      let l := i.pkt.payload.take (32 * h.len)
      issueAsks fz d (executed d i (if r.pkt.hdr.op = 2 then (putRemote fz h h.addr l m).1 else m))

/-- READ_RESP. -/
def execReadResp (die : Fin 4) (s : State) : Host.Outcome State Fault Refusal := run s (recvReadResp die.val)

/-- The inbound adds of one beat (R217 to R220), and the halt of an uncorrectable word (Table 9-2). -/
def addPiece (fz : Fuses) (p d unit key port : Nat) (m : Mach) (y : (Nat × List Byte) × LaneAt) : Mach :=
  let (off, bytes) := y.1
  let beat := off / 128
  let m := recordLane key true port beat 2 0 y.2 m
  let quick := match y.2 with
    | .cycle _ => false
    | _ => true
  let c := (y.2.when).getD 0
  let (n, bad) := insWrite key 3 port c quick off bytes m
  let n := recallSince fz key m n
  if bad = [] then n
  else
    haltPart fz p { reason := 0x0C, die := d, queue := 3, unit := unit, pidx := key % 256
                    cycle := stopCycle n p c, iaddr := .none, subcode := 1, arg := pair24 (128 * beat) (maskOf bad)
                    station := true, issuer := .none } (noteBad key false beat bad n)

/-- LA_ADD (R217, R326, R493) in a cycle, one beat in each that R330 leaves free; outside a step its adds are plain contents at
once. -/
def recvLaAdd (d cycle : Nat) (fz : Fuses) (m : Mach) : Mach :=
  match front m d (fun p => p.hdr.op == 4) with
  | .none => m
  | some i =>
    let h := i.pkt.hdr
    let l := i.pkt.payload.take (32 * h.len)
    match targetFails fz m i.pkt with
    | some sub => failTarget fz i sub (onDie d (fun x => { x with deliver := x.deliver.drop 1 }) m)
    | .none =>
      match aimOf fz m h, regionFor m h (32 * h.len) with
      | .station key, some t =>
        let p := partOf m d
        let at_ := laneAt m key cycle
        let ps := beatPieces l.length h.addr l
        let add (m : Mach) (cs : List LaneAt) : Mach := (ps.zip cs).foldl (addPiece fz p d h.dstUnit key t.port) m
        match pieceTimes m key t.port 2 at_ ps with
        | .none => m
        | some cs =>
          let m := countRegion d t h.len m
          executed d i (if at_.when = .none then settleStn key (add (settleStn key m) cs) else add m cs)
      | _, _ => m

/-- LA_ADD. -/
def execLaAdd (die : Fin 4) (cycle : Nat) (s : State) : Host.Outcome State Fault Refusal :=
  run s (recvLaAdd die.val cycle)

/-! ### Control packets -/

/-- A CONTROL packet of a type. -/
def isCtl (c : Nat) (p : Packet) : Bool := p.hdr.op == 5 && ctype p == c

/-- COLL_ABORT received (R507, R508). -/
def recvAbort (d : Nat) (fz : Fuses) (m : Mach) : Mach :=
  match front m d (isCtl 3) with
  | .none => m
  | some i =>
    let l := i.pkt.payload
    let a : Abort := { cause := leAt l 1 1, mod := leAt l 2 2, die := leAt l 4 1, coll := leAt l 5 1, step := leAt l 6 2 }
    let p := partOf m d
    let m := executed d i m
    let now := m.clk.wall
    let lately := m.aborts.filter (fun y => decide (now < y.2.2.2 + 10000000))
    if (l.drop 8).take 16 ≠ digest16 m p ∨ memberOf m p a.coll = false then m
    else if lately.any (fun y => y.1 == a.coll && y.2.1 == a.mod && y.2.2.1 == a.die) then
      bump .rteAbortDup (iDie d) m
    else
      let m := { m with aborts := lately ++ [(a.coll, a.mod, a.die, now)] }
      abortMember fz p a m

/-- COLL_ABORT_PACKET. -/
def execCollAbortPacket (die : Fin 4) (s : State) : Host.Outcome State Fault Refusal := run s (recvAbort die.val)

/-- The partition has begun a step. -/
def begun (q : Part) (e : Nat) : Bool := decide (e < q.step) || (e == q.step && q.inStep)

/-- VARIANT received (19 R830, R831). -/
def recvVariant (d : Nat) (fz : Fuses) (m : Mach) : Mach :=
  match front m d (isCtl 4) with
  | .none => m
  | some i =>
    let l := i.pkt.payload
    let p := partOf m d
    let v := leAt l 1 1
    let e := leAt l 6 6
    let m := executed d i m
    if (planOf m p).isNone = true ∨ (l.drop 16).take 16 ≠ digest16 m p then m
    else if begun (part m p) e then forceHalt fz p 5 (v % 16 * 2 ^ 44 + e % 2 ^ 44) (cycleNow m p) m
    else arm p { variant := v, step := e, originMod := leAt l 2 2, originDie := leAt l 4 1
                 payload := leBytes 1 v ++ zeros 7 ++ leBytes 6 e } m

/-- VARIANT. -/
def execVariant (die : Fin 4) (s : State) : Host.Outcome State Fault Refusal := run s (recvVariant die.val)

/-- Every port copies what it can into its store. -/
def pumpAll (m : Mach) : Mach := (List.range 16).foldl (fun m k => pump k m) m

/-- DELIVERED received (R490, R491). -/
def recvDelivered (d : Nat) (m : Mach) : Mach :=
  match front m d (isCtl 5) with
  | .none => m
  | some i =>
    let h := i.pkt.hdr
    let l := i.pkt.payload
    let up (n : Nat) (y : PairCls) : PairCls := { y with deliv := if y.deliv ≤ n then n else y.deliv }
    let m := executed d i m
    if !(pairOf m d h.srcMod h.srcDie).live then m
    else
      pumpAll (onPair d h.srcMod h.srcDie (fun x => { x with
        c0 := up (leAt l 2 6) x.c0, c1 := up (leAt l 8 6) x.c1, c2 := up (leAt l 14 6) x.c2 }) m)

/-- DELIVERED. -/
def execDelivered (die : Fin 4) (s : State) : Host.Outcome State Fault Refusal :=
  run s (fun _ => recvDelivered die.val)

/-! ### Waiting packets and requests -/

/-- FORWARD_START (R481): the packet that may start now, else the next C0 packet 600 ns after its arrival. -/
def forwardStart (k : Nat) (m : Mach) : Mach :=
  let timed (i : InPkt) : Bool := i.pkt.hdr.cls == 0 && !i.pkt.hdr.escaped
  let q := port m k
  let now := m.clk.wall
  let go := (q.fwd.find? (fun i => !timed i || decide (i.at_ + 600 ≤ now))).or q.fwd.head?
  match go with
  | .none => m
  | some i =>
    let m := if timed i then reachWall (i.at_ + 600) m else m
    let now := m.clk.wall
    let blocked := decide (1000 * now < q.busy) || (q.head 0).isSome || decide (q.credit 0 < units i.pkt.size)
    let late := timed i && (decide (i.at_ + 600 < now) || blocked)
    let m := if late then bump .rteFwdLate (iDie (portDie k)) m else m
    let m := onPort k (fun q => { q with fwd := q.fwd.erase i }) m
    putPort k { i.through i.viaIn with since := now } m

/-- FORWARD_START. -/
def execForwardStart (port : Fin 16) (s : State) : Host.Outcome State Fault Refusal :=
  run s (fun _ => forwardStart port.val)

/-- ESCAPE (R482): a C0 or C1 packet that has waited 10 µs for credit goes out in C3 on the escape port. -/
def escape (k : Nat) (fz : Fuses) (m : Mach) : Mach :=
  let q := port m k
  let stuck (c : Nat) : Option OutPkt := if (q.next c).isSome then .none else q.head c
  match (stuck 0).or (stuck 1) with
  | .none => m
  | some o =>
    let m := reachWall (o.since + 10000) m
    let m := onPort k (fun q => { q with store := q.store.erase o }) m
    let o' : OutPkt := { o with pkt := { o.pkt with hdr := o.pkt.hdr.setFlag 4 }, cls := 3 }
    pump k (place fz (portDie k) (storeTable m k o.pkt.hdr) o' (bump .rteEscaped (iDie (portDie k)) m))

/-- ESCAPE. -/
def execEscape (port : Fin 16) (s : State) : Host.Outcome State Fault Refusal := run s (escape port.val)

/-- NO_ROUTE (R484): the oldest held packet without a route after 2 ms is discarded. -/
def noRouteDrop (d : Nat) (m : Mach) : Mach :=
  let m := rehold d m
  match (die m d).held with
  | [] => m
  | x :: r =>
    let m := reachWall (x.since + 2000000) m
    raiseEvt 0x0013 1 (iDie d) x.out.pkt.hdr.dstMod
      (bump .rteNoroute (iDie d) (refillHeld d (x.out.freePool (onDie d (fun y => { y with held := r }) m))))

/-- NO_ROUTE. -/
def execNoRoute (die : Fin 4) (s : State) : Host.Outcome State Fault Refusal := run s (fun _ => noRouteDrop die.val)

/-- The class of the pair of a packet. -/
def clsOf (m : Mach) (d : Nat) (h : Header) : PairCls := (pairOf m d h.srcMod h.srcDie).cls h.cls

/-- PSEQ_GAP (R489): the first packet that has waited 2 ms behind a gap that was not told. -/
def pseqGap (d : Nat) (m : Mach) : Mach :=
  match (die m d).reorder.find? (fun w => (clsOf m d w.inp.pkt.hdr).gap != some (clsOf m d w.inp.pkt.hdr).next) with
  | .none => m
  | some w =>
    let h := w.inp.pkt.hdr
    let m := reachWall (w.since + 2000000) m
    let m := onPair d h.srcMod h.srcDie (fun x => x.onCls h.cls (fun y => { y with gap := some y.next })) m
    raiseEvt 0x0014 1 (iDie d) (h.srcMod * 65536 + h.srcDie * 16384 + h.cls) (bump .rteGap (iDie d) m)

/-- PSEQ_GAP. -/
def execPseqGap (die : Fin 4) (s : State) : Host.Outcome State Fault Refusal := run s (fun _ => pseqGap die.val)

/-- Payload of a DELIVERED (Table 11-3). -/
def deliveredBytes (x : Pair) : List Byte :=
  leBytes 1 5 ++ zeros 1 ++ leBytes 6 x.c0.next ++ leBytes 6 x.c1.next ++ leBytes 6 x.c2.next ++ zeros 12

/-- DELIVERED_SEND (R491, R708): after 4,096 packets of a class, or 100 µs after the last one with a change. -/
def deliveredSend (d mod peer : Nat) (fz : Fuses) (m : Mach) : Mach :=
  let x := pairOf m d mod peer
  let full (y : PairCls) : Bool := decide (y.told + 4096 ≤ y.next)
  let moved (y : PairCls) : Bool := y.told != y.next
  if !x.live || !(moved x.c0 || moved x.c1 || moved x.c2) then m
  else
    let m := if full x.c0 || full x.c1 || full x.c2 then m else reachWall (x.toldAt + 100000) m
    match sealSlot m d mod peer with
    | .none => m
    | some (s, e) =>
      let n := ((fslot m d s).ep e).unord
      if 2 ^ 48 - 1 ≤ n then m
      else
        let h : Header := { newHdr m d 0xF0 with
          dstMod := mod, dstDie := peer, dstUnit := 0xF0, flags := 64, keyslot := s, keyEpoch := e
          tag := n % 65536, pseq := n / 65536 % 65536, xfer := n / 2 ^ 32 % 65536 }
        let m := onSlot d s (fun f => f.onEp e (fun y => { y with unord := n + 1 })) m
        let told (y : PairCls) : PairCls := { y with told := y.next }
        let m := onPair d mod peer (fun x => { x with
          c0 := told x.c0, c1 := told x.c1, c2 := told x.c2, toldAt := m.clk.wall }) m
        place fz d (some (partOf m d)) { pkt := mkPacket h (deliveredBytes x), cls := 2 } m

/-- DELIVERED_SEND. -/
def execDeliveredSend (die : Fin 4) (peerMod : Nat) (peerDie : Fin 4) (s : State) : Host.Outcome State Fault Refusal :=
  run s (deliveredSend die.val peerMod peerDie.val)

/-- The work of a command has lost a request: it ends with IO_ERROR once the rest of it has ended (R503). -/
def workFails (d : Nat) (v : Via) (m : Mach) : Mach :=
  onPart (partOf m d) (fun q => { q with srv := { q.srv with sess := q.srv.sess.map (fun y =>
    if y.2.via = some v then (y.1, { y.2 with noResp := true }) else y) } }) m

/-- REQUEST_REPLAY (R500, R503): a request without a response for 200 µs is replayed, or fails after its third
replay. -/
def requestReplay (d tag : Nat) (fz : Fuses) (m : Mach) : Mach :=
  match (die m d).reqs.find? (fun r => r.pkt.hdr.tag == tag) with
  | .none => m
  | some r =>
    let m := reachWall (r.sentAt + 200000) m
    if r.replays < 3 then resend fz d r m
    else
      let m := bump .rteNoresp (iDie d) (onDie d (fun x => { x with reqs := x.reqs.erase r }) m)
      issueAsks fz d (match r.via with
        | some v => workFails d v m
        | .none => m)

/-- REQUEST_REPLAY. -/
def execRequestReplay (die : Fin 4) (tag : Nat) (s : State) : Host.Outcome State Fault Refusal :=
  run s (requestReplay die.val tag)

/-- RESPONSE_CACHE_EXPIRE (R501): the oldest entry after 1 ms. -/
def cacheExpire (d : Nat) (m : Mach) : Mach :=
  match (die m d).cache with
  | [] => m
  | c :: r => onDie d (fun x => { x with cache := r }) (reachWall (c.at_ + 1000000) m)

/-- RESPONSE_CACHE_EXPIRE. -/
def execResponseCacheExpire (die : Fin 4) (s : State) : Host.Outcome State Fault Refusal :=
  run s (fun _ => cacheExpire die.val)

end Sys2Proof.Machine
end

