-- ==== Sys2Proof/Machine/Clocks.lean ====
section
/-! DEFINITION. Clocks and module time (12): the reference, frequency steps, stretches, monitors, time markers, PTP and
the servo. -/

namespace Sys2Proof.Machine

/-! ### Reference and frequency steps (R520 to R526) -/

/-- REF_LOSS: the time clock changes to the always-on oscillator. -/
def refLoss (m : Mach) : Mach :=
  if m.clk.refLost then m
  else raiseEvt 0x0020 1 iModule 0 (bump .clkRefloss iModule { m with clk := { m.clk with refLost := true } })

/-- REF_LOSS. -/
def execRefLoss (s : State) : Host.Outcome State Fault Refusal := run s (fun _ => refLoss)

/-- REF_VALID: the time clock is the reference again. -/
def execRefValid (s : State) : Host.Outcome State Fault Refusal :=
  run s (fun _ m => { m with clk := { m.clk with refLost := false } })

/-- The frequency step to lock to, and which limit sets it: the slowest of CLK_CTL.TARGET, the power step and the
thermal step (18, Limits and throttling); the first of equals sets it. -/
def wanted (m : Mach) (q : Part) : Nat × Nat :=
  let a : Nat × Nat := if m.pwr.step ≤ q.target then (q.target, 0) else (m.pwr.step, 1)
  if q.thermal ≤ a.1 then a else (q.thermal, 2)

/-- One of the three limits of a partition may have changed (R523, R526): a new step to lock to replaces a pending change, and a
step that is not CURRENT is locked to where no change to it is pending. -/
def retarget (p was : Nat) (m : Mach) : Mach :=
  let q := part m p
  let w := (wanted m q).1
  if w = was ∧ (w = q.cur ∨ q.clkPend = true) then m
  else onPart p (fun q => { q with clkPend := decide (w ≠ q.cur), stbyLock := false }) m

/-- TARGET written (R523, R526): it replaces a pending change. -/
def setTarget (p t : Nat) (m : Mach) : Mach :=
  let was := (wanted m (part m p)).1
  retarget p was (onPart p (fun q => { q with target := t }) m)

/-- CLK_TARGET_WRITE. -/
def execClkTargetWrite (p target : Fin 4) (s : State) : Host.Outcome State Fault Refusal :=
  run s (fun _ => setTarget p.val target.val)

/-- The partition changes to the step wanted if its standby PLLs are locked to it (R524, R525); SET_BY follows. -/
def changeClock (p : Nat) (m : Mach) : Mach :=
  let (w, by_) := wanted m (part m p)
  onPart p (fun q =>
    let q : Part := if q.clkPend ∧ q.stbyLock then { q with cur := w, clkPend := false, stbyLock := false } else q
    if q.cur = w then { q with setBy := by_ } else q) m

/-- PLL_LOCK: the standby PLLs of every die of the partition are locked to the step wanted. -/
def pllLock (p : Nat) (m : Mach) : Mach :=
  let w := (wanted m (part m p)).1
  let m := onPart p (fun q => { q with stbyLock := decide (w ≠ q.cur) }) m
  if runs m p then m else changeClock p m

/-- PLL_LOCK. -/
def execPllLock (p : Fin 4) (s : State) : Host.Outcome State Fault Refusal := run s (fun _ => pllLock p.val)

/-! ### Stretches (R534 to R537) -/

/-- Half a nominal period, in ps, at a frequency step (R534). -/
def halfPeriod (f : Nat) : Nat := 2000 / quarters f

/-- A die's cumulative stretch grows, and the other dies of its partition hear of it (R535). -/
def addStretch (d n : Nat) (m : Mach) : Mach :=
  let m := onDie d (fun x => { x with stretch := x.stretch + n }) m
  let total := (die m d).stretch
  ((part m (partOf m d)).dies.filter (fun e => e != d)).foldl (fun m e =>
    onDie e (fun x => { x with told := if x.told ≤ total then total else x.told }) m) m

/-- DROOP: each period of the droop is stretched, by at most half a nominal period. -/
def droop (d : Nat) (l : List Nat) (m : Mach) : Mach :=
  let half := halfPeriod (part m (partOf m d)).cur
  let n := (l.map (fun x => if x ≤ half then x else half)).foldl (fun a x => a + x) 0
  bumpBy .clkStretch (iDie d) 0 l.length (addStretch d n m)

/-- DROOP. -/
def execDroop (die : Fin 4) (stretches : List Nat) (s : State) : Host.Outcome State Fault Refusal :=
  run s (fun _ => droop die.val stretches)

/-- SYMPATHETIC_STRETCH: periods stretched until the die has caught up with the largest stretch reported. -/
def sympathetic (d periods : Nat) (m : Mach) : Mach :=
  let half := halfPeriod (part m (partOf m d)).cur
  let gap := (die m d).told - (die m d).stretch
  let need := (gap + half - 1) / half
  let n := if periods ≤ need then periods else need
  bumpBy .clkSymp (iDie d) 0 n (addStretch d (if gap ≤ n * half then gap else n * half) m)

/-- SYMPATHETIC_STRETCH. -/
def execSympatheticStretch (die : Fin 4) (periods : Nat) (s : State) : Host.Outcome State Fault Refusal :=
  run s (fun _ => sympathetic die.val periods)

/-! ### Monitors (R531 to R533) -/

/-- A region is monitored: that of a disabled row is not (R530). -/
def monitored (m : Mach) (d r : Nat) : Bool :=
  decide (9 ≤ r) || decide ((die m d).fit ≠ 1) || bitAt (die m d).enabled r

/-- CLK_MONITOR_WINDOW: what a region counted in a 1 ms window. -/
def monitorWindow (d r : Nat) (hist : List Nat) (duty : Nat) (m : Mach) : Mach :=
  if !monitored m d r then m
  else
    let i := iRegion d r
    let m := (List.range 16).foldl (fun m b => bumpBy .clkJhist i b (hist.getD b 0) m) m
    let m := bumpBy .clkDutyErr i 0 duty m
    let ends := hist.getD 0 0 + hist.getD 15 0
    let m := if m.clk.dutyThr < duty then raiseEvt 0x0022 1 i duty m else m
    if m.clk.jitThr < ends then raiseEvt 0x0023 1 i ends m else m

/-- CLK_MONITOR_WINDOW. -/
def execClkMonitorWindow (die : Fin 4) (region : Fin 13) (hist : List Nat) (duty : Nat) (s : State) :
    Host.Outcome State Fault Refusal :=
  run s (fun _ => monitorWindow die.val region.val hist duty)

/-! ### Time markers (R545 to R549) -/

/-- TIME_MARKER_SEND: a marker on an ACTIVE port; its times are written as it leaves (R546). -/
def markerSend (k : Nat) (m : Mach) : Mach :=
  if !(port m k).active then m
  else
    let n := (mport m k).seq
    sendLocal k none ([1, 0] ++ leBytes 2 n ++ zeros 28) (onMport k (fun x => { x with seq := (n + 1) % 65536 }) m)

/-- TIME_MARKER_SEND. -/
def execTimeMarkerSend (port : Fin 16) (s : State) : Host.Outcome State Fault Refusal :=
  run s (fun _ => markerSend port.val)

/-- A measurement of R548, in 2^-16 ns: rtt and offset, from t1, t3, t4, TURN and ASYM. -/
def measure (t1 t3 t4 u asym : Int) : Int × Int :=
  ((t4 - t1) - u, ((t3 - u - t1) - (t4 - t3)) / 2 - asym / 2)

/-- TIME_MARKER received (R548, R549). -/
def recvMarker (d : Nat) (m : Mach) : Mach :=
  match front m d (isCtl 1) with
  | none => m
  | some i =>
    let k := i.port
    let l := i.pkt.payload
    let m := executed d i m
    let x := mport m k
    let t4 := mtimeAt m i.at_
    let flags := leAt l 1 1
    let t3 := leAt l 8 8 * 65536 + leAt l 6 2
    let m := onMport k (fun y => { y with flags := flags % 32, got := some (leAt l 2 2, t4) }) m
    let drop (m : Mach) : Mach := bump .mtmMarkDrop (iPort k) m
    match (if bitAt flags 0 then x.sent.find? (fun y => y.1 == leAt l 4 2) else none) with
    | none => drop m
    | some (_, t1) =>
      let (rtt, ofs) := measure t1 t3 t4 (leAt l 16 4 * 256 : Nat) (x.asym * 65536 / 1000)
      if ((port m k).rtt + 20 : Nat) * 65536 < rtt then drop m
      else
        onMport k (fun y => { y with
          valid := true, rtt := (rtt / 4096).toNat % 2 ^ 24, offset := ofs / 256, fresh := y.fresh ++ [ofs / 256] }) m

/-- TIME_MARKER. -/
def execTimeMarker (die : Fin 4) (s : State) : Host.Outcome State Fault Refusal :=
  run s (fun _ => recvMarker die.val)

/-! ### PTP and the servo (R541 to R543, R551, Table 12-4) -/

/-- Entries of the last second. -/
def lastSecond (now : Nat) (l : List (Nat × Int)) : List (Nat × Int) :=
  l.filter (fun y => decide (now ≤ y.1 + 1000000000))

/-- The mean of numbers; 0 of none. -/
def mean (l : List Int) : Int := if l = [] then 0 else (l.foldl (fun a x => a + x) 0) / (l.length : Int)

/-- PTP_SYNC: an offset to the chosen master, hall minus self, in 2^-8 ns. -/
def ptpSync (offset : Int) (m : Mach) : Mach :=
  if !m.clk.cfg.ptpEn then m
  else
    let l := lastSecond m.clk.wall m.clk.ptp ++ [(m.clk.wall, offset)]
    { m with clk := { m.clk with ptp := l, lastSync := some m.clk.wall, ptpOfs := mean (l.map (fun y => y.2)) } }

/-- PTP_SYNC. -/
def execPtpSync (offset : Int) (s : State) : Host.Outcome State Fault Refusal := run s (fun _ => ptpSync offset)

/-- A number put in ascending order. -/
def insertInt (x : Int) : List Int → List Int
  | [] => [x]
  | y :: r => if x ≤ y then x :: y :: r else y :: insertInt x r

/-- The median; of an even number the mean of the two in the middle (DESIGN CHOICE, log 26). -/
def median (l : List Int) : Option Int :=
  let l := l.foldr insertInt []
  let n := l.length
  if n = 0 then none
  else if n % 2 = 1 then l[n / 2]?
  else some ((l.getD (n / 2 - 1) 0 + l.getD (n / 2) 0) / 2)

/-- Ports whose offsets the servo uses: ACTIVE, and the peer's TIME_SET was 1. -/
def usedPorts (m : Mach) : List Nat :=
  (List.range 16).filter (fun k => (port m k).active && bitAt (mport m k).flags 1 && !(mport m k).fresh.isEmpty)

/-- Offsets measured since the last update. -/
def usedOffsets (m : Mach) : List Int := (usedPorts m).flatMap (fun k => (mport m k).fresh)

/-- A number held within ± a limit. -/
def clampInt (lim x : Int) : Int := if x < -lim then -lim else if lim < x then lim else x

/-- The lock condition of Table 12-4. -/
def lockOk (m : Mach) : Bool :=
  (usedOffsets m).all (fun x => decide (-5120 ≤ x) && decide (x ≤ 5120))
  && (if ptpValid m then decide (-102400 ≤ m.clk.ptpOfs) && decide (m.clk.ptpOfs ≤ 102400)
      else (usedPorts m).any (fun k => bitAt (mport m k).flags 2))

/-- The offset to the time source (Table 12-4), and whether it is a peer's. -/
def sourceOfs (m : Mach) : Option (Int × Nat) :=
  if ptpValid m then some (m.clk.ptpOfs, 0) else (median (usedOffsets m)).map (fun x => (x, 1))

/-- Some plan of the module runs. -/
def anyRuns (m : Mach) : Bool := m.parts.any (fun y => decide (y.2.st = .running) || decide (y.2.st = .stopping))

/-- A step of MTIME (R541, R542): 2^-8 ns are 2^32 units of the accumulator. -/
def stepTime (ofs : Int) (src : Nat) (m : Mach) : Mach :=
  { m with clk := { m.clk with
    acc := ((m.clk.acc : Int) + ofs * 2 ^ 32).toNat % 2 ^ 104, adj := 0, source := src, farTold := false } }

/-- The rates of servo_update(), in 2^-8 ppb (R551); the fraction that ADJ drops is the model's (log 27). -/
def servoRate (m : Mach) : Mach :=
  let lim : Int := (m.clk.cfg.slew * 256000 : Nat)
  let fine := (median (usedOffsets m)).getD 0
  let coarse := if ptpValid m then m.clk.ptpOfs else 0
  let integ := clampInt lim (m.clk.integ + fine)
  let rate := clampInt lim (fine * 500 + coarse / 8 + integ)
  { m with clk := { m.clk with integ := integ, adj := rate * 2 ^ 32 / 100000000 } }

/-- The moves between MTIME states at an update (Table 12-4). -/
def moveState (src : Bool) (ok : Bool) (m : Mach) : Mach :=
  let now := m.clk.wall
  let c := m.clk
  let good := if ok then some (c.goodSince.getD now) else none
  let bad := if ok then none else some (c.badSince.getD now)
  let none_ := if src then none else some (c.noneSince.getD now)
  let held (t : Option Nat) (n : Nat) : Bool :=
    match t with
    | some t => decide (t + n ≤ now)
    | none => false
  let st :=
    if c.st = 0 ∨ c.st = 3 then (if src then 1 else c.st)
    else if c.st = 1 then (if held none_ 10000000000 then 3 else if held good 1000000000 then 2 else 1)
    else if held bad 100000000 then 1 else 2
  { m with clk := { c with st := st, goodSince := good, badSince := bad, noneSince := none_ } }

/-- SERVO_UPDATE. -/
def servoUpdate (m : Mach) : Mach :=
  let m := { m with clk := { m.clk with
    ptpOfs := if ptpValid m then
        (match lastSecond m.clk.wall m.clk.ptp with
         | [] => m.clk.ptpOfs
         | l => mean (l.map (fun y => y.2)))
      else m.clk.ptpOfs
    peers := (usedPorts m).foldl (fun a k => a + 2 ^ k) 0 } }
  let src := sourceOfs m
  let was := m.clk.st
  let thr : Int := (m.clk.cfg.stepThr * 256000 : Nat)
  let m := moveState src.isSome (lockOk m) m
  let m :=
    match src with
    | none => if m.clk.st = 3 then m else servoRate m
    | some (ofs, from_) =>
      let far := decide (ofs < -thr) || decide (thr < ofs)
      if !anyRuns m && (was == 0 || far) then stepTime ofs from_ m
      else
        let m := servoRate m
        if far && !m.clk.farTold then
          raiseEvt 0x0024 0 iModule (twos 64 (ofs / 256)) { m with clk := { m.clk with farTold := true } }
        else { m with clk := { m.clk with farTold := far } }
  (List.range 16).foldl (fun m k =>
    onMport k (fun x => { x with valid := !x.fresh.isEmpty, fresh := [] }) m) m

/-- SERVO_UPDATE. -/
def execServoUpdate (s : State) : Host.Outcome State Fault Refusal := run s (fun _ => servoUpdate)

end Sys2Proof.Machine
end

