-- ==== Sys2Proof/Machine/Security.lean ====
section
/-! DEFINITION. Partitions and security (16): statements, assignment, sessions, keys, rotation, teardown. What only the
security processor knows (moduli of its key pairs, certificates, signatures) is free bytes (log 20). -/

namespace Sys2Proof.Machine

/-! ### Change statements (R684 to R687) -/

/-- The signatures of a statement verify (R685 to R687): its keys are enrolled or bound; a first enrolment takes the new
custodian key, and one of the two signers suffices for OP 4. -/
def sigsOk (m : Mach) (st : Statement) : Bool :=
  let op := m.operatorKey.isSome
  let tenant := (part m st.partition).sec.st != 0
  match st.op with
  | 3 => st.sig1 && st.sig2
  | 4 => (op && st.sig1) || (tenant && st.sig2)
  | _ => op && st.sig1 && st.sig2

/-- A statement for an operation of a partition is accepted, or completes with a status (R686). -/
def withStatement (v : Via) (st : Statement) (op p : Nat) (body : Mach → Mach) (m : Mach) : Mach :=
  if st.changeCtr ≠ m.change then answer v .stale m
  else if st.op ≠ op ∨ st.mod ≠ m.moduleId ∨ st.partition ≠ p ∨ st.bodyOk = false ∨ sigsOk m st = false then
    answer v .denied (bump .secSigfail iModule m)
  else body { m with change := (m.change + 1) % 2 ^ 64 }

/-! ### Assignment (R678 to R683) -/

/-- The compositions of R24. -/
def compositions : List (List Nat) := [[0], [1], [2], [3], [0, 1], [2, 3], [0, 1, 2, 3]]

/-- Blocks of the cistern: 8 TB, or 4 TB on the HX-930. -/
def cisternBlocks (fz : Fuses) : Nat := if fz.full then 1953125000 else 976562500

/-- First address that firmware reserves in LPDDR5X (R728). -/
def hostTop : Nat := 0x3F80000000

/-- Two ranges have an address in common. -/
def overlaps (a n b k : Nat) : Bool := decide (0 < n) && decide (0 < k) && decide (a < b + k) && decide (b < a + n)

/-- The partitions that hold dies of a list. -/
def holders (m : Mach) (dies : List Nat) : List Nat := (dies.map (partOf m)).eraseDups

/-- The body of an ASSIGN is within Table 16-3, R683 and R728. -/
def assignOk (fz : Fuses) (m : Mach) (b : PartBody) : Bool :=
  let others := m.parts.filter (fun y => !(holders m b.dies).contains y.1)
  b.restZero && b.hwinBase % 2097152 == 0 && b.hwinLen % 2097152 == 0 && b.sealedLen % 2097152 == 0
  && decide (b.sealedLen ≤ b.hwinLen) && decide (b.hwinBase + b.hwinLen ≤ hostTop)
  && others.all (fun y => !overlaps b.hwinBase b.hwinLen y.2.hwBase y.2.hwLen)
  && decide ((others.map (fun y => y.2.nsBlocks)).sum + b.nsBlocks ≤ cisternBlocks fz)

/-- The dies joined into one partition, which is ASSIGNED; the assignment and the wrapped namespace key are written to the
configuration flash (R680). -/
def assign (b : PartBody) (m : Mach) : Mach :=
  let p := b.dies.headD 0
  let m := b.dies.foldl (fun m d => { m with parts := tdel m.parts d }) (flashed m)
  onPart p (fun _ => { dies := b.dies, hwBase := b.hwinBase, hwLen := b.hwinLen, sealedLen := b.sealedLen
                       nsBlocks := b.nsBlocks, nsValid := b.nsBlocks != 0
                       sec := { st := 1, tenant := b.tenantKey } }) m

/-- PARTITION_SET with ACTION ASSIGN (R682, R683, R720). -/
def partitionAssign (v : Via) (st : Statement) (b : PartBody) (fz : Fuses) (m : Mach) : Mach :=
  let p := b.dies.headD 0
  if !compositions.contains b.dies then answer v .range m
  else if (holders m b.dies).any (fun q => (part m q).sec.st != 0) then answer v .badState m
  else if !assignOk fz m b then answer v .range m
  else withStatement v st 1 p (fun m => answer v .ok (assign b m)) m

/-- PARTITION_SET ASSIGN. -/
def execPartitionSetAssign (v : Via) (st : Statement) (b : PartBody) (s : State) : Host.Outcome State Fault Refusal :=
  run s (fun fz => command v none 0x103 (partitionAssign v st b fz))

/-! ### Teardown (R717 to R720) -/

/-- A teardown is accepted: FENCE ends at once unless a plan runs. -/
def beginTeardown (p mode : Nat) (m : Mach) : Mach :=
  let phase := if runs m p then 1 else 2
  onPart p (fun q => { q with sec := { q.sec with st := 3, mode := mode, phase := phase, drainLeft := 0
                                                  fenceEnd := m.clk.wall } }) m

/-- PARTITION_SET with ACTION RELEASE (R682, R683). -/
def partitionRelease (v : Via) (st : Statement) (b : PartBody) (m : Mach) : Mach :=
  let p := b.dies.headD 0
  if !compositions.contains b.dies || !b.restZero then answer v .range m
  else if (part m p).dies ≠ b.dies ∨ (part m p).sec.st ≠ 1 then answer v .badState m
  else withStatement v st 1 p (fun m => answer v .ok (beginTeardown p 1 m)) m

/-- PARTITION_SET RELEASE. -/
def execPartitionSetRelease (v : Via) (st : Statement) (b : PartBody) (s : State) : Host.Outcome State Fault Refusal :=
  run s (fun _ => command v none 0x103 (partitionRelease v st b))

/-- SEC_TEARDOWN (R717). -/
def secTeardown (v : Via) (p : Nat) (st : Statement) (mode : Nat) (m : Mach) : Mach :=
  let s := (part m p).sec.st
  if s = 2 ∨ (s = 1 ∧ mode = 1) then
    withStatement v st 4 p (fun m => answer v .ok (beginTeardown p mode m)) m
  else answer v .badState m

/-- SEC_TEARDOWN. -/
def execSecTeardown (v : Via) (p : Fin 4) (st : Statement) (mode : Fin 2) (s : State) :
    Host.Outcome State Fault Refusal :=
  run s (fun _ => command v (some p.val) 0x10B (secTeardown v p.val st mode.val))

/-- A packet of the dies of a partition. -/
def ofDies (m : Mach) (dies : List Nat) (o : OutPkt) : Bool :=
  o.pkt.hdr.srcMod == m.moduleId && dies.contains o.pkt.hdr.srcDie

/-- Packets of a partition that are still in its stores. -/
def leftOver (m : Mach) (p : Nat) : Nat :=
  let dies := (part m p).dies
  ((partPorts m p).map (fun k => ((port m k).ahead ++ (port m k).store).countP (ofDies m dies))).sum
  + (dies.map (fun d => (die m d).held.length + (die m d).reorder.length + (die m d).deliver.length)).sum

/-- DRAIN is done (Table 16-10): nothing is in progress, outstanding or unsent. -/
def drained (m : Mach) (p : Nat) : Bool :=
  let dies := (part m p).dies
  let mine (t : Xfer) : Bool := t.started && !t.ready && dies.contains (t.key / 256)
  leftOver m p == 0 && dies.all (fun d => (die m d).reqs == [])
  && !(m.wells.any (fun y => y.2.queue.any mine) || m.hosts.any (fun y => y.2.any mine)
    || m.links.any (fun y => y.2.any mine))

/-- A key epoch destroyed. -/
def KeyEpoch.destroy (k : KeyEpoch) : KeyEpoch := if k.st = 0 then k else { st := 2 }

/-- A loaded key destroyed. -/
def LoadedKey.destroy (k : LoadedKey) : LoadedKey := if k.st = 0 then k else { st := 2 }

/-- A channel's key destroyed. -/
def Channel.destroy (c : Channel) : Channel := if c.st = 0 then c else { c with st := 2, key := 0 }

/-- A memory key destroyed. -/
def KeySlot.destroy (k : KeySlot) : KeySlot := if k = .empty then .empty else .destroyed

/-- The keys that the security processor holds for a session destroyed. -/
def Sec.destroy (x : Sec) : Sec :=
  { x with models := tmapIf {} (fun _ => true) LoadedKey.destroy x.models, park := x.park.destroy
           debugKey := x.debugKey.destroy, channels := tmapIf {} (fun _ => true) Channel.destroy x.channels }

/-- Packets of a die that wait for their execution or their order are discarded. -/
def dropWaiting (d : Nat) (m : Mach) : Mach :=
  let m := ((die m d).reorder.map (fun w => w.inp) ++ (die m d).deliver).foldl (fun m i => freePool i m) m
  onDie d (fun x => { x with held := [], reorder := [], deliver := [], reqs := [] }) m

/-- DESTROY: keys are zeroised, packets still in the stores discarded (Table 16-10). -/
def destroyKeys (fz : Fuses) (p : Nat) (m : Mach) : Mach :=
  let dies := (part m p).dies
  let left := leftOver m p
  let m := (partPorts m p).foldl (fun m k => onPort k (fun q => { q with
    ahead := q.ahead.filter (fun o => !ofDies m dies o), store := q.store.filter (fun o => !ofDies m dies o) }) m) m
  let m := dies.foldl (fun m d => dropWaiting d m) m
  let gone (f : FSlot) : FSlot := { f with ep0 := f.ep0.destroy, ep1 := f.ep1.destroy, pending := false }
  let m := dies.foldl (fun m d => onDie d (fun x => { x with slots := tmapIf {} (fun _ => true) gone x.slots }) m) m
  let m := (partWells fz m p).foldl (fun m w => onWell w (fun h => { h with
    slot0 := h.slot0.destroy, slot1 := h.slot1.destroy, key0 := 0, key1 := 0 }) m) m
  onPart p (fun q => { q with sec := { q.sec.destroy with phase := 3, drainLeft := left }, sealedKey := none
                              nsValid := q.nsValid && q.sec.mode == 0 }) m

/-- Words of a die that fail the read-back of a fill, of stations in rows without a defect: the device's own (log 194). -/
def fillFailures (fz : Fuses) (d draw : Nat) : List HistRec :=
  ((Config.fillFails draw).filter (fun y => decide (y.1 < 144 ∧ y.2 < 524416)
      && !(fz.defects.getD d []).contains (y.1 / 16))).map (fun y =>
    { kind := 0, place := stKey d y.1, unit := y.2, what := 2 })

/-- SP_FAIL of ECC_FILL counts words that fail the read-back (R397). -/
def spFails (n fill : Nat) : Nat := fill / 65536 * 65536 + satN 255 (fill / 256 % 256 + n) * 256 + fill % 256

/-- The words of a die read back after a fill (R391, R394, R397). -/
def readBack (fz : Fuses) (d : Nat) (m : Mach) : Mach :=
  let l := fillFailures fz d m.freeCtr
  flashed { m with freeCtr := m.freeCtr + 1, history := m.history ++ l, eccFill := spFails l.length m.eccFill }

/-- The stations of a die filled with zero, slices with their spare beats and operand caches, and read back (R394). -/
def fillDie (fz : Fuses) (d : Nat) (m : Mach) : Mach :=
  let clean (s : Station) : Station := { s with spErr := [], ocErr := [] }
  readBack fz d { m with
    mem := { m.mem with scratch := wipe m.mem.scratch (scratchBase (stKey d 0)) (scratchBase (stKey (d + 1) 0))
                        cache := wipe m.mem.cache (cacheBase (stKey d 0)) (cacheBase (stKey (d + 1) 0)) }
    stations := tmapIf {} (fun k => k / 256 == d) clean m.stations }

/-- A wellhead filled with zero sectors (R395). -/
def fillWell (w : Nat) (m : Mach) : Mach :=
  onWell w (fun h => { h with pages := [], pageKeys := [], secErr := [], soft := [] })
    { m with mem := { m.mem with hbm := wipe m.mem.hbm (hbmAddr w 0) (hbmAddr (w + 1) 0) } }

/-- A wellhead that sets every page to FILLED without writing the stack (R396). -/
def resetPages (w : Nat) (m : Mach) : Mach := onWell w (fun h => { h with pages := [] }) m

/-- SCRUB (Table 16-10); with MODE 1 the namespace and its directory are gone. -/
def scrub (fz : Fuses) (p : Nat) (m : Mach) : Mach :=
  let q := part m p
  let m := partitionReset p m
  let m := q.dies.foldl (fun m d => fillDie fz d m) m
  let m := (partWells fz m p).foldl (fun m w => fillWell w m) m
  let m := q.dies.foldl (fun m d => onDie d (fun x => { x with tmpls := [], pairs := [], cache := [] }) m) m
  let m := onPart p (fun q => { q with rte := {}, sec := { q.sec with phase := 4 } }) m
  if q.sec.mode = 0 then m
  else
    onPart p (fun q => { q with srv := {}, nsValid := false, dirty := [] })
      { m with
        mem := { m.mem with cist := wipe m.mem.cist (cistAddr p 0) (cistAddr (p + 1) 0) }
        cistErr := m.cistErr.filter (fun b => b / 2 ^ 31 != p)
        cistCrc := m.cistCrc.filter (fun y => y.1 / 2 ^ 31 != p) }

/-- TEARDOWN_DRAIN_END: all is done, or 2 ms have passed since FENCE ended; terminal records are written, then DESTROY
and SCRUB follow. -/
def drainEnd (p : Nat) (fz : Fuses) (m : Mach) : Mach :=
  let x := (part m p).sec
  if x.st ≠ 3 ∨ ¬ (x.phase = 2 ∨ (x.phase = 1 ∧ runs m p = false)) then m
  else
    let m := if drained m p then m else reachWall (x.fenceEnd + 2000000) m
    let m := if (serveOf m p).isSome then failAll fz p m else m
    scrub fz p (destroyKeys fz p m)

/-- TEARDOWN_DRAIN_END. -/
def execTeardownDrainEnd (p : Fin 4) (s : State) : Host.Outcome State Fault Refusal := run s (drainEnd p.val)

/-- A mask with a bit for each number of a list. -/
def maskOfNats (l : List Nat) : Nat := l.foldl (fun a i => putBit a i) 0

/-- The scrub-complete attestation (Table 16-11). -/
def scrubAttest (m : Mach) (p : Nat) : List Byte :=
  let q := part m p
  leBytes 4 1 ++ leBytes 2 m.moduleId ++ leBytes 1 p ++ leBytes 1 (maskOfNats q.dies)
    ++ leBytes 2 (maskOfNats (partPorts m p)) ++ leBytes 1 q.sec.mode ++ zeros 5 ++ leBytes 8 q.sec.session
    ++ leBytes 8 m.change ++ leBytes 8 (nowNs m) ++ leBytes 8 q.sec.drainLeft ++ zeros 80

/-- What a teardown leaves (R720, R724): an ASSIGNED partition, or FREE partitions of one die. -/
def leaveTeardown (p : Nat) (l : List Byte) (m : Mach) : Mach :=
  let q := part m p
  let m := q.dies.foldl (fun m d => onDie d (fun x => { x with slots := [] }) m) m
  if q.sec.mode = 0 then
    onPart p (fun q => { q with rot := {}, sec := { st := 1, tenant := q.sec.tenant, lastAttest := l } }) m
  else
    q.dies.foldl (fun m d => { m with parts := tset m.parts d { dies := [d] } }) (flashed m)
      |> onPart p (fun q => { q with sec := { lastAttest := l } })

/-- TEARDOWN_SCRUB_DONE: ATTEST; the attestation is signed, kept for SEC_STATUS and sent to the fault manager,
in a report whose code is not stated (log 18). -/
def scrubDone (p : Nat) (m : Mach) : Mach :=
  let q := part m p
  if q.sec.st ≠ 3 ∨ q.sec.phase ≠ 4 then m
  else
    let (sig, m) := signature m
    let (code, m) := draw m
    let l := scrubAttest m p ++ sig
    leaveTeardown p l (bump .secTeardowns (iPart p) (pushReport (code % 65536) l m))

/-- TEARDOWN_SCRUB_DONE. -/
def execTeardownScrubDone (p : Fin 4) (s : State) : Host.Outcome State Fault Refusal :=
  run s (fun _ => scrubDone p.val)

/-! ### Enrolment, sessions, policies (R687 to R690) -/

/-- SEC_ENROLL (R687). -/
def execSecEnroll (v : Via) (st : Statement) (operatorKey custodianKey : Nat) (s : State) :
    Host.Outcome State Fault Refusal :=
  run s (fun _ => command v none 0x104 (withStatement v st 3 0xFF (fun m =>
    answer v .ok { m with operatorKey := some operatorKey, custodianKey := some custodianKey })))

/-- MAX_CHANNELS and CONSENT are within Table 16-5. -/
def policyOk (y : Policy) : Bool := y.wellFormed && decide (y.maxChannels ≤ 16384) && decide (y.consent < 8)

/-- A fresh key drawn into a slot of a wellhead (R349, R677). -/
def loadSlot (slot w : Nat) (m : Mach) : Mach :=
  onWell w (fun h => if slot = 1 then { h with slot1 := .loaded, key1 := m.freeCtr }
                     else { h with slot0 := .loaded, key0 := m.freeCtr }) { m with freeCtr := m.freeCtr + 1 }

/-- The memory keys of a session: slot 0 of every wellhead is LOADED, slot 1 EMPTY. -/
def sessionKeys (fz : Fuses) (p : Nat) (m : Mach) : Mach :=
  (partWells fz m p).foldl (fun m w =>
    loadSlot 0 w (onWell w (fun h => { h with slot1 := .empty, key1 := 0, wrEpoch := false }) m)) m

/-- SEC_SESSION_OPEN (R688): a random session ID, and the keys of a session. -/
def sessionOpen (v : Via) (p : Nat) (y : Policy) (sigOk : Bool) (fz : Fuses) (m : Mach) : Mach :=
  if (part m p).sec.st ≠ 1 then answer v .badState m
  else if !sigOk then answer v .denied m
  else if !policyOk y then answer v .range m
  else
    let id := Config.random m.freeCtr % 2 ^ 64
    let k := m.freeCtr + 1
    let m := { m with freeCtr := m.freeCtr + 2 }
    let m := onPart p (fun q => { q with sealedKey := some k, sealedCtr := 0
                                         sec := { q.sec with st := 2, policy := some y, session := id } }) m
    answer v .ok (sessionKeys fz p m)

/-- SEC_SESSION_OPEN. -/
def execSecSessionOpen (v : Via) (p : Fin 4) (policy : Policy) (sigOk : Bool) (s : State) :
    Host.Outcome State Fault Refusal :=
  run s (fun fz => command v (some p.val) 0x105 (sessionOpen v p.val policy sigOk fz))

/-- SEC_POLICY_SET (R690). -/
def policySet (v : Via) (p : Nat) (st : Statement) (y : Policy) (m : Mach) : Mach :=
  if (part m p).sec.st ≠ 2 then answer v .badState m
  else if !policyOk y then answer v .range m
  else withStatement v st 2 p (fun m =>
    answer v .ok (onPart p (fun q => { q with sec := { q.sec with policy := some y } }) m)) m

/-- SEC_POLICY_SET. -/
def execSecPolicySet (v : Via) (p : Fin 4) (st : Statement) (policy : Policy) (s : State) :
    Host.Outcome State Fault Refusal :=
  run s (fun _ => command v (some p.val) 0x106 (policySet v p.val st policy))

/-! ### Loaded keys (R693 to R695, R709 to R711) -/

/-- MAX_CHANNELS of the policy in force. -/
def maxChannels (m : Mach) (p : Nat) : Nat := (((part m p).sec.policy).map (fun y => y.maxChannels)).getD 0

/-- The plaintext of a blob is within Table 16-7 and R695. -/
def blobOk (m : Mach) (p : Nat) (k : KeyBlob) : Bool :=
  k.resv == 0 &&
  (if k.kind = 2 then
     decide (k.epoch ≤ 1) && decide (1 ≤ k.slot) && decide (k.slot ≤ 255) && decide (k.peers.length ≤ 768)
     && k.peers.all (fun y => decide (y.1 < 16384) && decide (y.2 < 4))
   else k.epoch == 0 && k.peers == []) &&
  (match k.kind with
   | 1 => decide (k.slot ≤ 3)
   | 2 => true
   | 3 => k.slot == 0
   | 4 => k.slot == 0
   | 5 => decide (k.slot < maxChannels m p)
   | _ => false) &&
  (k.kind == 1 || (k.wset == 0 && k.modelId == 0))

/-- C1 and C2 of a pair entry created or reset (R487). -/
def resetPairs (d : Nat) (l : List (Nat × Nat)) (m : Mach) : Mach :=
  l.foldl (fun m y => enterPair d y.1 y.2 (fun x => { x with live := true, c1 := {}, c2 := {} }) m) m

/-- A fabric key on one die: the same blob again adds its peers (R695). -/
def loadFabric (k : KeyBlob) (m : Mach) (d : Nat) : Mach :=
  let e := (fslot m d k.slot).ep k.epoch
  if (e.st = 1 ∨ e.st = 3) ∧ e.blob = k.blob then
    let new := k.peers.filter (fun y => !e.peers.contains y)
    resetPairs d new (onSlot d k.slot (fun f => f.onEp k.epoch (fun e => { e with peers := e.peers ++ new })) m)
  else
    resetPairs d k.peers (onSlot d k.slot (fun f => f.onEp k.epoch (fun _ =>
      { st := 1, blob := k.blob, key := k.key, peers := k.peers })) m)

/-- The key put into its slot (R694). -/
def loadKey (p : Nat) (k : KeyBlob) (m : Mach) : Mach :=
  let key : LoadedKey := { st := 1, blob := k.blob, key := k.key, wset := k.wset, modelId := k.modelId }
  let onSec (f : Sec → Sec) (m : Mach) : Mach := onPart p (fun q => { q with sec := f q.sec }) m
  match k.kind with
  | 1 => onSec (fun x => { x with models := tput {} x.models k.slot key }) m
  | 2 => (part m p).dies.foldl (loadFabric k) m
  | 3 => onSec (fun x => { x with park := key }) m
  | 4 => onSec (fun x => { x with debugKey := key }) m
  | _ => onSec (fun x => { x with channels := tmod {} x.channels k.slot (fun c => { c with st := 1, key := k.key }) }) m

/-- SEC_KEY_LOAD (R693 to R695). -/
def keyLoad (v : Via) (p : Nat) (k : KeyBlob) (m : Mach) : Mach :=
  let x := (part m p).sec
  if x.st ≠ 2 ∨ k.decrypts = false ∨ k.session.toNat ≠ x.session then answer v .denied m
  else if 2 ≤ k.kind ∧ k.kind ≤ 4 ∧ k.sigOk = false then answer v .denied (bump .secSigfail iModule m)
  else if !blobOk m p k then answer v .range m
  else answer v .ok (bump .secKeyloads (iPart p) (loadKey p k m))

/-- SEC_KEY_LOAD. -/
def execSecKeyLoad (v : Via) (p : Fin 4) (k : KeyBlob) (s : State) : Host.Outcome State Fault Refusal :=
  run s (fun _ => command v (some p.val) 0x107 (keyLoad v p.val k))

/-- The lowest die of a partition holds every fabric slot as the others do. -/
def slotOfPart (m : Mach) (p slot : Nat) : FSlot := fslot m p slot

/-- SEC_KEY_DESTROY (R711). -/
def keyDestroy (v : Via) (p : Nat) (k : KeyName) (m : Mach) : Mach :=
  let onSec (f : Sec → Sec) (m : Mach) : Mach := onPart p (fun q => { q with sec := f q.sec }) m
  match k with
  | .model i => answer v .ok (onSec (fun x => { x with models := tmod {} x.models i.val LoadedKey.destroy }) m)
  | .park => answer v .ok (onSec (fun x => { x with park := x.park.destroy }) m)
  | .debug => answer v .ok (onSec (fun x => { x with debugKey := x.debugKey.destroy }) m)
  | .channel n =>
    if maxChannels m p ≤ n then answer v .range m
    else answer v .ok (onSec (fun x => { x with channels := tmod {} x.channels n Channel.destroy }) m)
  | .fabric i e =>
    if i.val = 0 then answer v .range m
    else if b2n (slotOfPart m p i.val).wr = e.val then answer v .badState m
    else answer v .ok ((part m p).dies.foldl (fun m d =>
      onSlot d i.val (fun f => f.onEp e.val KeyEpoch.destroy) m) m)

/-- SEC_KEY_DESTROY. -/
def execSecKeyDestroy (v : Via) (p : Fin 4) (k : KeyName) (s : State) : Host.Outcome State Fault Refusal :=
  run s (fun _ => command v (some p.val) 0x108 (keyDestroy v p.val k))

/-- SEC_KEY_SWITCH (R710): the toggle waits for its step. -/
def keySwitch (v : Via) (p slot step : Nat) (m : Mach) : Mach :=
  let f := slotOfPart m p slot
  if slot = 0 ∨ 2 ^ 48 ≤ step then answer v .range m
  else if f.ep0.st ≠ 1 ∨ f.ep1.st ≠ 1 then answer v .badState m
  else
    answer v .ok ((part m p).dies.foldl (fun m d =>
      onSlot d slot (fun f => { f with pending := true, switchStep := step }) m) m)

/-- SEC_KEY_SWITCH. -/
def execSecKeySwitch (v : Via) (p : Fin 4) (slot : Fin 256) (step : Nat) (s : State) :
    Host.Outcome State Fault Refusal :=
  run s (fun _ => command v (some p.val) 0x109 (keySwitch v p.val slot.val step))

/-- The switches that fall due at a step, on one die (R710). -/
def switchDue (n : Nat) (m : Mach) (d : Nat) : Mach :=
  let turn (f : FSlot) : FSlot :=
    if f.pending ∧ f.switchStep = n then { f with wr := !f.wr, pending := false } else f
  onDie d (fun x => { x with slots := tmapIf {} (fun _ => true) turn x.slots }) m

/-! ### Rotation of the memory keys (R713 to R716) -/

/-- SEC_MEMKEY_ROTATE (R713). -/
def memkeyRotate (v : Via) (p : Nat) (fz : Fuses) (m : Mach) : Mach :=
  let q := part m p
  let room (w : Nat) : Bool := (well m w).slot0 == .empty || (well m w).slot1 == .empty
  if q.sec.st ≠ 2 ∨ q.rot.state ≠ 0 ∨ (partWells fz m p).all room = false then answer v .badState m
  else answer v .ok (onPart p (fun q => { q with rot := { q.rot with state := 1, loaded := false } }) m)

/-- SEC_MEMKEY_ROTATE. -/
def execSecMemkeyRotate (v : Via) (p : Fin 4) (s : State) : Host.Outcome State Fault Refusal :=
  run s (fun fz => command v (some p.val) 0x10A (memkeyRotate v p.val fz))

/-- Every wellhead writes under its new slot from now on, and re-encryption begins (R714, R716). -/
def startReencrypt (fz : Fuses) (p : Nat) (m : Mach) : Mach :=
  let ws := partWells fz m p
  let m := ws.foldl (fun m w => onWell w (fun h => { h with wrEpoch := !h.wrEpoch }) m) m
  let m := onPart p (fun q => { q with rot := { q.rot with state := 2, loaded := false } }) m
  endRotation fz p (ws.foldl (fun m w => dropOld w m) m)

/-- MEMKEY_LOADED: a new key in the empty slot of every wellhead; without a plan running its use begins at once. -/
def memkeyLoaded (p : Nat) (fz : Fuses) (m : Mach) : Mach :=
  let q := part m p
  if q.rot.state ≠ 1 ∨ q.rot.loaded = true then m
  else
    let m := (partWells fz m p).foldl (fun m w => loadSlot (if (well m w).slot0 = .empty then 0 else 1) w m) m
    let m := onPart p (fun q => { q with rot := { q.rot with loaded := true } }) m
    if runs m p then m else startReencrypt fz p m

/-- MEMKEY_LOADED. -/
def execMemkeyLoaded (p : Fin 4) (s : State) : Host.Outcome State Fault Refusal := run s (memkeyLoaded p.val)

/-! ### Reports (R696, R722) -/

/-- SEC_PART (Table 16-14). -/
def secPartWord (q : Part) : Nat :=
  let y := q.sec.policy
  pack [(2, q.sec.st), (3, q.sec.phase), (1, q.sec.mode), (3, (y.map (fun y => y.consent)).getD 0)
  , (4, maskOfNats q.dies), (4, 0), (15, (y.map (fun y => y.maxChannels)).getD 0)] 0

/-- SEC_ROT (Table 16-17). -/
def Rot.word (r : Rot) : Nat := pack [(2, r.state), (14, 0), (16, r.rate)] 0

/-- SEC_FSLOT (Table 16-16). -/
def FSlot.word (f : FSlot) : Nat :=
  pack [(3, f.ep1.st), (3, f.ep0.st), (1, b2n f.wr), (1, b2n f.pending), (8, 0), (16, f.switchStep)] 0

/-- SEC_IDENTITY (R696): the certificate chain, which never changes. -/
def identity (v : Via) (m : Mach) : Mach :=
  let n := Config.choice (2 ^ 80) % 3073
  complete v .ok 0 (.bytes (leBytes n (Config.random (2 ^ 80)))) m

/-- SEC_IDENTITY. -/
def execSecIdentity (v : Via) (s : State) : Host.Outcome State Fault Refusal :=
  run s (fun _ => command v none 0x101 (identity v))

/-- The attestation report without its signature (Table 16-8); the moduli of the session's key pairs are free, one
value for each session. -/
def attestReport (fz : Fuses) (m : Mach) (p : Nat) (nonce : BitVec 256) : List Byte :=
  let q := part m p
  let y := q.sec.policy
  let key (o : Option Nat) : List Byte := leBytes 384 (o.getD 0)
  leBytes 4 1 ++ leBytes 2 m.moduleId ++ leBytes 1 p ++ leBytes 1 (maskOfNats q.dies)
    ++ leBytes 2 (maskOfNats (partPorts m p)) ++ leBytes 1 (b2n (!fz.full)) ++ leBytes 1 (b2n fz.b0)
    ++ leBytes 4 m.fw.runSvn ++ digestBytes m.fw.runDigest ++ digestBytes ((y.map (fun y => y.digest)).getD 0)
    ++ leBytes 1 ((y.map (fun y => y.consent)).getD 0) ++ zeros 7 ++ leBytes 8 q.sec.session ++ leBytes 8 m.change
    ++ digestBytes nonce
    ++ digestBytes (sha256 (key m.operatorKey ++ key m.custodianKey ++ leBytes 384 q.sec.tenant))
    ++ leBytes 8 (nowNs m) ++ zeros 80 ++ leBytes 384 (Config.random (2 ^ 81 + q.sec.session))
    ++ leBytes 384 (Config.random (2 ^ 82 + q.sec.session))

/-- SEC_ATTEST (R696). -/
def attest (v : Via) (p : Nat) (nonce : BitVec 256) (fz : Fuses) (m : Mach) : Mach :=
  if (part m p).sec.st ≠ 2 then answer v .badState m
  else
    let (sig, m) := signature m
    complete v .ok 0 (.bytes (attestReport fz m p nonce ++ sig)) m

/-- SEC_ATTEST. -/
def execSecAttest (v : Via) (p : Fin 4) (nonce : BitVec 256) (s : State) : Host.Outcome State Fault Refusal :=
  run s (fun fz => command v (some p.val) 0x102 (attest v p.val nonce fz))

/-- SEC_STATUS: SEC_PART, SEC_ROT, the slots and the last scrub-complete attestation. -/
def secStatus (v : Via) (p : Nat) (m : Mach) : Mach :=
  let q := part m p
  let x := q.sec
  complete v .ok 0 (.fields ([("SEC_PART", secPartWord q), ("SEC_ROT", q.rot.word), ("PARK", x.park.st)
    , ("DEBUG", x.debugKey.st), ("ATTEST", ofLe x.lastAttest)]
    ++ (die m p).slots.map (fun y => ("FSLOT", y.1 * 2 ^ 32 + y.2.word))
    ++ x.models.map (fun y => ("MODEL", y.1 * 2 ^ 32 + y.2.st))
    ++ x.channels.map (fun y => ("CHANNEL", y.1 * 2 ^ 32 + y.2.st)))) m

/-- SEC_STATUS. -/
def execSecStatus (v : Via) (p : Fin 4) (s : State) : Host.Outcome State Fault Refusal :=
  run s (fun _ => command v (some p.val) 0x10C (secStatus v p.val))

end Sys2Proof.Machine
end

