-- ==== Sys2Proof/Machine/Serving.lean ====
section
/-! DEFINITION. The serving commands and events (13): sessions, requests, commit points, park and unpark. -/

namespace Sys2Proof.Machine

/-! ### Acceptance -/

/-- A journalled command is noted before it takes effect (R657); one that the journal gives is there already. -/
def noteCommand (v : Via) (p code : Nat) (m : Mach) : Mach :=
  if v.caller = .journal then m else journalCommand p code (payloadOf m v) (stepNow m p) (posNow m p) m

/-- A serving command: accepted while the home's serving plan is RUNNING, or STOPPED where R606 says so; a
journalled one is refused under R659 and R662, and noted. -/
def servingCmd (v : Via) (p code : Nat) (journalled : Bool) (stopped : Mach → Bool) (body : Mach → Mach) (m : Mach) :
    Mach :=
  command v (some p) code (fun m =>
    let st := (part m p).st
    if !isHome m p || !(st == .running || (st == .stopped && stopped m)) then answer v .badState m
    else if !journalled then body m
    else if journalRefuses m p v then refuseJournalled p v m
    else body (noteCommand v p code m)) m

/-- No state but RUNNING. -/
def never (_ : Mach) : Bool := false

/-- RUNNING or STOPPED. -/
def stoppedToo (_ : Mach) : Bool := true

/-! ### Sessions -/

/-- SESS_OPEN (R561, R604, R605); a channel number is below MAX_CHANNELS of the policy. -/
def sessOpen (v : Via) (p : Nat) (chan : Option Nat) (m : Mach) : Mach :=
  let top := (((part m p).sec.policy).map (fun y => y.maxChannels)).getD 0
  let bad := match chan with
    | some c => decide (top ≤ c)
    | none => false
  if bad then answer v .range m
  else
    let i := lowestFree (fun s => s.st == .free) 0 (part m p).srv.sess
    if 65536 ≤ i then answer v .full m
    else
      let m := onSess p i (fun s => { gen := s.gen, st := .idle, channel := chan }) m
      complete v .ok 0 (.fields [("SESSION", sessId (sess m p i).gen i)]) m

/-- SESS_OPEN. -/
def execSessOpen (v : Via) (p : Fin 4) (channel : Option Nat) (s : State) : Host.Outcome State Fault Refusal :=
  run s (fun _ => servingCmd v p.val 0x301 true never (sessOpen v p.val channel))

/-- The session that an ID names is PARKED. -/
def isParked (p sid : Nat) (m : Mach) : Bool :=
  match findSess m p sid with
  | some i => (sess m p i).st == .parked
  | none => false

/-- SESS_CLOSE: an IDLE or PARKED session is freed (R604). -/
def sessClose (v : Via) (p sid : Nat) (m : Mach) : Mach :=
  match findSess m p sid with
  | none => answer v .stale m
  | some i =>
    if (sess m p i).st = .idle ∨ (sess m p i).st = .parked then answer v .ok (onSess p i Session.freed m)
    else answer v .badState m

/-- SESS_CLOSE. -/
def execSessClose (v : Via) (p : Fin 4) (sid : Nat) (s : State) : Host.Outcome State Fault Refusal :=
  run s (fun _ => servingCmd v p.val 0x302 true (isParked p.val sid) (sessClose v p.val sid))

/-- SESS_TRUNCATE: L of an IDLE session becomes smaller (R604, R633, R649). -/
def sessTruncate (v : Via) (p sid newL : Nat) (m : Mach) : Mach :=
  match findSess m p sid with
  | none => answer v .stale m
  | some i =>
    let x := sess m p i
    if x.st ≠ .idle ∨ swapping m p then answer v .badState m
    else if x.len ≤ newL then answer v .range m
    else
      let m := onSess p i (fun s => { s with
        len := newL, log := s.log.take newL, again := []
        chain := sha256 ([3] ++ digestBytes s.chain ++ leBytes 4 newL) }) m
      complete v .ok 0 (.fields [("L", newL)]) m

/-- SESS_TRUNCATE. -/
def execSessTruncate (v : Via) (p : Fin 4) (sid newL : Nat) (s : State) : Host.Outcome State Fault Refusal :=
  run s (fun _ => servingCmd v p.val 0x306 true never (sessTruncate v p.val sid newL))

/-- SESS_STATUS. -/
def sessStatus (v : Via) (p sid : Nat) (m : Mach) : Mach :=
  match findSess m p sid with
  | none => answer v .stale m
  | some i =>
    let x := sess m p i
    complete v .ok 0 (.fields [("STATE", x.st.ctorIdx), ("L", x.len), ("DIGEST", x.digest.toNat)]) m

/-- SESS_STATUS. -/
def execSessStatus (v : Via) (p : Fin 4) (sid : Nat) (s : State) : Host.Outcome State Fault Refusal :=
  run s (fun _ => servingCmd v p.val 0x309 false stoppedToo (sessStatus v p.val sid))

/-! ### REQ_SUBMIT (R563, R581, R608, R648, R649, R704) -/

/-- A power of two from 16 to 65,536. -/
def ringOk (n : Nat) : Bool := [16, 32, 64, 128, 256, 512, 1024, 2048, 4096, 8192, 16384, 32768, 65536].contains n

/-- Bytes of the prompt's range. -/
def promptBytes (r : ReqParams) (chan : Bool) : Nat := 4 * r.promptLen + (if chan then 680 else 0)

/-- A field outside Table 13-9 that the mailbox carries, or a range outside the host window (R608). -/
def submitBad (m : Mach) (p : Nat) (sv : Serve) (x : Session) (r : ReqParams) : Bool :=
  let q := part m p
  let chan := x.channel.isSome
  let have_ := x.len + x.again.length
  decide (1048576 < r.promptLen) || (r.promptLen == 0 && have_ == 0) || decide (sv.maxCtx < have_ + r.promptLen)
  || !inHostWindow q r.promptAddr (promptBytes r chan) || r.ringAddr % 64 != 0 || !ringOk r.ringEntries
  || !inHostWindow q r.ringAddr (64 + slotSize chan * r.ringEntries) || decide (2 ^ 32 ≤ r.maxNew)
  || decide (0x7C00 ≤ r.temp) || r.topK == 0 || decide (256 < r.topK) || decide (32 < r.nStopId)
  || decide (8 < r.nStopSeq) || decide (sv.preds < r.pred) || decide (8 ≤ r.rflags) || r.resv != 0
  || (bitAt r.rflags 0 && sv.draftK == 0)

/-- The plaintext that the envelope at PROMPT_ADDR holds of a request on a channel: the stop fields, then the token IDs. -/
def promptLen (r : ReqParams) : Nat := 648 + 4 * r.promptLen

/-- An envelope as it stands in host memory: header, ciphertext of n bytes, tag (R703). -/
def envelopeAt (m : Mach) (a n : Nat) : List Byte × List Byte × List Byte :=
  (peeks m.mem.host a 16, peeks m.mem.host (a + 16) n, peeks m.mem.host (a + 16 + n) 16)

/-- The envelope of a request's channel, if it is accepted (R704): its COUNTER and its plaintext. -/
def openEnvelope (m : Mach) (c : Channel) (r : ReqParams) : Option (Nat × List Byte) :=
  let (h, l, tag) := envelopeAt m r.promptAddr (promptLen r)
  let n := ofLe (h.drop 8)
  let new := match c.last with
    | some k => decide (k < n)
    | none => true
  if c.st = 1 ∧ h = envHeader 0 n ∧ new = true ∧ tag = gcmTag c.key.toNat (envNonce h) h l then
    some (n, gcmCrypt c.key.toNat (envNonce h) l)
  else none

/-- Bytes as words of 32 bits. -/
def wordsOf (n : Nat) (l : List Byte) : List Nat := (chunks 4 n l).map ofLe

/-- The stop fields of a request on a channel come out of the envelope (R704). -/
def withStops (r : ReqParams) (plain : List Byte) : ReqParams :=
  { r with stopIds := wordsOf 32 plain
           stopSeqs := (chunks 64 8 (plain.drop 128)).map (wordsOf 16)
           stopLens := ((plain.drop 640).take 8).map (fun b => b.toNat) }

/-- 32-bit words as bytes, filled with zeros to n words. -/
def wordsLe (n : Nat) (l : List Nat) : List Byte := fitTo (4 * n) (l.flatMap (leBytes 4))

/-- Payload bytes 64 to 711. -/
def stopBytes (r : ReqParams) : List Byte :=
  wordsLe 32 r.stopIds ++ fitTo 512 (r.stopSeqs.flatMap (wordsLe 16)) ++ fitTo 8 (r.stopLens.flatMap (leBytes 1))

/-- The REQ_SUBMIT fold of the session chain (R649). -/
def foldSubmit (c : Digest) (r : ReqParams) (prompt : List Nat) : Digest :=
  sha256 ([2] ++ digestBytes c ++ leBytes 4 r.promptLen ++ leBytes 4 r.maxNew ++ leBytes 8 r.seed ++ leBytes 2 r.temp
    ++ leBytes 2 r.topK ++ leBytes 1 r.nStopId ++ leBytes 1 r.nStopSeq ++ leBytes 1 r.pred ++ [0] ++ stopBytes r
    ++ prompt.flatMap (leBytes 4))

/-- A request opened on a session. -/
def openRequest (v : Via) (p i j : Nat) (r : ReqParams) (prompt : List Nat) (m : Mach) : Mach :=
  let x := sess m p i
  let m := if v.caller = .journal then m
    else journal p { kind := 3, pos := posNow m p, step := stepNow m p, payload := prompt.flatMap (leBytes 4) } m
  let c := foldSubmit x.chain r prompt
  let on := ((part m p).prov.cfg.map (fun y => y.enable)).getD false
  let (n, m) := if bitAt r.rflags 2 && on then takeIndex p m else (0, m)
  let m := onReq p j (fun y => { gen := y.gen, st := .queued, sess := i, params := some r, prompt := prompt
                                 baseLen := x.len, prov := n, input := c }) m
  let m := onSess p i (fun s => { s with st := .active, req := some j, chain := c }) m
  let m := onSrv p (fun s => { s with queue := s.queue ++ [j] }) m
  complete v .ok 0 (.fields [("REQUEST", reqId (req m p j).gen j)]) m

/-- A request that nothing stands against any more takes an entry, if one is free (R605). -/
def enterRequest (v : Via) (p i : Nat) (r : ReqParams) (prompt : List Nat) (m : Mach) : Mach :=
  if r.stopLens.any (fun n => decide (16 < n)) then answer v .range m
  else
    let j := lowestFree (fun y => y.st == .free) 0 (part m p).srv.reqs
    if 4096 ≤ j then answer v .full m else openRequest v p i j r prompt m

/-- The last COUNTER accepted on a channel. -/
def acceptCounter (p c n : Nat) (m : Mach) : Mach :=
  onPart p (fun q => { q with sec := { q.sec with
    channels := tmod {} q.sec.channels c (fun k => { k with last := some n }) } }) m

/-- REQ_SUBMIT: on a channel the stop fields and the prompt come in an envelope, in the clear else (R704); of a
request that the journal submits, the prompt is that of its TOKENS entry (R662). -/
def reqSubmit (v : Via) (p : Nat) (r : ReqParams) (tokens : List Nat) (m : Mach) : Mach :=
  match findSess m p r.session, serveOf m p with
  | none, _ => answer v .stale m
  | some _, none => answer v .badState m
  | some i, some sv =>
    let x := sess m p i
    if x.st ≠ .idle ∨ x.req.isSome then answer v .badState m
    else if submitBad m p sv x r then answer v .range m
    else
      if v.caller = .journal then enterRequest v p i r tokens m
      else match x.channel with
      | none => enterRequest v p i r (wordsOf r.promptLen (peeks m.mem.host r.promptAddr (4 * r.promptLen))) m
      | some c =>
        match openEnvelope m (tget {} (part m p).sec.channels c) r with
        | none => answer v .denied (bump .secEnvReject (iPart p) m)
        | some (n, l) =>
          enterRequest v p i (withStops r l) (wordsOf r.promptLen (l.drop 648)) (acceptCounter p c n m)

/-- REQ_SUBMIT. -/
def execReqSubmit (v : Via) (p : Fin 4) (r : ReqParams) (tokens : List Nat) (s : State) :
    Host.Outcome State Fault Refusal :=
  run s (fun _ => servingCmd v p.val 0x303 true never (reqSubmit v p.val r tokens))

/-! ### REQ_CANCEL, REQ_STATUS -/

/-- Slots that the manifests in force give to a request (R590). -/
def slotsOfReq (m : Mach) (p i : Nat) : List Nat :=
  let id := reqId (req m p i).gen i
  ((part m p).srv.sealedM.filter (fun f => f.step == (part m p).step)).flatMap (fun f =>
    ((f.slots.zipIdx).filter (fun y => y.1 == some id)).map (fun y => y.2))

/-- REQ_CANCEL (R590 to R595): the CANCEL bit and the slot mask, and the request's end. -/
def reqCancel (v : Via) (p rid : Nat) (m : Mach) : Mach :=
  match findReq m p rid with
  | none => answer v .stale m
  | some i =>
    let r := req m p i
    if r.st = .free then answer v .badState m
    else if r.ended ∨ r.cancel then answer v .ok m
    else
      let ss := slotsOfReq m p i
      let m := onSrv p (fun x => { x with mask := ss.foldr insertNat x.mask }) m
      let m := onReq p i (fun x => { x with cancel := true }) m
      let early := (r.st == .queued || r.st == .prefill) && r.tokens == [] && (sess m p r.sess).again == []
      let m := if early then onSess p r.sess (fun x => { x with len := r.baseLen, log := x.log.take r.baseLen }) m
        else m
      answer v .ok (endRequest p i none 0 0 2 m)

/-- REQ_CANCEL. -/
def execReqCancel (v : Via) (p : Fin 4) (rid : Nat) (s : State) : Host.Outcome State Fault Refusal :=
  run s (fun _ => servingCmd v p.val 0x304 true never (reqCancel v p.val rid))

/-- STATUS of a request that its records would carry: 0 while it runs. -/
def reqStatusOf (r : Req) : Nat := ((r.out.find? (fun o => o.last)).map (fun o => o.status)).getD 0

/-- REQ_STATUS. -/
def reqStatus (v : Via) (p rid : Nat) (m : Mach) : Mach :=
  match findReq m p rid with
  | none => answer v .stale m
  | some i =>
    let r := req m p i
    complete v .ok 0 (.fields [("STATE", r.st.ctorIdx), ("STATUS", reqStatusOf r), ("SEQ", r.seq)
      , ("CTX_LEN", (sess m p r.sess).len)]) m

/-- REQ_STATUS. -/
def execReqStatus (v : Via) (p : Fin 4) (rid : Nat) (s : State) : Host.Outcome State Fault Refusal :=
  run s (fun _ => servingCmd v p.val 0x305 false stoppedToo (reqStatus v p.val rid))

/-! ### Park and unpark (R596 to R603) -/

/-- Cistern blocks that park images of a partition occupy. -/
def parkBlocks (m : Mach) (p : Nat) : List Nat :=
  (part m p).srv.sess.flatMap (fun (_, x) =>
    (match x.image with
     | some y => if y.dest = 0 then y.blocks else []
     | none => [])
    ++ (match x.writing with
     | some y => if y.dest = 0 then y.blocks else []
     | none => []))

/-- The destination can hold the image (R599, R605). -/
def parkRoom (m : Mach) (p dest : Nat) (blocks : List Nat) : Bool :=
  if dest = 0 then
    (part m p).nsValid && blocks.all (fun b => decide (b < (part m p).nsBlocks) && !(parkBlocks m p).contains b)
  else true

/-- Requests to the members of the plan on other modules, each of which takes part in a park or an unpark (R597, R601, 11
R499). -/
def askMembers (fz : Fuses) (p : Nat) (v : Via) (m : Mach) : Mach :=
  let far := (((planOf m p).map (fun pl => pl.members)).getD []).filter (fun y => y.1 != m.moduleId)
  if far = [] then m else askAll fz p (far.map (fun y => { mod := y.1, die := y.2, via := v })) m

/-- PARK (R596 to R599, R633, R780): the image is written from now on. -/
def park (v : Via) (p sid dest : Nat) (blocks : List Nat) (fz : Fuses) (m : Mach) : Mach :=
  match findSess m p sid with
  | none => answer v .stale m
  | some i =>
    let x := sess m p i
    if x.st ≠ .idle ∨ swapping m p then answer v .badState m
    else if dest = 0 ∧ m.pwr.cistern = 3 then answer v .ioError m
    else if !parkRoom m p dest blocks then answer v .noSpace m
    else if dest = 0 ∧ reserveOk m (.park p sid) = false then
      answer v .holdupLow (bump .pwrHoldupLow iModule m)
    else
      let img : Image := { len := x.len, chain := x.chain, log := x.log, members := []
                           program := ((planOf m p).map (fun pl => pl.digest)).getD 0, wset := wsetOf m p
                           dest := dest, blocks := blocks }
      let m := askMembers fz p v (onSess p i (fun s => { s with
        st := .parking, writing := some img, via := some v, noResp := false }) m)
      if dest = 0 then askCommit (.park p sid) m else m

/-- PARK. -/
def execPark (v : Via) (p : Fin 4) (sid : Nat) (dest : Fin 2) (blocks : List Nat) (s : State) :
    Host.Outcome State Fault Refusal :=
  run s (fun fz => servingCmd v p.val 0x307 true never (park v p.val sid dest.val blocks fz))

/-- The command that waits for a session completes. -/
def answerSess (p i : Nat) (st : Status) (r : Resp) (m : Mach) : Mach :=
  match (sess m p i).via with
  | some v => complete v st 0 r (onSess p i (fun s => { s with via := none }) m)
  | none => m

/-- A park that does not come about: the session stays IDLE and keeps its earlier image (R599, R600). -/
def parkFails (p i : Nat) (st : Status) (m : Mach) : Mach :=
  answerSess p i st .empty (onSess p i (fun s => { s with st := .idle, writing := none }) m)

/-- Requests to other members for the command that waits for a session have no response yet (11 R500). -/
def awaits (m : Mach) (p i : Nat) : Bool :=
  match (sess m p i).via with
  | some v => asksLeft m p v
  | none => false

/-- The command that waits for a session completes with IO_ERROR and DETAIL 0x0001, since a request of its work got no
response (11 R503); the session goes back to a state. -/
def loseSess (p i : Nat) (st : SessSt) (m : Mach) : Mach :=
  let x := sess m p i
  let m := onSess p i (fun s => { s with st := st, writing := none, via := none, noResp := false }) m
  match x.via with
  | some v => complete v .ioError 1 .empty m
  | none => m

/-- PARK_COMMIT (R369, R598, R599): the directory entry is replaced in one commit, and the session is PARKED. -/
def parkCommit (p sid : Nat) (members : List Digest) (m : Mach) : Mach :=
  match findSess m p sid with
  | none => m
  | some i =>
    match (sess m p i).writing with
    | none => m
    | some img =>
      if (sess m p i).st ≠ .parking ∨ (img.dest = 0 ∧ commitReady m (.park p sid) = false) ∨ awaits m p i = true then m
      else if (sess m p i).noResp then loseSess p i .idle (if img.dest = 0 then endCommit m else m)
      else
        let d := sha256 (members.flatMap digestBytes)
        let m := if img.dest = 0 then endCommit (onPart p (fun q => { q with dirty := [] }) m) else m
        let m := onSess p i (fun s => { s with
          st := .parked, digest := d, image := some { img with members := members }, writing := none, log := [] }) m
        answerSess p i .ok (.bytes (digestBytes d)) (bump .srvParks (iPart p) m)

/-- PARK_COMMIT. -/
def execParkCommit (p : Fin 4) (sid : Nat) (members : List Digest) (s : State) : Host.Outcome State Fault Refusal :=
  run s (fun _ => parkCommit p.val sid members)

/-- UNPARK (R596, R601, R602, R633): the image is read from now on. -/
def unpark (v : Via) (p sid : Nat) (program wset : Digest) (fz : Fuses) (m : Mach) : Mach :=
  match findSess m p sid with
  | none => answer v .stale m
  | some i =>
    if (sess m p i).st ≠ .parked ∨ swapping m p then answer v .badState m
    else if program ≠ ((planOf m p).map (fun pl => pl.digest)).getD 0 ∨ wset ≠ wsetOf m p then
      answer v .planMismatch m
    else askMembers fz p v (onSess p i (fun s => { s with st := .unparking, via := some v, noResp := false }) m)

/-- UNPARK. -/
def execUnpark (v : Via) (p : Fin 4) (sid : Nat) (program wset : Digest) (s : State) :
    Host.Outcome State Fault Refusal :=
  run s (fun fz => servingCmd v p.val 0x308 true never (unpark v p.val sid program wset fz))

/-- UNPARK_CHECK (R601, R603, R650, R663): the image as read against the digests recorded; the home's own share is
the last of the members. -/
def unparkCheck (p sid : Nat) (readable : Bool) (members : List Digest) (m : Mach) : Mach :=
  match findSess m p sid with
  | none => m
  | some i =>
    match (sess m p i).image with
    | none => m
    | some img =>
      if (sess m p i).st ≠ .unparking ∨ awaits m p i = true then m
      else if (sess m p i).noResp then loseSess p i .parked m
      else
        let back (st : Status) (m : Mach) : Mach :=
          answerSess p i st .empty (onSess p i (fun s => { s with st := .parked }) m)
        if !readable || (img.dest == 0 && m.pwr.cistern == 3) then back .ioError m
        else
          let (n, m) := draw m
          let m := fetchRead p 2 (4096 * img.blocks.headD 0) n (members.getLastD 0) m
          if members ≠ img.members ∨ sha256 (members.flatMap digestBytes) ≠ (sess m p i).digest then
            back .digestMismatch (bump .srvDigestFail (iPart p) m)
          else
            let m := onSess p i (fun s => { s with st := .idle, len := img.len, chain := img.chain, log := img.log }) m
            answerSess p i .ok (.fields [("L", img.len)]) (bump .srvUnparks (iPart p) m)

/-- UNPARK_CHECK. -/
def execUnparkCheck (p : Fin 4) (sid : Nat) (readable : Bool) (members : List Digest) (s : State) :
    Host.Outcome State Fault Refusal :=
  run s (fun _ => unparkCheck p.val sid readable members)

/-! ### The commit point (R565, R571 to R580, R592) -/

/-- One candidate token committed: L, the token log, its record, and the end if it meets a stop condition. -/
def commitToken (p i : Nat) (maxCtx : Nat) (m : Mach) (t : Nat × Nat × Bool) : Mach :=
  let r := req m p i
  if r.ended then m
  else
    let m := onSess p r.sess (fun s => { s with len := s.len + 1, log := s.log ++ [t.1] }) m
    let m := onReq p i (fun x => { x with tokens := x.tokens ++ [t.1] }) m
    let m := bump .srvCommitted (iPart p) m
    match stopOf r.par (req m p i).tokens t.1 t.2.2 (sess m p r.sess).len maxCtx with
    | some (kind, idx) => endRequest p i (some (t.1, t.2.1)) kind idx 1 m
    | none => queueRecord p i (some (t.1, t.2.1)) 0 0 0 false m

/-- Prompt tokens of completed chunk ranges become context; those to be processed again come first (R634). -/
def commitChunk (p i n : Nat) (m : Mach) : Mach :=
  let r := req m p i
  let x := sess m p r.sess
  let a := if n ≤ x.again.length then n else x.again.length
  let b := if r.done + (n - a) ≤ r.prompt.length then n - a else r.prompt.length - r.done
  let toks := x.again.take a ++ (r.prompt.drop r.done).take b
  let m := onSess p r.sess (fun s => { s with
    len := s.len + toks.length, log := s.log ++ toks, again := s.again.drop a }) m
  onReq p i (fun y => { y with done := y.done + b, sched := y.sched - (a + b) }) m

/-- A request whose prompt is context holds a decode slot from now on. -/
def toDecode (p i : Nat) (m : Mach) : Mach :=
  onReq p i (fun r => { r with
    st := if (r.st = .queued ∨ r.st = .prefill) ∧ promptTotal m p i = 0 then .decode else r.st }) m

/-- Draft tokens accepted (R574): those that equal the target tokens up to the first one that does not. -/
def accepted : List Nat → List (Nat × Nat × Bool) → Nat
  | d :: ds, t :: ts => if d = t.1 then accepted ds ts + 1 else 0
  | _, _ => 0

/-- Draft tokens that a request may have proposed: DRAFT_K where it asks for speculation (R574, Table 13-3). -/
def draftsOf (draftK : Nat) (r : Req) (c : Candidate) : List Nat :=
  if bitAt ((r.params.map (fun y => y.rflags)).getD 0) 0 then c.drafts.take draftK else []

/-- The candidate tokens of a step (R574): the accepted draft tokens, then the target token at the first position not
accepted, or after the last draft. -/
def candidateTokens (drafts : List Nat) (targets : List (Nat × Nat × Bool)) : List (Nat × Nat × Bool) :=
  targets.take (accepted drafts targets + 1)

/-- The tokens and drafts of one request of the candidate block committed (R573, R574, R577, R592). -/
def commitOne (p step maxCtx draftK : Nat) (m : Mach) (c : Candidate) : Mach :=
  match findReq m p c.req with
  | none => m
  | some i =>
    let r := req m p i
    if r.st = .free then m
    else
      let live := !r.ended && !r.cancel && (part m p).wgt.phase != 2
      let before := r.tokens.length
      let drafts := draftsOf draftK r c
      let tokens := candidateTokens drafts c.targets
      let right := accepted drafts c.targets
      let m := if !live then m
        else
          let m := if 0 < c.chunk then toDecode p i (commitChunk p i c.chunk m) else m
          if tokens ≠ [] ∧ maxCtx ≤ (sess m p r.sess).len then endRequest p i none 5 0 1 m
          else tokens.foldl (commitToken p i maxCtx) m
      let made := (req m p i).tokens.length - before
      let good := if right ≤ made then right else made
      let m := if live && decide (0 < made + c.chunk)
        then onReq p i (fun x => { x with first := some (x.first.getD step), lastStep := step }) m else m
      bumpBy .srvSpecRejected (iPart p) 0 (drafts.length - good)
        (bumpBy .srvSpecAccepted (iPart p) 0 good (bumpBy .srvSpecProposed (iPart p) 0 drafts.length m))

/-- COMMIT_POINT: logical cycle COMMIT of a step of the home executes. The records of earlier commits are written before,
where their rings have room (R585); the manifest LEAD steps ahead is sealed. -/
def commitPoint (p : Nat) (block : List Candidate) (fz : Fuses) (m : Mach) : Mach :=
  match serveOf m p with
  | none => m
  | some sv =>
    let q := part m p
    if !sv.home || !stepping m p || q.srv.commitStep == some q.step then m
    else
      let m := block.foldl (commitOne p q.step sv.maxCtx sv.draftK) (writeDue fz p m)
      let m := (openReqs m p).foldl (fun m i => toDecode p i m) m
      let m := onSrv p (fun s => { s with commitStep := some q.step }) m
      sealAt p (q.step + sv.lead) sv m

/-- COMMIT_POINT. -/
def execCommitPoint (p : Fin 4) (block : List Candidate) (s : State) : Host.Outcome State Fault Refusal :=
  run s (commitPoint p.val block)

/-! ### Members -/

/-- MANIFEST_RECEIVE (R568): a member has its manifest; a hold that waits for it clears. -/
def manifestReceive (p : Nat) (f : Manifest) (wall : Nat) (m : Mach) : Mach :=
  if (serveOf m p).isNone ∨ (part m p).srv.got.any (fun g => g.step == f.step) then m
  else
    let m := onSrv p (fun s => { s with got := s.got ++ [f] }) m
    if f.step = (part m p).step then clearCause p wall (fun c => c.code == 1 && c.desc == 0xFFFFFF) m else m

/-- MANIFEST_RECEIVE. -/
def execManifestReceive (p : Fin 4) (m : Manifest) (wall : Nat) (s : State) : Host.Outcome State Fault Refusal :=
  run s (fun _ => manifestReceive p.val m wall)

/-- LAYER_BOUNDARY (R591): the slot mask is read; a cycle that is no boundary of the rung in force changes nothing. -/
def layerBoundary (p cycle : Nat) (m : Mach) : Mach :=
  match serveOf m p with
  | none => m
  | some sv =>
    let ok := sv.rungs.any (fun r => r.variant == (part m p).variant && r.bounds.any (fun l => l.contains cycle))
    if stepping m p && ok then onSrv p (fun s => { s with masked := s.mask }) m else m

/-- LAYER_BOUNDARY. -/
def execLayerBoundary (p : Fin 4) (cycle : Nat) (s : State) : Host.Outcome State Fault Refusal :=
  run s (fun _ => layerBoundary p.val cycle)

/-- OUTPUT_RECORD_WRITE (R583 to R585, R648, R705): the waiting records of a request, as far as its ring has room. -/
def outputRecordWrite (p rid : Nat) (fz : Fuses) (m : Mach) : Mach :=
  match findReq m p rid with
  | none => m
  | some i => writeWaiting fz p i (req m p i).out.length m

/-- OUTPUT_RECORD_WRITE. -/
def execOutputRecordWrite (p : Fin 4) (rid : Nat) (s : State) : Host.Outcome State Fault Refusal :=
  run s (outputRecordWrite p.val rid)

end Sys2Proof.Machine
end

