-- ==== Sys2Proof/Machine/Boot.lean ====
section
/-! DEFINITION. Loss of power and boot (17 R752 to R763, 18 R782 to R786, 09 R390 to R397): what each keeps, the stages
of Table 17-12, remap entries, recovery. -/

namespace Sys2Proof.Machine

/-! ### Loss of power -/

/-- A block that no commit has made permanent holds its earlier or its new contents after a loss of power (R369). -/
def revertBlock (p : Nat) (m : Mach) (y : Nat × List Byte) : Mach :=
  let n := m.freeCtr
  let m := { m with freeCtr := n + 1 }
  if Config.blockKept n then m else blockSealed p y.1 y.2 m

/-- The uncommitted blocks of a partition's namespace after a loss of power. -/
def revertBlocks (m : Mach) (p : Nat) : Mach :=
  onPart p (fun q => { q with dirty := [] }) ((part m p).dirty.foldl (revertBlock p) m)

/-- A session without power: one that was parked to the cistern, or has an earlier image there while it parks or
unparks, is PARKED with it (R600, R607); every other is lost. -/
def Session.unpowered (s : Session) : Option Session :=
  match s.image with
  | some y =>
    if y.dest = 0 ∧ (s.st = .parked ∨ s.st = .parking ∨ s.st = .unparking) then
      some { gen := s.gen, st := .parked, chain := s.chain, digest := s.digest, image := some y, len := s.len }
    else none
  | none => none

/-- The sessions of a table that survive. -/
def survivors : Table Session → Table Session
  | [] => []
  | (i, s) :: r =>
    match s.unpowered with
    | some t => (i, t) :: survivors r
    | none => survivors r

/-- A partition without power (R680, R724): its assignment, its namespace and what was parked there. -/
def Part.unpowered (q : Part) : Part :=
  { dies := q.dies, hwBase := q.hwBase, hwLen := q.hwLen, sealedLen := q.sealedLen, nsBlocks := q.nsBlocks
    nsValid := q.nsValid, nsCtr := q.nsCtr, dirty := q.dirty
    sec := { st := if q.sec.st = 0 then 0 else 1, tenant := q.sec.tenant }, srv := { sess := survivors q.srv.sess } }

/-- Power and cooling without the logic side; a test is abandoned (R781). -/
def Pwr.unpowered (x : Pwr) : Pwr :=
  { x with step := 0, queue := [], via := none, restore := [], tests := [], testDue := false, toStart := false, selfTest := false
           commit := none, commits := [], offDies := [], cistern := 0, stretching := false, temps := []
           inTransit := false, tank := if x.tank = 2 then 0 else x.tank }

/-- The configuration flash keeps what it holds; `left` is what the reserved region of host memory held. -/
def Fw.unpowered (f : Fw) : Fw :=
  { f with staged := none, commit := none, left := f.staged.or f.left, rcvLen := none, rcvGot := [] }

/-- The logic side loses power (18 R782): what is left is in the configuration flash, the cistern, the power controller
and the always-on domain. The blocks of a partition whose park commit goes on stay as they are. -/
def losePower (going : Option Nat) (m : Mach) : Mach :=
  let m := ((m.parts.map (fun y => y.1)).filter (fun p => going != some p)).foldl revertBlocks m
  { Mach.reset with
    mem := { cist := m.mem.cist }, parts := m.parts.map (fun y => (y.1, y.2.unpowered)), history := m.history
    ctrs := m.ctrs, evtCfg := m.evtCfg, clk := m.clk, moduleId := m.moduleId, located := m.located, change := m.change
    operatorKey := m.operatorKey, custodianKey := m.custodianKey, fw := m.fw.unpowered, wch := m.wch
    pwr := m.pwr.unpowered, eccFill := m.eccFill, cistErr := m.cistErr, cistCrc := m.cistCrc, out := m.out, freeCtr := m.freeCtr }

/-- The always-on domain loses power (R784, R773, R540, R805, R839): the loss of the 54 V input. -/
def loseAlwaysOn (m : Mach) : Mach :=
  { m with
    moduleId := 0, located := false, wch := {}, evtCfg := {}, clk := { wall := m.clk.wall }
    pwr := { m.pwr with limit := none, tank := 0, fault := false, cap := 0, energy := 0, vtank := 0, testedAt := none } }

/-! ### Remap entries (R390 to R392) -/

/-- What the records of a slice or a wellhead make candidates, beats or rows, in the order recorded (R391): an uncorrectable
unit, a read-back failure, a named one, and the fourth correctable error of one unit. -/
def candidates (of_ : Nat → Nat) (l : List HistRec) : List Nat :=
  (l.foldl (fun (y : List HistRec × List Nat) h =>
    let n := (y.1.filter (fun x => x.what == 0 && x.unit == h.unit)).length
    let b := of_ h.unit
    (y.1 ++ [h], if (h.what != 0 || n == 3) && !y.2.contains b then y.2 ++ [b] else y.2)) ([], [])).2

/-- The records of a place that count: those whose CRC-32C holds (R393). -/
def recordsOf (m : Mach) (kind place : Nat) : List HistRec :=
  m.history.filter (fun h => h.crcOk && h.kind == kind && h.place == place)

/-- The places of a kind that the history names. -/
def placesOf (m : Mach) (kind : Nat) : List Nat :=
  ((m.history.filter (fun h => h.crcOk && h.kind == kind)).map (fun h => h.place)).eraseDups

/-- The entries of a slice: beats (R388). -/
def loadSlice (m : Mach) (k : Nat) : Mach :=
  let l := candidates (fun u => u / 16) (recordsOf m 0 k)
  let tell (m : Mach) : Mach := if 8 < l.length then raiseEvt 0x0030 1 (iStn k) (l.length - 8) m else m
  tell (onStn k (fun s => { s with spMap := l.take 8 }) m)

/-- The entries of a wellhead: rows (R388). -/
def loadWell (m : Mach) (w : Nat) : Mach :=
  let l := candidates (fun u => rowOfBeat (u / 4)) (recordsOf m 1 w)
  let tell (m : Mach) : Mach := if 32 < l.length then raiseEvt 0x0030 1 (iWell w) (l.length - 32) m else m
  tell (onWell w (fun h => { h with whMap := l.take 32 }) m)

/-- HISTORY_CRC for each record that is ignored (R393). -/
def tellBroken : List HistRec → Nat → Mach → Mach
  | [], _, m => m
  | h :: r, i, m =>
    tellBroken r (i + 1) (if h.crcOk then m else raiseEvt 0x0031 0 iModule (Config.historyOffset i % 2 ^ 64) m)

/-- The remap entries loaded from the fault history. -/
def loadRemaps (m : Mach) : Mach :=
  let m := { m with
    stations := tmapIf {} (fun _ => true) (fun s => { s with spMap := [] }) m.stations
    wells := tmapIf {} (fun _ => true) (fun h => { h with whMap := [] }) m.wells }
  (placesOf m 1).foldl loadWell ((placesOf m 0).foldl loadSlice (tellBroken m.history 0 m))

/-! ### Boot (Table 17-12) -/

/-- Why an image does not boot (R754, R692): RCV_CAUSE of Table 17-21. -/
def imageFault (m : Mach) (i : FwImage) : Option Nat :=
  if !i.reservedZero || !i.certOk || !i.sigOk then some 1
  else if !i.bodyOk then some 2
  else if i.svn < m.fw.svnFuse then some 3
  else none

/-- The committed image, as it was verified when it was committed. -/
def committed (m : Mach) : FwImage :=
  { svn := m.fw.svn, version := m.fw.version, digest := m.fw.digest, certOk := true, sigOk := true, bodyOk := true
    reservedZero := true }

/-- A namespace key's counter resumes (R698). -/
def resumeCtr (q : Part) : Part :=
  if q.nsValid then { q with nsCtr := q.nsCtr / 2 ^ 31 * 2 ^ 31 + 2 ^ 32 } else q

/-- INPUT_FAIL of the failure record, at its module time (R822). -/
def tellFailure (m : Mach) : Mach :=
  match m.pwr.failed with
  | none => m
  | some (t, done) =>
    let acc := m.clk.acc
    let m := raiseEvt 0x0062 2 iModule (b2n done) { m with clk := { m.clk with acc := t * 2 ^ 40 } }
    { m with clk := { m.clk with acc := acc }, pwr := { m.pwr with failed := none } }

/-- A buffer of a die that cannot be aligned at a frequency step (R530). -/
def alignFails (m : Mach) (y : Nat × Nat) : Mach :=
  raiseEvt 0x0021 1 (iDie y.1) y.2 (onDie y.1 (fun x => { x with failed := true }) m)

/-- The logic side comes up; registers take their Reset values, the always-on domain keeps MTIME (R540, R784). -/
def logicUp (m : Mach) : Mach :=
  let m := losePower none m
  let c := m.clk
  { m with
    ctrs := [], eccFill := 0, parts := m.parts.map (fun y => (y.1, resumeCtr y.2))
    clk := { acc := c.acc, wall := c.wall, adj := c.adj, st := if c.st = 0 then 0 else 3, refLost := c.refLost }
    pwr := { m.pwr with st := 0, target := 0, inputOk := true, hotSwapOpen := false, failing := false, selfTest := true
                        tank := if m.pwr.tank = 3 then 0 else m.pwr.tank } }

/-- The image written, and its record DONE. -/
def endRecord (i : FwImage) (m : Mach) : Mach :=
  { m with fw := { m.fw.note 1 true with svn := i.svn, version := i.version, digest := i.digest } }

/-- The copy with which the steps of a record that is not DONE are repeated: what the reserved region still holds of it (R760,
R763); whether it holds it is the device's own (log 193). -/
def copyLeft (f : Fw) (draw : Nat) : Option FwImage :=
  match f.left with
  | some i => if i.digest = f.latest.digest && Config.regionKept draw then some i else none
  | none => none

/-- A commit that a loss of power interrupted: every step is repeated and the record written DONE (R763), or the image stays as
it is. -/
def repeatCommit (i : FwImage) (m : Mach) : Mach × FwImage :=
  let f := m.fw
  let m := { m with freeCtr := m.freeCtr + 1, fw := { f with left := none } }
  if f.latest.done then (m, i)
  else
    match copyLeft f (m.freeCtr - 1) with
    | some j => (endRecord j m, j)
    | none => (m, i)

/-- The boot up to the fill: ROM, LOADING, FILL (Table 17-12), or RECOVERY (R760). -/
def bootLogic (i : FwImage) (align : List (Nat × Nat)) (m : Mach) : Mach :=
  let (m, i) := repeatCommit i (logicUp m)
  match imageFault m i with
  | some c => { m with boot := 4, fw := { m.fw with cause := c } }
  | none =>
    if !m.fw.latest.done then { m with boot := 4, fw := { m.fw with cause := 4 } }
    else
      let m := { m with boot := 2, fw := { m.fw with
        svn := i.svn, version := i.version, digest := i.digest, cause := 0
        runSvn := i.svn, runVersion := i.version, runDigest := i.digest } }
      align.foldl alignFails (loadRemaps (tellFailure m))

/-- POWER_ON: the input is applied after a loss of the 54 V input. -/
def powerOn (i : FwImage) (align : List (Fin 4 × Fin 4)) (m : Mach) : Mach :=
  bootLogic i (align.map (fun y => (y.1.val, y.2.val))) (loseAlwaysOn m)

/-- POWER_ON. -/
def execPowerOn (image : FwImage) (alignFail : List (Fin 4 × Fin 4)) (s : State) : Host.Outcome State Fault Refusal :=
  run s (fun _ => powerOn image alignFail)

/-- A unit that fails the read-back of the fill is recorded (R391, R397); which one is not part of the command (a free
value, log 31). -/
def recordFail (kind : Nat) (m : Mach) : Mach :=
  let (place, m) := draw m
  let (unit, m) := draw m
  record { kind := kind, place := place, unit := unit, what := 2 } m

/-- FILL_COMPLETE (R397): ECC_FILL, the control cores released, mailboxes served, priming of the ports (R445, R8). -/
def fillComplete (spFail whFail : Nat) (m : Mach) : Mach :=
  if m.boot ≠ 2 then m
  else
    let m := { m with boot := 3, eccFill := pack [(2, 3), (14, 0), (8, satN 255 spFail), (8, satN 255 whFail)] 0 }
    let m := (List.range spFail).foldl (fun m _ => recordFail 0 m) m
    let m := (List.range whFail).foldl (fun m _ => recordFail 1 m) m
    (List.range 16).foldl (fun m k => wakePort k m) m

/-- FILL_COMPLETE. -/
def execFillComplete (spFail whFail : Nat) (s : State) : Host.Outcome State Fault Refusal :=
  run s (fun _ => fillComplete spFail whFail)

/-! ### Images committed (R756, R761, R762) -/

/-- A generation record written as WRITING (R762). -/
def beginRecord (i : FwImage) (m : Mach) : Mach := { m with fw := m.fw.begin i.digest }

/-- A recovery image is verified, committed under a new generation and booted (R761). -/
def recover (i : FwImage) (m : Mach) : Mach := bootLogic i [] (endRecord i (beginRecord i m))

/-- RECOVERY_START: the image that the PCIe endpoint has written. -/
def recoveryStart (i : FwImage) (m : Mach) : Mach :=
  if m.boot = 4 ∧ imageFault m i = none then recover i m else m

/-- RECOVERY_START. -/
def execRecoveryStart (image : FwImage) (s : State) : Host.Outcome State Fault Refusal :=
  run s (fun _ => recoveryStart image)

end Sys2Proof.Machine
end

