-- ==== Sys2Proof/Machine/Collect.lean ====
section
/-! DEFINITION. Route epochs and the route table commands (11 R511 to R517), remote windows, collective aborts by
command. -/

namespace Sys2Proof.Machine

/-- The table of an operand. -/
def TableId.opt (t : TableId) : Option Nat :=
  match t with
  | .part p => some p.val
  | .module => none

/-- The ports of a route table. -/
def tablePorts (m : Mach) (t : Option Nat) : List Nat :=
  match t with
  | some p => partPorts m p
  | none => List.range 16

/-- State of a bank set. -/
def Rte.setBank (r : Rte) (e : Bool) (st : Nat) : Rte := if e then { r with bank1 := st } else { r with bank0 := st }

/-- The epoch in DRAINING. -/
def Rte.draining (r : Rte) : Option Bool := if r.bank0 = 3 then some false else if r.bank1 = 3 then some true else none

/-- DRAINED of RTE_CTL. -/
def Rte.drained (r : Rte) : Nat := maskBits 16 r.sentDrain r.gotDrain

/-- A flip takes effect (R513, R514): DRAINs received before it count. -/
def Rte.flip (r : Rte) (now : Nat) : Rte :=
  { ((r.setBank (!r.epoch) 2).setBank r.epoch 3) with
    epoch := !r.epoch, pend := false, sentDrain := 0, gotDrain := r.earlyDrain, earlyDrain := 0, flipAt := now }

/-- A flip of a table; held packets are routed again (R484). -/
def flipTable (t : Option Nat) (m : Mach) : Mach :=
  reholdAll (onRte t (fun r => r.flip m.clk.wall) m)

/-- The DRAINING bank becomes OPEN once every port is drained (R515). -/
def tryRelease (t : Option Nat) (m : Mach) : Mach :=
  let r := rteOf m t
  match r.draining with
  | none => m
  | some e => if (tablePorts m t).all (fun k => bitAt r.drained k) then onRte t (fun r => r.setBank e 0) m else m

/-- DRAIN received (R514). -/
def recvDrain (d : Nat) (m : Mach) : Mach :=
  match front m d (isCtl 2) with
  | none => m
  | some i =>
    let e := leAt i.pkt.payload 1 1 == 1
    let m := executed d i m
    let t := arrivalTable m i.port
    let r := rteOf m t
    if r.bank e = 3 then tryRelease t (onRte t (fun r => { r with gotDrain := putBit r.gotDrain i.port }) m)
    else if r.bank e = 2 then onRte t (fun r => { r with earlyDrain := putBit r.earlyDrain i.port }) m
    else m

/-- DRAIN. -/
def execDrain (die : Fin 4) (s : State) : Host.Outcome State Fault Refusal := run s (fun _ => recvDrain die.val)

/-- DRAIN_SEND (R514): the transmit store of the port holds no packet of the old epoch. -/
def drainSend (k : Nat) (m : Mach) : Mach :=
  let t := arrivalTable m k
  let r := rteOf m t
  let q := port m k
  match r.draining with
  | none => m
  | some e =>
    if !q.active || bitAt r.sentDrain k || q.store.any (fun o => o.pkt.hdr.epoch == b2n e) then m
    else tryRelease t (onRte t (fun r => { r with sentDrain := putBit r.sentDrain k })
      (sendLocal k none ([2, BitVec.ofNat 8 (b2n e)] ++ zeros 30) m))

/-- DRAIN_SEND. -/
def execDrainSend (port : Fin 16) (s : State) : Host.Outcome State Fault Refusal := run s (fun _ => drainSend port.val)

/-- EPOCH_RELEASE (R515): at the latest 2 ms after the flip. -/
def epochRelease (t : Option Nat) (m : Mach) : Mach :=
  match (rteOf m t).draining with
  | none => m
  | some e =>
    let m := reachWall ((rteOf m t).flipAt + 2000000) m
    onRte t (fun r => r.setBank e 0) m

/-- EPOCH_RELEASE. -/
def execEpochRelease (t : TableId) (s : State) : Host.Outcome State Fault Refusal :=
  run s (fun _ => epochRelease (TableId.opt t))

/-! ### Commands (R516, R517) -/

/-- A command on a route table: the module table is the operator's. -/
def tableCommand (v : Via) (t : Option Nat) (code : Nat) (body : Mach → Mach) (m : Mach) : Mach :=
  command v t code (fun m => if t = none ∧ callerOperator v.caller = false ∧ v.caller ≠ .journal then answer v .denied m
    else body m) m

/-- A port that an entry may name. -/
def entryOk (ps : List Nat) (y : Nat × RouteEntry) : Bool :=
  let e := y.2
  decide (y.1 < 16384) && decide (e.secondKind < 3) && (!e.firstValid || ps.contains e.firstPort)
  && (!e.escValid || ps.contains e.escPort) && (e.secondKind == 0 || ps.contains e.secondPort)

/-- ROUTE_WRITE (R512). -/
def routeWrite (v : Via) (t : Option Nat) (e : Bool) (l : List (Nat × RouteEntry)) (commit : Bool) (m : Mach) : Mach :=
  if (rteOf m t).bank e ≠ 0 then answer v .badState m
  else if 512 < l.length ∨ l.all (entryOk (tablePorts m t)) = false then answer v .range m
  else
    let put (b : Table RouteEntry) : Table RouteEntry := l.foldl (fun b y => tput noRoute b y.1 y.2) b
    let m := onRte t (fun r => if e then { r with r1 := put r.r1 } else { r with r0 := put r.r0 }) m
    answer v .ok (if commit then onRte t (fun r => r.setBank e 1) m else m)

/-- ROUTE_WRITE. -/
def execRouteWrite (v : Via) (t : TableId) (bank : Fin 2) (entries : List (Nat × RouteEntry)) (commit : Bool)
    (s : State) : Host.Outcome State Fault Refusal :=
  run s (fun _ => tableCommand v (TableId.opt t) 0x510 (routeWrite v (TableId.opt t) (bank.val == 1) entries commit))

/-- ROUTE_FLIP (R513): at cycle 0 of the step, or at once where no plan runs. -/
def routeFlip (v : Via) (t : Option Nat) (step : Nat) (m : Mach) : Mach :=
  let r := rteOf m t
  if r.bank (!r.epoch) ≠ 1 then answer v .badState m
  else
    let m := onRte t (fun r => { r with flipStep := step }) m
    let waits := match t with
      | some p => runs m p
      | none => false
    answer v .ok (if waits then onRte t (fun r => { r with pend := true }) m else flipTable t m)

/-- ROUTE_FLIP. -/
def execRouteFlip (v : Via) (t : TableId) (step : Nat) (s : State) : Host.Outcome State Fault Refusal :=
  run s (fun _ => tableCommand v (TableId.opt t) 0x511 (routeFlip v (TableId.opt t) step))

/-- RTE_CTL (Table 11-13). -/
def rteCtl (r : Rte) : Nat :=
  pack [(1, b2n r.epoch), (2, r.bank1), (2, r.bank0), (1, b2n r.pend), (10, 0), (16, r.drained), (16, 0)
    , (48, r.flipStep)] 0

/-- ROUTE_STATUS. -/
def execRouteStatus (v : Via) (t : TableId) (s : State) : Host.Outcome State Fault Refusal :=
  run s (fun _ => tableCommand v (TableId.opt t) 0x512
    (fun m => complete v .ok 0 (.bytes (leBytes 12 (rteCtl (rteOf m (TableId.opt t))))) m))

/-- A remote window at reset (Table 11-15). -/
def noWindow : RWin := { enable := false, ops := 0, unit := 0, keyslot := 0, srcMod := 0, base := 0, len := 0 }

/-- RWIN_SET (R494): the unit is a wellhead of the die or the host gateway, and no reserved bit is set. -/
def rwinSet (v : Via) (d idx : Nat) (w : RWin) (m : Mach) : Mach :=
  let unitOk := w.unit == 0xF8 || (decide (0xE0 ≤ w.unit) && decide (w.unit < 0xF0) && wellDie (w.unit - 0xE0) == d)
  if w.enable = true ∧ (unitOk = false ∨ 4 ≤ w.ops) then answer v .range m
  else
    let w := if w.enable then w else noWindow
    answer v .ok (onDie d (fun x => { x with rwins := tput noWindow x.rwins idx w }) m)

/-- RWIN_SET. -/
def execRwinSet (v : Via) (die : Fin 4) (idx : Fin 8) (win : RWin) (s : State) : Host.Outcome State Fault Refusal :=
  run s (fun _ m => command v (some (partOf m die.val)) 0x513 (rwinSet v die.val idx.val win) m)

/-- COLL_ABORT (R506): the partition is the origin, with cause COMMAND. -/
def collAbort (v : Via) (p coll : Nat) (fz : Fuses) (m : Mach) : Mach :=
  if (planOf m p).isNone then answer v .badState m
  else if (collsOf m p).all (fun c => c.index != coll) then answer v .range m
  else
    answer v .ok (abortMember fz p { cause := 4, mod := m.moduleId, die := p, coll := coll
                                     step := (part m p).step % 65536 } m)

/-- COLL_ABORT. -/
def execCollAbort (v : Via) (p : Fin 4) (coll : Nat) (s : State) : Host.Outcome State Fault Refusal :=
  run s (fun fz => command v (some p.val) 0x514 (collAbort v p.val coll fz))

end Sys2Proof.Machine
end

