-- ==== Sys2Proof/Machine/Integrity.lean ====
section
/-! DEFINITION. The integrity commands (09 R398 to R409): scrubs, flip masks, remap candidates, error counters. -/

namespace Sys2Proof.Machine

/-! ### Targets (R399) -/

/-- A bit of the CONSENT of the session policy is granted (16 R689): 0 DEBUG, 1 PROFILE, 2 TRUNCATE. -/
def consents (m : Mach) (p bit : Nat) : Bool :=
  match (part m p).sec.policy with
  | some y => (part m p).sec.st == 2 && bitAt y.consent bit
  | none => false

/-- The station that a command names: under the fit of the die, and on an unfitted die among its rows that no
defect disables (DESIGN CHOICE, log 22). -/
def namedStation (fz : Fuses) (m : Mach) (d unit : Nat) : Option Nat :=
  if (die m d).fit = 1 then keyOf m d unit
  else
    let rows := (List.range 9).filter (fun r => !(fz.defects.getD d []).contains r)
    (rows[unit / 16]?).map (fun r => stKey d (16 * r + unit % 16))

/-- A target of an integrity command as the partition holds it. -/
inductive Place where
  | slice (key : Nat)
  | well (w : Nat)
  | cistern
  deriving DecidableEq, Repr

/-- The place of a target, if it belongs to the partition. -/
def placeOf (fz : Fuses) (m : Mach) (p : Nat) (t : Target) : Option Place :=
  match t with
  | .station d u => if (part m p).dies.contains d.val then (namedStation fz m d.val u.val).map .slice else none
  | .wellhead w => if (part m p).dies.contains (wellDie w.val) && wellFitted fz w.val then some (.well w.val) else none
  | .cistern => some .cistern

/-- Beats or blocks of a place. -/
def placeSize (m : Mach) (p : Nat) (t : Place) : Nat :=
  match t with
  | .slice _ => 32768
  | .well _ => wellBeats
  | .cistern => (part m p).nsBlocks

/-- INSTANCE of a place. -/
def placeInst (p : Nat) (t : Place) : Nat :=
  match t with
  | .slice k => iStn k
  | .well w => iWell w
  | .cistern => iPart p

/-! ### SCRUB_RANGE (R400 to R404) -/

/-- What a scrub has found: corrected and uncorrectable units, addresses of the failing units in order. -/
structure Scrub where
  good : Nat := 0
  bad : Nat := 0
  fails : List Nat := []
  deriving DecidableEq, Repr

/-- One word of a slice, as (address, place in the storage) (R400, R404). -/
def scrubWord (k : Nat) (y : Mach × Scrub) (at_ : Nat × Nat) : Mach × Scrub :=
  let (m, r) := y
  let word := at_.1
  let e := tget 0 (stn m k).spErr at_.2
  match checkMask e with
  | .sound => (m, r)
  | .corrected =>
    let l := delivered e (peeks m.mem.scratch (scratchAddr m k (8 * word)) 8)
    let m := onStn k (fun s => { s with spErr := tdel s.spErr at_.2 }) (pokeScratch k (8 * word) l m)
    (noteCorrected k 2 false none (word / 16) [word % 16] m, { r with good := r.good + 1, fails := r.fails ++ [8 * word] })
  | .bad =>
    let m := raiseEvt 0x0032 1 (iStn k) (8 * word) (noteBad k false (word / 16) [word % 16] m)
    (m, { r with bad := r.bad + 1, fails := r.fails ++ [8 * word] })

/-- One sector of a wellhead, as (address, place in the stack) (R400, R403, R404): a correction is a write (R372). -/
def scrubSector (w : Nat) (y : Mach × Scrub) (at_ : Nat × Nat) : Mach × Scrub :=
  let (m, r) := y
  let i := at_.1
  let l := tget [] (well m w).secErr at_.2
  match checkSector l with
  | .sound => (m, r)
  | .corrected =>
    let a := hbmAddr w (at_.2 / 4) + 32 * (at_.2 % 4)
    let m := onWell w (fun h => { h with secErr := tdel h.secErr at_.2 })
      (pokeHbm a (sectorData l (peeks m.mem.hbm a 32)) m)
    (noteSector w (i / 4) (i % 4) 2 l m, { r with good := r.good + 1, fails := r.fails ++ [i] })
  | .bad =>
    let m := raiseEvt 0x0032 1 (iWell w) i (noteBadSector w (i / 4) (i % 4) m)
    (m, { r with bad := r.bad + 1, fails := r.fails ++ [i] })

/-- One cistern block: its code can only fail (R377, R400, R404). -/
def scrubBlock (p : Nat) (y : Mach × Scrub) (b : Nat) : Mach × Scrub :=
  let (m, r) := y
  if (cistFails m p b).isSome then
    (raiseEvt 0x0032 1 (iPart p) b m, { r with bad := r.bad + 1, fails := r.fails ++ [b] })
  else (m, r)

/-- A number put into its place in a rising list of pairs. -/
def insertPair (x : Nat × Nat) : List (Nat × Nat) → List (Nat × Nat)
  | [] => [x]
  | y :: r => if x.1 ≤ y.1 then x :: y :: r else y :: insertPair x r

/-- The units of a range whose places in the storage are listed in a table, in the order of their addresses; `home` gives the
address that a place serves. -/
def listedIn {α : Type} (t : Table α) (home : Nat → Option Nat) (lo n : Nat) : List (Nat × Nat) :=
  t.foldl (fun l y => match home y.1 with
    | some a => if lo ≤ a ∧ a < lo + n then insertPair (a, y.1) l else l
    | none => l) []

/-- The word of a slice that a place of its storage serves (R389): a spare serves the beat remapped to it, and the place of a
remapped beat serves none. -/
def Station.home (s : Station) (cell : Nat) : Option Nat :=
  let beat := cell / 16
  let a := if beat < 32768 then some beat else s.spMap[beat - 32768]?
  (a.filter (fun b => s.place b == beat)).map (fun b => 16 * b + cell % 16)

/-- The sector of a wellhead that a place of its stack serves (R389). -/
def Well.home (h : Well) (key : Nat) : Option Nat :=
  let a := key / 4 % 2 ^ 29
  if h.place a = key / 4 then some (4 * a + key % 4) else none

/-- Blocks of a range of a namespace that can fail. -/
def doubtful (m : Mach) (p start n : Nat) : List Nat :=
  ((m.cistErr ++ m.cistCrc.map (fun y => y.1)).foldr insertNat []).filterMap (fun k =>
    if cistKey p start ≤ k ∧ k < cistKey p start + n then some (k - cistKey p 0) else none)

/-- Units of a place in one beat or block. -/
def placeUnits (t : Place) : Nat :=
  match t with
  | .slice _ => 16
  | .well _ => 4
  | .cistern => 1

/-- Corrections of the stack's on-die ECC in the beats of a range that is read (R380). -/
def softIn (h : Well) (start n : Nat) : Nat :=
  (h.soft.filter (fun k => match h.home k with
    | some a => decide (4 * start ≤ a) && decide (a < 4 * (start + n))
    | none => false)).length

/-- The units of a range are checked in order; a unit with sound check bits needs nothing. What a wellhead reads and writes
back counts in its beats (R372). -/
def scrubPlace (p : Nat) (t : Place) (start n : Nat) (m : Mach) : Mach × Scrub :=
  match t with
  | .slice k =>
    let m := settleStn k m
    (listedIn (stn m k).spErr (stn m k).home (16 * start) (16 * n)).foldl (scrubWord k) (m, {})
  | .well w =>
    let m := bumpBy .eccWhOdc (iWell w) 0 (softIn (well m w) start n) (bumpBy .wlhRdbeats (iWell w) 0 n m)
    let l := listedIn (well m w).secErr (well m w).home (4 * start) (4 * n)
    let fixed := (l.filter (fun y => checkSector (tget [] (well m w).secErr y.2) == .corrected)).map (fun y => y.1 / 4)
    l.foldl (scrubSector w) (bumpBy .wlhWrbeats (iWell w) 0 (fixed.foldr insertNat []).length m, {})
  | .cistern => (doubtful m p start n).foldl (scrubBlock p) (m, {})

/-- The summary of Table 9-5. -/
def scrubBytes (st scanned : Nat) (r : Scrub) : List Byte :=
  leBytes 4 st ++ zeros 4 ++ leBytes 8 scanned ++ leBytes 6 r.good ++ leBytes 6 r.bad ++ zeros 4
    ++ leBytes 8 (r.fails.head?.getD (2 ^ 64 - 1)) ++ leBytes 8 (r.fails.getLast?.getD (2 ^ 64 - 1))

/-- The plan is in a state that leaves the slices alone (R401). -/
def slicesFree (st : PlanState) : Bool :=
  match st with
  | .running | .stopping => false
  | _ => true

/-- A scrub that ends before it checks anything. -/
def noScrub (v : Via) (st : Status) (m : Mach) : Mach := complete v st 0 (.bytes (scrubBytes st.code 0 {})) m

/-- A place is a station's slice. -/
def Place.isSlice : Place → Bool
  | .slice _ => true
  | _ => false

/-- SCRUB_RANGE. -/
def scrubRange (v : Via) (p : Nat) (t : Target) (start n : Nat) (fz : Fuses) (m : Mach) : Mach :=
  match placeOf fz m p t with
  | none => noScrub v .denied m
  | some y =>
    if y.isSlice && !slicesFree (part m p).st then noScrub v .badState m
    else if placeSize m p y < start + n then noScrub v .range m
    else
      let (m, r) := scrubPlace p y start n m
      complete v .ok 0 (.bytes (scrubBytes 0 (placeUnits y * n) r)) m

/-- SCRUB_RANGE. -/
def execScrubRange (v : Via) (p : Fin 4) (t : Target) (start length : Nat) (s : State) :
    Host.Outcome State Fault Refusal :=
  run s (fun fz => command v (some p.val) 0x701 (scrubRange v p.val t start length fz))

/-! ### ECC_FLIP_ARM (R405, R409) -/

/-- A mask armed. -/
def armed (mask : BitVec 72) : EccFlip := { state := 1, firedAt := 0, mask := mask }

/-- ECC_FLIP_ARM; the cistern has no flip mask. -/
def eccFlipArm (v : Via) (p : Nat) (t : Target) (mask : BitVec 72) (fz : Fuses) (m : Mach) : Mach :=
  if (part m p).st ≠ .empty ∧ consents m p 0 = false then answer v .denied m
  else
    match placeOf fz m p t with
    | none => answer v .denied m
    | some .cistern => answer v .range m
    | some (.slice k) => answer v .ok (onStn k (fun s => { s with flip := armed mask }) m)
    | some (.well w) => answer v .ok (onWell w (fun h => { h with flip := armed mask }) m)

/-- ECC_FLIP_ARM. -/
def execEccFlipArm (v : Via) (p : Fin 4) (t : Target) (mask : BitVec 72) (s : State) :
    Host.Outcome State Fault Refusal :=
  run s (fun fz => command v (some p.val) 0x702 (eccFlipArm v p.val t mask fz))

/-! ### ECC_REMAP_ADD (R391), ECC_COUNTS (R398) -/

/-- ECC_REMAP_ADD: a beat is recorded as a candidate; the cistern has no remap entries. -/
def eccRemapAdd (v : Via) (p : Nat) (t : Target) (loc : Nat) (fz : Fuses) (m : Mach) : Mach :=
  match placeOf fz m p t with
  | none => answer v .denied m
  | some y =>
    if placeSize m p y ≤ loc then answer v .range m
    else
      match y with
      | .cistern => answer v .range m
      | .slice k => answer v .ok (record { kind := 0, place := k, unit := 16 * loc, what := 3 } m)
      | .well w => answer v .ok (record { kind := 1, place := w, unit := 4 * loc, what := 3 } m)

/-- ECC_REMAP_ADD. -/
def execEccRemapAdd (v : Via) (p : Fin 4) (t : Target) (loc : Nat) (s : State) : Host.Outcome State Fault Refusal :=
  run s (fun fz => command v (some p.val) 0x703 (eccRemapAdd v p.val t loc fz))

/-- The counters of a station. -/
def stationCounts (m : Mach) (k : Nat) : List (String × Nat) :=
  [("STATION", k), ("ECC_SP_CE", (ctr m .eccSpCe (iStn k) 0).word), ("ECC_SP_UE", (ctr m .eccSpUe (iStn k) 0).word)]

/-- The counters of a wellhead. -/
def wellCounts (m : Mach) (w : Nat) : List (String × Nat) :=
  [("WELLHEAD", w), ("ECC_WH_CE", (ctr m .eccWhCe (iWell w) 0).word)
  , ("ECC_WH_UE", (ctr m .eccWhUe (iWell w) 0).word), ("ECC_WH_ODC", (ctr m .eccWhOdc (iWell w) 0).word)]

/-- ECC_COUNTS: every station, then every wellhead of the partition. -/
def eccCounts (v : Via) (p : Nat) (fz : Fuses) (m : Mach) : Mach :=
  let dies := (part m p).dies
  complete v .ok 0 (.fields (
    dies.flatMap (fun d => (List.range 144).flatMap (fun i => stationCounts m (stKey d i)))
      ++ (partWells fz m p).flatMap (wellCounts m))) m

/-- ECC_COUNTS. -/
def execEccCounts (v : Via) (p : Fin 4) (s : State) : Host.Outcome State Fault Refusal :=
  run s (fun fz => command v (some p.val) 0x704 (eccCounts v p.val fz))

end Sys2Proof.Machine
end

