-- ==== Sys2Proof/Machine/Determinism.lean ====
section
/-! DEFINITION. The determinism and debug commands (15): journal, replay, provenance, truncated runs. -/

namespace Sys2Proof.Machine

/-- A plan state in which nothing runs and nothing is halted (Table 15-9). -/
def quiet (s : PlanState) : Bool := s == .empty || s == .loaded || s == .stopped

/-! ### Journal and replay (R654 to R664) -/

/-- A journal destination of at least 64 MiB in the sealed data blocks or the namespace (R654, R702). -/
def jdestOk (q : Part) (d : JDest) : Bool :=
  decide (67108864 ≤ jdestSize d) &&
  (match d with
   | .host a n => inSealedData q a n
   | .cistern b n => q.nsValid && decide (b + n ≤ q.nsBlocks))

/-- DET_JOURNAL (R654): a new destination continues the journal and its chain. -/
def detJournal (v : Via) (p : Nat) (dest : Option JDest) (m : Mach) : Mach :=
  let q := part m p
  if !quiet q.st then answer v .badState m
  else
    match dest with
    | none => answer v .ok (onDet p (fun x => { x with journal := false, dest := none, jfull := false, pending := [] }) m)
    | some d =>
      if !jdestOk q d then answer v .range m
      else answer v .ok (onDet p (fun x => { x with journal := true, dest := some d, pos := 0, jfull := false }) m)

/-- DET_JOURNAL. -/
def execDetJournal (v : Via) (p : Fin 4) (dest : Option JDest) (s : State) : Host.Outcome State Fault Refusal :=
  run s (fun _ => command v (some p.val) 0x601 (detJournal v p.val dest))

/-- DET_REPLAY (R660, R661). -/
def detReplay (v : Via) (p : Nat) (j : JHead) (fz : Fuses) (m : Mach) : Mach :=
  let q := part m p
  match q.plan with
  | none => answer v .badState m
  | some pl =>
    if q.st ≠ .loaded then answer v .badState m
    else if j.program ≠ pl.digest then answer v .planMismatch m
    else if j.config ≠ configDigest fz m p then answer v .configMismatch m
    else if !j.chainOk then answer v .journalInvalid m
    else answer v .ok (setSeed q.dies j.seed (onDet p (fun x => { x with replay := some j }) m))

/-- DET_REPLAY. -/
def execDetReplay (v : Via) (p : Fin 4) (j : JHead) (s : State) : Host.Outcome State Fault Refusal :=
  run s (fun fz => command v (some p.val) 0x602 (detReplay v p.val j fz))

/-- DET_STATE (Table 15-10). -/
def Det.stateWord (x : Det) : Nat :=
  pack [(1, b2n x.journal), (1, b2n x.replay.isSome), (1, b2n x.diverged), (1, b2n x.broken), (1, b2n x.jfull)
  , (2, x.trunc), (17, 0), (40, x.divEntry)] 0

/-- DET_STATUS: DET_STATE, the chain, the journal position and the dump digests (R671). -/
def detStatus (v : Via) (p : Nat) (m : Mach) : Mach :=
  let x := (part m p).det
  complete v .ok 0 (.fields ([("DET_STATE", x.stateWord), ("CHAIN", x.chain.toNat), ("POSITION", x.pos)]
    ++ x.dumps.map (fun d => ("DUMP", d.toNat)))) m

/-- DET_STATUS. -/
def execDetStatus (v : Via) (p : Fin 4) (s : State) : Host.Outcome State Fault Refusal :=
  run s (fun _ => command v (some p.val) 0x606 (detStatus v p.val))

/-! ### Provenance (R645 to R653) -/

/-- The payload of PROV_CONFIG is within Table 15-9; its rings lie in the clear part of the host window. -/
def provOk (q : Part) (c : ProvCfg) : Bool :=
  decide (c.span < 2 ^ 32) && decide (1 ≤ c.batch) && decide (c.batch ≤ 65536)
  && (!c.enable || (inClear q c.ringAddr (64 + 128 * c.ringEntries) && inClear q c.batchRing (64 + 512 * c.batchEntries)))

/-- PROV_CONFIG. -/
def provConfig (v : Via) (p : Nat) (c : ProvCfg) (m : Mach) : Mach :=
  let q := part m p
  if !quiet q.st then answer v .badState m
  else if !provOk q c then answer v .range m
  else answer v .ok (onProv p (fun x => { x with cfg := some c }) m)

/-- PROV_CONFIG. -/
def execProvConfig (v : Via) (p : Fin 4) (c : ProvCfg) (s : State) : Host.Outcome State Fault Refusal :=
  run s (fun _ => command v (some p.val) 0x603 (provConfig v p.val c))

/-- PROV_SEAL (R652, R653): the open batch closes, and its statement is the response. -/
def provSeal (v : Via) (p : Nat) (m : Mach) : Mach :=
  let (m, l) := closeBatch p m
  complete v .ok 0 (if l = [] then .empty else .bytes l) m

/-- PROV_SEAL. -/
def execProvSeal (v : Via) (p : Fin 4) (s : State) : Host.Outcome State Fault Refusal :=
  run s (fun _ => command v (some p.val) 0x604 (provSeal v p.val))

/-! ### Truncated runs (R665 to R671) -/

/-- What a region of a dump reads: the slice of a station, or a wellhead. -/
inductive DumpAt where
  | slice (k : Nat)
  | well (w : Nat)
  deriving DecidableEq, Repr

/-- The place of a region of a dump, if it lies in the partition (Table 15-8). -/
def dumpAt (fz : Fuses) (m : Mach) (p : Nat) (r : DumpRegion) : Option DumpAt :=
  if !(part m p).dies.contains r.die then none
  else
    match r.kind with
    | 0 => if r.start + r.len ≤ 32768 then (keyOf m r.die r.unit).map DumpAt.slice else none
    | 1 =>
      let w := r.unit - 0xE0
      if 0xE0 ≤ r.unit ∧ wellFitted fz w = true ∧ wellDie w = r.die ∧ r.start + r.len ≤ wellBeats then some (.well w)
      else none
    | _ => none

/-- Bytes of the dump area. -/
def dumpSize (t : TruncPayload) : Nat := 512 + 128 * t.regions.foldl (fun n r => n + r.len) 0

/-- The payload of DET_TRUNCATE is within Table 15-8. -/
def truncOk (fz : Fuses) (m : Mach) (p : Nat) (t : TruncPayload) : Bool :=
  t.resv == 0 && decide (t.step < 2 ^ 48) && decide (t.cycle < (classOf m p t.step).w) && decide (t.settleUs ≤ 100000)
  && decide (t.regions.length ≤ 16) && t.dumpAddr % 4096 == 0 && inHostWindow (part m p) t.dumpAddr t.dumpLen
  && t.regions.all (fun r => (dumpAt fz m p r).isSome)

/-- DET_TRUNCATE (R665, R689). -/
def detTruncate (v : Via) (p : Nat) (t : TruncPayload) (fz : Fuses) (m : Mach) : Mach :=
  let q := part m p
  if !consents m p 2 then answer v .denied m
  else if q.det.trunc ≥ 2
      ∨ !(q.st == .loaded || q.st == .stopped || (q.st == .running && decide (q.step < t.step))) then answer v .badState m
  else if !truncOk fz m p t then answer v .range m
  else if t.dumpLen < dumpSize t then answer v .noSpace m
  else answer v .ok (onDet p (fun x => { x with trunc := 1, point := some t, dumps := [] }) m)

/-- DET_TRUNCATE. -/
def execDetTruncate (v : Via) (p : Fin 4) (t : TruncPayload) (s : State) : Host.Outcome State Fault Refusal :=
  run s (fun fz => command v (some p.val) 0x605 (detTruncate v p.val t fz))

/-- DET_DISARM: a point that is not reached. -/
def detDisarm (v : Via) (p : Nat) (m : Mach) : Mach :=
  answer v .ok (onDet p (fun x => if x.trunc = 1 then { x with trunc := 0, point := none } else x) m)

/-- DET_DISARM. -/
def execDetDisarm (v : Via) (p : Fin 4) (s : State) : Host.Outcome State Fault Refusal :=
  run s (fun _ => command v (some p.val) 0x607 (detDisarm v p.val))

/-- TRUNCATE_POINT (R666): every station stops; beats on the mesh are discarded, receive slots stay unwritten. -/
def truncatePoint (p : Nat) (m : Mach) : Mach :=
  let q := part m p
  match q.det.point with
  | none => m
  | some t =>
    if q.det.trunc ≠ 1 ∨ stepping m p = false ∨ q.step ≠ t.step then m
    else
      let causes := causeMask m p
      let m := onDet p (fun x => { x with
        trunc := 2, stopCauses := causes, settleEnd := m.clk.wall + 1000 * t.settleUs }) m
      let m := onPart p (fun q => { q with inStep := false }) m
      bump .detTruncs (iPart p) { m with
        stations := tmapIf {} (fun k => q.dies.contains (k / 256)) (fun s => { s with recvs := [] }) m.stations
        mesh := m.mesh.filter (fun b => !q.dies.contains b.dstDie) }

/-- TRUNCATE_POINT. -/
def execTruncatePoint (p : Fin 4) (s : State) : Host.Outcome State Fault Refusal :=
  run s (fun _ => truncatePoint p.val)

/-- A descriptor of the partition is PENDING, or a transfer of it is in progress. -/
def unsettled (m : Mach) (p : Nat) : Bool :=
  let dies := (part m p).dies
  let mine (t : Xfer) : Bool := t.started && !t.ready && dies.contains (t.key / 256)
  m.stations.any (fun y => dies.contains (y.1 / 256) && y.2.sbd.any (fun d => d.2.state == .pending))
  || m.wells.any (fun y => y.2.queue.any mine) || m.hosts.any (fun y => y.2.any mine) || m.links.any (fun y => y.2.any mine)

/-- The beats of a region, in the clear (R351, R671); a beat that the wellhead cannot deliver reads as a free value. -/
def dumpBeats (a : DumpAt) (start n : Nat) (m : Mach) : Mach × List Byte :=
  (List.range n).foldl (fun (y : Mach × List Byte) i =>
    let (m, l) := y
    match a with
    | .slice k => let (m, _, b) := laneRead k (start + i) .idle m; (m, l ++ b)
    | .well w =>
      match readHbm w (start + i) m with
      | (m, .ok b) => (m, l ++ b)
      | (m, .error _) => ({ m with freeCtr := m.freeCtr + 1 }, l ++ leBytes 128 (Config.random m.freeCtr))) (m, [])

/-- The digests of the regions. -/
def dumpAll (fz : Fuses) (p : Nat) (l : List DumpRegion) (m : Mach) : Mach × List Digest :=
  l.foldl (fun (y : Mach × List Digest) r =>
    match dumpAt fz m p r with
    | some a => let (m, b) := dumpBeats a r.start r.len y.1; (m, y.2 ++ [sha256 b])
    | none => y) (m, [])

/-- The dump area (R671): blocks sealed under the debug key, which are free bytes (log 20). -/
def writeDump (t : TruncPayload) (m : Mach) : Mach :=
  let l := leBytes (dumpSize t) (Config.random m.freeCtr)
  { pokeHost t.dumpAddr l m with freeCtr := m.freeCtr + 1 }

/-- TRUNCATE_SETTLE (R667, R670, R671): what has started has completed, or SETTLE has elapsed; the dumps are written,
and the partition is HALTED. -/
def truncateSettle (p : Nat) (fz : Fuses) (m : Mach) : Mach :=
  let q := part m p
  match q.det.point with
  | none => m
  | some t =>
    if q.det.trunc ≠ 2 then m
    else
      let open_ := unsettled m p
      let m := if open_ then reachWall q.det.settleEnd m else m
      let m := onDet p (fun x => { x with trunc := 3 }) m
      let (m, ds) := dumpAll fz p t.regions m
      let m := writeDump t (onDet p (fun x => { x with dumps := ds }) m)
      let pend := m.stations.any (fun y => q.dies.contains (y.1 / 256) && y.2.sbd.any (fun d => d.2.state == .pending))
      haltPart fz p { reason := 0x11, die := p, queue := 3, unit := 0, pidx := 0xFF, cycle := t.cycle, iaddr := none
                      subcode := 0, arg := pack [(8, t.regions.length), (1, b2n pend), (39, 0)] 0, station := false
                      issuer := none, causes := some q.det.stopCauses } m

/-- TRUNCATE_SETTLE. -/
def execTruncateSettle (p : Fin 4) (s : State) : Host.Outcome State Fault Refusal :=
  run s (truncateSettle p.val)

end Sys2Proof.Machine
end

