-- ==== Sys2Proof/Machine/Weights.lean ====
section
/-! DEFINITION. Weights (14): the manifest and its checks, fetch and stage, pacing, the swap in place. -/

namespace Sys2Proof.Machine

/-! ### The manifest (R615, R617) -/

/-- Bytes of a whole chunk (R611). -/
def chunkSize : Nat := 4194304

/-- An entry is within the ranges of Table 14-2 (R611). -/
def entryRangesOk (q : Part) (e : WEntry) : Bool :=
  e.resv == 0 && decide (4096 ≤ e.length) && decide (e.length ≤ chunkSize) && e.length % 4096 == 0
  && (match e.srcKind with
      | 0 => decide (e.target ≤ 15)
      | 1 => e.target == 0 && e.nsid == 0 && e.saddr % 4096 == 0 && inHostWindow q e.saddr e.length
      | 2 => e.target == 0 && e.nsid == 0 && e.saddr % 4096 == 0
      | _ => false)

/-- A chunk shorter than the greatest length is the last of its tensor: no entry names a later one (R611). -/
def lastOk (l : List WEntry) (e : WEntry) : Bool :=
  e.length == chunkSize || l.all (fun f => f.tensor != e.tensor || decide (f.chunk ≤ e.chunk))

/-- Check 1 of R617. -/
def manifestRangesOk (q : Part) (w : WPayload) (x : WManifest) : Bool :=
  x.format == 1 && x.resv == 0 && decide (1 ≤ x.shards) && decide (x.shards ≤ 16384) && decide (x.shard < x.shards)
  && decide (1 ≤ x.entries.length) && decide (x.entries.length ≤ 262144) && x.roots.length == x.shards
  && x.byteLen == 128 + 32 * x.shards + 128 * x.entries.length && w.manLen == x.byteLen
  && x.entries.all (entryRangesOk q) && x.entries.all (lastOk x.entries)

/-- Check 3 of R617. -/
def rootsOk (x : WManifest) : Bool := merkle x.roots == x.wset && x.roots.getD x.shard 0 == x.shardRoot

/-- Check 4 of R617. -/
def entriesOk (x : WManifest) : Bool := merkle (x.entries.map (fun e => e.digest)) == x.shardRoot

/-- The tier-map entry of a tensor in the plan loaded. -/
def tierOf (m : Mach) (p tensor : Nat) : Option TierEntry :=
  ((planOf m p).map (fun pl => pl.tierMap)).getD [] |>.find? (fun t => t.tensor == tensor)

/-- No entry of a list covers bytes of another: a chunk begins at a multiple of its greatest length (R611). -/
def apart : List WEntry → Bool
  | [] => true
  | e :: r => r.all (fun f => f.tensor != e.tensor || f.chunk != e.chunk) && apart r

/-- Check 5 of R617. -/
def placesOk (m : Mach) (p : Nat) (x : WManifest) : Bool :=
  x.entries.all (fun e =>
    match tierOf m p e.tensor with
    | some t => decide (e.chunk * chunkSize + e.length ≤ 4096 * t.blocks)
    | none => false) && apart x.entries

/-- The checks of R617 in order: the status of the first that fails. -/
def checkManifest (m : Mach) (p : Nat) (w : WPayload) (x : WManifest) : Option Status :=
  let k := tget {} (part m p).sec.models w.mkey
  if !manifestRangesOk (part m p) w x then some .manifestInvalid
  else if k.st ≠ 1 ∨ k.wset ≠ x.wset then some .keyMismatch
  else if !rootsOk x || !entriesOk x || !placesOk m p x then some .manifestInvalid
  else none

/-- MAX_OUT and RATE_CAP of Table 14-6. -/
def paceOk (maxOut rateCap : Nat) : Bool :=
  decide (chunkSize ≤ maxOut) && decide (maxOut ≤ 2 ^ 32) && maxOut % chunkSize == 0
  && (rateCap == 0 || (decide (100 ≤ rateCap) && decide (rateCap ≤ 200000)))

/-- The payload is within Table 14-6; the manifest and a host-window destination lie in the host window. -/
def payloadOk (q : Part) (stage : Bool) (w : WPayload) : Bool :=
  w.resv == 0 && decide (w.mkey ≤ 3) && paceOk w.maxOut w.rateCap && inHostWindow q w.manAddr w.manLen
  && (if stage then
        if w.dest = 0 then decide (w.destAddr + w.destLen ≤ q.nsBlocks)
        else w.dest == 1 && w.destAddr % 4096 == 0 && inHostWindow q w.destAddr w.destLen
      else w.dest == 0)

/-! ### The job in progress -/

/-- A fetch, stage or swap is in progress. -/
def weightsBusy (m : Mach) (p : Nat) : Bool := (part m p).wgt.job.isSome || (part m p).wgt.swap.isSome

/-- Depth of the rate bucket in thousandths of a byte (R627). -/
def bucketDepth (rateCap : Nat) : Nat := 1000 * (if rateCap * 1000 < chunkSize then chunkSize else rateCap * 1000)

/-- The rate bucket at a wall time (R627): RATE_CAP in MB/s is as many thousandths of a byte in a nanosecond. -/
def Job.fill (j : Job) (rateCap wall : Nat) : Job :=
  let n := j.bucket + rateCap * (wall - j.at_)
  { j with bucket := if n < bucketDepth rateCap then n else bucketDepth rateCap, at_ := wall }

/-- The job ends: the state of the set or the stage that it leaves, and its command's status. -/
def endJob (p : Nat) (j : Job) (fail : Option Nat) (st : Status) (m : Mach) : Mach :=
  let stage := decide ((part m p).wgt.stage = 1)
  let m := onWgt p (fun w => { w with
    job := none, fail := if fail.isSome then fail else w.fail
    st := if stage then w.st else 3, stage := if stage then 0 else w.stage }) m
  answer j.via st m

/-- Every chunk of the job is verified: the set is VALID (R622), or the partition STAGED (R629). -/
def jobDone (p : Nat) (j : Job) (m : Mach) : Mach :=
  let m := onWgt p (fun w =>
    if w.stage = 1 then
      let same := decide (w.sdigest = j.man.wset)
      { w with job := none, stage := 2, staged := some (j.man, j.pay), skey := j.pay.mkey, sdigest := j.man.wset
               groups := if same then w.groups else 0 }
    else { w with job := none, st := 2 }) m
  answer j.via .ok m

/-- The job is complete when as many chunks are verified as it has. -/
def maybeDone (p : Nat) (m : Mach) : Mach :=
  let w := (part m p).wgt
  match w.job with
  | some j => if w.total ≤ w.done then jobDone p j m else m
  | none => m

/-- WEIGHTS_FETCH (R621, R622, R624): a fetch ends a swap that failed; chunks verified before under the same manifest
and key slot are not fetched again. -/
def weightsFetch (v : Via) (p : Nat) (w : WPayload) (x : WManifest) (m : Mach) : Mach :=
  let q := part m p
  if (q.st ≠ .loaded ∧ q.st ≠ .stopped) ∨ weightsBusy m p then answer v .badState m
  else if !payloadOk q false w then answer v .range m
  else
    match checkManifest m p w x with
    | some st => answer v st m
    | none =>
      let same := q.wgt.cur == some x && q.wgt.mkey == w.mkey && q.wgt.phase == 0
      let ok := if same then q.wgt.verified else []
      let j : Job := { man := x, pay := w, via := v, chunks := ok.map (fun i => (i, { issued := true, ok := true }))
                       bucket := bucketDepth w.rateCap, at_ := m.clk.wall }
      maybeDone p (onWgt p (fun y => { y with
        st := 1, phase := 0, groups := 0, mkey := w.mkey, digest := x.wset, cur := some x, verified := ok
        total := x.entries.length, done := ok.length, maxOut := w.maxOut, rateCap := w.rateCap, job := some j }) m)

/-- WEIGHTS_FETCH. -/
def execWeightsFetch (v : Via) (p : Fin 4) (w : WPayload) (m : WManifest) (s : State) :
    Host.Outcome State Fault Refusal :=
  run s (fun _ => command v (some p.val) 0x401 (weightsFetch v p.val w m))

/-- Bytes of all entries. -/
def totalBytes (x : WManifest) : Nat := x.entries.foldl (fun n e => n + e.length) 0

/-- WEIGHTS_STAGE (R629). -/
def weightsStage (v : Via) (p : Nat) (w : WPayload) (x : WManifest) (m : Mach) : Mach :=
  let q := part m p
  if q.st = .empty ∨ weightsBusy m p then answer v .badState m
  else if !payloadOk q true w then answer v .range m
  else
    match checkManifest m p w x with
    | some st => answer v st m
    | none =>
      if w.destLen * (if w.dest = 0 then 4096 else 1) < totalBytes x then answer v .noSpace m
      else
        let j : Job := { man := x, pay := w, via := v, bucket := bucketDepth w.rateCap, at_ := m.clk.wall }
        onWgt p (fun y => { y with
          stage := 1, staged := none, total := x.entries.length, done := 0, maxOut := w.maxOut, rateCap := w.rateCap
          job := some j }) m

/-- WEIGHTS_STAGE. -/
def execWeightsStage (v : Via) (p : Fin 4) (w : WPayload) (m : WManifest) (s : State) :
    Host.Outcome State Fault Refusal :=
  run s (fun _ => command v (some p.val) 0x402 (weightsStage v p.val w m))

/-! ### The swap (R630 to R637) -/

/-- Two manifests name the same tensors and chunk lengths (R631). -/
def sameShape (a b : WManifest) : Bool :=
  let has (l : List WEntry) (e : WEntry) : Bool :=
    l.any (fun f => f.tensor == e.tensor && f.chunk == e.chunk && f.length == e.length)
  a.entries.all (has b.entries) && b.entries.all (has a.entries)

/-- The partitions of this module that run the plan of a partition. -/
def fellows (m : Mach) (p : Nat) : List Nat :=
  match planOf m p with
  | some pl => (m.parts.filter (fun y => (y.2.plan.map (fun z => z.digest)) == some pl.digest)).map (fun y => y.1)
  | none => []

/-- OVERWRITE starts again at the first group not done on each member that stopped (R636). -/
def againGroups (m : Mach) (p : Nat) : Mach :=
  (fellows m p).foldl (fun m q => onWgt q (fun w =>
    if w.phase = 2 ∧ w.st = 3 then { w with st := 4, verified := [], done := 0 } else w) m) m

/-- WEIGHTS_SWAP (R631, R632, R636): the barrier is the step named or the first unsealed one; after a failed
OVERWRITE it starts again without a DRAIN. -/
def weightsSwap (v : Via) (p barrier ctx : Nat) (m : Mach) : Mach :=
  let q := part m p
  let moving := q.srv.sess.any (fun y => y.2.st == .parking || y.2.st == .unparking)
  match serveOf m p, q.wgt.staged with
  | some sv, some (x, _) =>
    if !sv.home || q.st ≠ .running || q.wgt.stage ≠ 2 || moving || weightsBusy m p then answer v .badState m
    else if 2 ^ 48 ≤ barrier ∨ 1 < ctx then answer v .range m
    else if !((q.wgt.cur.map (sameShape x)).getD false) then answer v .manifestInvalid m
    else if journalRefuses m p v then refuseJournalled p v m
    else if q.wgt.phase = 2 then
      let m := if v.caller = .journal then m else journalCommand p 0x403 (payloadOf m v) (stepNow m p) (posNow m p) m
      againGroups (onWgt p (fun w => { w with swap := some v, ctx := ctx }) m) p
    else
      let first := firstUnsealed m p sv.lead
      let b := if v.caller = .journal then q.step else if barrier < first then first else barrier
      onWgt p (fun w => { w with swap := some v, ctx := ctx, barrier := b, groups := 0 }) m
  | _, _ => answer v .badState m

/-- WEIGHTS_SWAP. -/
def execWeightsSwap (v : Via) (p : Fin 4) (barrier ctx : Nat) (s : State) : Host.Outcome State Fault Refusal :=
  run s (fun _ => command v (some p.val) 0x403 (weightsSwap v p.val barrier ctx))

/-! ### The other commands (Table 14-5) -/

/-- WEIGHTS_PACE (R628): the new values hold for the chunks that come. -/
def weightsPace (v : Via) (p maxOut rateCap : Nat) (m : Mach) : Mach :=
  match (part m p).wgt.job with
  | none => answer v .badState m
  | some j =>
    if !paceOk maxOut rateCap then answer v .range m
    else
      let j := j.fill (part m p).wgt.rateCap m.clk.wall
      let top := bucketDepth rateCap
      answer v .ok (onWgt p (fun w => { w with
        maxOut := maxOut, rateCap := rateCap
        job := some { j with bucket := if j.bucket < top then j.bucket else top } }) m)

/-- WEIGHTS_PACE. -/
def execWeightsPace (v : Via) (p : Fin 4) (maxOut rateCap : Nat) (s : State) : Host.Outcome State Fault Refusal :=
  run s (fun _ => command v (some p.val) 0x404 (weightsPace v p.val maxOut rateCap))

/-- WEIGHTS_ABORT: a fetch or stage ends with ABORTED. -/
def weightsAbort (v : Via) (p : Nat) (m : Mach) : Mach :=
  match (part m p).wgt.job with
  | none => answer v .badState m
  | some j => answer v .ok (endJob p j none .aborted m)

/-- WEIGHTS_ABORT. -/
def execWeightsAbort (v : Via) (p : Fin 4) (s : State) : Host.Outcome State Fault Refusal :=
  run s (fun _ => command v (some p.val) 0x405 (weightsAbort v p.val))

/-- WGT_STATE (Table 14-7). -/
def Wgt.stateWord (w : Wgt) : Nat :=
  pack [(3, w.st), (2, w.stage), (2, w.phase), (1, w.ctx), (2, w.mkey), (2, w.skey), (3, 0), (9, w.groups), (21, 0)
  , (1, b2n w.fail.isSome), (18, w.fail.getD 0)] 0

/-- WGT_PROGRESS (Table 14-8). -/
def Wgt.progressWord (w : Wgt) : Nat := pack [(13, 0), (19, w.total), (13, 0), (19, w.done)] 0

/-- WGT_PACE (Table 14-9). -/
def Wgt.paceWord (w : Wgt) : Nat := pack [(16, w.maxOut / chunkSize), (16, 0), (32, w.rateCap)] 0

/-- WEIGHTS_STATUS: WGT_STATE, WGT_PROGRESS and both digests. -/
def weightsStatus (v : Via) (p : Nat) (m : Mach) : Mach :=
  let w := (part m p).wgt
  complete v .ok 0 (.fields [("WGT_STATE", w.stateWord), ("WGT_PROGRESS", w.progressWord)
    , ("WGT_DIGEST", w.digest.toNat), ("WGT_SDIGEST", w.sdigest.toNat)]) m

/-- WEIGHTS_STATUS. -/
def execWeightsStatus (v : Via) (p : Fin 4) (s : State) : Host.Outcome State Fault Refusal :=
  run s (fun _ => command v (some p.val) 0x406 (weightsStatus v p.val))

/-- WEIGHTS_TARGET (R618). -/
def weightsTarget (v : Via) (p target addr service : Nat) (nqn : List Byte) (m : Mach) : Mach :=
  if (part m p).wgt.job.isSome then answer v .badState m
  else if 2 ^ 128 ≤ addr ∨ 2 ^ 64 ≤ service ∨ 223 < nqn.length then answer v .range m
  else
    answer v .ok (onWgt p (fun w => { w with
      targets := tput {} w.targets target { addr := addr, service := service, nqn := nqn } }) m)

/-- WEIGHTS_TARGET. -/
def execWeightsTarget (v : Via) (p : Fin 4) (target : Fin 16) (addr service : Nat) (nqn : List Byte) (s : State) :
    Host.Outcome State Fault Refusal :=
  run s (fun _ => command v (some p.val) 0x407 (weightsTarget v p.val target.val addr service nqn))

/-! ### Chunks -/

/-- The Reads of a chunk leave for storage (R618); the other sources need none. -/
def sendReads (e : WEntry) (m : Mach) : Mach :=
  if e.srcKind = 0 then { m with out := m.out ++ [.fetch e.target e.nsid e.saddr e.length] } else m

/-- Changing a chunk of the job. -/
def onChunk (p i : Nat) (f : Chunk → Chunk) (m : Mach) : Mach :=
  onWgt p (fun w => { w with job := w.job.map (fun j => { j with chunks := tmod {} j.chunks i f }) }) m

/-- CHUNK_ISSUE (R622, R626, R627): the next chunk in entry order, within MAX_OUT and the rate bucket. -/
def chunkIssue (p : Nat) (m : Mach) : Mach :=
  let w := (part m p).wgt
  match w.job with
  | none => m
  | some j =>
    match (List.range j.man.entries.length).find? (fun i => !(tget {} j.chunks i).issued) with
    | none => m
    | some i =>
      match j.man.entries[i]? with
      | none => m
      | some e =>
        let j := j.fill w.rateCap m.clk.wall
        if w.maxOut < j.out + e.length ∨ (w.rateCap ≠ 0 ∧ j.bucket < 1000 * e.length) then m
        else
          let b := if w.rateCap = 0 then j.bucket else j.bucket - 1000 * e.length
          let j := { j with out := j.out + e.length, bucket := b
                            chunks := tmod {} j.chunks i (fun c => { c with issued := true }) }
          sendReads e (onWgt p (fun w => { w with job := some j }) m)

/-- CHUNK_ISSUE. -/
def execChunkIssue (p : Fin 4) (s : State) : Host.Outcome State Fault Refusal := run s (fun _ => chunkIssue p.val)

/-- Consecutive HBM beats written, of a write of the beats [lo, hi); one that needs a key that is not LOADED halts the partition
(08 R353). -/
def writeRun (fz : Fuses) (w lo hi : Nat) : Nat → List (List Byte) → Mach → Mach × Bool
  | _, [], m => (m, true)
  | a, l :: r, m =>
    match writeHbm w lo hi a l m with
    | (m, some e) => (keyHalt fz w e m, false)
    | (m, none) => writeRun fz w lo hi (a + 1) r m

/-- The die whose host gateway carries the data of a chunk of a job or a swap (R619, Table 14-3). -/
def chunkDie (m : Mach) (p : Nat) (stage : Bool) (e : WEntry) : Nat :=
  match tierOf m p e.tensor with
  | some t => if t.place = 0 ∧ stage = false then wellDie t.wh else p
  | none => p

/-- The host gateway of a die can carry a chunk (08 R333, R362): fewer than 64 transfers are outstanding there, and every request
that has arrived before has started. -/
def gatewayFree (m : Mach) (d : Nat) : Bool :=
  let l := tget [] m.hosts d
  decide ((startedOf l).length < 64) && l.all (fun t => t.started || !arrived m (cycleNow m (partOf m d)) t)

/-- The plaintext of a chunk written where Table 14-3 says; `false` where a key of the wellhead stops the write. -/
def placeChunk (fz : Fuses) (p : Nat) (e : WEntry) (plain : List Byte) (m : Mach) : Mach × Bool :=
  let off := e.chunk * chunkSize
  match tierOf m p e.tensor with
  | none => (m, true)
  | some t =>
    match t.place with
    | 0 =>
      let a := t.home + off / 128
      writeRun fz t.wh a (a + plain.length / 128) a (chunks 128 (plain.length / 128) plain) m
    | 1 => (storeCist p (4096 * t.back + off) plain m, true)
    | _ => (storeSealed p (hostAddr (part m p) (t.back + off / 128)) plain m, true)

/-- Where the staging destination holds chunk i of a manifest (R629): an offset of the namespace, or an address of host memory. -/
def stageAt (x : WManifest) (w : WPayload) (i : Nat) : Nat :=
  (if w.dest = 0 then 4096 * w.destAddr else w.destAddr) + (x.entries.take i).foldl (fun n f => n + f.length) 0

/-- The ciphertext of a chunk stored unchanged at the staging destination (R629). -/
def stageChunk (p : Nat) (j : Job) (i : Nat) (cipher : List Byte) (m : Mach) : Mach :=
  if j.pay.dest = 0 then storeCist p (stageAt j.man j.pay i) cipher m else pokeHost (stageAt j.man j.pay i) cipher m

/-- The ciphertext of a chunk read back from the staging destination (R632). -/
def stagedBytes (m : Mach) (p : Nat) (x : WManifest) (w : WPayload) (i n : Nat) : List Byte :=
  if w.dest = 0 then peeks m.mem.cist (cistAddr p 0 + stageAt x w i) n else peeks m.mem.host (stageAt x w i) n

/-- The bytes of a chunk as they reach the decrypting unit of a fetch or a stage: out of the host window for SRC_KIND 1. -/
def chunkBytes (m : Mach) (e : WEntry) (cipher : List Byte) : List Byte :=
  if e.srcKind = 1 then peeks m.mem.host e.saddr e.length else cipher

/-- The data authenticated beside a chunk (R616). -/
def chunkAad (x : WManifest) (e : WEntry) : List Byte :=
  leBytes 4 e.tensor ++ leBytes 4 e.chunk ++ leBytes 4 e.length ++ leBytes 16 x.modelId.toNat

/-- A chunk decrypted under a model key, and whether its tag holds (R616, R620); without a key in the slot it does not. -/
def openChunk (k : LoadedKey) (x : WManifest) (e : WEntry) (cipher : List Byte) : Bool × List Byte :=
  let nonce := leBytes 12 e.nonce.toNat
  (k.st == 1 && gcmTag k.key.toNat nonce (chunkAad x e) cipher == leBytes 16 e.tag.toNat
  , gcmCrypt k.key.toNat nonce cipher)

/-- Both checks of R620: the tag, then the digest. -/
def chunkFails (e : WEntry) (tagOk : Bool) (plain : List Byte) : Option Status :=
  if !tagOk then some .authFail else if sha256 ([0] ++ plain) ≠ e.digest then some .digestMismatch else none

/-- The counters of failed checks. -/
def countFails (p : Nat) (e : WEntry) (tagOk : Bool) (plain : List Byte) (m : Mach) : Mach :=
  let m := if tagOk then m else bump .wgtAuthFail (iPart p) m
  if sha256 ([0] ++ plain) ≠ e.digest then bump .wgtDigestFail (iPart p) m else m

/-- A chunk of the fetch or stage is checked (R620, R623). -/
def verifyJob (fz : Fuses) (p i : Nat) (j : Job) (e : WEntry) (cipher : List Byte) (m : Mach) : Mach :=
  let stage := decide ((part m p).wgt.stage = 1)
  let (tagOk, plain) := openChunk (tget {} (part m p).sec.models j.pay.mkey) j.man e cipher
  let (m, wrote) := if stage then (stageChunk p j i cipher m, true) else placeChunk fz p e plain m
  let m := countFails p e tagOk plain (onWgt p (fun w => { w with
    job := w.job.map (fun j => { j with out := j.out - e.length }) }) m)
  let fail := if !wrote then some Status.ioError else chunkFails e tagOk plain
  match fail with
  | some st =>
    if (tget {} j.chunks i).again ∨ wrote = false then endJob p j (some i) st m
    else onChunk p i (fun c => { c with issued := false, again := true }) m
  | none =>
    let m := bump .wgtChunks (iPart p) (onChunk p i (fun c => { c with ok := true }) m)
    maybeDone p (onWgt p (fun w => { w with
      done := w.done + 1, verified := if stage then w.verified else insertNat i w.verified }) m)

/-- The tensors of the layer group that a member overwrites. -/
def groupTensors (m : Mach) (p : Nat) : List Nat :=
  match (planOf m p).bind (fun pl => pl.wswap) with
  | some w => w.groups.getD (part m p).wgt.groups []
  | none => []

/-- OVERWRITE fails on a member (R636): its set is INVALID, and the home's command completes. -/
def swapFails (p i : Nat) (st : Status) (m : Mach) : Mach :=
  let m := onWgt p (fun w => { w with st := 3, fail := some i }) m
  (fellows m p).foldl (fun m q =>
    match (part m q).wgt.swap with
    | some v => answer v st (onWgt q (fun w => { w with swap := none }) m)
    | none => m) m

/-- A chunk of the current layer group is read back, checked under the staged key and written (R632, R636). -/
def verifySwap (fz : Fuses) (p i : Nat) (x : WManifest) (w : WPayload) (e : WEntry) (m : Mach) : Mach :=
  let (tagOk, plain) := openChunk (tget {} (part m p).sec.models w.mkey) x e (stagedBytes m p x w i e.length)
  let (m, wrote) := placeChunk fz p e plain m
  let m := countFails p e tagOk plain m
  match (if !wrote then some Status.ioError else chunkFails e tagOk plain) with
  | some st => swapFails p i st m
  | none =>
    bump .wgtChunks (iPart p) (onWgt p (fun w => { w with
      done := w.done + 1, verified := insertNat i w.verified }) m)

/-- The entry of the staged manifest that OVERWRITE may take: of the current group, not verified in it. -/
def swapEntry (m : Mach) (p i : Nat) : Option (WManifest × WPayload × WEntry) :=
  let w := (part m p).wgt
  match w.staged with
  | some (x, y) =>
    if w.phase = 2 ∧ w.st = 4 ∧ w.verified.contains i = false then
      ((x.entries[i]?).filter (fun e => (groupTensors m p).contains e.tensor)).map (fun e => (x, y, e))
    else none
  | none => none

/-- READ_TIMEOUT (R623, R636): a Read without completion, or with an error status, is retried three times for its chunk; one that reads back from staging is not. -/
def readTimeout (p i : Nat) (m : Mach) : Mach :=
  match (part m p).wgt.job with
  | some j =>
    let c := tget {} j.chunks i
    match j.man.entries[i]? with
    | some e =>
      if !c.issued || c.ok then m
      else if c.retries < 3 then
        bump .wgtIoRetry (iPart p) (sendReads e (onChunk p i (fun c => { c with retries := c.retries + 1 }) m))
      else endJob p j (some i) .ioError m
    | none => m
  | none =>
    match swapEntry m p i with
    | some _ => swapFails p i .ioError m
    | none => m

/-- READ_TIMEOUT. -/
def execReadTimeout (p : Fin 4) (entry : Nat) (s : State) : Host.Outcome State Fault Refusal :=
  run s (fun _ => readTimeout p.val entry)

/-- All bytes of a chunk have reached its decrypting unit, which its host gateway lets them once it is free. A swap
reads them back from staging (R632). -/
def chunkArrives (p i : Nat) (cipher : List Byte) (fz : Fuses) (m : Mach) : Mach :=
  match (part m p).wgt.job with
  | some j =>
    let c := tget {} j.chunks i
    match j.man.entries[i]? with
    | some e =>
      let l := chunkBytes m e cipher
      if c.issued && !c.ok && l.length == e.length
          && gatewayFree m (chunkDie m p (decide ((part m p).wgt.stage = 1)) e) then verifyJob fz p i j e l m
      else m
    | none => m
  | none =>
    match swapEntry m p i with
    | some (x, w, e) => if gatewayFree m (chunkDie m p false e) = true then verifySwap fz p i x w e m else m
    | none => m

/-- CHUNK_VERIFY: the Reads of a chunk have completed, one of them perhaps with an error status (R623). -/
def chunkVerify (p i : Nat) (readOk : Bool) (cipher : List Byte) (fz : Fuses) (m : Mach) : Mach :=
  if readOk then chunkArrives p i cipher fz m else readTimeout p i m

/-- CHUNK_VERIFY. -/
def execChunkVerify (p : Fin 4) (entry : Nat) (readOk : Bool) (cipher : List Byte) (s : State) :
    Host.Outcome State Fault Refusal :=
  run s (chunkVerify p.val entry readOk cipher)

/-- LAYER_GROUP_DONE (R632): every chunk of the group is verified. -/
def layerGroupDone (p : Nat) (m : Mach) : Mach :=
  let w := (part m p).wgt
  match w.staged with
  | none => m
  | some (x, _) =>
    let ts := groupTensors m p
    let all := (List.range x.entries.length).all (fun i =>
      match x.entries[i]? with
      | some e => !ts.contains e.tensor || w.verified.contains i
      | none => true)
    if w.phase ≠ 2 ∨ w.st ≠ 4 ∨ groupCount m p ≤ w.groups ∨ all = false then m
    else onWgt p (fun w => { w with groups := w.groups + 1, verified := [] }) m

/-- LAYER_GROUP_DONE. -/
def execLayerGroupDone (p : Fin 4) (s : State) : Host.Outcome State Fault Refusal :=
  run s (fun _ => layerGroupDone p.val)

end Sys2Proof.Machine
end

