-- ==== Sys2Proof/Machine/Registers.lean ====
section
/-! DEFINITION. The registers of the manual as commands see them (17 R742 to R746): the directory, the layouts of every
register table, the caller policy of registers, and what a write does. -/

namespace Sys2Proof.Machine

/-! ### The directory (R742) -/

/-- The rows of Table 17-8: registers named in R689; other registers of a partition's instances; SEC_ROT; the other
SEC_ registers; MBX_ registers; the rest. -/
inductive RegClass where
  | tenant | unit | rot | sec | mbx | op
  deriving DecidableEq, Repr

/-- What a register's table says: its name, its instance kinds (Table 17-9), width and number of copies; the bits of
its RW and RWS fields, of its W1C fields, of its reserved fields; whether it has the layout of Table 2-7. -/
structure RegInfo where
  name : String
  kinds : List Nat
  width : Nat
  cls : RegClass
  copies : Nat := 1
  wmask : Nat := 0
  cmask : Nat := 0
  rsv : Nat := 0
  counts : Bool := false
  deriving DecidableEq, Repr

/-- A register without a writable field. -/
def plain (name : String) (kinds : List Nat) (width : Nat) (cls : RegClass) : RegInfo :=
  { name := name, kinds := kinds, width := width, cls := cls }

/-- A counter of Table 2-7. -/
def cell (name : String) (kind : Nat) (cls : RegClass) (copies : Nat := 1) : RegInfo :=
  { name := name, kinds := [kind], width := 64, cls := cls, copies := copies, cmask := span 63 63, rsv := span 62 48,
    counts := true }

/-- The register tables. -/
def regInfo (r : Reg) : RegInfo :=
  match r with
  | .stnRowmap => plain "STN_ROWMAP" [2] 32 .unit
  | .stnCollide => cell "STN_COLLIDE" 3 .unit
  | .stnCollideAt => plain "STN_COLLIDE_AT" [3] 64 .tenant
  | .stnXingDropE => cell "STN_XING_DROP_E" 2 .unit
  | .stnXingDropW => cell "STN_XING_DROP_W" 2 .unit
  | .stnRxbeats => cell "STN_RXBEATS" 3 .unit
  | .stnStampLast => plain "STN_STAMP_LAST" [3] 64 .tenant
  | .seqIbufMx =>
    { name := "SEQ_IBUF_MX", kinds := [3], width := 32, cls := .tenant,
      wmask := span 30 0, rsv := span 31 31 }
  | .seqIbufVx =>
    { name := "SEQ_IBUF_VX", kinds := [3], width := 32, cls := .tenant,
      wmask := span 30 0, rsv := span 31 31 }
  | .seqIbufMv =>
    { name := "SEQ_IBUF_MV", kinds := [3], width := 32, cls := .tenant,
      wmask := span 30 0, rsv := span 31 31 }
  | .seqQstat => plain "SEQ_QSTAT" [3] 64 .tenant
  | .seqCnt => { name := "SEQ_CNT", kinds := [3], width := 32, cls := .tenant, copies := 8, wmask := span 31 0 }
  | .seqSbd => { name := "SEQ_SBD", kinds := [3], width := 64, cls := .tenant, copies := 64 }
  | .seqStep => plain "SEQ_STEP" [1] 64 .tenant
  | .seqSteptel => plain "SEQ_STEPTEL" [1] 64 .tenant
  | .seqProfile => plain "SEQ_PROFILE" [1] 32 .tenant
  | .seqSecondary => cell "SEQ_SECONDARY" 1 .tenant
  | .seqVariant => plain "SEQ_VARIANT" [1] 64 .tenant
  | .hldState => plain "HLD_STATE" [1] 64 .unit
  | .hldCntDma => cell "HLD_CNT_DMA" 1 .unit
  | .hldCntLink => cell "HLD_CNT_LINK" 1 .unit
  | .hldCntCistern => cell "HLD_CNT_CISTERN" 1 .unit
  | .hldCntHost => cell "HLD_CNT_HOST" 1 .unit
  | .hldCntRefresh => cell "HLD_CNT_REFRESH" 1 .unit
  | .hldCntGate => cell "HLD_CNT_GATE" 1 .unit
  | .hldCntTotal => cell "HLD_CNT_TOTAL" 1 .unit
  | .hldEpisodes => cell "HLD_EPISODES" 1 .unit
  | .mxeAccst => { name := "MXE_ACCST", kinds := [3], width := 64, cls := .tenant, copies := 4 }
  | .mxeAx => { name := "MXE_AX", kinds := [3], width := 32, cls := .tenant, copies := 4 }
  | .mxeFlags =>
    { name := "MXE_FLAGS", kinds := [3], width := 32, cls := .tenant,
      cmask := span 19 0, rsv := span 31 20 }
  | .insLaflags =>
    { name := "INS_LAFLAGS", kinds := [3], width := 32, cls := .tenant,
      cmask := span 2 0, rsv := span 31 3 }
  | .insFlags =>
    { name := "INS_FLAGS", kinds := [3], width := 32, cls := .tenant,
      cmask := span 3 0, rsv := span 31 4 }
  | .vxeFlags =>
    { name := "VXE_FLAGS", kinds := [3], width := 32, cls := .tenant,
      cmask := span 4 0, rsv := span 31 5 }
  | .vxeSeed => { name := "VXE_SEED", kinds := [3], width := 64, cls := .tenant, wmask := span 63 0 }
  | .vxeSrkey => plain "VXE_SRKEY" [3] 96 .tenant
  | .wlhKey => plain "WLH_KEY" [4] 64 .tenant
  | .wlhRef => plain "WLH_REF" [4] 32 .unit
  | .wlhFlags =>
    { name := "WLH_FLAGS", kinds := [4], width := 32, cls := .tenant,
      cmask := span 2 0, rsv := span 31 3 }
  | .wlhRdbeats => cell "WLH_RDBEATS" 4 .unit
  | .wlhWrbeats => cell "WLH_WRBEATS" 4 .unit
  | .wlhRefunits => cell "WLH_REFUNITS" 4 .unit
  | .cstNs => plain "CST_NS" [1] 64 .op
  | .cstShare =>
    { name := "CST_SHARE", kinds := [1], width := 32, cls := .op,
      wmask := span 7 0, rsv := span 31 8 }
  | .eccSpCe => cell "ECC_SP_CE" 3 .unit
  | .eccSpUe => cell "ECC_SP_UE" 3 .unit
  | .eccWhCe => cell "ECC_WH_CE" 4 .unit
  | .eccWhUe => cell "ECC_WH_UE" 4 .unit
  | .eccWhOdc => cell "ECC_WH_ODC" 4 .unit
  | .eccLastS => plain "ECC_LAST" [3] 64 .tenant
  | .eccLastW => plain "ECC_LAST" [4] 64 .tenant
  | .eccFlipS => plain "ECC_FLIP" [3] 128 .tenant
  | .eccFlipW => plain "ECC_FLIP" [4] 128 .tenant
  | .eccSpmap => { name := "ECC_SPMAP", kinds := [3], width := 32, cls := .unit, copies := 8 }
  | .eccWhmap => { name := "ECC_WHMAP", kinds := [4], width := 32, cls := .unit, copies := 32 }
  | .eccFill => plain "ECC_FILL" [0] 32 .unit
  | .lrkCfg =>
    { name := "LRK_CFG", kinds := [5], width := 32, cls := .op,
      wmask := span 31 30 + span 23 0, rsv := span 29 24 }
  | .lrkPool => { name := "LRK_POOL", kinds := [5], width := 64, cls := .op, wmask := span 63 0 }
  | .lrkState => plain "LRK_STATE" [5] 64 .op
  | .lrkRtt => plain "LRK_RTT" [5] 32 .op
  | .lrkSeq => plain "LRK_SEQ" [5] 96 .op
  | .lrkFecCorr => cell "LRK_FEC_CORR" 5 .op
  | .lrkFecUnc => cell "LRK_FEC_UNC" 5 .op
  | .lrkLcrcErr => cell "LRK_LCRC_ERR" 5 .op
  | .lrkSeqDrop => cell "LRK_SEQ_DROP" 5 .op
  | .lrkKindDrop => cell "LRK_KIND_DROP" 5 .op
  | .lrkCreditViol => cell "LRK_CREDIT_VIOL" 5 .op
  | .lrkTimeouts => cell "LRK_TIMEOUTS" 5 .op
  | .lrkReplayed => cell "LRK_REPLAYED" 5 .op
  | .lrkDowns => cell "LRK_DOWNS" 5 .op
  | .lrkPrimeFail => cell "LRK_PRIME_FAIL" 5 .op
  | .lrkWidthChg => cell "LRK_WIDTH_CHG" 5 .op
  | .lrkLaneSym => cell "LRK_LANE_SYM" 5 .op 8
  | .rteCtl => plain "RTE_CTL" [1, 0] 96 .op
  | .rteRoute => { name := "RTE_ROUTE", kinds := [1, 0], width := 32, cls := .op, copies := 16384 }
  | .rteRwin => { name := "RTE_RWIN", kinds := [2], width := 128, cls := .op, copies := 8 }
  | .rteHcrcErr => cell "RTE_HCRC_ERR" 2 .op
  | .rteHdrErr => cell "RTE_HDR_ERR" 2 .op
  | .rteKeyDrop => cell "RTE_KEY_DROP" 2 .op
  | .rteAuthFail => cell "RTE_AUTH_FAIL" 2 .op
  | .rteRemoteDrop => cell "RTE_REMOTE_DROP" 2 .op
  | .rteDup => cell "RTE_DUP" 2 .op
  | .rteGap => cell "RTE_GAP" 2 .op
  | .rteCacheHit => cell "RTE_CACHE_HIT" 2 .op
  | .rteRespDup => cell "RTE_RESP_DUP" 2 .op
  | .rteHopsDrop => cell "RTE_HOPS_DROP" 2 .op
  | .rteFwdLate => cell "RTE_FWD_LATE" 2 .op
  | .rteEscaped => cell "RTE_ESCAPED" 2 .op
  | .rteNoroute => cell "RTE_NOROUTE" 2 .op
  | .rteEpochLate => cell "RTE_EPOCH_LATE" 2 .op
  | .rteAbortDup => cell "RTE_ABORT_DUP" 2 .op
  | .rteWindowWait => cell "RTE_WINDOW_WAIT" 2 .op
  | .rteNoresp => cell "RTE_NORESP" 2 .op
  | .clkCtl =>
    { name := "CLK_CTL", kinds := [1], width := 32, cls := .op,
      wmask := span 31 30, rsv := span 24 0 }
  | .clkMoncfg => { name := "CLK_MONCFG", kinds := [0], width := 32, cls := .op, wmask := span 31 0 }
  | .clkJhist => cell "CLK_JHIST" 6 .op 16
  | .clkDutyErr => cell "CLK_DUTY_ERR" 6 .op
  | .clkStretch => cell "CLK_STRETCH" 2 .op
  | .clkSymp => cell "CLK_SYMP" 2 .op
  | .clkSlip => cell "CLK_SLIP" 2 .op
  | .clkRefloss => cell "CLK_REFLOSS" 0 .op
  | .mtmNow => plain "MTM_NOW" [0] 80 .op
  | .mtmRate => plain "MTM_RATE" [0] 64 .op
  | .mtmState => plain "MTM_STATE" [0] 64 .op
  | .mtmCfg =>
    { name := "MTM_CFG", kinds := [0], width := 64, cls := .op,
      wmask := span 63 56 + span 47 38 + span 35 8 + span 1 0, rsv := span 55 48 + span 37 36 + span 7 2 }
  | .mtmPort => { name := "MTM_PORT", kinds := [0], width := 64, cls := .op, copies := 16 }
  | .mtmAsym => { name := "MTM_ASYM", kinds := [0], width := 32, cls := .op, copies := 16, wmask := span 31 0 }
  | .mtmMarkDrop => cell "MTM_MARK_DROP" 5 .op
  | .srvStat => plain "SRV_STAT" [1] 64 .unit
  | .srvQueue => plain "SRV_QUEUE" [1] 64 .unit
  | .srvCommitted => cell "SRV_COMMITTED" 1 .unit
  | .srvCompleted => cell "SRV_COMPLETED" 1 .unit
  | .srvCancelled => cell "SRV_CANCELLED" 1 .unit
  | .srvFailed => cell "SRV_FAILED" 1 .unit
  | .srvSpecProposed => cell "SRV_SPEC_PROPOSED" 1 .unit
  | .srvSpecAccepted => cell "SRV_SPEC_ACCEPTED" 1 .unit
  | .srvSpecRejected => cell "SRV_SPEC_REJECTED" 1 .unit
  | .srvRingWait => cell "SRV_RING_WAIT" 1 .unit
  | .srvRungChg => cell "SRV_RUNG_CHG" 1 .unit
  | .srvParks => cell "SRV_PARKS" 1 .unit
  | .srvUnparks => cell "SRV_UNPARKS" 1 .unit
  | .srvDigestFail => cell "SRV_DIGEST_FAIL" 1 .unit
  | .wgtState => plain "WGT_STATE" [1] 64 .unit
  | .wgtProgress => plain "WGT_PROGRESS" [1] 64 .unit
  | .wgtPace => plain "WGT_PACE" [1] 64 .unit
  | .wgtDigest => plain "WGT_DIGEST" [1] 256 .unit
  | .wgtSdigest => plain "WGT_SDIGEST" [1] 256 .unit
  | .wgtChunks => cell "WGT_CHUNKS" 1 .unit
  | .wgtIoRetry => cell "WGT_IO_RETRY" 1 .unit
  | .wgtAuthFail => cell "WGT_AUTH_FAIL" 1 .unit
  | .wgtDigestFail => cell "WGT_DIGEST_FAIL" 1 .unit
  | .wgtSwaps => cell "WGT_SWAPS" 1 .unit
  | .detState => plain "DET_STATE" [1] 64 .unit
  | .provState => plain "PROV_STATE" [1] 128 .unit
  | .detJchain => plain "DET_JCHAIN" [1] 256 .unit
  | .detJentries => cell "DET_JENTRIES" 1 .unit
  | .detRefused => cell "DET_REFUSED" 1 .unit
  | .detDiverge => cell "DET_DIVERGE" 1 .unit
  | .detTruncs => cell "DET_TRUNCS" 1 .unit
  | .provRecords => cell "PROV_RECORDS" 1 .unit
  | .provBatches => cell "PROV_BATCHES" 1 .unit
  | .provLost => cell "PROV_LOST" 1 .unit
  | .secPart => plain "SEC_PART" [1] 32 .sec
  | .secChange => plain "SEC_CHANGE" [0] 64 .sec
  | .secFslot => { name := "SEC_FSLOT", kinds := [2], width := 32, cls := .sec, copies := 256 }
  | .secRot =>
    { name := "SEC_ROT", kinds := [1], width := 32, cls := .rot,
      wmask := span 15 0, rsv := span 29 16 }
  | .secSession => plain "SEC_SESSION" [1] 64 .sec
  | .secSigfail => cell "SEC_SIGFAIL" 0 .sec
  | .secKeyloads => cell "SEC_KEYLOADS" 1 .sec
  | .secEnvReject => cell "SEC_ENV_REJECT" 1 .sec
  | .secTeardowns => cell "SEC_TEARDOWNS" 1 .sec
  | .secRotations => cell "SEC_ROTATIONS" 1 .sec
  | .mbxIrq =>
    { name := "MBX_IRQ", kinds := [7], width := 64, cls := .mbx, copies := 4,
      wmask := span 63 62 + span 47 37 + span 10 0, rsv := span 61 48 + span 36 11 }
  | .mbxPend =>
    { name := "MBX_PEND", kinds := [7], width := 32, cls := .mbx,
      cmask := span 3 0, rsv := span 31 4 }
  | .mbxBoot => plain "MBX_BOOT" [0] 64 .mbx
  | .wchState => plain "WCH_STATE" [0] 32 .op
  | .wchFrames => cell "WCH_FRAMES" 0 .op
  | .wchCrcErr => cell "WCH_CRC_ERR" 0 .op
  | .wchRepeat => cell "WCH_REPEAT" 0 .op
  | .wchOverrun => cell "WCH_OVERRUN" 0 .op
  | .pwrState => plain "PWR_STATE" [0] 32 .op
  | .pwrIn => plain "PWR_IN" [0] 64 .op
  | .pwrHoldup => plain "PWR_HOLDUP" [0] 64 .op
  | .pwrCfg =>
    { name := "PWR_CFG", kinds := [0], width := 32, cls := .op,
      wmask := span 31 20, rsv := span 19 0 }
  | .thmState => plain "THM_STATE" [1] 32 .op
  | .thmTemp => { name := "THM_TEMP", kinds := [0], width := 32, cls := .op, copies := 128 }
  | .pwrFails => cell "PWR_FAILS" 0 .op
  | .pwrHoldupTests => cell "PWR_HOLDUP_TESTS" 0 .op
  | .pwrHoldupLow => cell "PWR_HOLDUP_LOW" 0 .op
  | .pwrLimStretch => cell "PWR_LIM_STRETCH" 0 .op
  | .thmThrottle => cell "THM_THROTTLE" 0 .op
  | .thmTrips => cell "THM_TRIPS" 0 .op
  | .evtCfg =>
    { name := "EVT_CFG", kinds := [0], width := 32, cls := .op,
      wmask := span 31 29 + span 23 0, rsv := span 28 24 }
  | .evtWin => plain "EVT_WIN" [7] 32 .op
  | .evtRaised => cell "EVT_RAISED" 0 .op
  | .evtLost => cell "EVT_LOST" 7 .op
  | .telemLost => cell "TELEM_LOST" 1 .op
  | .varSwitches => cell "VAR_SWITCHES" 1 .op
  | .telemState => plain "TELEM_STATE" [1] 64 .op

/-- Every register, in the order of its number (R742: numbers are the firmware's; log 4). -/
def allRegs : List Reg :=
  [.stnRowmap, .stnCollide, .stnCollideAt, .stnXingDropE, .stnXingDropW, .stnRxbeats, .stnStampLast, .seqIbufMx
   , .seqIbufVx, .seqIbufMv, .seqQstat, .seqCnt, .seqSbd, .seqStep, .seqSteptel, .seqProfile, .seqSecondary
   , .seqVariant, .hldState, .hldCntDma, .hldCntLink, .hldCntCistern, .hldCntHost, .hldCntRefresh, .hldCntGate
   , .hldCntTotal, .hldEpisodes, .mxeAccst, .mxeAx, .mxeFlags, .insLaflags, .insFlags, .vxeFlags, .vxeSeed
   , .vxeSrkey, .wlhKey, .wlhRef, .wlhFlags, .wlhRdbeats, .wlhWrbeats] ++
  [.wlhRefunits, .cstNs, .cstShare, .eccSpCe, .eccSpUe, .eccWhCe, .eccWhUe, .eccWhOdc, .eccLastS, .eccLastW
   , .eccFlipS, .eccFlipW, .eccSpmap, .eccWhmap, .eccFill, .lrkCfg, .lrkPool, .lrkState, .lrkRtt, .lrkSeq
   , .lrkFecCorr, .lrkFecUnc, .lrkLcrcErr, .lrkSeqDrop, .lrkKindDrop, .lrkCreditViol, .lrkTimeouts, .lrkReplayed
   , .lrkDowns, .lrkPrimeFail, .lrkWidthChg, .lrkLaneSym, .rteCtl, .rteRoute, .rteRwin, .rteHcrcErr, .rteHdrErr
   , .rteKeyDrop, .rteAuthFail, .rteRemoteDrop] ++
  [.rteDup, .rteGap, .rteCacheHit, .rteRespDup, .rteHopsDrop, .rteFwdLate, .rteEscaped, .rteNoroute
   , .rteEpochLate, .rteAbortDup, .rteWindowWait, .rteNoresp, .clkCtl, .clkMoncfg, .clkJhist, .clkDutyErr
   , .clkStretch, .clkSymp, .clkSlip, .clkRefloss, .mtmNow, .mtmRate, .mtmState, .mtmCfg, .mtmPort, .mtmAsym
   , .mtmMarkDrop, .srvStat, .srvQueue, .srvCommitted, .srvCompleted, .srvCancelled, .srvFailed
   , .srvSpecProposed, .srvSpecAccepted, .srvSpecRejected, .srvRingWait, .srvRungChg, .srvParks, .srvUnparks] ++
  [.srvDigestFail, .wgtState, .wgtProgress, .wgtPace, .wgtDigest, .wgtSdigest, .wgtChunks, .wgtIoRetry
   , .wgtAuthFail, .wgtDigestFail, .wgtSwaps, .detState, .provState, .detJchain, .detJentries, .detRefused
   , .detDiverge, .detTruncs, .provRecords, .provBatches, .provLost, .secPart, .secChange, .secFslot, .secRot
   , .secSession, .secSigfail, .secKeyloads, .secEnvReject, .secTeardowns, .secRotations, .mbxIrq, .mbxPend
   , .mbxBoot, .wchState, .wchFrames, .wchCrcErr, .wchRepeat, .wchOverrun, .pwrState] ++
  [.pwrIn, .pwrHoldup, .pwrCfg, .thmState, .thmTemp, .pwrFails, .pwrHoldupTests, .pwrHoldupLow, .pwrLimStretch
   , .thmThrottle, .thmTrips, .evtCfg, .evtWin, .evtRaised, .evtLost, .telemLost, .varSwitches, .telemState]

/-- The register of a number. -/
def regOfNum (n : Nat) : Option Reg := allRegs[n]?

/-- Bytes of a name, zero-padded. -/
def nameBytes (s : String) : List Byte := fitTo 32 (s.toList.map (fun c => BitVec.ofNat 8 c.toNat))

/-- An entry of the register directory (R742). -/
def dirEntry (r : Reg) : List Byte :=
  let x := regInfo r
  nameBytes x.name ++ leBytes 2 (regNum r) ++ leBytes 2 x.width ++ leBytes 1 (x.kinds.headD 0) ++ zeros 1
    ++ leBytes 2 x.copies ++ zeros 24

/-! ### Instances (R746, Table 17-9) -/

/-- A register instance as a command names it: kind and number, ELEM, the bank of RTE_ROUTE. -/
structure RegAt where
  kind : Nat
  low : Nat
  elem : Nat
  bank : Nat

/-- INSTANCE of a place. -/
def RegAt.inst (a : RegAt) : Nat := a.kind * 0x10000000 + a.low

/-- A row of a die has power (R82): it is fitted, or on an unfitted die no defect disables it (log 22). -/
def rowUp (fz : Fuses) (m : Mach) (d row : Nat) : Bool :=
  if (die m d).fit = 1 then bitAt (die m d).enabled row else !((fz.defects.getD d []).contains row)

/-- The instance exists on the module. -/
def instExists (fz : Fuses) (m : Mach) (kind low : Nat) : Bool :=
  match kind with
  | 0 => low == 0
  | 1 => decide (low < 4) && decide ((part m low).dies ≠ [])
  | 2 => decide (low < 4)
  | 3 => decide (low < 1024) && decide (low % 256 < 144) && rowUp fz m (low / 256) (low % 256 / 16)
  | 4 => wellFitted fz low
  | 5 => decide (low < 16)
  | 6 => decide (low < 64) && decide (low % 16 < 13)
  | 7 => decide (low ≤ 4)
  | _ => false

/-- The partition that holds an instance (R741, R808); a window belongs to the partition of its number. -/
def RegAt.owner (m : Mach) (a : RegAt) : Option Nat :=
  if a.kind = 7 then (if a.low < 4 then some a.low else none) else partOfInst m a.inst

/-! ### Layouts -/

/-- Bits of a key slot's state. -/
def KeySlot.code (k : KeySlot) : Nat := k.ctorIdx

/-- STN_ROWMAP (Table 2-6). -/
def rowMap (fz : Fuses) (m : Mach) (d : Nat) : Nat :=
  let x := die m d
  pack [(4, 0), (2, x.grid), (9, x.enabled), (9, maskOfNats (fz.defects.getD d [])), (6, 0), (2, x.fit)] 0

/-- An instruction buffer register (Table 3-14). -/
def IBufWord (b : IBuf) : Nat := pack [(1, 0), (15, b.base), (16, b.len)] 0

/-- SEQ_QSTAT (Table 3-15): what each queue holds by cycle `c` (R133). -/
def qstat (s : Station) (c : Nat) : Nat :=
  let gate (q : QueueSt) : Nat := b2n q.gate.isSome
  pack [(5, s.mv.stofs), (5, s.vx.stofs), (5, s.mx.stofs), (1, gate s.mv), (1, gate s.vx), (1, gate s.mx)
    , (3, s.mv.loops.length), (3, s.vx.loops.length), (3, s.mx.loops.length), (7, 0), (10, occAt s.mv c), (10, occAt s.vx c)
    , (10, occAt s.mx c)] 0

/-- The cycle that a station has reached in the step of its partition; with no step in progress every entry of a queue has
entered it. -/
def stnNow (m : Mach) (k : Nat) : Nat :=
  let p := partOf m (k / 256)
  if (part m p).inStep then cycleNow m p else farAway

/-- SEQ_SBD (Table 3-17). -/
def Desc.word (x : Desc) : Nat :=
  pack [(2, x.state.ctorIdx), (1, b2n x.out), (2, x.cause), (15, x.base), (12, x.len), (32, x.openAt)] 0

/-- MXE_ACCST (Table 4-7). -/
def AccSet.word (x : AccSet) : Nat :=
  pack [(2, b2n x.opened), (1, b2n x.isFloat), (1, b2n x.auto), (1, b2n x.trap), (1, b2n x.inexact), (1, b2n x.ovf)
    , (1, b2n x.invalid), (12, 0), (12, twos 12 x.anchor), (5, 0), (27, x.count)] 0

/-- The value an anchor register holds. -/
def axNow (s : Station) (i : Nat) : Int :=
  ((s.axLog.filter (fun y => y.2.1 == i)).getLast?.map (fun y => y.2.2)).getD (tget 0 s.ax i)

/-- An integer held within ± 2^31. -/
def clamp32 (x : Int) : Int :=
  if x < -2147483648 then -2147483648 else if 2147483647 < x then 2147483647 else x

/-- HLD_STATE (Table 7-13). -/
def hldState (m : Mach) (p : Nat) : Nat :=
  match (part m p).hold with
  | none => 0
  | some h =>
    let c := h.causes.head?
    pack [(1, 1), (7, 0), (6, causeMask m p), (2, (c.map (fun x => x.die)).getD 0)
      , (8, (c.map (fun x => x.unit)).getD 0), (32, twos 32 h.stop), (8, 0)] 0

/-- SEQ_PROFILE (Table 7-15). -/
def seqProfile (fz : Fuses) (m : Mach) (p : Nat) : Nat :=
  let l := (varOf m p).map (fun v => v.lprof)
  pack [(27, 0), (1, b2n (l == some .lpC && fz.b0)), (1, b2n fz.b0), (1, b2n (isH6 m p))
    , (2, (l.map lprofCode).getD 0)] 0

/-- The armed switch of the lowest step. -/
def earliest (l : List Armed) : Option Armed :=
  l.find? (fun a => l.all (fun b => decide (a.step ≤ b.step)))

/-- SEQ_VARIANT (Table 19-13). -/
def seqVariant (q : Part) : Nat :=
  let a := earliest q.armed
  pack [(4, q.variant), (1, b2n a.isSome), (4, (a.map (fun x => x.variant)).getD 0), (7, 0)
    , (48, (a.map (fun x => x.step)).getD 0)] 0

/-- WLH_KEY (Table 8-10). -/
def wlhKey (h : Well) : Nat :=
  pack [(2, h.slot1.code), (2, h.slot0.code), (1, b2n h.wrEpoch), (11, 0), (24, pageCount h .epoch1)
    , (24, pageCount h .epoch0)] 0

/-- WLH_REF (Table 8-11). -/
def wlhRef (h : Well) : Nat :=
  pack [(1, b2n h.hot), (1, b2n h.setHot), (1, b2n h.unused), (1, b2n h.selfref), (24, 0), (4, h.debt)] 0

/-- ECC_LAST of a station (Table 9-7). -/
def EccLast.stationWord (e : EccLast) : Nat :=
  pack [(1, b2n e.valid), (2, e.src), (1, b2n e.cache), (34, 0), (4, e.word), (22, e.offset)] 0

/-- ECC_LAST of a wellhead (Table 9-7). -/
def EccLast.wellWord (e : EccLast) : Nat :=
  pack [(1, b2n e.valid), (2, e.src), (24, 0), (6, e.word / 64), (2, e.word % 64), (29, e.offset)] 0

/-- ECC_FLIP (Table 9-8). -/
def EccFlip.word (f : EccFlip) : Nat := pack [(2, f.state), (22, 0), (32, f.firedAt), (72, f.mask.toNat)] 0

/-- ECC_SPMAP (Table 9-9): the remapped beat by bank and row. -/
def spmapWord (beat : Option Nat) : Nat :=
  match beat with
  | none => 0
  | some b => pack [(1, 1), (16, 0), (4, bankOf b), (11, b / 16)] 0

/-- ECC_WHMAP (Table 9-9): the remapped row by pseudo-channel (R22, R334), bank and row. -/
def whmapWord (row : Option Nat) : Nat :=
  match row with
  | none => 0
  | some r => pack [(1, 1), (4, r / 2 ^ 22), (6, r / 2 ^ 16 % 64), (5, 0), (16, r % 2 ^ 16)] 0

/-- LRK_CFG (Table 10-8). -/
def lrkCfg (q : Port) : Nat := pack [(1, b2n q.enable), (1, q.cfgWidth), (6, 0), (8, q.downUs), (16, q.laneThr)] 0

/-- LRK_POOL (Table 10-9). -/
def lrkPool (q : Port) : Nat := pack [(16, q.limit.c3), (16, q.limit.c2), (16, q.limit.c1), (16, q.limit.c0)] 0

/-- RTE_ROUTE (Table 11-14). -/
def routeWord (e : RouteEntry) : Nat :=
  pack [(10, 0), (2, e.secondKind), (4, e.secondPort), (3, 0), (1, b2n e.escValid), (4, e.escPort), (3, 0)
    , (1, b2n e.firstValid), (4, e.firstPort)] 0

/-- RTE_RWIN (Table 11-15). -/
def rwinWord (w : RWin) : Nat :=
  pack [(1, b2n w.enable), (3, w.ops), (4, 0), (8, w.unit), (8, w.keyslot), (2, 0), (14, w.srcMod), (48, w.base)
    , (40, w.len)] 0

/-- CLK_CTL (Table 12-5). -/
def clkCtl (m : Mach) (q : Part) : Nat :=
  pack [(2, q.target), (2, q.cur), (1, b2n q.clkPend), (1, b2n q.stbyLock), (1, b2n m.clk.refLost), (25, 0)] 0

/-- MTM_STATE (Table 12-9). -/
def mtmState (m : Mach) : Nat :=
  pack [(2, m.clk.st), (1, b2n (ptpValid m)), (1, m.clk.source), (4, 0), (16, m.clk.peers)
    , (40, twos 40 m.clk.ptpOfs)] 0

/-- MTM_CFG (Table 12-10). -/
def MCfg.word (c : MCfg) : Nat :=
  pack [(8, c.markInt), (8, 0), (10, c.slew), (2, 0), (20, c.stepThr), (8, c.domain), (6, 0), (1, b2n c.ptpEn)
    , (1, c.ptpPort)] 0

/-- MTM_PORT (Table 12-11). -/
def MPort.word (x : MPort) : Nat :=
  pack [(1, b2n x.valid), (5, x.flags), (2, 0), (24, x.rtt), (32, twos 32 x.offset)] 0

/-- The rung of the current step (R568, R834). -/
def rungNow (m : Mach) (p : Nat) : Nat :=
  let q := part m p
  match (q.srv.sealedM ++ q.srv.got).find? (fun f => f.step == q.step) with
  | some f => f.rung
  | none => 0

/-- Entries of a table that satisfy a test. -/
def tcount {α : Type} (f : α → Bool) (t : Table α) : Nat := (t.filter (fun y => f y.2)).length

/-- SRV_STAT (Table 13-10). -/
def srvStat (m : Mach) (p : Nat) : Nat :=
  let s := (part m p).srv
  pack [(1, b2n (isHome m p && runs m p)), (4, 0), (3, rungNow m p), (11, tcount (fun r => r.st == .decode) s.reqs)
    , (13, tcount (fun r => r.st != .free) s.reqs), (17, tcount (fun x => x.st != .free) s.sess), (15, 0)] 0

/-- SRV_QUEUE (Table 13-11). -/
def srvQueue (m : Mach) (p : Nat) : Nat :=
  let s := (part m p).srv
  pack [(32, s.queue.foldl (fun n i => n + unsched m p i) 0), (12, tcount (fun r => r.st == .outWait) s.reqs), (8, 0)
    , (12, tcount (fun x => x.st == .parking || x.st == .unparking) s.sess)] 0

/-- PROV_STATE (Table 15-11). -/
def provState (x : Prov) : Nat :=
  let on := (x.cfg.map (fun c => c.enable)).getD false
  pack [(1, b2n on), (14, 0), (17, (x.cfg.map (fun c => c.batch)).getD 0), (32, (x.cfg.map (fun c => c.span)).getD 0)
    , (64, x.next)] 0

/-- A digest register holds the digest's bytes, the first in bits 7 to 0 (R9). -/
def digestWord (d : Digest) : Nat := ofLe (digestBytes d)

/-- MBX_IRQ (Table 17-19). -/
def Irq.word (q : Irq) : Nat :=
  pack [(1, b2n q.enable), (1, b2n q.msix), (14, 0), (5, q.hart), (6, q.file), (26, 0), (11, q.ident)] 0

/-- MBX_BOOT (Table 17-21). -/
def mbxBoot (m : Mach) : Nat :=
  pack [(4, m.boot), (4, m.fw.cause), (8, m.fw.svnFuse), (8, m.fw.runSvn), (8, 0), (32, m.fw.topGen % 2 ^ 32)] 0

/-- WCH_STATE (Table 17-22). -/
def wchState (w : Wch) : Nat := pack [(4, w.addr), (4, w.slot), (1, b2n w.locSet), (12, 0), (6, w.pod), (5, w.shelf)] 0

/-- PWR_STATE (Table 18-7). -/
def pwrState (m : Mach) : Nat :=
  let x := m.pwr
  let busy := x.commit.isSome && !x.testDue && !x.toStart
  pack [(3, x.st), (3, if x.inTransit then x.target else 0), (1, b2n x.inTransit), (1, b2n x.inputOk), (2, x.step)
    , (1, b2n busy), (21, 0)] 0

/-- PWR_IN (Table 18-8). -/
def pwrIn (x : Pwr) : Nat := pack [(16, x.vin), (16, x.iin), (16, x.pin), (16, x.pavg)] 0

/-- TEST_AGE_MIN (Table 18-9). -/
def testAge (m : Mach) : Nat :=
  match m.pwr.testedAt with
  | none => 2047
  | some t => satN 2047 ((nowNs m - t) / 60000000000)

/-- PWR_HOLDUP (Table 18-9). -/
def pwrHoldup (m : Mach) : Nat :=
  let x := m.pwr
  pack [(16, satN 65535 x.cap), (16, satN 65535 x.energy), (16, satN 65535 x.vtank), (3, if x.fault then 4 else x.tank)
    , (1, b2n (decide (7200 ≤ x.energy))), (1, b2n (decide (3000 ≤ x.energy))), (11, testAge m)] 0

/-- Maximum input of the grade, W (Table 0-2): the Reset value of LIMIT_W. -/
def maxWatts (fz : Fuses) : Nat := if fz.full then 2000 else 1750

/-- LIMIT_W in force. -/
def limitWatts (fz : Fuses) (m : Mach) : Nat := m.pwr.limit.getD (maxWatts fz)

/-- THM_STATE (Table 18-11). -/
def thmState (q : Part) : Nat := pack [(2, q.thermal), (2, q.setBy), (1, b2n (!q.stretched.isEmpty)), (27, 0)] 0

/-- THM_TEMP (Table 18-11); ELEM is 16 × kind + index (the manual numbers no copies; log 29). -/
def thmTemp (m : Mach) (i : Nat) : Nat :=
  let t := tget {} m.pwr.temps i
  pack [(1, b2n t.valid), (3, if t.valid then i / 16 else 0), (4, if t.valid then i % 16 else 0), (8, 0)
    , (16, twos 16 t.temp)] 0

/-- EVT_CFG (Table 19-11). -/
def EvtCfg.word (c : EvtCfg) : Nat :=
  pack [(1, b2n c.push), (2, c.minSev), (5, 0), (4, c.lateN), (20, c.lateThr)] 0

/-- EVT_WIN (Table 19-12). -/
def evtWin (x : Win) : Nat := pack [(9, x.waiting.length), (9, (haltsOf x.waiting).length), (14, 0)] 0

/-- TELEM_STATE (Table 19-14). -/
def telemState (t : Telem) : Nat := pack [(1, b2n (t.addr != 0)), (15, 0), (16, t.pushEvery), (32, t.entries)] 0

/-- The table that an instance of RTE_CTL or RTE_ROUTE names. -/
def RegAt.table (a : RegAt) : Option Nat := if a.kind = 1 then some a.low else none

/-- The value of a register that is no counter; `k` is its instance. -/
def regWord (fz : Fuses) (m : Mach) (r : Reg) (a : RegAt) : Nat :=
  let k := a.low
  let s := stn m k
  let q := part m k
  let h := well m k
  match r with
  | .stnRowmap => rowMap fz m k
  | .stnCollideAt => pack [(32, s.collideAt.cycle), (16, s.collideAt.step), (7, 0), (3, s.collideAt.a)
      , (3, s.collideAt.b), (3, s.collideAt.c)] 0
  | .stnStampLast => pack [(32, s.stampLast.cycle), (16, s.stampLast.step), (2, s.stampLast.a), (6, 0)
      , (8, s.stampLast.b)] 0
  | .seqIbufMx => IBufWord s.ibufMx
  | .seqIbufVx => IBufWord s.ibufVx
  | .seqIbufMv => IBufWord s.ibufMv
  | .seqQstat => qstat s (stnNow m k)
  | .seqCnt => cntNow s a.elem
  | .seqSbd => (tget {} s.sbd a.elem).word
  | .seqStep => pack [(5, 0), (3, q.st.code), (4, classIdx m k q.step), (4, 0), (48, q.step)] 0
  | .seqSteptel => pack [(32, satN (2 ^ 32 - 1) q.late), (32, twos 32 (clamp32 q.spill))] 0
  | .seqProfile => seqProfile fz m k
  | .seqVariant => seqVariant q
  | .hldState => hldState m k
  | .mxeAccst => (tget {} s.sets a.elem).word
  | .mxeAx => twos 12 (axNow s a.elem)
  | .mxeFlags => s.mxeFlags.toNat
  | .insLaflags => s.laFlags.toNat
  | .insFlags => s.insFlags.toNat
  | .vxeFlags => s.vxeFlags.toNat
  | .vxeSeed => s.vxeSeed.toNat
  | .vxeSrkey => s.srTensor.toNat * 2 ^ 64 + s.srBase.toNat
  | .wlhKey => wlhKey h
  | .wlhRef => wlhRef h
  | .wlhFlags => h.flags.toNat
  | .cstNs => pack [(1, b2n q.nsValid), (32, 0), (31, if q.nsValid then q.nsBlocks else 0)] 0
  | .cstShare => q.share
  | .eccLastS => s.eccLast.stationWord
  | .eccLastW => h.eccLast.wellWord
  | .eccFlipS => s.flip.word
  | .eccFlipW => h.flip.word
  | .eccSpmap => spmapWord s.spMap[a.elem]?
  | .eccWhmap => whmapWord h.whMap[a.elem]?
  | .eccFill => m.eccFill
  | .lrkCfg => lrkCfg (port m k)
  | .lrkPool => lrkPool (port m k)
  | .lrkState => lrkState (port m k)
  | .lrkRtt => (port m k).rtt
  | .lrkSeq => lrkSeq (port m k)
  | .rteCtl => rteCtl (rteOf m a.table)
  | .rteRoute => routeWord ((rteOf m a.table).entry (a.bank % 2 == 1) a.elem)
  | .rteRwin => rwinWord (tget noWindow (die m k).rwins a.elem)
  | .clkCtl => clkCtl m q
  | .clkMoncfg => pack [(16, m.clk.dutyThr), (16, m.clk.jitThr)] 0
  | .mtmNow => m.clk.acc / 2 ^ 24 % 2 ^ 80
  | .mtmRate => twos 48 m.clk.adj
  | .mtmState => mtmState m
  | .mtmCfg => m.clk.cfg.word
  | .mtmPort => (mport m a.elem).word
  | .mtmAsym => twos 32 (mport m a.elem).asym
  | .srvStat => srvStat m k
  | .srvQueue => srvQueue m k
  | .wgtState => q.wgt.stateWord
  | .wgtProgress => q.wgt.progressWord
  | .wgtPace => q.wgt.paceWord
  | .wgtDigest => digestWord q.wgt.digest
  | .wgtSdigest => digestWord q.wgt.sdigest
  | .detState => q.det.stateWord
  | .provState => provState q.prov
  | .detJchain => digestWord q.det.chain
  | .secPart => secPartWord q
  | .secChange => m.change
  | .secFslot => (tget {} (die m k).slots a.elem).word
  | .secRot => q.rot.word
  | .secSession => q.sec.session
  | .mbxIrq => (tget {} (win m k).irqs a.elem).word
  | .mbxPend => (win m k).pend.toNat
  | .mbxBoot => mbxBoot m
  | .wchState => wchState m.wch
  | .pwrState => pwrState m
  | .pwrIn => pwrIn m.pwr
  | .pwrHoldup => pwrHoldup m
  | .pwrCfg => pack [(12, limitWatts fz m), (20, 0)] 0
  | .thmState => thmState q
  | .thmTemp => thmTemp m a.elem
  | .evtCfg => m.evtCfg.word
  | .evtWin => evtWin (win m k)
  | .telemState => telemState q.telem
  | _ => 0

/-- The value of a register (R12: a read changes nothing). -/
def regValue (fz : Fuses) (m : Mach) (r : Reg) (a : RegAt) : Nat :=
  if (regInfo r).counts then (ctr m r a.inst a.elem).word else regWord fz m r a

/-! ### The caller policy of registers (Table 17-8) -/

/-- The caller is the window of the partition that holds the instance. -/
def ownWindow (m : Mach) (c : Caller) (a : RegAt) : Bool :=
  match c with
  | .pwin p => a.owner m == some p.val
  | _ => false

/-- A consent of the partition that holds the instance. -/
def consentAt (m : Mach) (a : RegAt) (bit : Nat) : Bool :=
  match a.owner m with
  | some p => consents m p bit
  | none => false

/-- A caller may read a register. -/
def mayRead (m : Mach) (c : Caller) (r : Reg) (a : RegAt) : Bool :=
  (ownWindow m c a || callerOperator c)
    && (match (regInfo r).cls with
        | .tenant => consentAt m a 1
        | _ => true)

/-- A caller may write a register. -/
def mayWrite (m : Mach) (c : Caller) (r : Reg) (a : RegAt) : Bool :=
  match (regInfo r).cls with
  | .tenant | .unit => ownWindow m c a && consentAt m a 0
  | .rot => ownWindow m c a
  | .sec => false
  | .mbx => if a.kind = 7 ∧ a.low = 4 then callerOperator c else ownWindow m c a
  | .op => callerOperator c

/-- A command names a register instance that the module does not have, or a copy beyond the last (R746). -/
def regRange (fz : Fuses) (m : Mach) (r : Reg) (kind low elem count : Nat) : Bool :=
  let x := regInfo r
  !x.kinds.contains kind || !instExists fz m kind low || decide (x.copies < elem + count)
    || (r == .secFslot && elem == 0)

/-! ### Writes (R744) -/

/-- The fields of an instruction buffer register. -/
def ibufOf (x : Nat) : IBuf := { base := field x 30 16, len := field x 15 0 }

/-- A limit of LRK_POOL that R422 admits. -/
def limitOk (c l : Nat) : Bool :=
  decide (reserve c ≤ l)
    && decide (l + ((List.range 4).filter (fun e => e != c)).foldl (fun n e => n + reserve e) 0 ≤ 4096)

/-- A write that firmware rejects, with its status (R13, R156, R276, R374, R422, R465, R559, R775, R797, R839, Tables
8-14, 16-17, 17-19, 19-11; the statuses: log 30). -/
def writeFails (fz : Fuses) (m : Mach) (r : Reg) (a : RegAt) (x : Nat) : Option Status :=
  let bad (b : Bool) : Option Status := if b then some .range else none
  let busy (b : Bool) : Option Status := if b then some .badState else none
  if maskBits 256 x (regInfo r).rsv ≠ 0 then some .range
  else
    match r with
    | .seqIbufMx | .seqIbufVx | .seqIbufMv =>
      (bad (decide (32768 < (ibufOf x).base + (ibufOf x).len))).or (busy (runs m (partOf m (a.low / 256))))
    | .seqCnt | .vxeSeed => busy (runs m (partOf m (a.low / 256)))
    | .cstShare => bad (field x 7 0 == 0)
    | .lrkCfg => bad (decide (field x 23 16 < 4) || decide (64 < field x 23 16))
    | .lrkPool => bad !((List.range 4).all (fun c => limitOk c (field x (16 * c + 15) (16 * c))))
    | .clkCtl => busy ((part m a.low).clkPend && !(part m a.low).stbyLock)
    | .mtmCfg => bad (field x 63 56 == 0 || decide (100 < field x 63 56) || field x 47 38 == 0
        || decide (500 < field x 47 38))
    | .secRot => bad (field x 15 0 == 0 || decide (716 < field x 15 0))
    | .mbxIrq => bad (!bitAt x 62 && field x 10 0 == 0)
    | .pwrCfg => bad (decide (field x 31 20 < 1000) || decide (maxWatts fz < field x 31 20))
    | .evtCfg => bad (field x 23 20 == 0 || field x 30 29 == 3)
    | _ => none

/-- LRK_CFG written: a port disabled goes down and is held OFF, one enabled leaves OFF (R438, R444). -/
def writeLrkCfg (fz : Fuses) (k x : Nat) (m : Mach) : Mach :=
  let was := (port m k).enable
  let m := onPort k (fun q => { q with
    enable := bitAt x 31, cfgWidth := field x 30 30, downUs := field x 23 16, laneThr := field x 15 0 }) m
  if was && !bitAt x 31 then onPort k (fun q => { q with st := 0 }) (downPort fz k 5 false m)
  else if !was && bitAt x 31 then wakePort k m
  else m

/-- A write carried out (R744): RW and RWS fields take the value, a 1 clears a bit of a W1C field. -/
def regStore (fz : Fuses) (r : Reg) (a : RegAt) (x : Nat) (m : Mach) : Mach :=
  let k := a.low
  match r with
  | .seqIbufMx => onStn k (fun s => { s with ibufMx := ibufOf x }) m
  | .seqIbufVx => onStn k (fun s => { s with ibufVx := ibufOf x }) m
  | .seqIbufMv => onStn k (fun s => { s with ibufMv := ibufOf x }) m
  | .seqCnt => onStn k (fun s => { s with
      cnt := tput 0 s.cnt a.elem (field x 31 0), cntLog := s.cntLog.filter (fun w => w.reg != a.elem) }) m
  | .mxeFlags => onStn k (fun s => { s with mxeFlags := s.mxeFlags &&& ~~~(BitVec.ofNat 20 x) }) m
  | .insLaflags => onStn k (fun s => { s with laFlags := s.laFlags &&& ~~~(BitVec.ofNat 3 x) }) m
  | .insFlags => onStn k (fun s => { s with insFlags := s.insFlags &&& ~~~(BitVec.ofNat 4 x) }) m
  | .vxeFlags => onStn k (fun s => { s with vxeFlags := s.vxeFlags &&& ~~~(BitVec.ofNat 5 x) }) m
  | .vxeSeed => onStn k (fun s => { s with vxeSeed := BitVec.ofNat 64 x }) m
  | .wlhFlags => onWell k (fun h => { h with flags := h.flags &&& ~~~(BitVec.ofNat 3 x) }) m
  | .cstShare => onPart k (fun q => { q with share := field x 7 0 }) m
  | .lrkCfg => writeLrkCfg fz k x m
  | .lrkPool =>
    let l : Quad := { c0 := field x 15 0, c1 := field x 31 16, c2 := field x 47 32, c3 := field x 63 48 }
    onPort k (fun q => { q with limit := l }) m
  | .clkCtl => setTarget k (field x 31 30) m
  | .clkMoncfg => { m with clk := { m.clk with dutyThr := field x 31 16, jitThr := field x 15 0 } }
  | .mtmCfg =>
    let c : MCfg := { markInt := field x 63 56, slew := field x 47 38, stepThr := field x 35 16, domain := field x 15 8
                      ptpEn := bitAt x 1, ptpPort := field x 0 0 }
    { m with clk := { m.clk with cfg := c } }
  | .mtmAsym => onMport a.elem (fun y => { y with asym := sext 32 x }) m
  | .secRot => onPart k (fun q => { q with rot := { q.rot with rate := field x 15 0 } }) m
  | .mbxIrq =>
    let y : Irq := { enable := bitAt x 63, msix := bitAt x 62, hart := field x 47 43, file := field x 42 37
                     ident := field x 10 0 }
    onWin k (fun w => { w with irqs := tput {} w.irqs a.elem y }) m
  | .mbxPend => onWin k (fun w => { w with pend := w.pend &&& ~~~(BitVec.ofNat 4 x) }) m
  | .pwrCfg => { m with pwr := { m.pwr with limit := some (field x 31 20) } }
  | .evtCfg => { m with evtCfg := { push := bitAt x 31, minSev := field x 30 29, lateN := field x 23 20
                                    lateThr := field x 19 0 } }
  | r =>
    if (regInfo r).counts && bitAt x 63 then
      { m with ctrs := tmod {} m.ctrs (ctrKey r a.inst a.elem) (fun c => { c with ovf := false }) }
    else m

/-! ### REG_DIR, REG_READ, REG_WRITE -/

/-- REG_DIR (R742). -/
def regDir (v : Via) (first : Nat) (m : Mach) : Mach :=
  complete v .ok 0 (.bytes (((allRegs.drop first).take 60).flatMap dirEntry)) m

/-- REG_DIR. -/
def execRegDir (v : Via) (first : Nat) (s : State) : Host.Outcome State Fault Refusal :=
  run s (fun _ => command v none 0x901 (regDir v first))

/-- REG_READ (R743, R746). -/
def regRead (v : Via) (num elem count inst bank : Nat) (fz : Fuses) (m : Mach) : Mach :=
  let kind := inst / 0x10000000
  let low := inst % 0x10000000
  match regOfNum num with
  | none => answer v .range m
  | some r =>
    let at_ (i : Nat) : RegAt := { kind := kind, low := low, elem := elem + i, bank := bank }
    if count = 0 ∨ 120 < count ∨ regRange fz m r kind low elem count = true then answer v .range m
    else if !mayRead m v.caller r (at_ 0) then answer v .denied m
    else
      complete v .ok 0 (.bytes ((List.range count).flatMap (fun i => leBytes 32 (regValue fz m r (at_ i))))) m

/-- REG_READ. -/
def execRegRead (v : Via) (num elem count : Nat) (inst : BitVec 32) (bank : Nat) (s : State) :
    Host.Outcome State Fault Refusal :=
  run s (fun fz => command v none 0x902 (regRead v num elem count inst.toNat bank fz))

/-- REG_WRITE (R744 to R746). -/
def regWrite (v : Via) (num elem inst value : Nat) (fz : Fuses) (m : Mach) : Mach :=
  match regOfNum num with
  | none => answer v .range m
  | some r =>
    let a : RegAt := { kind := inst / 0x10000000, low := inst % 0x10000000, elem := elem, bank := 0 }
    if (regInfo r).wmask = 0 ∧ (regInfo r).cmask = 0 ∨ regRange fz m r a.kind a.low elem 1 = true then
      answer v .range m
    else if !mayWrite m v.caller r a then answer v .denied m
    else
      match writeFails fz m r a value with
      | some st => answer v st m
      | none => answer v .ok (regStore fz r a value m)

/-- REG_WRITE. -/
def execRegWrite (v : Via) (num elem : Nat) (inst : BitVec 32) (value : BitVec 256) (s : State) :
    Host.Outcome State Fault Refusal :=
  run s (fun fz => command v none 0x903 (regWrite v num elem inst.toNat value.toNat fz))

end Sys2Proof.Machine
end

