-- ==== Sys2Proof/Machine/Power.lean ====
section
/-! DEFINITION. Power, hold-up and cooling (18): the input and the surge tank, protected commits, power states, limits,
temperatures, trips, rails; the check of the edge stations (19 R819). -/

namespace Sys2Proof.Machine

/-! ### Tests of the surge tank (R778 to R781, R785) -/

/-- A command that may wait for something completes. -/
def answerOpt (o : Option Via) (st : Status) (m : Mach) : Mach :=
  match o with
  | some v => answer v st m
  | none => m

/-- HOLDUP_TEST: it starts with the tank at 54 V, and completes with its test. -/
def holdupTest (v : Via) (m : Mach) : Mach := startTest { m with pwr := { m.pwr with tests := m.pwr.tests ++ [v] } }

/-- HOLDUP_TEST. -/
def execHoldupTest (v : Via) (s : State) : Host.Outcome State Fault Refusal :=
  run s (fun _ => command v none 0x803 (holdupTest v))

/-- HOLDUP_TEST_DAILY: 24 h of MTIME have passed (R779). -/
def holdupDaily (m : Mach) : Mach := startTest { m with pwr := { m.pwr with selfTest := true } }

/-- HOLDUP_TEST_DAILY. -/
def execHoldupTestDaily (s : State) : Host.Outcome State Fault Refusal := run s (fun _ => holdupDaily)

/-- A commit whose test shows too little energy is refused (Table 18-1). -/
def refuseCommit (c : Commit) (m : Mach) : Mach :=
  let m := bump .pwrHoldupLow iModule m
  match c with
  | .park p sid =>
    match findSess m p sid with
    | some i => parkFails p i .holdupLow m
    | none => m
  | .fw =>
    match m.fw.commit with
    | some (_, v) => answer v .holdupLow { m with fw := { m.fw with commit := none } }
    | none => m

/-- The commit that waited for a test may start once the tank is back at 54 V, or is refused (R780, R756). -/
def decideCommit (m : Mach) : Mach :=
  match m.pwr.commit with
  | none => m
  | some c =>
    if !m.pwr.testDue then m
    else if reserveOk m c then { m with pwr := { m.pwr with testDue := false, toStart := true } }
    else endCommit (refuseCommit c m)

/-- A commit whose test is done starts with the tank at 54 V, if the last test still shows its energy (R780, the example of 18;
log 211). -/
def startCommit (m : Mach) : Mach :=
  match m.pwr.commit with
  | none => m
  | some c =>
    if !m.pwr.toStart then m
    else if reserveOk m c then
      let m := { m with pwr := { m.pwr with toStart := false } }
      match c, m.fw.commit with
      | .fw, some (i, _) => beginRecord i m
      | _, _ => m
    else endCommit (refuseCommit c m)

/-- TANK_READY: the charger has brought the tank to 54 V. -/
def tankReady (m : Mach) : Mach :=
  if m.pwr.tank = 2 ∨ m.pwr.inputOk = false then m
  else startTest (startCommit { m with pwr := { m.pwr with tank := 1, vtank := 54000 } })

/-- TANK_READY. -/
def execTankReady (s : State) : Host.Outcome State Fault Refusal := run s (fun _ => tankReady)

/-- C in µF and E in mJ of a test (R778, R779); of a test that measures no drop the manual states neither: both are free
values (log 32). -/
def measureTank (dv v0 : Nat) (m : Mach) : Nat × Nat × Mach :=
  if dv = 0 then
    let (c, m) := draw m
    let (e, m) := draw m
    (c, e, m)
  else (1000000 / dv, (v0 * v0 - 900000000) / (2000 * dv), m)

/-- HOLDUP_TEST_DONE (R778, R779, R785): the voltage drop in mV and V0 in mV. -/
def testDone (dv v0 : Nat) (m : Mach) : Mach :=
  if m.pwr.tank ≠ 2 then m
  else
    let (c, e, m) := measureTank dv v0 m
    let now := nowNs m
    let waiting := m.pwr.tests
    let m := { m with pwr := { m.pwr with
      cap := c, energy := e, testedAt := some now, tank := 0, vtank := v0 - dv, selfTest := false, tests := []
      fault := decide (e < 3000) } }
    let m := bump .pwrHoldupTests iModule m
    let m := if e < 3000 then raiseEvt 0x0060 1 iModule e m else m
    decideCommit (waiting.foldl (fun m v => complete v .ok 0 (.bytes (leBytes 8 (pwrHoldup m))) m) m)

/-- HOLDUP_TEST_DONE. -/
def execHoldupTestDone (deltaMv v0Mv : Nat) (s : State) : Host.Outcome State Fault Refusal :=
  run s (fun _ => testDone deltaMv v0Mv)

/-! ### The input (R776, R781 to R784, R822) -/

/-- The park commit in progress, which the tank carries to its end (R782). -/
def goingPark (m : Mach) : Option (Nat × Nat) :=
  match m.pwr.commit with
  | some (.park p sid) => if m.pwr.testDue ∨ m.pwr.toStart then none else (findSess m p sid).map (fun i => (p, i))
  | _ => none

/-- A commit of firmware that the loss of the input stops: its record says how far it came (R757); how many flash blocks that
are is the device's own. -/
def stopCommit (m : Mach) : Mach :=
  if commitReady m .fw then
    let (n, m) := draw m
    { m with fw := m.fw.note n false }
  else m

/-- INPUT_FAIL: the hot-swap opens, all but the hold-up domain loses power, a park commit in progress goes on; a commit of
firmware stops with its record not DONE (R757). -/
def inputFail (m : Mach) : Mach :=
  let m := stopCommit m
  let going := goingPark m
  let c := m.pwr.commit
  let t := nowNs m
  let m := bump .pwrFails iModule m
  let off (m : Mach) : Mach := { m with pwr := { m.pwr with
    failed := some (t, false), inputOk := false, hotSwapOpen := true, tank := 3 } }
  match going with
  | some (p, i) =>
    let x := sess m p i
    let m := onSess p i (fun _ => { x with via := none }) (off (losePower (some p) m))
    { m with pwr := { m.pwr with commit := c, failing := true, inTransit := true, target := 4 } }
  | none =>
    let m := off (losePower none m)
    { m with pwr := { m.pwr with st := 4, target := 4, failing := false } }

/-- INPUT_FAIL. -/
def execInputFail (s : State) : Host.Outcome State Fault Refusal := run s (fun _ => inputFail)

/-- INPUT_OVERVOLTAGE: the hot-swap opens above 62 V (R776). -/
def execInputOvervoltage (s : State) : Host.Outcome State Fault Refusal :=
  run s (fun _ m => { m with pwr := { m.pwr with hotSwapOpen := true, inputOk := false } })

/-- INPUT_RETURN: the input has stayed in range for 100 ms, and the module boots again once it is OFF (R783, R784); a commit
that the tank carries comes to its end first (R782). -/
def inputReturn (m : Mach) : Mach :=
  if m.pwr.failed = none ∨ m.pwr.failing = true then m else bootLogic (committed m) [] m

/-- INPUT_RETURN. -/
def execInputReturn (s : State) : Host.Outcome State Fault Refusal := run s (fun _ => inputReturn)

/-- TANK_EXHAUSTED: the tank falls to 30 V without input, and the always-on domain loses power (R784). -/
def tankExhausted (m : Mach) : Mach :=
  match m.pwr.failed with
  | none => m
  | some _ =>
    let m := loseAlwaysOn (losePower none m)
    { m with pwr := { m.pwr with st := 4, target := 4, failing := false } }

/-- TANK_EXHAUSTED. -/
def execTankExhausted (s : State) : Host.Outcome State Fault Refusal := run s (fun _ => tankExhausted)

/-! ### Power states (R788 to R794) -/

/-- A fetch, stage, swap, park, unpark, rotation or teardown is in progress (R790). -/
def atWork (q : Part) : Bool :=
  q.wgt.job.isSome || q.wgt.swap.isSome || q.wgt.phase != 0 || q.rot.state != 0 || q.sec.st == 3
    || q.srv.sess.any (fun y => y.2.st == .parking || y.2.st == .unparking)

/-- A temperature reading. -/
def tempOf (m : Mach) (kind index : Nat) : Temp := tget {} m.pwr.temps (16 * kind + index)

/-- The dies off after a trip that now read below 95 °C (R794). -/
def restorable (m : Mach) : List Nat :=
  m.pwr.offDies.filter (fun d => (tempOf m 0 d).valid && decide ((tempOf m 0 d).temp < 1520))

/-- Why a power state is not taken (R790, R794). -/
def powerRefused (m : Mach) (t : Nat) : Option Status :=
  let some_ (b : Bool) : Option Status := if b then some .badState else none
  match t with
  | 0 => some_ (m.pwr.st == 0 && (restorable m).isEmpty)
  | 2 => some_ (anyRuns m || m.parts.any (fun y => atWork y.2))
  | 3 | 4 => some_ (m.parts.any (fun y => y.2.st != .empty || atWork y.2))
  | _ => some .range

/-- A power state is taken: its transition begins; from OFF the module boots. -/
def takePower (t : Nat) (o : Option Via) (m : Mach) : Mach :=
  match powerRefused m t with
  | some st => answerOpt o st m
  | none =>
    if m.pwr.st = 4 then (if t = 0 then bootLogic (committed m) [] m else m)
    else if t ≠ 0 ∧ t = m.pwr.st then answerOpt o .ok m
    else
      let m := if t = 2 then dozePorts true m else m
      { m with pwr := { m.pwr with inTransit := true, target := t, via := o
                                   restore := if t = 0 ∧ m.pwr.st = 0 then restorable m else [] } }

/-- PWR_SET; during a transition it waits for its end (R793). -/
def pwrSet (v : Via) (t : Nat) (m : Mach) : Mach :=
  if ¬ (t = 0 ∨ t = 2 ∨ t = 3 ∨ t = 4) then answer v .range m
  else if m.pwr.inTransit then { m with pwr := { m.pwr with queue := m.pwr.queue ++ [(t, some v)] } }
  else takePower t (some v) m

/-- PWR_SET. -/
def execPwrSet (v : Via) (target : Nat) (s : State) : Host.Outcome State Fault Refusal :=
  run s (fun _ => command v none 0x801 (pwrSet v target))

/-- R30 keeps the stack of a wellhead in self-refresh. -/
def keptAsleep (fz : Fuses) (m : Mach) (w : Nat) : Bool :=
  fz.full && [6, 7, 14, 15].contains w
    && (match planOf m (partOf m (wellDie w)) with
        | some pl => pl.grid == .g448
        | none => false)

/-- The wellheads of the grade. -/
def allWells (fz : Fuses) : List Nat := (List.range 16).filter (wellFitted fz)

/-- Every stack in self-refresh (DOZE, SLEEP), or out of it but for R30. -/
def sleepWells (fz : Fuses) (enter : Bool) (m : Mach) : Mach :=
  (allWells fz).foldl (fun m w => onWell w (fun h => { h with selfref := enter || keptAsleep fz m w }) m) m

/-- MTIME enters HOLDOVER (Table 12-4). -/
def holdover (m : Mach) : Mach :=
  { m with clk := { m.clk with st := 3, goodSince := none, badSince := none, noneSince := none } }

/-- A die filled as at power-on (R394, R396, R408): slices, operand caches, the pages of its wellheads. -/
def refill (fz : Fuses) (m : Mach) (d : Nat) : Mach :=
  let m := fillDie fz d m
  let m := ((allWells fz).filter (fun w => wellDie w == d)).foldl (fun m w => resetPages w m) m
  { m with
    stations := tmapIf {} (fun k => k / 256 == d) (fun s => { s with flip := s.flip.disarm }) m.stations
    wells := tmapIf {} (fun w => wellDie w == d) (fun h => { h with flip := h.flip.disarm }) m.wells }

/-- A port without power. -/
def portOff (fz : Fuses) (cause : Nat) (m : Mach) (k : Nat) : Mach :=
  onPort k (fun q => { q with st := 0 }) (downPort fz k cause false m)

/-- Every port that may be primed leaves OFF. -/
def wakePorts (m : Mach) (l : List Nat) : Mach := l.foldl (fun m k => wakePort k m) m

/-- The ports of a die. -/
def diePorts (d : Nat) : List Nat := (List.range 16).filter (fun k => portDie k == d)

/-- Wake from SLEEP (R390, R394, R396, R529, R792). -/
def wakeSleep (fz : Fuses) (m : Mach) : Mach :=
  let m := (List.range 4).foldl (refill fz) (loadRemaps m)
  wakePorts (sleepWells fz false (holdover m)) (List.range 16)

/-- Wake from DOZE (R792, R440). -/
def wakeDoze (fz : Fuses) (m : Mach) : Mach := sleepWells fz false (holdover (dozePorts false m))

/-- Dies restored after a trip (R794). -/
def restoreDies (fz : Fuses) (m : Mach) : Mach :=
  m.pwr.restore.foldl (fun m d => wakePorts (refill fz m d) (diePorts d))
    { m with pwr := { m.pwr with offDies := m.pwr.offDies.filter (fun d => !m.pwr.restore.contains d) } }

/-- The state that a transition reaches. -/
def reach (fz : Fuses) (t : Nat) (m : Mach) : Mach :=
  match t with
  | 0 =>
    let m := if m.pwr.st = 2 then wakeDoze fz m else if m.pwr.st = 3 then wakeSleep fz m else restoreDies fz m
    { m with pwr := { m.pwr with st := 0, restore := [] } }
  | 2 =>
    let m := sleepWells fz true m
    { m with pwr := { m.pwr with st := 2 } }
  | 3 =>
    let m := sleepWells fz true ((List.range 16).foldl (portOff fz 5) m)
    { m with pwr := { m.pwr with st := 3 } }
  | _ =>
    let m := losePower none m
    { m with pwr := { m.pwr with st := 4 } }

/-- The changes of power state that waited for the transition (R793). -/
def takeQueue : List (Nat × Option Via) → Mach → Mach
  | [], m => { m with pwr := { m.pwr with queue := [] } }
  | (t, o) :: r, m =>
    let m := takePower t o m
    if m.pwr.inTransit then { m with pwr := { m.pwr with queue := r } } else takeQueue r m

/-- POWER_TRANSITION_DONE; PWR_SET to OFF completes before the host die loses power. -/
def transitionDone (fz : Fuses) (m : Mach) : Mach :=
  if m.pwr.inTransit = false ∨ m.pwr.failing = true then m
  else
    let t := m.pwr.target
    let m := answerOpt m.pwr.via .ok { m with pwr := { m.pwr with inTransit := false, via := none } }
    let m := reach fz t m
    takeQueue m.pwr.queue m

/-- POWER_TRANSITION_DONE. -/
def execPowerTransitionDone (s : State) : Host.Outcome State Fault Refusal := run s transitionDone

/-- PWR_STATUS (R803). -/
def pwrStatus (v : Via) (m : Mach) : Mach :=
  complete v .ok 0 (.fields ([("PWR_STATE", pwrState m), ("PWR_IN", pwrIn m.pwr), ("PWR_HOLDUP", pwrHoldup m)]
    ++ m.parts.map (fun y => ("THM_STATE", thmState y.2)))) m

/-- PWR_STATUS. -/
def execPwrStatus (v : Via) (s : State) : Host.Outcome State Fault Refusal :=
  run s (fun _ => command v none 0x802 (pwrStatus v))

/-- PWR_LIMIT (R797). -/
def pwrLimit (v : Via) (watts : Nat) (fz : Fuses) (m : Mach) : Mach :=
  if watts < 1000 ∨ maxWatts fz < watts then answer v .range m
  else answer v .ok { m with pwr := { m.pwr with limit := some watts } }

/-- PWR_LIMIT. -/
def execPwrLimit (v : Via) (watts : Nat) (s : State) : Host.Outcome State Fault Refusal :=
  run s (fun fz => command v none 0x804 (pwrLimit v watts fz))

/-! ### Limits (R795 to R799) -/

/-- Every die's clock root stretches each period to 1.5 times nominal for 10 µs of wall time (R795): a third of that time
is stretch. -/
def stretchAll (n : Nat) (m : Mach) : Mach :=
  let m := (List.range 4).foldl (fun m d => addStretch d n m) m
  { m with parts := m.parts.map (fun y => (y.1, { y.2 with stepHolds := { y.2.stepHolds with stretch := true } })) }

/-- POWER_SAMPLE (R795): mV, mA, and 0.1 W averaged over 100 µs and over 1 s. -/
def powerSample (vin iin pin pavg : Nat) (fz : Fuses) (m : Mach) : Mach :=
  let above := decide (10 * limitWatts fz m < pin)
  let m := { m with pwr := { m.pwr with
    vin := satN 65535 vin, iin := satN 65535 iin, pin := satN 65535 pin, pavg := satN 65535 pavg, stretching := above
    inputOk := decide (40000 ≤ vin) && decide (vin ≤ 60000) && !m.pwr.hotSwapOpen } }
  if above then bump .pwrLimStretch iModule (stretchAll 3333333 m) else m

/-- POWER_SAMPLE. -/
def execPowerSample (vinMv iinMa pinDw pavgDw : Nat) (s : State) : Host.Outcome State Fault Refusal :=
  run s (powerSample vinMv iinMa pinDw pavgDw)

/-- The power step set, and what every partition locks to (R796). -/
def setPowerStep (n : Nat) (m : Mach) : Mach :=
  let was := m.parts.map (fun y => (y.1, (wanted m y.2).1))
  was.foldl (fun m y => retarget y.1 y.2 m) { m with pwr := { m.pwr with step := n } }

/-- POWER_STEP_UPDATE (R796): the average over 100 ms and the highest of the last 1 s, in 0.1 W. -/
def powerStepUpdate (avg100 avg1s : Nat) (fz : Fuses) (m : Mach) : Mach :=
  let l := limitWatts fz m
  if 97 * l < 10 * avg100 then (if m.pwr.step < 3 then setPowerStep (m.pwr.step + 1) m else m)
  else if 10 * avg1s < 90 * l ∧ 0 < m.pwr.step then setPowerStep (m.pwr.step - 1) m
  else m

/-- POWER_STEP_UPDATE. -/
def execPowerStepUpdate (avg100Dw avg1sMaxDw : Nat) (s : State) : Host.Outcome State Fault Refusal :=
  run s (powerStepUpdate avg100Dw avg1sMaxDw)

/-- The thermal step of a partition set. -/
def setThermal (p n : Nat) (m : Mach) : Mach :=
  let was := (wanted m (part m p)).1
  retarget p was (onPart p (fun q => { q with thermal := n }) m)

/-- A die reads at or above a temperature in °C. -/
def atLeast (m : Mach) (d c : Nat) : Bool := (tempOf m 0 d).valid && decide ((16 * c : Nat) ≤ (tempOf m 0 d).temp)

/-- A die has stayed at or below 100 °C for the last 1 s. -/
def coolLong (m : Mach) (d : Nat) : Bool :=
  let t := tempOf m 0 d
  !t.valid || (decide (t.temp ≤ 1600) && decide (t.coolSince + 1000000000 ≤ m.clk.wall))

/-- The dies under R799: from 110 °C at F3 on, until the die reads below 108 °C. -/
def updateStretch (p : Nat) (m : Mach) : Mach :=
  let q := part m p
  let l := if q.cur = 3 then q.dies.filter (fun d => atLeast m d (if q.stretched.contains d then 108 else 110)) else []
  onPart p (fun q => { q with stretched := l
                              stepHolds := { q.stepHolds with stretch := q.stepHolds.stretch || !l.isEmpty } }) m

/-- THERMAL_STEP_UPDATE (R798, R799): every 10 ms; a die under R799 has stretched for a third of that time. -/
def thermalUpdate (p : Nat) (m : Mach) : Mach :=
  let q := part m p
  let m := (q.stretched.filter (fun d => atLeast m d 108)).foldl (fun m d => addStretch d 3333333333 m) m
  let m :=
    if q.dies.any (fun d => atLeast m d 105) then
      (if q.thermal < 3 then bump .thmThrottle iModule (setThermal p (q.thermal + 1) m) else m)
    else if q.dies.all (coolLong m) && decide (0 < q.thermal) then setThermal p (q.thermal - 1) m
    else m
  updateStretch p m

/-- THERMAL_STEP_UPDATE. -/
def execThermalStepUpdate (p : Fin 4) (s : State) : Host.Outcome State Fault Refusal :=
  run s (fun _ => thermalUpdate p.val)

/-! ### Temperatures, trips, cooling (Table 18-4, R800, R802) -/

/-- A sensor read. -/
def setTemp (kind index : Nat) (t : Int) (m : Mach) : Mach :=
  let now := m.clk.wall
  { m with pwr := { m.pwr with temps := tmod {} m.pwr.temps (16 * kind + index) (fun x =>
      { valid := true, temp := t
        coolSince := if x.valid = true ∧ x.temp ≤ 1600 then x.coolSince else now }) } }

/-- The warning temperature of a sensor kind whose warning is the event THM_WARN, in 1/16 °C. -/
def warnAt (kind : Nat) : Option Int :=
  match kind with
  | 0 => some 1600
  | 2 => some 1120
  | 3 => some 1520
  | _ => none

/-- A reading crosses the warning upwards. -/
def warns (x : Temp) (kind : Nat) (t : Int) : Bool :=
  match warnAt kind with
  | some w => decide (w ≤ t) && !(x.valid && decide (w ≤ x.temp))
  | none => false

/-- The cistern's throttle at a temperature (Table 18-4); off stays off. -/
def cisternAt (was : Nat) (t : Int) : Nat := if was = 3 then 3 else if 1280 ≤ t then 2 else if 1120 ≤ t then 1 else 0

/-- The sensor of a stack that the HX-930 does not have (01 R26). -/
def absent (fz : Fuses) (s : Sensor) : Bool := !fz.full && s.kind == 1 && (s.index == 3 || s.index == 7)

/-- THM_WARN: a reading that crosses a threshold of Table 18-4; a stack's reading sets its refresh rate (R354). -/
def thmWarn (s : Sensor) (t : Int) (fz : Fuses) (m : Mach) : Mach :=
  if absent fz s then m else
  let tell := warns (tempOf m s.kind s.index) s.kind t
  let m := setTemp s.kind s.index t m
  let m :=
    if s.kind = 1 then
      [2 * s.index, 2 * s.index + 1].foldl (fun m w => onWell w (fun h => { h with
        hotNext := if 1360 < t then true else if t < 1328 then false else h.hotNext }) m) m
    else if s.kind = 2 then { m with pwr := { m.pwr with cistern := cisternAt m.pwr.cistern t } }
    else m
  if tell then raiseEvt 0x0063 1 (iSensor s.kind s.index) (twos 16 t) m else m

/-- THM_WARN. -/
def execThmWarn (sensor : Sensor) (temp : Int) (s : State) : Host.Outcome State Fault Refusal :=
  run s (thmWarn sensor temp)

/-- The rails of a die go down after a trip (R800): its ports have no power. -/
def dieOff (fz : Fuses) (d : Nat) (m : Mach) : Mach :=
  let m := (diePorts d).foldl (portOff fz 3) m
  { m with pwr := { m.pwr with offDies := if m.pwr.offDies.contains d then m.pwr.offDies else m.pwr.offDies ++ [d] } }

/-- A compute-die trip (R800, Table 19-6). -/
def dieTrip (fz : Fuses) (d : Nat) (s : Sensor) (t : Int) (m : Mach) : Mach :=
  let p := partOf m d
  let arg := pack [(4, s.kind), (4, s.index), (24, 0), (16, twos 16 t)] 0
  dieOff fz d (forceHalt fz p 4 arg (cycleNow m p) m)

/-- The logic side goes to OFF after a fault (R787, Table 18-4). -/
def logicOff (m : Mach) : Mach :=
  let m := losePower none m
  { m with pwr := { m.pwr with st := 4, target := 4 } }

/-- THM_TRIP (Table 18-4, R800). -/
def thmTrip (s : Sensor) (t : Int) (fz : Fuses) (m : Mach) : Mach :=
  if absent fz s then m else
  let m := bump .thmTrips iModule (setTemp s.kind s.index t m)
  let m := raiseEvt 0x0064 2 (iSensor s.kind s.index) (twos 16 t) m
  match s.kind with
  | 0 => dieTrip fz s.index s t m
  | 1 => dieTrip fz (s.index / 2) s t m
  | 2 => { m with pwr := { m.pwr with cistern := 3 } }
  | 3 => logicOff m
  | _ => m

/-- THM_TRIP. -/
def execThmTrip (sensor : Sensor) (temp : Int) (s : State) : Host.Outcome State Fault Refusal :=
  run s (thmTrip sensor temp)

/-- RAIL_FAULT (R787): VCORE of a die, number 6 of Table 18-2, or another rail by its order. -/
def railFault (r : Rail) (fz : Fuses) (m : Mach) : Mach :=
  match r with
  | .vcore d =>
    let m := raiseEvt 0x0061 2 (iDie d.val) 6 m
    let p := partOf m d.val
    let m := forceHalt fz p 3 d.val (cycleNow m p) m
    onDie d.val (fun x => { x with failed := true }) ((diePorts d.val).foldl (portOff fz 3) m)
  | .other n => logicOff (raiseEvt 0x0061 2 iModule n m)

/-- RAIL_FAULT. -/
def execRailFault (r : Rail) (s : State) : Host.Outcome State Fault Refusal := run s (railFault r)

/-- COOL_FLOW (R802): the flow over 1 s, in 0.01 L/min; it is read as sensor 8 of kind 4 (Table 18-11). -/
def coolFlow (flow : Nat) (m : Mach) : Mach :=
  let m := setTemp 4 8 flow m
  if flow < 160 then raiseEvt 0x0065 1 iModule flow m else m

/-- COOL_FLOW. -/
def execCoolFlow (flow : Nat) (s : State) : Host.Outcome State Fault Refusal := run s (fun _ => coolFlow flow)

/-- COOL_INLET (R802): the inlet over 1 s, in 1/16 °C. -/
def coolInlet (t : Int) (m : Mach) : Mach :=
  let m := setTemp 4 0 t m
  if 752 < t then raiseEvt 0x0066 1 iModule (twos 16 t) m else m

/-- COOL_INLET. -/
def execCoolInlet (temp : Int) (s : State) : Host.Outcome State Fault Refusal := run s (fun _ => coolInlet temp)

/-! ### Machine errors and edge stations (09 R387, 19 R819) -/

/-- The windows that hear of a machine error: the module window, and those whose host window holds the address (DESIGN
CHOICE, log 33). -/
def errorWindows (m : Mach) (addr : Nat) : List Nat :=
  ((m.parts.filter (fun y => inHostWindow y.2 addr 1)).map (fun y => y.1)) ++ [4]

/-- MACHINE_ERROR. -/
def machineError (addr : Nat) (m : Mach) : Mach :=
  (errorWindows m addr).foldl (fun m w => interrupt w 2 m) (raiseEvt 0x0033 1 iModule addr m)

/-- MACHINE_ERROR. -/
def execMachineError (addr : Nat) (s : State) : Host.Outcome State Fault Refusal := run s (fun _ => machineError addr)

/-- A die is running. -/
def dieRuns (m : Mach) (d : Nat) : Bool :=
  m.boot == 3 && decide (m.pwr.st < 2) && !m.pwr.offDies.contains d && !(die m d).failed

/-- EDGE_CHECK (R819): the check of a running die's edge stations. -/
def edgeCheck (d : Nat) (failed : Option (Fin 256)) (fz : Fuses) (m : Mach) : Mach :=
  match failed with
  | none => m
  | some u =>
    if !dieRuns m d then m
    else
      let m := raiseEvt 0x0054 2 (iDie d) u.val m
      let p := partOf m d
      onDie d (fun x => { x with failed := true }) (forceHalt fz p 6 (d * 256 + u.val) (cycleNow m p) m)

/-- EDGE_CHECK. -/
def execEdgeCheck (die : Fin 4) (failed : Option (Fin 256)) (s : State) : Host.Outcome State Fault Refusal :=
  run s (edgeCheck die.val failed)

end Sys2Proof.Machine
end

