-- ==== Sys2Proof/Machine/Control.lean ====
section
/-! DEFINITION. Control and management (17): events read, telemetry configured, the HEALTH record, firmware update,
watchdogs, and what firmware does while no command waits. -/

namespace Sys2Proof.Machine

/-! ### Events, telemetry, HEALTH -/

/-- EVT_READ (R810): the oldest waiting records of the caller's window. -/
def evtRead (v : Via) (max : Nat) (m : Mach) : Mach :=
  if max = 0 ∨ 127 < max then answer v .range m
  else
    let w := callerWin v.caller
    let l := (win m w).waiting.take max
    complete v .ok 0 (.bytes (l.flatMap (evtBytes w))) (onWin w (fun x => { x with waiting := x.waiting.drop max }) m)

/-- EVT_READ. -/
def execEvtRead (v : Via) (max : Nat) (s : State) : Host.Outcome State Fault Refusal :=
  run s (fun _ => command v none 0x904 (evtRead v max))

/-- A power of two from 16 to 65,536. -/
def telemSize (n : Nat) : Bool := (List.range 13).any (fun i => n == 2 ^ (i + 4))

/-- TELEM_CONFIG (R823); ADDR 0 turns telemetry off. -/
def telemConfig (v : Via) (p addr entries every : Nat) (m : Mach) : Mach :=
  if addr = 0 then answer v .ok (onPart p (fun q => { q with telem := {} }) m)
  else if addr % 64 ≠ 0 ∨ telemSize entries = false ∨ 65535 < every
      ∨ inClear (part m p) addr (64 + 64 * entries) = false then answer v .range m
  else
    answer v .ok (onPart p (fun q => { q with telem := { addr := addr, pushEvery := every, entries := entries } }) m)

/-- TELEM_CONFIG. -/
def execTelemConfig (v : Via) (p : Fin 4) (addr entries pushEvery : Nat) (s : State) :
    Host.Outcome State Fault Refusal :=
  run s (fun _ => command v (some p.val) 0x905 (telemConfig v p.val addr entries pushEvery))

/-- The highest of some numbers, from 0 up. -/
def highest (l : List Int) : Nat := l.foldl (fun n x => if n < x.toNat then x.toNat else n) 0

/-- Whole degrees of a reading, from 0 to 255. -/
def degrees (t : Int) : Int := satN 255 (t / 16).toNat

/-- The HEALTH record (Table 17-18). -/
def healthBytes (m : Mach) : List Byte :=
  let hot := highest (((List.range 4).filter (fun d => (tempOf m 0 d).valid)).map (fun d => degrees (tempOf m 0 d).temp))
  leBytes 1 0 ++ leBytes 1 m.boot ++ leBytes 1 m.pwr.st ++ leBytes 1 m.clk.st ++ leBytes 2 m.moduleId
    ++ leBytes 1 m.fw.runSvn ++ leBytes 1 hot ++ leBytes 4 (satN (2 ^ 32 - 1) (ctr m .evtRaised iModule 0).count)
    ++ zeros 40

/-- HEALTH. -/
def execHealth (v : Via) (s : State) : Host.Outcome State Fault Refusal :=
  run s (fun _ => command v none 0x906 (fun m => complete v .ok 0 (.bytes (healthBytes m)) m))

/-! ### Firmware update (R754 to R759) -/

/-- A range of host memory copied into the reserved region of R728, from its start on (log 210). -/
def copyImage (addr len : Nat) (m : Mach) : Mach := pokeHost 0x3F80000000 (peeks m.mem.host addr (min len 0x80000000)) m

/-- FW_STAGE: the copy verified in the reserved region (R755). -/
def fwStage (v : Via) (addr len : Nat) (i : FwImage) (m : Mach) : Mach :=
  if m.fw.commit.isSome then answer v .badState m
  else if 2 ^ 38 < addr + len then answer v .range m
  else
    let m := copyImage addr len m
    let put (o : Option FwImage) (m : Mach) : Mach := { m with fw := { m.fw with staged := o } }
    match imageFault m i with
    | some 3 => answer v .rollback (put none m)
    | some _ => answer v .imageInvalid (put none m)
    | none => answer v .ok (put (some i) m)

/-- FW_STAGE. -/
def execFwStage (v : Via) (addr len : Nat) (image : FwImage) (s : State) : Host.Outcome State Fault Refusal :=
  run s (fun _ => command v none 0x810 (fwStage v addr len image))

/-- FW_COMMIT (R756): a protected commit, whose test comes first. -/
def fwCommit (v : Via) (m : Mach) : Mach :=
  match m.fw.staged, m.fw.commit with
  | some i, none => askCommit .fw { m with fw := { m.fw with commit := some (i, v) } }
  | _, _ => answer v .badState m

/-- FW_COMMIT. -/
def execFwCommit (v : Via) (s : State) : Host.Outcome State Fault Refusal :=
  run s (fun _ => command v none 0x811 (fwCommit v))

/-- A commit of firmware that has begun comes to its end: the record is DONE (R756). -/
def finishFw (m : Mach) : Mach :=
  if commitReady m .fw then
    match m.fw.commit with
    | some (i, v) => answer v .ok (endCommit (endRecord i { m with fw := { m.fw with commit := none } }))
    | none => m
  else m

/-- What the module does when no command waits: 10 ns pass (log 3), and a commit of firmware completes. -/
def idle (m : Mach) : Mach := finishFw (tick m)

/-- FW_ACTIVATE (R758). -/
def fwActivate (v : Via) (m : Mach) : Mach :=
  if m.parts.any (fun y => y.2.sec.st == 2 || y.2.sec.st == 3) then answer v .badState m
  else
    let m := answer v .ok m
    bootLogic (committed m) [] m

/-- FW_ACTIVATE. -/
def execFwActivate (v : Via) (s : State) : Host.Outcome State Fault Refusal :=
  run s (fun _ => command v none 0x812 (fwActivate v))

/-- FW_STATUS (Table 17-11). -/
def fwStatus (v : Via) (m : Mach) : Mach :=
  complete v .ok 0 (.fields [("MBX_BOOT", mbxBoot m), ("STAGED", ((m.fw.staged).map (fun i => i.digest.toNat)).getD 0)
    , ("COMMITTED", m.fw.digest.toNat), ("GEN", m.fw.latest.gen), ("DONE", b2n m.fw.latest.done)
    , ("PROGRESS", m.fw.latest.progress), ("TARGET", m.fw.latest.digest.toNat)]) m

/-- FW_STATUS. -/
def execFwStatus (v : Via) (s : State) : Host.Outcome State Fault Refusal :=
  run s (fun _ => command v none 0x813 (fwStatus v))

/-- FW_SVN_ADVANCE (R759). -/
def fwSvnAdvance (v : Via) (m : Mach) : Mach :=
  if m.fw.runSvn ≤ m.fw.svnFuse then answer v .badState m
  else answer v .ok { m with fw := { m.fw with svnFuse := m.fw.runSvn } }

/-- FW_SVN_ADVANCE. -/
def execFwSvnAdvance (v : Via) (s : State) : Host.Outcome State Fault Refusal :=
  run s (fun _ => command v none 0x814 (fwSvnAdvance v))

/-! ### Watchdogs (Table 17-15) -/

/-- WDOG_CONTROL: the event, then the halt of a plan that runs. -/
def wdogControl (p : Nat) (fz : Fuses) (m : Mach) : Mach :=
  let m := raiseEvt 0x0051 2 (iPart p) 0 m
  if runs m p then forceHalt fz p 2 0 (cycleNow m p) m else m

/-- WDOG_CONTROL. -/
def execWdogControl (p : Fin 4) (s : State) : Host.Outcome State Fault Refusal := run s (wdogControl p.val)

/-- WDOG_MGMT: management firmware restarts; partitions keep running. -/
def execWdogMgmt (s : State) : Host.Outcome State Fault Refusal := run s (fun _ => raiseEvt 0x0052 1 iModule 0)

/-- WDOG_SECURITY: a restart as for FW_ACTIVATE, without any key of a session (R816). -/
def execWdogSecurity (s : State) : Host.Outcome State Fault Refusal :=
  run s (fun _ m => raiseEvt 0x0053 2 iModule 0 (bootLogic (committed m) [] m))

end Sys2Proof.Machine
end

