-- ==== Sys2Proof/Machine/Chain.lean ====
section
/-! DEFINITION. The Wiluc chain (17 R764 to R773): frames forwarded, consumed, answered; enumeration, location, power,
health and hold-up frames, the recovery transfer. -/

namespace Sys2Proof.Machine

/-! ### Frames (R767, R768) -/

/-- Bytes 0 to 59 of a frame (Table 17-16). -/
def frameBody (f : Frame) : List Byte :=
  leBytes 1 f.dst ++ leBytes 1 f.src ++ leBytes 1 f.typ ++ leBytes 1 f.seq ++ leBytes 1 f.len ++ leBytes 3 f.resv
    ++ fitTo 52 f.payload

/-- The CRC of a frame holds. -/
def frameSound (f : Frame) : Bool := f.crc == crc32c (frameBody f)

/-- A frame with its CRC. -/
def frameSeal (f : Frame) : Frame := { f with crc := crc32c (frameBody f) }

/-- Wall time of a frame on a segment, ns (R767). -/
def frameNs : Nat := 26400

/-- Frames on OUT that have not ended. -/
def outsOpen (m : Mach) : List (Nat × Bool) := m.wch.outs.filter (fun e => decide (m.clk.wall < e.1))

/-- A frame sent on OUT, ready at a wall time: it starts once OUT is idle (R765). -/
def sendOut (forwarded : Bool) (f : Frame) (ready : Nat) (m : Mach) : Mach :=
  let l := outsOpen m
  let start := l.foldl (fun a e => if a ≤ e.1 then e.1 else a) ready
  { m with out := m.out ++ [.frame f], wch := { m.wch with outs := l ++ [(start + frameNs, forwarded)] } }

/-- A response sent on OUT. -/
def sendFrame (f : Frame) (ready : Nat) (m : Mach) : Mach := sendOut false f ready m

/-- A frame forwarded: 1 µs after its first symbol, or buffered behind others that arrived, at most 4 (R764, R765). -/
def forwardFrame (f : Frame) (m : Mach) : Mach :=
  let waiting := ((outsOpen m).filter (fun e => e.2 && decide (m.clk.wall + frameNs < e.1))).length
  if 4 ≤ waiting then bump .wchOverrun iModule m else sendOut true f (m.clk.wall + 1000) m

/-- The response to a frame: its status, then the bytes of a record (R768). -/
def response (m : Mach) (f : Frame) (status : Nat) (more : List Byte) : Frame :=
  frameSeal
    { dst := 0, src := m.wch.addr, typ := 128 + f.typ % 128, seq := f.seq, len := 1 + more.length, resv := 0,
      payload := leBytes 1 status ++ more, crc := 0 }

/-- A frame executed and answered (R768, R769): `act` gives the status, the further bytes of the response and the next
state. -/
def answerFrame (f : Frame) (act : Mach → Nat × List Byte × Mach) (m : Mach) : Mach :=
  let last := tget (256, none) m.wch.last f.typ
  let done := m.wch.inAt
  match (if last.1 = f.seq then last.2 else none) with
  | some r => bump .wchRepeat iModule (sendFrame r done m)
  | none =>
    let (st, more, m) := if f.resv ≠ 0 ∨ 52 < f.len then (2, [], m) else act m
    let r := response m f st more
    sendFrame r done { m with wch := { m.wch with last := tput (256, none) m.wch.last f.typ (f.seq, some r) } }

/-- A frame arrives on IN, at the earliest when the last one has ended. -/
def arrive (m : Mach) : Mach :=
  let m := reachWall m.wch.inAt m
  { m with wch := { m.wch with inAt := m.clk.wall + frameNs } }

/-- A frame received (R764, R768, R771). An unpowered module's bypass passes it. -/
def recvFrame (f : Frame) (act : Mach → Nat × List Byte × Mach) (m : Mach) : Mach :=
  if m.wch.bypass then { m with out := m.out ++ [.frame f] }
  else
    let m := arrive m
    if m.wch.addr = 0 then forwardFrame f m
    else if f.dst = m.wch.addr then
      let m := bump .wchFrames iModule m
      if frameSound f then answerFrame f act m else bump .wchCrcErr iModule m
    else
      let m := forwardFrame f m
      if f.dst ≠ 0xFF then m
      else if frameSound f then answerFrame f act m else bump .wchCrcErr iModule m

/-- The frame types assigned (Table 17-17). -/
def frameTypes : List Nat := [1, 2, 3, 4, 5, 6, 7, 8]

/-- WILUC_FORWARD: a frame that the module does not consume; one of an unassigned type that is for it is answered with
BAD_FRAME. -/
def wilucForward (f : Frame) (m : Mach) : Mach :=
  if frameTypes.contains f.typ && (f.dst == m.wch.addr || f.dst == 0xFF) && m.wch.addr != 0 && !m.wch.bypass then m
  else recvFrame f (fun m => (2, [], m)) m

/-- WILUC_FORWARD. -/
def execWilucForward (f : Frame) (s : State) : Host.Outcome State Fault Refusal := run s (fun _ => wilucForward f)

/-- CHAIN_TAKEOVER (R843). -/
def execChainTakeover (s : State) : Host.Outcome State Fault Refusal :=
  run s (fun _ m => { m with wch := { m.wch with bypass := false } })

/-! ### Enumeration and location (R771 to R773, R5 to R8) -/

/-- The module ID of a location and a slot (R5). -/
def moduleIdOf (pod shelf slot : Nat) : Nat := pod * 256 + shelf * 8 + (slot - 1)

/-- The lowest slot, at least NEXT, of the mask. -/
def enumSlot (next mask : Nat) : Option Nat :=
  ((List.range 8).map (fun i => i + 1)).find? (fun s => decide (next ≤ s) && bitAt mask (s - 1))

/-- ENUM at an unaddressed module. -/
def takeSlotAddr (f : Frame) (m : Mach) : Mach :=
  match enumSlot (leAt f.payload 0 1) (leAt f.payload 1 1) with
  | none => forwardFrame f m
  | some s =>
    let w := m.wch
    if w.slot ≠ 0 ∧ w.slot ≠ s then raiseEvt 0x0050 1 iModule (16 * s + w.slot) (forwardFrame f m)
    else
      let f := frameSeal { f with payload := leBytes 1 (s + 1) ++ f.payload.drop 1 }
      forwardFrame f { m with wch := { w with addr := s, slot := s }, moduleId := moduleIdOf w.pod w.shelf s }

/-- ENUM (R771, R772). -/
def enum (f : Frame) (m : Mach) : Mach :=
  if f.typ ≠ 1 then m
  else if m.wch.addr = 0 ∧ m.wch.bypass = false then
    let m := arrive m
    if !(frameSound f) then forwardFrame f (bump .wchCrcErr iModule m) else takeSlotAddr f m
  else recvFrame f (fun m => (1, [], m)) m

/-- ENUM. -/
def execEnum (f : Frame) (s : State) : Host.Outcome State Fault Refusal := run s (fun _ => enum f)

/-- The location set; optical ports may be primed from then on (R8). -/
def locate (pod shelf : Nat) (m : Mach) : Mach :=
  let m := { m with located := true, moduleId := moduleIdOf pod shelf m.wch.slot
                    wch := { m.wch with locSet := true, pod := pod, shelf := shelf } }
  if m.boot = 3 ∧ m.pwr.st < 3 then wakePorts m [8, 9, 10, 11, 12, 13, 14, 15] else m

/-- SET_LOCATION executed (R773). -/
def setLocation (f : Frame) (m : Mach) : Nat × List Byte × Mach :=
  let pod := leAt f.payload 0 1
  let shelf := leAt f.payload 1 1
  if 63 < pod ∨ 31 < shelf then (1, [], m)
  else if m.wch.locSet then
    if pod = m.wch.pod ∧ shelf = m.wch.shelf then (0, [], m)
    else if m.ports.any (fun y => y.2.st != 0) || m.parts.any (fun y => y.2.st != .empty) then (1, [], m)
    else (0, [], locate pod shelf m)
  else (0, [], locate pod shelf m)

/-- SET_LOCATION. -/
def execSetLocation (f : Frame) (s : State) : Host.Outcome State Fault Refusal :=
  run s (fun _ m => if f.typ = 2 then recvFrame f (setLocation f) m else m)

/-! ### Power, health, hold-up -/

/-- POWER executed (R793): code 1 is REFUSED, and so is a state that R790 or R794 refuses; in OFF only code 0 acts. -/
def powerFrame (f : Frame) (m : Mach) : Nat × List Byte × Mach :=
  let t := leAt f.payload 0 1
  if ¬ (t = 0 ∨ t = 2 ∨ t = 3 ∨ t = 4) then (1, [], m)
  else if m.pwr.inTransit then (0, [], { m with pwr := { m.pwr with queue := m.pwr.queue ++ [(t, none)] } })
  else if m.pwr.st = 4 then (if t = 0 ∧ m.pwr.failed.isNone = true then (0, [], takePower 0 none m) else (1, [], m))
  else
    match powerRefused m t with
    | some _ => (1, [], m)
    | none => (0, [], takePower t none m)

/-- POWER. -/
def execPower (f : Frame) (s : State) : Host.Outcome State Fault Refusal :=
  run s (fun _ m => if f.typ = 3 then recvFrame f (powerFrame f) m else m)

/-- HEALTH. -/
def execHealthFrame (f : Frame) (s : State) : Host.Outcome State Fault Refusal :=
  run s (fun _ m => if f.typ = 4 then recvFrame f (fun m => (0, (healthBytes m).drop 1, m)) m else m)

/-- Surge tank status (R803), behind the status byte. -/
def tankBytes (m : Mach) : List Byte :=
  let x := m.pwr
  leBytes 2 (satN 65535 x.cap) ++ leBytes 2 (satN 65535 x.energy) ++ leBytes 2 (satN 65535 x.vtank)
    ++ leBytes 1 (if x.fault then 4 else x.tank) ++ leBytes 2 (testAge m) ++ zeros 42

/-- HOLDUP. -/
def execHoldup (f : Frame) (s : State) : Host.Outcome State Fault Refusal :=
  run s (fun _ m => if f.typ = 5 then recvFrame f (fun m => (0, tankBytes m, m)) m else m)

/-! ### Recovery over the chain (R761) -/

/-- RCV_BEGIN executed: a header of 4 KiB and a body within Table 17-14. -/
def rcvBegin (f : Frame) (m : Mach) : Nat × List Byte × Mach :=
  let n := leAt f.payload 0 8
  if m.boot ≠ 4 ∨ n < 8192 ∨ 100663296 < n then (1, [], m)
  else (0, [], { m with fw := { m.fw with rcvLen := some n, rcvGot := [] } })

/-- RCV_BEGIN. -/
def execRcvBegin (f : Frame) (s : State) : Host.Outcome State Fault Refusal :=
  run s (fun _ m => if f.typ = 6 then recvFrame f (rcvBegin f) m else m)

/-- RCV_DATA executed: 48 image bytes at their offset in the reserved region. -/
def rcvData (f : Frame) (m : Mach) : Nat × List Byte × Mach :=
  let o := leAt f.payload 0 4
  match m.fw.rcvLen with
  | none => (1, [], m)
  | some n =>
    if m.boot ≠ 4 ∨ n ≤ o ∨ o % 48 ≠ 0 then (1, [], m)
    else
      let m := pokeHost (0x3F80000000 + o) ((fitTo 48 (f.payload.drop 4)).take (n - o)) m
      (0, [], { m with fw := { m.fw with rcvGot := insertNat (o / 48) m.fw.rcvGot } })

/-- RCV_DATA. -/
def execRcvData (f : Frame) (s : State) : Host.Outcome State Fault Refusal :=
  run s (fun _ m => if f.typ = 7 then recvFrame f (rcvData f) m else m)

/-- Every frame of an image has arrived, and the whole has the digest of RCV_END. -/
def wholeImage (m : Mach) (f : Frame) : Bool :=
  match m.fw.rcvLen with
  | none => false
  | some n =>
    decide (m.fw.rcvGot.length = (n + 47) / 48)
      && digestBytes (sha256 (peeks m.mem.host 0x3F80000000 n)) == fitTo 32 f.payload

/-- RCV_END executed: the image is checked, committed and booted. -/
def rcvEnd (f : Frame) (i : FwImage) (m : Mach) : Nat × List Byte × Mach :=
  if m.boot = 4 ∧ wholeImage m f = true ∧ imageFault m i = none then (0, [], recover i m) else (1, [], m)

/-- RCV_END. -/
def execRcvEnd (f : Frame) (image : FwImage) (s : State) : Host.Outcome State Fault Refusal :=
  run s (fun _ m => if f.typ = 8 then recvFrame f (rcvEnd f image) m else m)

end Sys2Proof.Machine
end

