-- ==== Sys2Proof/Machine/Engines.lean ====
section
/-! DEFINITION. The instructions of the matrix engine (04) and of the vector engine (06), and VX.CNTLD (03). -/

namespace Sys2Proof.Machine

/-! ### Matrix engine (04) -/

/-- MX.LOADW. -/
def execMxLoadw (a : At) (s : State) : Host.Outcome State Fault Refusal :=
  run s (issue a .loadw specLoadw effLoadw)

/-- MX.MMA. -/
def execMxMma (a : At) (s : State) : Host.Outcome State Fault Refusal :=
  run s (issue a .mma specMma effMma)

/-- MX.DRAIN. -/
def execMxDrain (a : At) (s : State) : Host.Outcome State Fault Refusal :=
  run s (issue a .drain specDrain effDrain)

/-! ### Vector engine (05, 06) -/

/-- VX.OP. -/
def execVxOp (a : At) (s : State) : Host.Outcome State Fault Refusal :=
  run s (issue a .vxop (specRow .vxop) (effPlan outOp))

/-- VX.CVT CONV. -/
def execVxCvtConv (a : At) (s : State) : Host.Outcome State Fault Refusal :=
  run s (issue a .cvtConv (specRow .cvtConv) (effPlan outConv))

/-- VX.CVT BFSPLIT. -/
def execVxCvtBfsplit (a : At) (s : State) : Host.Outcome State Fault Refusal :=
  run s (issue a .cvtBfsplit (specRow .cvtBfsplit) (effPlan outBfsplit))

/-- VX.CVT EXPSCAN. -/
def execVxCvtExpscan (a : At) (s : State) : Host.Outcome State Fault Refusal :=
  run s (issue a .cvtExpscan (specRow .cvtExpscan) (effPlan outExpscan))

/-- VX.CVT SPLIT. -/
def execVxCvtSplit (a : At) (s : State) : Host.Outcome State Fault Refusal :=
  run s (issue a .cvtSplit (specRow .cvtSplit) (effPlan outSplit))

/-- VX.FUNC. -/
def execVxFunc (a : At) (s : State) : Host.Outcome State Fault Refusal :=
  run s (issue a .vxfunc (specRow .vxfunc) (effPlan outFunc))

/-- VX.RED SUMALL. -/
def execVxRedSumall (a : At) (s : State) : Host.Outcome State Fault Refusal :=
  run s (issue a .sumall (specRow .sumall) (effPlan (outRed 0)))

/-- VX.RED ROWSUM. -/
def execVxRedRowsum (a : At) (s : State) : Host.Outcome State Fault Refusal :=
  run s (issue a .rowsum (specRow .rowsum) (effPlan (outRed 64)))

/-- VX.TOPK SELECT. -/
def execVxTopkSelect (a : At) (s : State) : Host.Outcome State Fault Refusal :=
  run s (issue a .topSelect specTopk effTopSelect)

/-- VX.TOPK MERGE. -/
def execVxTopkMerge (a : At) (s : State) : Host.Outcome State Fault Refusal :=
  run s (issue a .topMerge specTopk effTopMerge)

/-- VX.STOP. -/
def execVxStop (a : At) (s : State) : Host.Outcome State Fault Refusal :=
  run s (issue a .vxstop specStop effStop)

/-- VX.OCLD LOAD. -/
def execVxOcldLoad (a : At) (s : State) : Host.Outcome State Fault Refusal :=
  run s (issue a .ocldLoad specOcld effOcldLoad)

/-- VX.OCLD KEY. -/
def execVxOcldKey (a : At) (s : State) : Host.Outcome State Fault Refusal :=
  run s (issue a .ocldKey specOcld effOcldKey)

/-- VX.CNTLD. -/
def execVxCntld (a : At) (s : State) : Host.Outcome State Fault Refusal :=
  run s (issue a .cntld specCntld effCntld)

/-- VX.AMAX SCAN. -/
def execVxAmaxScan (a : At) (s : State) : Host.Outcome State Fault Refusal :=
  run s (issue a .amaxScan specAmax effAmaxScan)

/-- VX.AMAX LOAD. -/
def execVxAmaxLoad (a : At) (s : State) : Host.Outcome State Fault Refusal :=
  run s (issue a .amaxLoad specAmax effAmaxLoad)

end Sys2Proof.Machine
end

