-- ==== Sys2Proof/Machine/Steps.lean ====
section
/-! DEFINITION. The start and the end of a step (07 R278 to R287): what takes effect between two steps, variants and
rungs (19 R828 to R834), the phases of a swap (14 R632), the records of a step (15, 19). -/

namespace Sys2Proof.Machine

/-! ### Between two steps -/

/-- What takes effect at a step boundary: the frequency step (12 R524), new memory keys that are all LOADED (16 R714),
ports that have returned. -/
def boundary (fz : Fuses) (p : Nat) (m : Mach) : Mach :=
  let m := changeClock p m
  let x := (part m p).rot
  let m := if x.state = 1 ∧ x.loaded = true then startReencrypt fz p m else m
  usePorts p m

/-! ### Variants and rungs (19 R828 to R834) -/

/-- The manifest of a step, sealed here or received. -/
def manifestAt (m : Mach) (p n : Nat) : Option Manifest :=
  ((part m p).srv.sealedM ++ (part m p).srv.got).find? (fun f => f.step == n)

/-- PROFILE_MISMATCH of a variant that takes effect, in cycle 0 and before any instruction of the step issues (07 R313). -/
def checkProfile (fz : Fuses) (p : Nat) (v : VariantImage) (m : Mach) : Mach :=
  if profileOk fz v.lprof then m
  else
    haltPart fz p { reason := 0x0B, die := p, queue := 3, unit := 0, pidx := 0xFF, cycle := 0, iaddr := none
                    subcode := 0, arg := pair24 (lprofCode v.lprof) (b2n fz.b0), station := false, issuer := none }
      (onPart p (fun q => { q with lastStop := some 0 }) m)

/-- A variant runs from the step in progress on (R833): its classes, windows, buffers and templates; every queue takes
the first beats of its buffer (DESIGN CHOICE, log 34). -/
def takeVariant (fz : Fuses) (p v : Nat) (m : Mach) : Mach :=
  match (planOf m p).bind (fun pl => pl.variants[v]?) with
  | none => m
  | some y =>
    let q := part m p
    let m := onPart p (fun q => { q with variant := v, varBase := q.step }) m
    let m := fillQueues q.dies (setTmpls q.dies y (setBufs q.dies y m))
    checkProfile fz p y (raiseEvt 0x0004 0 (iPart p) (v * 2 ^ 48 + q.step) (bump .varSwitches (iPart p) m))

/-- The armed switch of the step in progress takes effect, after its COMMAND entry (R657, R832, R833). -/
def armedSwitch (fz : Fuses) (p : Nat) (m : Mach) : Mach :=
  let q := part m p
  match q.armed.find? (fun a => a.step == q.step) with
  | none => m
  | some a =>
    let m := if q.det.replay.isSome then m else journalCommand p 0x207 a.payload q.step 0 m
    takeVariant fz p a.variant (onPart p (fun q => { q with armed := q.armed.filter (fun y => y != a) }) m)

/-- The rung of the manifest of the step in progress takes effect (R567, R834). -/
def rungSwitch (fz : Fuses) (p : Nat) (m : Mach) : Mach :=
  let q := part m p
  match serveOf m p, manifestAt m p q.step with
  | some sv, some f =>
    let was := ((manifestAt m p (q.step - 1)).map (fun g => g.rung)).getD 0
    let m := if f.rung = was then m else bump .srvRungChg (iPart p) m
    match sv.rungs[f.rung]? with
    | some r => if r.variant = q.variant then m else takeVariant fz p r.variant m
    | none => m
  | _, _ => m

/-! ### Serving at a step's start -/

/-- The slots of a manifest whose request is masked, for a home: cancelled, or gone. -/
def maskedSlots (m : Mach) (p : Nat) (f : Manifest) : List Nat :=
  ((f.slots.zipIdx).filter (fun y => match y.1 with
    | none => false
    | some id =>
      match findReq m p id with
      | none => true
      | some i => (req m p i).cancel)).map (fun y => y.2)

/-- The slot mask of the step in progress (R590, R591): a request masked at a boundary of the last step stays masked. -/
def stepMask (p : Nat) (m : Mach) : Mach :=
  if isHome m p = false then m
  else
    let q := part m p
    match manifestAt m p q.step with
    | none => onSrv p (fun s => { s with mask := [], masked := [] }) m
    | some f =>
      let gone := ((manifestAt m p (q.step - 1)).map (fun g => q.srv.masked.filterMap (fun i => g.slots.getD i none))).getD []
      let mask := maskedSlots m p f
      onSrv p (fun s => { s with
        mask := mask
        masked := mask.filter (fun i => match f.slots.getD i none with
          | some id => gone.contains id
          | none => false) }) m

/-- Manifests of steps that have ended go. -/
def dropManifests (p : Nat) (m : Mach) : Mach :=
  let n := (part m p).step
  let keep (f : Manifest) : Bool := decide (n ≤ f.step + 1)
  onSrv p (fun s => { s with sealedM := s.sealedM.filter keep, got := s.got.filter keep }) m

/-- A member without the manifest of its step holds with cause LINK before cycle 0 (R568); the first LEAD steps of a
plan have none. -/
def awaitManifest (fz : Fuses) (p : Nat) (m : Mach) : Mach :=
  let q := part m p
  match serveOf m p with
  | none => m
  | some sv =>
    if q.step < sv.lead ∨ (manifestAt m p q.step).isSome = true ∨ runs m p = false then m
    else
      let c : CauseSt := { die := p, unit := 0xF0, code := 1, desc := 0xFFFFFF, since := -6, queue := 3, iaddr := 0 }
      assertCause fz p (-6) c m

/-! ### A swap of the weights at a step's start (14 R632) -/

/-- A manifest of OVERWRITE: the swap rung, without a request. -/
def swapManifest (m : Mach) (p : Nat) (f : Manifest) : Bool :=
  f.rung == swapRungOf m p && f.slots.all (fun y => y.isNone) && f.prefill.isEmpty

/-- DRAIN begins at the barrier, after the command's entry in the journal. -/
def beginDrain (p : Nat) (m : Mach) : Mach :=
  let q := part m p
  match q.wgt.swap with
  | none => m
  | some v =>
    if q.wgt.phase ≠ 0 ∨ q.step < q.wgt.barrier then m
    else
      let m := if v.caller = .journal then m else journalCommand p 0x403 (payloadOf m v) q.step 0 m
      onWgt p (fun w => { w with phase := 1 }) m

/-- OVERWRITE begins. -/
def beginOverwrite (p : Nat) (m : Mach) : Mach :=
  onWgt p (fun w => { w with
    phase := 2, st := 4, groups := 0, verified := [], done := 0
    total := (w.staged.map (fun y => y.1.entries.length)).getD 0 }) m

/-- The phase of the step in progress: the home follows its barrier, another member the manifests that reach it. -/
def swapPhase (p : Nat) (m : Mach) : Mach :=
  match serveOf m p with
  | none => m
  | some sv =>
    let m := beginDrain p m
    let q := part m p
    if sv.home then
      if q.wgt.phase = 1 ∧ q.wgt.barrier + sv.stages ≤ q.step + 1 then beginOverwrite p m else m
    else
      match manifestAt m p q.step with
      | none => m
      | some f =>
        if swapManifest m p f then
          if q.wgt.stage = 2 ∧ q.wgt.phase = 0 then beginOverwrite p m else m
        else if q.wgt.phase = 2 ∧ q.wgt.st = 4 then resumeSwap p q.step m
        else m

/-! ### The start -/

/-- A step may be signalled: the plan runs, the last step has ended, and no hold, halt or truncation point stops the
partition; a plan that a teardown fences begins one more step (16 Table 16-10). -/
def mayStart (m : Mach) (p : Nat) : Bool :=
  let q := part m p
  (q.st == .running || (q.st == .stopping && q.sec.phase == 1)) && !q.inStep && q.hold.isNone && q.fault.isNone
    && decide (q.det.trunc < 2)

/-- The largest cumulative stretch of the dies of a partition. -/
def maxStretch (m : Mach) (p : Nat) : Nat :=
  (part m p).dies.foldl (fun a d => if a < (die m d).stretch then (die m d).stretch else a) 0

/-- The step is in progress from now on, and its lateness is recorded (R287). -/
def beginStep (p : Nat) (m : Mach) : Mach :=
  let now := nowNs m
  let s := maxStretch m p
  onPart p (fun q => { q with
    inStep := true, startNs := now, late := now - q.release, shift := 0, stretch0 := s, resumes := [], lastStop := none }) m

/-- The refresh set of each wellhead of the partition (08 R358, R360). -/
def refreshSets (fz : Fuses) (p : Nat) (m : Mach) : Mach :=
  let c := classOf m p (part m p).step
  (partWells fz m p).foldl (fun m w => onWell w (fun h => { h with
    setHot := h.hot, unused := decide (windowsOf c w h.hot = .unused) }) m) m

/-- A wellhead that already owes 9 units when a step begins holds it from pre-step cycle −6 on (08 R357, R297). -/
def oweRefresh (fz : Fuses) (p : Nat) (m : Mach) : Mach :=
  (partWells fz m p).foldl (fun m w => refreshCause fz w (-6) (-6) m) m

/-- The bytes of a time record (Table 15-7). -/
def timeBytes (step release now : Nat) : List Byte :=
  leBytes 6 step ++ zeros 2 ++ leBytes 8 release ++ leBytes 8 now ++ zeros 8

/-- The time record of the step (15 R658, R662): in replay that of the journal. -/
def timeRecord (p : Nat) (m : Mach) : Mach :=
  let q := part m p
  match (planOf m p).bind (fun pl => pl.timeAddr) with
  | none => m
  | some a =>
    let y : Nat × Nat := match (q.det.replay.bind (fun j => j.times.find? (fun t => t.1 == q.step))) with
      | some t => t.2
      | none => (q.release, nowNs m)
    let l := timeBytes q.step y.1 y.2
    pokeHost a l (journal p { kind := 4, pos := 0, step := q.step, payload := l } m)

/-- A route table that flips at this step (11 R513). -/
def routeSwitch (p : Nat) (m : Mach) : Mach :=
  let r := (part m p).rte
  if r.pend ∧ r.flipStep ≤ (part m p).step then flipTable (some p) m else m

/-- The halt of a plan that a teardown fences, at cycle 0 and before any issue (16 Table 16-10). -/
def fence (fz : Fuses) (p : Nat) (m : Mach) : Mach :=
  let x := (part m p).sec
  if x.phase = 1 ∧ runs m p = true then
    forceHalt fz p 1 x.mode 0 (onPart p (fun q => { q with lastStop := some 0 }) m)
  else m

/-- STEP_START (R280, R281, R556). -/
def stepStart (p : Nat) (fz : Fuses) (m : Mach) : Mach :=
  if mayStart m p = false then m
  else
    let n := (part m p).step
    let m := boundary fz p (reachNs (part m p).release m)
    let m := beginStep p (dropManifests p m)
    let m := (part m p).dies.foldl (switchDue n) (routeSwitch p m)
    let m := timeRecord p (swapPhase p m)
    let m := stepMask p (refreshSets fz p (armedSwitch fz p (rungSwitch fz p m)))
    fence fz p (awaitManifest fz p (oweRefresh fz p (tellLate p m)))

/-- STEP_START. -/
def execStepStart (p : Fin 4) (s : State) : Host.Outcome State Fault Refusal := run s (stepStart p.val)

/-! ### The end -/

/-- Every queue with a buffer has issued CT.STEPEND (R283). -/
def allEnded (m : Mach) (p : Nat) : Bool :=
  let dies := (part m p).dies
  m.stations.all (fun y => !dies.contains (y.1 / 256)
    || (!active y.2 .mx && !active y.2 .vx && !active y.2 .mv))

/-- A queue between two steps. -/
def QueueSt.rest (q : QueueSt) : QueueSt :=
  { q with ended := false, ref := 0, firstRow := true, refVx := false
           entries := q.entries.map (fun e => { e with avail := 0 }) }

/-- A station between two steps: writes to count and anchor registers are their contents, nothing is under way. Load, array,
ready and drain cycles that reach past the last cycle of the step bind no instruction of the next one (DESIGN CHOICE, log
183). -/
def Station.rest (s : Station) : Station :=
  { s with
    mx := s.mx.rest, vx := s.vx.rest, mv := s.mv.rest
    cnt := s.cntLog.foldl (fun t w => tput 0 t w.reg w.value) s.cnt, cntLog := []
    ax := s.axLog.foldl (fun t y => tput 0 t y.2.1 y.2.2) s.ax, axLog := []
    readers := [], stepBase := none, laneAcc := [], eccLast := s.eccLast.settled, flip := s.flip.settled
    acc := [], sends := [], recvs := [], mmaNext := 0, pipe0 := 0, pipe1 := 0
    bbufs := s.bbufs.map (fun y => (y.1, { y.2 with complete := 0, busy := 0 }))
    sets := s.sets.map (fun y => (y.1, { y.2 with ready := 0, drainEnd := 0 })) }

/-- Every station of a partition comes to rest; beats on the mesh belong to no later step. -/
def restAll (p : Nat) (m : Mach) : Mach :=
  let dies := (part m p).dies
  let mine (k : Nat) : Bool := dies.contains (k / 256)
  let m := ((m.stations.filter (fun y => mine y.1)).map (fun y => y.1)).foldl (fun m k => settleStn k m) m
  let m : Mach := { m with
    stations := tmapIf {} mine Station.rest m.stations
    mesh := m.mesh.filter (fun b => !dies.contains b.dstDie) }
  dies.foldl (fun m d => onDie d (fun x => { x with admitE := [], admitW := [], taps := [] }) m) m

/-- Module time of the end of the step in progress: W cycles and those of its holds at the frequency step in force,
and the stretch of the slowest die. -/
def stepEndNs (m : Mach) (p : Nat) : Nat :=
  let q := part m p
  let cycles := ((stepW m p : Int) + q.shift).toNat
  q.startNs + (cycles * 4000 / quarters q.cur + (maxStretch m p - q.stretch0)) / 1000

/-- A number held within 32 bits, signed. -/
def sat32 (x : Int) : Nat := twos 32 (if x < -2147483648 then -2147483648 else if 2147483647 < x then 2147483647 else x)

/-- The telemetry record of a step that ends now (Table 19-7). -/
def telemBytes (m : Mach) (p : Nat) : List Byte :=
  let q := part m p
  let h := q.stepHolds
  let c := classIdx m p q.step
  let start := q.release + q.late
  let used := (9 * (nowNs m - start) - 4 * stepW m p) / 9
  leBytes 6 q.step ++ leBytes 1 c ++ leBytes 1 q.variant ++ leBytes 4 (satN 0xFFFFFFFF q.late)
    ++ leBytes 4 (sat32 q.spill) ++ leBytes 4 (satN 0xFFFFFFFF used) ++ leBytes 4 (satN 0xFFFFFFFF h.total)
    ++ (List.range 6).flatMap (fun k => leBytes 4 (satN 0xFFFFFFFF (tget 0 h.causes k)))
    ++ leBytes 2 (satN 65535 h.episodes) ++ leBytes 1 (q.cur + 4 * q.setBy + 16 * b2n h.stretch)
    ++ leBytes 1 (((manifestAt m p q.step).map (fun f => f.rung)).getD 0) ++ leBytes 8 start ++ zeros 4

/-- A record is overwritten before it was read (R825); the event at most once in a second. -/
def telemLoses (p : Nat) (m : Mach) : Mach :=
  let t := (part m p).telem
  if t.entries ≤ t.written ∧ consumed m t.addr + t.entries ≤ t.written then
    let m := bump .telemLost (iPart p) m
    let due := match t.lastLostNs with
      | some n => decide (n + 1000000000 ≤ nowNs m)
      | none => true
    if due then
      raiseEvt 0x0070 0 (iPart p) (ctr m .telemLost (iPart p) 0).count
        (onPart p (fun q => { q with telem := { q.telem with lastLostNs := some (nowNs m) } }) m)
    else m
  else m

/-- The telemetry record written and pushed (19 R824 to R826). -/
def telemRecord (p : Nat) (m : Mach) : Mach :=
  let q := part m p
  if q.telem.addr = 0 then m
  else
    let l := telemBytes m p
    let m := pokeHost (q.telem.addr + 64 + 64 * (q.step % q.telem.entries)) l (telemLoses p m)
    let m := onPart p (fun q => { q with telem := { q.telem with written := q.telem.written + 1 } }) m
    if q.telem.pushEvery ≠ 0 ∧ q.step % q.telem.pushEvery = 0 then pushReport 0x0905 l m else m

/-- The replay ends with a step (15 R664). -/
def replayEnds (m : Mach) (p : Nat) : Bool :=
  match (part m p).det.replay with
  | some j => decide (j.endStep ≤ (part m p).step)
  | none => false

/-- The journal of the replay is at its end. -/
def endReplay (p : Nat) (m : Mach) : Mach :=
  onDet p (fun x => { x with
    broken := x.broken || ((x.replay.map (fun j => j.badChain)).getD false), replay := none }) m

/-- The plan ends with this step (R322, R814, R664); one that a teardown fences goes on to its halt. -/
def endPlan (p : Nat) (last : Bool) (m : Mach) : Mach :=
  let q := part m p
  if last || q.st == .stopping then
    if q.sec.phase = 1 then onPart p (fun q => { q with st := .stopping }) m
    else (closeBatch p (onPart p (fun q => { q with st := .stopped }) m)).1
  else m

/-- The step is over; the next one has the release time of R280. -/
def nextStep (p : Nat) (m : Mach) : Mach :=
  let t := (classOf m p (part m p).step).t
  let now := nowNs m
  let thr := m.evtCfg.lateThr * 1000
  onPart p (fun q => { q with
    inStep := false, spill := (q.release + t : Nat) - (now : Int)
    lateRun := if thr < q.late then q.lateRun + 1 else 0, lateTold := q.lateTold && decide (thr < q.late) }) m

/-- A step may end: it is in progress, nothing stops the partition inside it, and every queue has ended. -/
def mayEnd (m : Mach) (p : Nat) : Bool :=
  let q := part m p
  stepping m p && q.fault.isNone && allEnded m p
    && (match q.hold with
        | none => true
        | some h => h.carried)

/-- STEP_END (R283, R287, R322). -/
def stepEnd (p : Nat) (fz : Fuses) (m : Mach) : Mach :=
  if mayEnd m p = false then m
  else
    let n := (part m p).step
    let m := restAll p (reachNs (stepEndNs m p) m)
    let m := stepsRecord fz p n (telemRecord p (nextStep p m))
    let ends := replayEnds m p
    let m := endPlan p (ends || n == 2 ^ 48 - 1) (if ends then endReplay p m else m)
    let t := (classOf m p n).t
    let m := onPart p (fun q => { q with step := n + 1, release := q.release + t, stepHolds := {} }) m
    boundary fz p m

/-- STEP_END. -/
def execStepEnd (p : Fin 4) (s : State) : Host.Outcome State Fault Refusal := run s (stepEnd p.val)

end Sys2Proof.Machine
end

