-- ==== Sys2Proof/Machine/Dispatch.lean ====
section
/-! DEFINITION. The meaning of a command: one arm for each row of spec/opcode_table.json. -/

namespace Sys2Proof.Machine

def exec (i : Instr) (s : State) : Host.Outcome State Fault Refusal :=
  match i with
  | .mxLoadw a => Sys2Proof.Machine.execMxLoadw a s
  | .mxMma a => Sys2Proof.Machine.execMxMma a s
  | .mxDrain a => Sys2Proof.Machine.execMxDrain a s
  | .vxOp a => Sys2Proof.Machine.execVxOp a s
  | .vxCvtConv a => Sys2Proof.Machine.execVxCvtConv a s
  | .vxCvtBfsplit a => Sys2Proof.Machine.execVxCvtBfsplit a s
  | .vxCvtExpscan a => Sys2Proof.Machine.execVxCvtExpscan a s
  | .vxCvtSplit a => Sys2Proof.Machine.execVxCvtSplit a s
  | .vxFunc a => Sys2Proof.Machine.execVxFunc a s
  | .vxRedSumall a => Sys2Proof.Machine.execVxRedSumall a s
  | .vxRedRowsum a => Sys2Proof.Machine.execVxRedRowsum a s
  | .vxTopkSelect a => Sys2Proof.Machine.execVxTopkSelect a s
  | .vxTopkMerge a => Sys2Proof.Machine.execVxTopkMerge a s
  | .vxStop a => Sys2Proof.Machine.execVxStop a s
  | .vxOcldLoad a => Sys2Proof.Machine.execVxOcldLoad a s
  | .vxOcldKey a => Sys2Proof.Machine.execVxOcldKey a s
  | .vxCntld a => Sys2Proof.Machine.execVxCntld a s
  | .vxAmaxScan a => Sys2Proof.Machine.execVxAmaxScan a s
  | .vxAmaxLoad a => Sys2Proof.Machine.execVxAmaxLoad a s
  | .mvSend a => Sys2Proof.Machine.execMvSend a s
  | .mvRecv a => Sys2Proof.Machine.execMvRecv a s
  | .mvDmaCopy a => Sys2Proof.Machine.execMvDmaCopy a s
  | .mvDmaDecode a => Sys2Proof.Machine.execMvDmaDecode a s
  | .mvDmaGather a => Sys2Proof.Machine.execMvDmaGather a s
  | .mvDmaScore a => Sys2Proof.Machine.execMvDmaScore a s
  | .mvDmaQload a => Sys2Proof.Machine.execMvDmaQload a s
  | .mvDmaSgather a => Sys2Proof.Machine.execMvDmaSgather a s
  | .mvHost a => Sys2Proof.Machine.execMvHost a s
  | .mvCist a => Sys2Proof.Machine.execMvCist a s
  | .sbClose a => Sys2Proof.Machine.execSbClose a s
  | .ctWait a => Sys2Proof.Machine.execCtWait a s
  | .ctLoop a => Sys2Proof.Machine.execCtLoop a s
  | .ctLoopr a => Sys2Proof.Machine.execCtLoopr a s
  | .ctEndloop a => Sys2Proof.Machine.execCtEndloop a s
  | .ctGateOpen a => Sys2Proof.Machine.execCtGateOpen a s
  | .ctGateClose a => Sys2Proof.Machine.execCtGateClose a s
  | .ctStamp a => Sys2Proof.Machine.execCtStamp a s
  | .ctSetcnt a => Sys2Proof.Machine.execCtSetcnt a s
  | .ctFetch a => Sys2Proof.Machine.execCtFetch a s
  | .ctStepend a => Sys2Proof.Machine.execCtStepend a s
  | .lkInject a => Sys2Proof.Machine.execLkInject a s
  | .lkExpect a => Sys2Proof.Machine.execLkExpect a s
  | .queueUnderrun a => Sys2Proof.Machine.execQueueUnderrun a s
  | .stepOpen a => Sys2Proof.Machine.execStepOpen a s
  | .holdCheck a => Sys2Proof.Machine.execHoldCheck a s
  | .holdRelease p => Sys2Proof.Machine.execHoldRelease p s
  | .holdLimit p => Sys2Proof.Machine.execHoldLimit p s
  | .gateHold a => Sys2Proof.Machine.execGateHold a s
  | .gateTimeout a => Sys2Proof.Machine.execGateTimeout a s
  | .stepStart p => Sys2Proof.Machine.execStepStart p s
  | .stepEnd p => Sys2Proof.Machine.execStepEnd p s
  | .beatReceive die unit cycle => Sys2Proof.Machine.execBeatReceive die unit cycle s
  | .routerForward die unit port cycle => Sys2Proof.Machine.execRouterForward die unit port cycle s
  | .crossingAdmit die side cycle slipped => Sys2Proof.Machine.execCrossingAdmit die side cycle slipped s
  | .descriptorReady die unit desc wall => Sys2Proof.Machine.execDescriptorReady die unit desc wall s
  | .laneBeatAccess die unit desc cycle => Sys2Proof.Machine.execLaneBeatAccess die unit desc cycle s
  | .wellheadRequestStart e cycle => Sys2Proof.Machine.execWellheadRequestStart e cycle s
  | .refreshTick w cycle wall => Sys2Proof.Machine.execRefreshTick w cycle wall s
  | .refreshUnit w cycle wall => Sys2Proof.Machine.execRefreshUnit w cycle wall s
  | .pageReencrypt w => Sys2Proof.Machine.execPageReencrypt w s
  | .planLoad v p image => Sys2Proof.Machine.execPlanLoad v p image s
  | .planStart v p anchor => Sys2Proof.Machine.execPlanStart v p anchor s
  | .planStop v p => Sys2Proof.Machine.execPlanStop v p s
  | .planStatus v p => Sys2Proof.Machine.execPlanStatus v p s
  | .planUnload v p => Sys2Proof.Machine.execPlanUnload v p s
  | .faultRead v p => Sys2Proof.Machine.execFaultRead v p s
  | .planVariant v p variant step => Sys2Proof.Machine.execPlanVariant v p variant step s
  | .scrubRange v p t start length => Sys2Proof.Machine.execScrubRange v p t start length s
  | .eccFlipArm v p t mask => Sys2Proof.Machine.execEccFlipArm v p t mask s
  | .eccRemapAdd v p t loc => Sys2Proof.Machine.execEccRemapAdd v p t loc s
  | .eccCounts v p => Sys2Proof.Machine.execEccCounts v p s
  | .pkt port u => Sys2Proof.Machine.execPkt port u s
  | .link port u => Sys2Proof.Machine.execLink port u s
  | .keepalive port => Sys2Proof.Machine.execKeepalive port s
  | .unitTransmit port => Sys2Proof.Machine.execUnitTransmit port s
  | .widthReq port u => Sys2Proof.Machine.execWidthReq port u s
  | .retrainReq port u => Sys2Proof.Machine.execRetrainReq port u s
  | .reqAck port u => Sys2Proof.Machine.execReqAck port u s
  | .widthMark port u => Sys2Proof.Machine.execWidthMark port u s
  | .laneRealign port => Sys2Proof.Machine.execLaneRealign port s
  | .doze port u => Sys2Proof.Machine.execDoze port u s
  | .dozeAck port u => Sys2Proof.Machine.execDozeAck port u s
  | .replayTimeout port => Sys2Proof.Machine.execReplayTimeout port s
  | .silence port => Sys2Proof.Machine.execSilence port s
  | .lockLoss port lane => Sys2Proof.Machine.execLockLoss port lane s
  | .primeRetry port => Sys2Proof.Machine.execPrimeRetry port s
  | .primeFail port => Sys2Proof.Machine.execPrimeFail port s
  | .detect port => Sys2Proof.Machine.execDetect port s
  | .equalise port => Sys2Proof.Machine.execEqualise port s
  | .lockAlign port peer => Sys2Proof.Machine.execLockAlign port peer s
  | .time port markers offset => Sys2Proof.Machine.execTime port markers offset s
  | .auth port peerOk => Sys2Proof.Machine.execAuth port peerOk s
  | .laneWindow port w => Sys2Proof.Machine.execLaneWindow port w s
  | .reqTimeout port => Sys2Proof.Machine.execReqTimeout port s
  | .widthChangeTimeout port => Sys2Proof.Machine.execWidthChangeTimeout port s
  | .linkStatus v port => Sys2Proof.Machine.execLinkStatus v port s
  | .linkPrime v port => Sys2Proof.Machine.execLinkPrime v port s
  | .linkDisable v port => Sys2Proof.Machine.execLinkDisable v port s
  | .linkEnable v port => Sys2Proof.Machine.execLinkEnable v port s
  | .linkWidth v port mask => Sys2Proof.Machine.execLinkWidth v port mask s
  | .linkCounters v port => Sys2Proof.Machine.execLinkCounters v port s
  | .packetReceive port => Sys2Proof.Machine.execPacketReceive port s
  | .write die => Sys2Proof.Machine.execWrite die s
  | .readReq die => Sys2Proof.Machine.execReadReq die s
  | .readResp die => Sys2Proof.Machine.execReadResp die s
  | .laAdd die cycle => Sys2Proof.Machine.execLaAdd die cycle s
  | .timeMarker die => Sys2Proof.Machine.execTimeMarker die s
  | .drain die => Sys2Proof.Machine.execDrain die s
  | .collAbortPacket die => Sys2Proof.Machine.execCollAbortPacket die s
  | .variant die => Sys2Proof.Machine.execVariant die s
  | .delivered die => Sys2Proof.Machine.execDelivered die s
  | .forwardStart port => Sys2Proof.Machine.execForwardStart port s
  | .escape port => Sys2Proof.Machine.execEscape port s
  | .noRoute die => Sys2Proof.Machine.execNoRoute die s
  | .pseqGap die => Sys2Proof.Machine.execPseqGap die s
  | .deliveredSend die peerMod peerDie => Sys2Proof.Machine.execDeliveredSend die peerMod peerDie s
  | .requestReplay die tag => Sys2Proof.Machine.execRequestReplay die tag s
  | .responseCacheExpire die => Sys2Proof.Machine.execResponseCacheExpire die s
  | .drainSend port => Sys2Proof.Machine.execDrainSend port s
  | .epochRelease t => Sys2Proof.Machine.execEpochRelease t s
  | .routeWrite v t bank entries commit => Sys2Proof.Machine.execRouteWrite v t bank entries commit s
  | .routeFlip v t step => Sys2Proof.Machine.execRouteFlip v t step s
  | .routeStatus v t => Sys2Proof.Machine.execRouteStatus v t s
  | .rwinSet v die idx win => Sys2Proof.Machine.execRwinSet v die idx win s
  | .collAbort v p coll => Sys2Proof.Machine.execCollAbort v p coll s
  | .refLoss => Sys2Proof.Machine.execRefLoss s
  | .refValid => Sys2Proof.Machine.execRefValid s
  | .clkTargetWrite p target => Sys2Proof.Machine.execClkTargetWrite p target s
  | .pllLock p => Sys2Proof.Machine.execPllLock p s
  | .droop die stretches => Sys2Proof.Machine.execDroop die stretches s
  | .sympatheticStretch die periods => Sys2Proof.Machine.execSympatheticStretch die periods s
  | .clkMonitorWindow die region hist duty => Sys2Proof.Machine.execClkMonitorWindow die region hist duty s
  | .servoUpdate => Sys2Proof.Machine.execServoUpdate s
  | .timeMarkerSend port => Sys2Proof.Machine.execTimeMarkerSend port s
  | .ptpSync offset => Sys2Proof.Machine.execPtpSync offset s
  | .sessOpen v p channel => Sys2Proof.Machine.execSessOpen v p channel s
  | .sessClose v p sid => Sys2Proof.Machine.execSessClose v p sid s
  | .reqSubmit v p r tokens => Sys2Proof.Machine.execReqSubmit v p r tokens s
  | .reqCancel v p rid => Sys2Proof.Machine.execReqCancel v p rid s
  | .reqStatus v p rid => Sys2Proof.Machine.execReqStatus v p rid s
  | .sessTruncate v p sid newL => Sys2Proof.Machine.execSessTruncate v p sid newL s
  | .park v p sid dest blocks => Sys2Proof.Machine.execPark v p sid dest blocks s
  | .parkCommit p sid members => Sys2Proof.Machine.execParkCommit p sid members s
  | .unpark v p sid program wset => Sys2Proof.Machine.execUnpark v p sid program wset s
  | .unparkCheck p sid readable members => Sys2Proof.Machine.execUnparkCheck p sid readable members s
  | .sessStatus v p sid => Sys2Proof.Machine.execSessStatus v p sid s
  | .commitPoint p block => Sys2Proof.Machine.execCommitPoint p block s
  | .manifestReceive p m wall => Sys2Proof.Machine.execManifestReceive p m wall s
  | .layerBoundary p cycle => Sys2Proof.Machine.execLayerBoundary p cycle s
  | .outputRecordWrite p rid => Sys2Proof.Machine.execOutputRecordWrite p rid s
  | .weightsFetch v p w m => Sys2Proof.Machine.execWeightsFetch v p w m s
  | .weightsStage v p w m => Sys2Proof.Machine.execWeightsStage v p w m s
  | .weightsSwap v p barrier ctx => Sys2Proof.Machine.execWeightsSwap v p barrier ctx s
  | .weightsPace v p maxOut rateCap => Sys2Proof.Machine.execWeightsPace v p maxOut rateCap s
  | .weightsAbort v p => Sys2Proof.Machine.execWeightsAbort v p s
  | .weightsStatus v p => Sys2Proof.Machine.execWeightsStatus v p s
  | .weightsTarget v p target addr service nqn => Sys2Proof.Machine.execWeightsTarget v p target addr service nqn s
  | .chunkIssue p => Sys2Proof.Machine.execChunkIssue p s
  | .chunkVerify p entry readOk cipher => Sys2Proof.Machine.execChunkVerify p entry readOk cipher s
  | .readTimeout p entry => Sys2Proof.Machine.execReadTimeout p entry s
  | .layerGroupDone p => Sys2Proof.Machine.execLayerGroupDone p s
  | .detJournal v p dest => Sys2Proof.Machine.execDetJournal v p dest s
  | .detReplay v p j => Sys2Proof.Machine.execDetReplay v p j s
  | .provConfig v p c => Sys2Proof.Machine.execProvConfig v p c s
  | .provSeal v p => Sys2Proof.Machine.execProvSeal v p s
  | .detTruncate v p t => Sys2Proof.Machine.execDetTruncate v p t s
  | .detStatus v p => Sys2Proof.Machine.execDetStatus v p s
  | .detDisarm v p => Sys2Proof.Machine.execDetDisarm v p s
  | .truncatePoint p => Sys2Proof.Machine.execTruncatePoint p s
  | .truncateSettle p => Sys2Proof.Machine.execTruncateSettle p s
  | .secIdentity v => Sys2Proof.Machine.execSecIdentity v s
  | .secAttest v p nonce => Sys2Proof.Machine.execSecAttest v p nonce s
  | .partitionSetAssign v st b => Sys2Proof.Machine.execPartitionSetAssign v st b s
  | .partitionSetRelease v st b => Sys2Proof.Machine.execPartitionSetRelease v st b s
  | .secEnroll v st operatorKey custodianKey => Sys2Proof.Machine.execSecEnroll v st operatorKey custodianKey s
  | .secSessionOpen v p policy sigOk => Sys2Proof.Machine.execSecSessionOpen v p policy sigOk s
  | .secPolicySet v p st policy => Sys2Proof.Machine.execSecPolicySet v p st policy s
  | .secKeyLoad v p k => Sys2Proof.Machine.execSecKeyLoad v p k s
  | .secKeyDestroy v p k => Sys2Proof.Machine.execSecKeyDestroy v p k s
  | .secKeySwitch v p slot step => Sys2Proof.Machine.execSecKeySwitch v p slot step s
  | .secMemkeyRotate v p => Sys2Proof.Machine.execSecMemkeyRotate v p s
  | .memkeyLoaded p => Sys2Proof.Machine.execMemkeyLoaded p s
  | .secTeardown v p st mode => Sys2Proof.Machine.execSecTeardown v p st mode s
  | .teardownDrainEnd p => Sys2Proof.Machine.execTeardownDrainEnd p s
  | .teardownScrubDone p => Sys2Proof.Machine.execTeardownScrubDone p s
  | .secStatus v p => Sys2Proof.Machine.execSecStatus v p s
  | .mailboxScan w posts stores => Sys2Proof.Machine.execMailboxScan w posts stores s
  | .mgmtCommand clientOk post => Sys2Proof.Machine.execMgmtCommand clientOk post s
  | .regDir v first => Sys2Proof.Machine.execRegDir v first s
  | .regRead v num elem count inst bank => Sys2Proof.Machine.execRegRead v num elem count inst bank s
  | .regWrite v num elem inst value => Sys2Proof.Machine.execRegWrite v num elem inst value s
  | .evtRead v max => Sys2Proof.Machine.execEvtRead v max s
  | .telemConfig v p addr entries pushEvery => Sys2Proof.Machine.execTelemConfig v p addr entries pushEvery s
  | .health v => Sys2Proof.Machine.execHealth v s
  | .fwStage v addr len image => Sys2Proof.Machine.execFwStage v addr len image s
  | .fwCommit v => Sys2Proof.Machine.execFwCommit v s
  | .fwActivate v => Sys2Proof.Machine.execFwActivate v s
  | .fwStatus v => Sys2Proof.Machine.execFwStatus v s
  | .fwSvnAdvance v => Sys2Proof.Machine.execFwSvnAdvance v s
  | .wdogControl p => Sys2Proof.Machine.execWdogControl p s
  | .wdogMgmt => Sys2Proof.Machine.execWdogMgmt s
  | .wdogSecurity => Sys2Proof.Machine.execWdogSecurity s
  | .powerOn image alignFail => Sys2Proof.Machine.execPowerOn image alignFail s
  | .fillComplete spFail whFail => Sys2Proof.Machine.execFillComplete spFail whFail s
  | .recoveryStart image => Sys2Proof.Machine.execRecoveryStart image s
  | .wilucForward f => Sys2Proof.Machine.execWilucForward f s
  | .chainTakeover => Sys2Proof.Machine.execChainTakeover s
  | .enum f => Sys2Proof.Machine.execEnum f s
  | .setLocation f => Sys2Proof.Machine.execSetLocation f s
  | .power f => Sys2Proof.Machine.execPower f s
  | .healthFrame f => Sys2Proof.Machine.execHealthFrame f s
  | .holdup f => Sys2Proof.Machine.execHoldup f s
  | .rcvBegin f => Sys2Proof.Machine.execRcvBegin f s
  | .rcvData f => Sys2Proof.Machine.execRcvData f s
  | .rcvEnd f image => Sys2Proof.Machine.execRcvEnd f image s
  | .pwrSet v target => Sys2Proof.Machine.execPwrSet v target s
  | .powerTransitionDone => Sys2Proof.Machine.execPowerTransitionDone s
  | .pwrStatus v => Sys2Proof.Machine.execPwrStatus v s
  | .holdupTest v => Sys2Proof.Machine.execHoldupTest v s
  | .holdupTestDaily => Sys2Proof.Machine.execHoldupTestDaily s
  | .holdupTestDone deltaMv v0Mv => Sys2Proof.Machine.execHoldupTestDone deltaMv v0Mv s
  | .pwrLimit v watts => Sys2Proof.Machine.execPwrLimit v watts s
  | .inputFail => Sys2Proof.Machine.execInputFail s
  | .inputOvervoltage => Sys2Proof.Machine.execInputOvervoltage s
  | .inputReturn => Sys2Proof.Machine.execInputReturn s
  | .tankExhausted => Sys2Proof.Machine.execTankExhausted s
  | .powerSample vinMv iinMa pinDw pavgDw => Sys2Proof.Machine.execPowerSample vinMv iinMa pinDw pavgDw s
  | .powerStepUpdate avg100Dw avg1sMaxDw => Sys2Proof.Machine.execPowerStepUpdate avg100Dw avg1sMaxDw s
  | .thermalStepUpdate p => Sys2Proof.Machine.execThermalStepUpdate p s
  | .thmTrip sensor temp => Sys2Proof.Machine.execThmTrip sensor temp s
  | .railFault r => Sys2Proof.Machine.execRailFault r s
  | .coolFlow flow => Sys2Proof.Machine.execCoolFlow flow s
  | .coolInlet temp => Sys2Proof.Machine.execCoolInlet temp s
  | .machineError addr => Sys2Proof.Machine.execMachineError addr s
  | .edgeCheck die failed => Sys2Proof.Machine.execEdgeCheck die failed s
  | .illegalOpcode a => Sys2Proof.Machine.execIllegalOpcode a s
  | .lossOfSignal port => Sys2Proof.Machine.execLossOfSignal port s
  | .thmWarn sensor temp => Sys2Proof.Machine.execThmWarn sensor temp s
  | .tankReady => Sys2Proof.Machine.execTankReady s

end Sys2Proof.Machine
end

