-- ==== Sys2Proof/Safety.lean ====
section
/-! DEFINITION. What a safe run is, in the terms statements use. -/

namespace Sys2Proof.Machine

/-- A step that answers a next state. -/
def Goes (s t : State) : Prop := step s = .next t

/-- The outcome of a command that completes: a next state that differs from this one in what changes (its queue and its
fuses are the same). -/
def nextMach (s : State) (m : Mach) : Host.Outcome State Fault Refusal := .next { s with mach := m }

/-- Reached from a state by steps that answer next states. -/
inductive Reaches (s : State) : State → Prop where
  | here : Reaches s s
  | more {t u : State} : Reaches s t → Goes t u → Reaches s u

/-- The invariant of memory: every memory keeps its canonical form. -/
def MemInv (s : State) : Prop := s.mach.mem.wf = true

/-! ### Commands of the mailboxes -/

/-- A command passes the checks that come before its own (R681, R718, R741, R752, R791): firmware is READY, its caller
may issue it, its partition and the power state serve it. -/
def served (m : Mach) (v : Via) (p : Option Nat) (code : Nat) : Prop := m.boot = 3 ∧ refused m v p code = none

/-- A journalled command of the serving engine passes R606, R659 and R662: the partition is the home of a serving plan
that runs, and its journal takes the command. -/
def serves (m : Mach) (v : Via) (p code : Nat) : Prop :=
  served m v (some p) code ∧ isHome m p = true ∧ (part m p).st = .running ∧ journalRefuses m p v = false

/-- A change statement carries the counter in force, names the operation, the module and the partition, and its
signatures verify (R684 to R687). -/
def authentic (m : Mach) (st : Statement) (op p : Nat) : Bool :=
  decide (st.changeCtr = m.change) && decide (st.op = op) && decide (st.mod = m.moduleId)
    && decide (st.partition = p) && st.bodyOk && sigsOk m st

/-- The change counter moved on by an accepted statement (R685). -/
def counted (m : Mach) : Mach := { m with change := (m.change + 1) % 2 ^ 64 }

/-! ### Units of the link -/

/-- A port hears a unit that R417 and R418 do not discard. -/
def soundUnit (m : Mach) (k : Nat) (u : LinkUnit) : Bool :=
  (port m k).hears && u.lcrcOk && u.fecOk && !badUnit u

/-- The machine once the prefix of a sound unit is taken (R423 to R425, R431, R437). -/
def heard (k : Nat) (u : LinkUnit) (m : Mach) : Mach :=
  takePrefix k u (onPort k (fun x => { x with lastHeard := m.clk.wall }) m)

/-! ### The issue of an instruction -/

/-- No gate of the queue is past the bound or the limit of its region when the instruction issues (R146, R147). -/
def inBudget (x : Ctx) : Bool :=
  match x.qs.gate with
  | some g => decide ((x.c : Int) ≤ g.bound) && decide (x.c ≤ g.g + g.l)
  | none => true

/-- Every word that the instruction reads is sound (R375). -/
def readsSound (x : Ctx) (sp : Spec) : Bool :=
  (gotsOf x sp).all (fun g => (g.words x.m x.key .corrected).isEmpty && (g.words x.m x.key .bad).isEmpty)

/-- The instruction of a context is of a row and issues: its queue takes part in the step and nothing has stopped it
(R97, R151, R294), its region is within its budget, every check of R149 passes, nothing halts a unit of its station in its
cycle (R151), and what it reads is sound (R375). -/
def issuesAt (r : Row) (x : Ctx) : Bool :=
  decide (rowOf x.w = some r)
  && active x.st x.q
  && inBudget x
  && acts x.m x.p x.key x.own x.c
  && decide (verdict x (specRow r x) = .pass)
  && !othersStop x
  && !clashAhead x (specRow r x)
  && decide (x.st.halted ≠ some (x.c : Int))
  && readsSound x (specRow r x)

/-- The next instruction of a queue is of a row, is the one of the context, and executes normally: it issues, and its
accesses meet no other in a later cycle. -/
def Issues (s : State) (a : At) (r : Row) (x : Ctx) : Prop :=
  ctxOf s.fuses s.mach a = some x ∧ issuesAt r x = true ∧ clashes x (specRow r x) = []

/-- The next instruction of a queue is of a row, is the one of the context, and issues, but some of its accesses meet in
a later cycle: the cycle, the subcode and the argument of the first conflict (R52, R108). -/
def Meets (s : State) (a : At) (r : Row) (x : Ctx) (y : Nat × Nat × Nat) : Prop :=
  ctxOf s.fuses s.mach a = some x ∧ issuesAt r x = true ∧ firstClash (clashes x (specRow r x)) = some y ∧ y.1 < farAway

/-- The machine after the issue of an instruction with an effect, all of whose reads are sound and none of whose accesses
meets another: its place in the queue, its accesses and its flags, what it leaves in its station, its writes, and what it
does outside. -/
def issueOf (x : Ctx) (r : Row) (e : Eff) (m : Mach) : Mach :=
  e.next (writeOut x (e.writes.map (ownWrite x)) (e.cache.map (ownWrite x))
    (onIssue x (specRow r x) [] {} (gotsOf x (specRow r x)) e m))

end Sys2Proof.Machine
end

