-- ==== Sys2Proof/Certificates/Slice0/Obligations.lean ====
section
/-! DEFINITION. The statements about the model that are to be proved. -/

open Sys2Proof Sys2Proof.Machine

/-! ### The block as a whole -/

/-- A step runs the command at the front of the queue with the queue's rest. -/
def Obligations.StepRunsFrontCommand : Prop :=
  ∀ (s : State) (c : Instr) (r : List Instr), step { s with pending := c :: r } = exec c { s with pending := r }

/-- The model's choice (log 3): a step on an empty queue is a tick of 10 ns of the time clock, with which a firmware
commit that is under way completes; without one it only advances the clocks. -/
def Obligations.StepIdlesOnEmptyQueue : Prop :=
  ∀ (s : State), s.pending = [] →
    step s = nextMach s (idle s.mach) ∧ (s.mach.fw.commit = none → step s = nextMach s (passNs 10 s.mach))

/-- Every command completes in a next state in which the queue's rest and what is fused at manufacture are as before. -/
def Obligations.EveryCommandCompletes : Prop :=
  ∀ (c : Instr) (s : State), ∃ m : Mach, exec c s = nextMach s m

/-- The machine at reset. No command waits, every memory is in its canonical form and lists nothing, each compute die is
a partition of its own that holds no plan and is FREE (R324, R724), and firmware has not started. Of the registers (the
Reset columns of the register tables of 02 to 19; the instances and copies of a register are alike) these have fields
that do not reset to zero, and every other reads as zero but for what is fused or depends on the assignment
(STN_ROWMAP, SEQ_PROFILE, SEC_PART, MBX_BOOT). LIMIT_W of PWR_CFG is the grade's maximum, 2,000 W on the HX940-A1 that
the model resets as (DESIGN CHOICE, log 1). -/
def Obligations.MachineAtReset : Prop :=
  (MemInv State.reset ∧ State.reset.pending = [] ∧ State.reset.mach.mem = {} ∧ State.reset.mach.boot = 0 ∧
    ∀ d : Fin 4, (part State.reset.mach d.val).dies = [d.val] ∧ partOf State.reset.mach d.val = d.val ∧
      (part State.reset.mach d.val).st = .empty ∧ (part State.reset.mach d.val).sec.st = 0 ∧
      (die State.reset.mach d.val).fit = 0) ∧
  (∀ (r : Reg) (a : RegAt), r ∉ [Reg.stnRowmap, .seqProfile, .secPart, .mbxBoot] →
    regValue State.reset.fuses State.reset.mach r a = match r with
      | .cstShare => 1
      | .lrkCfg => 0x80101000
      | .lrkPool => 0x0200004004000C00
      | .lrkState => 0x0C00000000000000
      | .lrkSeq => 0xFFFFFF000000
      | .rteCtl => 0x100000000000000000000000
      | .clkMoncfg => 0x01000100
      | .mtmCfg => 0x0A00320003E80002
      | .provState => 1
      | .secRot => 0x48
      | .mbxIrq => 1
      | .pwrHoldup => 0x7FF
      | .pwrCfg => 0x7D000000
      | .evtCfg => 0x20400064
      | _ => 0)

/-- Every step keeps the canonical form of every memory: addresses strictly rise and no entry holds what an unlisted
address reads as. -/
def Obligations.MemoryFormKept : Prop :=
  ∀ s t : State, MemInv s → step s = .next t → MemInv t

/-- Bytes written to a memory of the module are what a read of them gives, and every byte outside them, and every other
memory, is as before; a remapped beat of a slice is read and written in its spare (R389). A station sees a scratchpad
write as R54 says: a read before the cycle from which it is seen returns the earlier contents, a read in that cycle or
later the bytes written, if no later write meets them; a write of whole beats by a queue is seen from the next cycle, an
insole operation from the third. -/
def Obligations.MemoryWritesResult : Prop :=
  (∀ (m : List Host.Cell) (a : Nat) (l : List Byte), peeks (pokes m a l) a l.length = l ∧
    ∀ c, c < a ∨ a + l.length ≤ c → peek (pokes m a l) c = peek m c) ∧
  (∀ (m : Mach) (k off o : Nat) (l : List Byte), off + l.length ≤ 2 ^ 22 → o < 2 ^ 22 →
    peek (pokeScratch k off l m).mem.scratch (scratchAddr m k o) =
      if off ≤ o ∧ o < off + l.length then l.getD (o - off) 0 else peek m.mem.scratch (scratchAddr m k o)) ∧
  (∀ (m : Mach) (k off : Nat) (l : List Byte),
    (pokeScratch k off l m).mem = { m.mem with scratch := (pokeScratch k off l m).mem.scratch } ∧
    (pokeCache k off l m).mem = { m.mem with cache := pokes m.mem.cache (cacheBase k + off) l }) ∧
  (∀ (m : Mach) (a : Nat) (l : List Byte),
    (pokeHbm a l m).mem = { m.mem with hbm := pokes m.mem.hbm a l } ∧
    (pokeHost a l m).mem = { m.mem with host := pokes m.mem.host a l } ∧
    (pokeCist a l m).mem = { m.mem with cist := pokes m.mem.cist a l }) ∧
  (∀ (m : Mach) (key c off n : Nat) (w : LateWrite), c < w.cycle + w.delay →
    readScratch (writeScratch key w m) key none c off n = readScratch m key none c off n) ∧
  (∀ (m : Mach) (key c : Nat) (w : LateWrite), w.own = false → w.cycle + w.delay ≤ c →
    (∀ x ∈ (stn m key).late, x.cycle ≤ w.cycle) →
    readScratch (writeScratch key w m) key none c w.off w.bytes.length = w.bytes) ∧
  (∀ (port beat : Nat) (cycles : List Nat) (l : List Byte), ∀ w ∈ beatWrites port beat cycles l,
    w.delay = 1 ∧ w.cycle ∈ cycles) ∧
  (∀ (key wop port c off : Nat) (l : List Byte) (m : Mach), wop ≠ 0 → (stn m key).flip.state = 0 →
    ∀ w ∈ (stn (insWrite key wop port c false off l m).1 key).late, w ∈ (stn m key).late ∨ (w.cycle = c ∧ w.delay = 3))

/-- Event and error counters (R813): an increment that leaves COUNT at 2^48 − 1 sets OVF, whether COUNT reaches that
value or stays there; every other increment adds to COUNT and leaves OVF. A write of 1 to OVF clears OVF and leaves COUNT
unchanged, and the next increment sets OVF again. The operation that moves a counter raises COUNTER_OVF where it changes
OVF from 0 to 1, and only there (R811). -/
def Obligations.CounterSaturation : Prop :=
  ∀ (m : Mach) (r : Reg) (i e n : Nat), 0 < n → (ctr m r i e).count ≤ 2 ^ 48 - 1 →
    ((ctr m r i e).count + n < 2 ^ 48 - 1 → ctr (bumpQuiet r i e n m) r i e
      = { count := (ctr m r i e).count + n, ovf := (ctr m r i e).ovf }) ∧
    (2 ^ 48 - 1 ≤ (ctr m r i e).count + n → ctr (bumpQuiet r i e n m) r i e = { count := 2 ^ 48 - 1, ovf := true }) ∧
    (∀ (r' : Reg) (i' e' : Nat), ctrKey r' i' e' ≠ ctrKey r i e → ctr (bumpQuiet r i e n m) r' i' e' = ctr m r' i' e') ∧
    (∀ (fz : Fuses) (a : RegAt), (regInfo r).counts = true → a.inst = i → a.elem = e →
      ctr (regStore fz r a (2 ^ 63) m) r i e = { count := (ctr m r i e).count, ovf := false }) ∧
    ((ctr m r i e).count = 2 ^ 48 - 1 → (ctr (bumpQuiet r i e n m) r i e).ovf = true) ∧
    ((ctr m r i e).ovf = false → 2 ^ 48 - 1 ≤ (ctr m r i e).count + n →
      bumpBy r i e n m = raiseEvt 0x0002 0 i (regNum r * 2 ^ 32 + e) (bumpQuiet r i e n m)) ∧
    ((ctr m r i e).ovf = true ∨ (ctr m r i e).count + n < 2 ^ 48 - 1 → bumpBy r i e n m = bumpQuiet r i e n m)

/-- R58: two beats that reach a router output port in one cycle, in either order: the one from the lower-ordered input
stays on the mesh, the other leaves it; no station changes but the router's and, if a lane beat is lost, its own. -/
def Obligations.RouterConflict : Prop :=
  ∀ (s : State) (d : Fin 4) (u : Fin 128) (out : Fin 5) (c key : Nat) (x y : Nat × Beat),
    keyOf s.mach d.val u.val = some key → executes s.mach (partOf s.mach d.val) c = true →
    x.1 < y.1 →
    let l := contenders s.mach (part s.mach (partOf s.mach d.val)).step d.val (u.val % 16) (u.val / 16) out.val c
    l = [x, y] ∨ l = [y, x] →
    ∃ t, exec (.routerForward d u out c) s = nextMach s t ∧ t.mesh = s.mach.mesh.erase y.2 ∧
      t.mem = s.mach.mem ∧ t.parts = s.mach.parts ∧ t.dies = s.mach.dies ∧
      (∀ k, k ≠ key → y.2.lane.map (fun z => z.1) ≠ some k → stn t k = stn s.mach k) ∧
      (stn t key).collideAt =
        { cycle := c, step := (part s.mach (partOf s.mach d.val)).step, a := out.val, b := y.1, c := x.1 } ∧
      (y.2.lane = none → stn t key = { stn s.mach key with collideAt := (stn t key).collideAt })

/-! ### Instructions of the queues (03 to 06) -/

/-- MX.LOADW, MX.MMA and MX.DRAIN that execute normally (R164 to R168, R173, R177 to R183): the next state in full. A
load fills buffer k mod 2; a multiply puts the outputs of its set, its flags and its ready cycle; a drain writes its
beats from the cycle d + 4 on. -/
def Obligations.MatrixCommandsResult : Prop :=
  (∀ (s : State) (a : At) (x : Ctx), Issues s a .loadw x →
    exec (.mxLoadw a) s = nextMach s (issueOf x .loadw { st := fun t => { t with
      bbufs := tput {} t.bbufs (t.loads % 2)
        { valid := true, fmt := mxFmt x.w
          tile := readTile x (w95 x.w) (from_ (x.c + 1) (tileBeats (mxFmt x.w)))
          scales := if isMx (mxFmt x.w) then readBeat x.m x.key x.own x.c (mxS x.w) else []
          complete := x.c + tileBeats (mxFmt x.w) + 4 }
      loads := t.loads + 1 } } s.mach)) ∧
  (∀ (s : State) (a : At) (x : Ctx) (k : Nat), Issues s a .mma x → mmaBuf x.st x.c = some k →
    let old := if mmaClr x.w then clearedSet x.st x.w x.c else accSet x.st (mmaAcc x.w)
    let b := tget {} x.st.bbufs k
    let scales := if isMx (mxFmt x.w) then readBeat x.m x.key x.own x.c (mxS x.w) else []
    let tile := readTile x (w95 x.w)
      ((List.range (tileBeats (mxFmt x.w))).map (fun j => x.c + 1 + j * mmaD (mxFmt x.w) / tileBeats (mxFmt x.w)))
    let res := mmaOuts old (tileRows (mxFmt x.w) tile scales) (tileRows b.fmt b.tile b.scales) 64
    exec (.mxMma a) s = nextMach s (issueOf x .mma
      { st := fun t => { t with
          sets := tput {} t.sets (mmaAcc x.w) { old with
            count := old.count + 1, outs := res.1, ready := x.c + mmaD (mxFmt x.w) + 10
            inexact := old.inexact || res.2.inexact, ovf := old.ovf || res.2.ovf, invalid := old.invalid || res.2.invalid
            drainEnd := (accSet x.st (mmaAcc x.w)).drainEnd }
          bbufs := tmod {} t.bbufs k (fun y => { y with busy := x.c + 1 + mmaD (mxFmt x.w) })
          mmaNext := x.c + mmaD (mxFmt x.w) }
        mx := mxeBits (mmaAcc x.w) res.2 false false } s.mach)) ∧
  (∀ (s : State) (a : At) (x : Ctx), Issues s a .drain x →
    let set := accSet x.st (drAcc x.w)
    let n := tileBeats (drFmt x.w)
    let l := set.outs.map (drainOne set (drFmt x.w) (drainRnd x.w))
    let fl : Fl := l.foldl (fun (y : Fl) z => y.or z.2) {}
    let sat := !set.isFloat && set.outs.any (fun v => (readOut v).2)
    exec (.mxDrain a) s = nextMach s (issueOf x .drain
      { writes := beatWrites (mxRp x.w) (w95 x.w) (from_ (x.c + 4) n) (packE (width (drFmt x.w)) (l.map (fun y => y.1)))
        st := fun t => { t with
          sets := tmod {} t.sets (drAcc x.w) (fun y => { y with ovf := y.ovf || sat, drainEnd := x.c + 4 + n }) }
        mx := mxeBits (drAcc x.w) { ovf := sat } fl.inexact fl.ovf } s.mach))

/-- The VX instructions that stream elements (R233, R240 to R246, R252 to R263, R265, R266): one pipe is taken for n
cycles, the result beats are written in the cycles of R233, the flags of the elements are raised, and under RND 2 the
key advances by the number of elements; nothing else changes. A SPLIT issues in the same way, but a beat that it reads
and one that it writes then name one bank in one cycle (R52, R233, R261), wherever they lie (log 35): of each conflict
neither access is performed (R52, R108: a read delivers free bytes, a write is not made), the rest of its effect stands,
and its station halts in the cycle of the first conflict. -/
def Obligations.VectorStreamCommandsResult : Prop :=
  let eff (f : Ctx → VxPlan → VxOut) (x : Ctx) : Eff :=
    let pl := vxPlanOf x
    { writes := scatterWrites (vxWp x.w) pl.dst (planCycles x.c pl) (f x pl).bytes
      st := fun t =>
        let t := takePipe x.c pl.n t
        { t with srBase := if vxRnd x.w = 2 then t.srBase + BitVec.ofNat 64 (f x pl).count else t.srBase }
      vx := (f x pl).fl.bits, la := (f x pl).la.bits }
  (∀ (s : State) (a : At) (x : Ctx) (c : At → Instr) (r : Row) (f : Ctx → VxPlan → VxOut),
    (c, r, f) ∈ [(Instr.vxOp, Row.vxop, outOp), (.vxCvtConv, .cvtConv, outConv), (.vxCvtBfsplit, .cvtBfsplit, outBfsplit)
      , (.vxCvtExpscan, .cvtExpscan, outExpscan), (.vxFunc, .vxfunc, outFunc), (.vxRedSumall, .sumall, outRed 0)
      , (.vxRedRowsum, .rowsum, outRed 64)] →
    Issues s a r x → exec (c a) s = nextMach s (issueOf x r (eff f x) s.mach)) ∧
  (∀ (s : State) (a : At) (x : Ctx) (y : Nat × Nat × Nat), Meets s a .cvtSplit x y →
    let sp := specRow .cvtSplit x
    let lost := lostHere x y.1 sp
    let got := loseGots x.m lost x.q x.e.off (gotsOf x sp)
    let e := eff outSplit { x with got := got }
    let m := countReads x.m x.key farAway got s.mach
    let m := loseAccs x.fz x.key (lostBefore x y.1 sp) { m with freeCtr := m.freeCtr + 1 }
    let m := writeOut x ((e.writes.map (ownWrite x)).filter (fun w => !w.isOf lost)) [] (onIssue x sp lost {} got e m)
    exec (.vxCvtSplit a) s = nextMach s
      (haltUnit x y.1 0x03 y.2.1 y.2.2 (some x.e.off) { m with freeCtr := m.freeCtr + 1 }))

/-- VX.TOPK, VX.STOP, VX.OCLD, VX.CNTLD and VX.AMAX (R189 to R191, R237, R250, R267 to R273): the next state in
full. -/
def Obligations.VectorOtherCommandsResult : Prop :=
  (∀ (s : State) (a : At) (x : Ctx), Issues s a .topSelect x →
    let es := unpackE (width (vxFmt x.w)) (readStream x (w95 x.w) (from_ x.c (vxLen x.w)))
    let cs := (es.zipIdx).map (fun (b, i) =>
      ({ v := decodeE (vxFmt x.w) b, bits := recordBits (vxFmt x.w) b, idx := i } : Cand))
    let l := topRecords (vxFmt x.w) (topCount x.w) (if 256 ≤ vxC x.w then cntAt x.st 7 x.c else 0) (topK (topCount x.w) cs)
    exec (.vxTopkSelect a) s = nextMach s (issueOf x .topSelect
      { writes := beatWrites (vxWp x.w) (vxD x.w) (from_ (x.c + vxLen x.w + 8) ((topCount x.w + 15) / 16)) l
        st := takePipe x.c (vxLen x.w) } s.mach)) ∧
  (∀ (s : State) (a : At) (x : Ctx), Issues s a .topMerge x →
    let side (b : Nat) := readRecords (vxFmt x.w) (topCount x.w) (readStream x b (from_ x.c (vxLen x.w)))
    let l := topRecords (vxFmt x.w) (topCount x.w) 0 (topK (topCount x.w) (side (w95 x.w) ++ side (vxB x.w)))
    exec (.vxTopkMerge a) s = nextMach s (issueOf x .topMerge
      { writes := beatWrites (vxWp x.w) (vxD x.w) (from_ (x.c + vxLen x.w + 8) ((topCount x.w + 15) / 16)) l
        st := takePipe x.c (vxLen x.w) } s.mach)) ∧
  (∀ (s : State) (a : At) (x : Ctx), Issues s a .vxstop x →
    let n := vxLen x.w
    let sa := readStream x (w95 x.w) ((List.range n).map (fun i => x.c + 6 * i))
    let sb := readStream x (vxB x.w) (from_ x.c (6 * n))
    let res := (List.range n).map (fun i =>
      stopWord (words32 ((sa.drop (128 * i)).take 128)) (words32 ((sb.drop (768 * i)).take 768)))
    exec (.vxStop a) s = nextMach s (issueOf x .vxstop
      { writes := scatterWrites (vxWp x.w) (from_ (vxD x.w) ((n + 31) / 32)) (stopCycles x.c n)
          (fitTo (128 * ((n + 31) / 32)) (packE 32 res))
        st := takePipe x.c (6 * n) } s.mach)) ∧
  (∀ (s : State) (a : At) (x : Ctx), Issues s a .ocldLoad x →
    exec (.vxOcldLoad a) s = nextMach s (issueOf x .ocldLoad
      { cache := (List.range (vxLen x.w)).map (fun i =>
          { cycle := x.c + i + 2, delay := 1, port := 0, off := 128 * (vxC x.w + i)
            bytes := readBeat x.m x.key x.own (x.c + i) (w95 x.w + i) })
        st := takePipe x.c (vxLen x.w) } s.mach)) ∧
  (∀ (s : State) (a : At) (x : Ctx), Issues s a .ocldKey x →
    let l := readBeat x.m x.key x.own x.c (w95 x.w)
    exec (.vxOcldKey a) s = nextMach s (issueOf x .ocldKey { st := fun t => { takePipe x.c 1 t with
      srTensor := BitVec.ofNat 32 (leAt l 0 4), srBase := BitVec.ofNat 64 (leAt l 8 8) } } s.mach)) ∧
  (∀ (s : State) (a : At) (x : Ctx), Issues s a .cntld x →
    let l := readBeat x.m x.key x.own x.c (w95 x.w)
    let wr : CntWrite :=
      { reg := vxD x.w % 8, cycle := x.c, step := (part x.m x.p).step, rank := cntRank x.q
        value := leAt l (4 * (vxC x.w % 32)) 4 }
    exec (.vxCntld a) s = nextMach s (issueOf x .cntld { st := fun t =>
      { takePipe x.c 1 t with cntLog := insertCnt wr t.cntLog } } s.mach)) ∧
  (∀ (s : State) (a : At) (x : Ctx), Issues s a .amaxScan x →
    let e := amaxOf (vxFmt x.w) (readStream x (w95 x.w) (from_ x.c (vxLen x.w)))
    exec (.vxAmaxScan a) s = nextMach s (issueOf x .amaxScan
      { writes := [{ cycle := x.c + vxLen x.w + 3, delay := 1, port := vxWp x.w, off := 128 * vxD x.w
                     bytes := leBytes 4 (twos 32 e) ++ zeros 124 }]
        st := takePipe x.c (vxLen x.w) } s.mach)) ∧
  (∀ (s : State) (a : At) (x : Ctx), Issues s a .amaxLoad x →
    let word (b : Nat) : Int := sext 32 (leAt (readBeat x.m x.key x.own x.c b) 0 4)
    exec (.vxAmaxLoad a) s = nextMach s (issueOf x .amaxLoad { st := fun t => { takePipe x.c 1 t with
      axLog := t.axLog ++ [(x.c, vxD x.w % 4, clampAx (word (w95 x.w) + word (vxB x.w)))] } } s.mach))

/-- MV.SEND and MV.RECV (R90, R113 to R115, R289, R290): a send occupies a send stream and puts its beats on the mesh,
beat i sent in cycle s + i with the stamp of R115; a receive holds its slots; nothing else changes. -/
def Obligations.StreamCommandsResult : Prop :=
  (∀ (s : State) (a : At) (x : Ctx), Issues s a .send x →
    let beat (i : Nat) : Beat :=
      { srcDie := x.d, srcUnit := x.unit, dstDie := mvDie x.w, dstUnit := mvUnit x.w
        stamp := (wXfer x.w + x.qs.stofs) % 32 * 8 + (wBeat x.w + i) % 8, sent := x.c + i
        step := (part x.m x.p).step, rows := meshRows x.m x.p
        bytes := readBeat x.m x.key x.own (x.c + i) (w95 x.w + i) }
    exec (.mvSend a) s = nextMach s (issueOf x .send
      { st := fun t => { t with sends := t.sends ++ [{ cycle := x.c, len := mvLen x.w }] }
        next := fun m => { m with mesh := m.mesh ++ (List.range (mvLen x.w)).map beat } } s.mach)) ∧
  (∀ (s : State) (a : At) (x : Ctx), Issues s a .recv x →
    let r : RecvSt :=
      { cycle := x.c, len := mvLen x.w, loc := w95 x.w, wp := mvPort x.w, die := mvDie x.w, unit := mvUnit x.w
        wop := mvWop x.w, xfer := (wXfer x.w + x.qs.stofs) % 32, beat := wBeat x.w, iaddr := x.e.off }
    exec (.mvRecv a) s = nextMach s (issueOf x .recv { st := fun t => { t with recvs := t.recvs ++ [r] } } s.mach))

/-- The long-running instructions MV.DMA, MV.HOST, MV.CIST, LK.INJECT and LK.EXPECT (R118, R327, R333, R335, R361, R365,
R432, R475): the descriptor DESC becomes PENDING with the cause of its class over its region, and the request waits at its
wellhead or at the host gateway of its die among those that reach it earlier (R70), or at its link station; nothing else
changes. -/
def Obligations.TransferCommandsResult : Prop :=
  let pend (x : Ctx) (out : Bool) (cause : Nat) (t : Station) : Station :=
    let d : Desc := { state := .pending, out := out, cause := cause, base := w95 x.w, len := mvLen x.w, openAt := x.c
                      openStep := (part x.m x.p).step, readyAt := 0, readyStep := 0, iaddr := x.e.off }
    { t with sbd := tput {} t.sbd (mvDesc x.w) d }
  let req (x : Ctx) (kind : Nat) (out : Bool) (port addr mode : Nat) : Xfer :=
    { key := x.key, die := x.d, unit := x.unit, desc := mvDesc x.w, kind := kind, out := out, loc := w95 x.w
      len := mvLen x.w, port := port, addr := addr, mode := mode, iaddr := x.e.off }
  let reach (x : Ctx) (d unit tap : Nat) (t : Xfer) : Xfer :=
    let rows := meshRows x.m x.p
    { t with tap := tap
             asked := ((part x.m x.p).step, x.c + travel rows (spotOf rows x.d x.unit 0) (spotOf rows d unit tap)) }
  (∀ (s : State) (a : At) (x : Ctx) (c : At → Instr) (r : Row),
    (c, r) ∈ [(Instr.mvDmaCopy, Row.dmaCopy), (.mvDmaDecode, .dmaDecode), (.mvDmaGather, .dmaGather)
      , (.mvDmaScore, .dmaScore), (.mvDmaQload, .dmaQload), (.mvDmaSgather, .dmaSgather)] →
    Issues s a r x →
    let wh := dmaWh x.w
    let t := reach x (wellDie wh) (wellUnit wh) (dmaTap x.w) (req x 0 (mvOut x.w) (dmaPort x.w) (dmaHaddr x.w) (dmaMode x.w))
    exec (c a) s = nextMach s (issueOf x r { st := pend x (mvOut x.w) 0
                                             next := onWell wh (fun h => { h with queue := insertReq t h.queue }) } s.mach)) ∧
  (∀ (s : State) (a : At) (x : Ctx) (c : At → Instr) (r : Row) (kind cause : Nat),
    (c, r, kind, cause) ∈ [(Instr.mvHost, Row.mvhost, 1, 3), (.mvCist, .mvcist, 2, 2)] → Issues s a r x →
    let t := reach x x.d 0xF8 0 (req x kind (mvOut x.w) (hcPort x.w) (hcAddr x.w) 0)
    exec (c a) s = nextMach s (issueOf x r
      { st := pend x (mvOut x.w) cause, next := fun m => { m with hosts := tmod [] m.hosts x.d (insertReq t) } } s.mach)) ∧
  (∀ (s : State) (a : At) (x : Ctx), Issues s a .inject x →
    exec (.lkInject a) s = nextMach s (issueOf x .inject
      { st := pend x true 1
        next := pushLink x.d { req x 3 true (lkPort x.w) (lkAofs x.w) (lkLink x.w) with
          started := true, tmpl := lkTmpl x.w, xfer16 := injXfer x.w, src := [(part x.m x.p).step] } } s.mach)) ∧
  (∀ (s : State) (a : At) (x : Ctx), Issues s a .expect x →
    exec (.lkExpect a) s = nextMach s (issueOf x .expect
      { st := pend x false 1
        next := pushLink x.d { req x 4 false (lkPort x.w) 0 (lkLink x.w) with
          started := true, xfer16 := expXfer x.w, srcMod := expMod x.w } } s.mach))

/-- The control instructions and SB.CLOSE (R97, R116, R128, R131 to R133, R138 to R141, R296): what each changes in its
own queue or station, and nothing else. CT.GATE that closes also clears the GATE cause of its queue. SB.CLOSE makes its descriptor FREE for
instructions of later cycles, and the region of an LK.EXPECT that opened it is closed to packets (R493). -/
def Obligations.ControlCommandsResult : Prop :=
  let onQ (x : Ctx) (f : QueueSt → QueueSt) (t : Station) : Station := t.onQueue x.q f
  let enter (n : Nat) (q : QueueSt) : QueueSt :=
    { q with loops := { start := q.pos, left := n, gated := q.gate.map (fun g => g.g) } :: q.loops }
  (∀ (s : State) (a : At) (x : Ctx), Issues s a .wait x →
    exec (.ctWait a) s = nextMach s (issueOf x .wait {} s.mach)) ∧
  (∀ (s : State) (a : At) (x : Ctx), Issues s a .loop x →
    exec (.ctLoop a) s = nextMach s (issueOf x .loop { st := onQ x (enter (ctCount x.w)) } s.mach)) ∧
  (∀ (s : State) (a : At) (x : Ctx), Issues s a .loopr x → cntAt x.st (ctCnt x.w) x.c ≠ 0 →
    exec (.ctLoopr a) s = nextMach s (issueOf x .loopr { st := onQ x (enter (cntAt x.st (ctCnt x.w) x.c)) } s.mach)) ∧
  (∀ (s : State) (a : At) (x : Ctx), Issues s a .loopr x → cntAt x.st (ctCnt x.w) x.c = 0 →
    exec (.ctLoopr a) s = nextMach s (issueOf x .loopr { st := onQ x (fun q => { q with skip := 1 }) } s.mach)) ∧
  (∀ (s : State) (a : At) (x : Ctx), Issues s a .endloop x →
    exec (.ctEndloop a) s = nextMach s (issueOf x .endloop { st := onQ x (fun q =>
      match q.loops with
      | [] => q
      | l :: r => if 1 < l.left then { q with loops := { l with left := l.left - 1 } :: r, pos := l.start }
                  else { q with loops := r }.trim) } s.mach)) ∧
  (∀ (s : State) (a : At) (x : Ctx), Issues s a .gateOpen x →
    exec (.ctGateOpen a) s = nextMach s (issueOf x .gateOpen { st := onQ x (fun q =>
      { q with gate := some { g := x.c, b := gateB x.w, l := gateL x.w, iaddr := x.e.off } }) } s.mach)) ∧
  (∀ (s : State) (a : At) (x : Ctx), Issues s a .gateClose x →
    exec (.ctGateClose a) s = nextMach s (issueOf x .gateClose
      { st := onQ x (fun q =>
          match q.gate with
          | some g => { q with gate := none, ref := g.g + g.b, refVx := false }
          | none => q)
        next := clearCause x.p (wallOf x.m x.p x.c) (gateCause x.d x.unit x.q) } s.mach)) ∧
  (∀ (s : State) (a : At) (x : Ctx), Issues s a .stamp x →
    exec (.ctStamp a) s = nextMach s (issueOf x .stamp { st := onQ x (fun q =>
      { q with stofs := if stampAdd x.w then (q.stofs + stampVal x.w) % 32 else stampVal x.w }) } s.mach)) ∧
  (∀ (s : State) (a : At) (x : Ctx), Issues s a .setcnt x →
    let wr : CntWrite := { reg := ctCnt x.w, cycle := x.c, step := (part x.m x.p).step, rank := cntRank x.q
                           value := setVal x.w }
    exec (.ctSetcnt a) s = nextMach s (issueOf x .setcnt { st := fun t => { t with cntLog := insertCnt wr t.cntLog } } s.mach)) ∧
  (∀ (s : State) (a : At) (x : Ctx), Issues s a .stepend x →
    exec (.ctStepend a) s = nextMach s (issueOf x .stepend { st := onQ x (fun q =>
      { q with ended := true, firstRow := true, refVx := false }) } s.mach)) ∧
  (∀ (s : State) (a : At) (x : Ctx), Issues s a .sbclose x →
    exec (.sbClose a) s = nextMach s (issueOf x .sbclose
      { st := fun t => { t with sbd := tmod {} t.sbd (sbDesc x.w) (fun d => { d with
          state := .free, was := x.desc (sbDesc x.w), closeAt := some ((part x.m x.p).step, x.c) }) }
        next := fun m => { m with links := tmod [] m.links x.d (fun l =>
          l.filter (fun t => !(t.kind == 4 && t.key == x.key && t.desc == sbDesc x.w))) } } s.mach)) ∧
  (∀ (s : State) (a : At) (x : Ctx) (q : Queue), Issues s a .fetch x → qOf (fetQ x.w) = some q →
    let beat (k : Nat) : List QEntry :=
      beatEntries (readBeat x.m x.key x.own (x.c + k) (fetSrc x.w + k)) (128 * (fetSrc x.w + k - (x.st.ibuf q).base))
        (x.c + k + 5)
    exec (.ctFetch a) s = nextMach s (issueOf x .fetch { st := fun t => t.onQueue q (fun y =>
      y.append ((List.range (fetN x.w)).flatMap beat)) } s.mach))

/-- The halts of a queue outside an issue (R104, R147, R151, R285, 03 Table 3-3): QUEUE_UNDERRUN, STEP_OPEN,
ILLEGAL_OPCODE and GATE_TIMEOUT stop the station in their cycle and halt its partition with the reason, the detail
argument and the offset that the manual gives; a region that has passed its bound asserts GATE first. -/
def Obligations.QueueHaltCommandsResult : Prop :=
  let stop (fz : Fuses) (x : Ctx) (c reason sub arg : Nat) (ia : Option Nat) (m : Mach) : Mach :=
    haltPart fz x.p { reason := reason, die := x.d, queue := qCode x.q, unit := x.unit, pidx := x.pidx, cycle := c
                      iaddr := ia, subcode := sub, arg := arg, station := true, issuer := none }
      (onStn x.key (fun t => { t with halted := some (c : Int) }) m)
  let free (x : Ctx) (m : Mach) (c : Nat) : Prop :=
    active x.st x.q = true ∧ inBudget { x with c := c } = true ∧ acts m x.p x.key x.own c = true ∧
      ∀ h, (stn m x.key).halted = some h → (c : Int) ≤ h
  (∀ (s : State) (a : At) (x : Ctx) (c off : Nat), seatOf s.fuses s.mach a = some x →
    x.qs.underrun (stepW s.mach x.p) = some (c, off) → free x s.mach c →
    exec (.queueUnderrun a) s =
      nextMach s (stop s.fuses x c 0x08 0 (qCode x.q * 2 ^ 24 + off % 2 ^ 24) (some off) s.mach)) ∧
  (∀ (s : State) (a : At) (x : Ctx) (e : QEntry), seatOf s.fuses s.mach a = some x →
    x.qs.underrun (stepW s.mach x.p) = none → x.qs.entries[x.qs.pos]? = some e →
    stepW s.mach x.p ≤ issueCycle x.qs e.word.toNat → free x s.mach (stepW s.mach x.p - 1) →
    exec (.stepOpen a) s = nextMach s (stop s.fuses x (stepW s.mach x.p - 1) 0x03 0x10
      (x.qs.loops.length * 2 ^ 24 + b2n x.qs.gate.isSome % 2 ^ 24) none s.mach)) ∧
  (∀ (s : State) (a : At) (x : Ctx), ctxOf s.fuses s.mach a = some x → opIllegal x = true → notIn x = false →
    free x s.mach x.c →
    exec (.illegalOpcode a) s =
      nextMach s (stop s.fuses x x.c 0x01 0 (qCode x.q * 2 ^ 24 + wOp x.w % 2 ^ 24) (some x.e.off) s.mach)) ∧
  (∀ (s : State) (a : At) (x : Ctx) (g : Gate), seatOf s.fuses s.mach a = some x → x.qs.gate = some g →
    x.qs.idleTo (g.g + g.l) = true →
    let m := assertGate s.fuses x.p x.d x.unit x.key x.q g s.mach
    acts m x.p x.key (ownOf m x.p x.d x.unit x.q) (g.g + g.l) = true →
    (∀ h, (stn m x.key).halted = some h → ((g.g + g.l : Nat) : Int) ≤ h) →
    exec (.gateTimeout a) s = nextMach s (stop s.fuses x (g.g + g.l) 0x0A (qCode x.q)
      (g.l * 2 ^ 24 + g.g % 2 ^ 24) (some g.iaddr) m))

/-- HOLD_CHECK, GATE_HOLD, HOLD_LIMIT and HOLD_RELEASE (R125, R128, R146, R148, R294, R295, R297, R301, R302, R304): the
checks of the next instruction assert the cause of each descriptor that fails, once, six cycles before its issue, in the
pre-step cycles too; a region that passes its bound asserts GATE and its queue goes on in its own count; after 100 ms of
module time the partition halts with HOLD_LIMIT at the cycle at which it stopped, for the unit of the earliest cause still
asserted. Once every cause has cleared, the counters of the hold are added and the partition goes on six wall cycles after
the last clearing: in a step that runs, the wall cycles of the rest of the step shift by that much, and a hold whose checks
lie before cycle 0 counts in the start lateness; between two steps, and after a halt, the hold ends at the module time of
the release, and no cycle from its stop on executes. -/
def Obligations.HoldCommandsResult : Prop :=
  (∀ (s : State) (a : At) (x : Ctx) (r : Row), ctxOf s.fuses s.mach a = some x → rowOf x.w = some r →
    opIllegal x = false → active x.st x.q = true → acts s.mach x.p x.key x.own ((x.c : Int) - 6) = true →
    exec (.holdCheck a) s = nextMach s ((holdFails x (specRow r x)).foldl (fun m y =>
      assertOnce s.fuses x.p ((x.c : Int) - 6)
        { die := x.d, unit := x.unit, code := (sbd x.st y.1).cause, desc := y.1
          since := wallOf x.m x.p ((x.c : Int) - 6), queue := qCode x.q, iaddr := x.e.off, clear := y.2 } m) s.mach)) ∧
  (∀ (s : State) (a : At) (x : Ctx) (g : Gate), seatOf s.fuses s.mach a = some x → x.qs.gate = some g →
    x.qs.idleTo g.bound.toNat = true → acts s.mach x.p x.key x.own g.bound = true →
    (part s.mach x.p).hold = none → g.bound + 6 < stepW s.mach x.p → (part s.mach x.p).inStep = true →
    let c : CauseSt := { die := x.d, unit := x.unit, code := 5, desc := 0xFFFFFF, since := wallOf s.mach x.p g.bound
                         queue := qCode x.q, iaddr := g.iaddr }
    exec (.gateHold a) s = nextMach s (markOwn x.key x.q (g.bound + 6).toNat
      (beginHold x.p { stop := g.bound + 6, first := c.since, sinceNs := nowNs s.mach, causes := [c]
                       carried := false } s.mach))) ∧
  (∀ (s : State) (p : Fin 4) (h : Hold) (c : CauseSt), (part s.mach p.val).hold = some h →
    firstOpen (openCauses h) = some c → runs s.mach p.val = true →
    let m := reachNs (h.sinceNs + 100000001) s.mach
    exec (.holdLimit p) s = nextMach s (haltPart s.fuses p.val
      { reason := 0x0F, die := c.die, queue := c.queue, unit := c.unit
        pidx := if c.queue = 3 then 0xFF else (physOf m c.die c.unit).getD 0xFF
        cycle := h.stop, iaddr := if c.queue = 3 then none else some c.iaddr, subcode := c.code
        arg := pair24 c.desc ((nowNs m - h.sinceNs) / 1000), station := true, issuer := none } m)) ∧
  (∀ (s : State) (p : Fin 4) (h : Hold), (part s.mach p.val).hold = some h → openCauses h = [] →
    let m := countHold p.val h s.mach
    let q := part m p.val
    let shift := releaseAt h + 6 - h.stop
    let d := (shift - q.shift).toNat
    (h.carried = false → runs s.mach p.val = true →
      exec (.holdRelease p) s = nextMach s (tellLate p.val (onPart p.val (fun x => { x with
        hold := none, shift := shift, late := x.late + if h.stop < 6 then cyclesNs q d else 0
        resumes := x.resumes ++ [{ stop := h.stop, shift := x.shift, r := releaseAt h }] }) (endOwn s.fuses h d m)))) ∧
    (h.carried = true → (part s.mach p.val).inStep = false →
      exec (.holdRelease p) s = nextMach s (onPart p.val (fun x => { x with hold := none })
        (reachNs (q.startNs + cyclesNs q (releaseAt h + 6).toNat) m))) ∧
    (h.carried = false → runs s.mach p.val = false →
      exec (.holdRelease p) s = nextMach s (onPart p.val (fun x => { x with
        hold := none, lastStop := earlierStop x.lastStop h.stop })
        (reachNs (q.startNs + cyclesNs q (releaseAt h + 6).toNat) m))))

/-- STEP_START and STEP_END (R280, R281, R283, R287, R322). Where the next step may start, after its release time, it is
in progress with the number it had, its wall cycles count from the module time at which it started, and its lateness is
that time less its release time. Where every queue has ended and nothing stops the partition, the step is no longer in
progress, the next one has the following number and the release time T later, and a plan that was to stop is STOPPED.
Where neither may happen the command changes nothing. -/
def Obligations.StepBoundaryResult : Prop :=
  (∀ (s : State) (p : Fin 4), mayStart s.mach p.val = true →
    ∃ t, exec (.stepStart p) s = .next t ∧ t.pending = s.pending ∧
      (part t.mach p.val).inStep = true ∧ (part t.mach p.val).step = (part s.mach p.val).step ∧
      (part t.mach p.val).release = (part s.mach p.val).release ∧
      (part t.mach p.val).startNs = nowNs (boundary s.fuses p.val (reachNs (part s.mach p.val).release s.mach)) ∧
      (part t.mach p.val).late = (part t.mach p.val).startNs - (part s.mach p.val).release ∧
      (part t.mach p.val).shift = 0) ∧
  (∀ (s : State) (p : Fin 4), mayEnd s.mach p.val = true →
    ∃ t, exec (.stepEnd p) s = .next t ∧ t.pending = s.pending ∧
      (part t.mach p.val).inStep = false ∧ (part t.mach p.val).step = (part s.mach p.val).step + 1 ∧
      (part t.mach p.val).release
        = (part s.mach p.val).release + (classOf s.mach p.val (part s.mach p.val).step).t ∧
      ((part s.mach p.val).st = .stopping → (part s.mach p.val).sec.phase ≠ 1 → (part t.mach p.val).st = .stopped)) ∧
  (∀ (s : State) (p : Fin 4), (mayStart s.mach p.val = false → exec (.stepStart p) s = nextMach s s.mach) ∧
    (mayEnd s.mach p.val = false → exec (.stepEnd p) s = nextMach s s.mach))

/-- ROUTER_FORWARD and CROSSING_ADMIT (R56 to R59, R66, R68, R538): of the beats that reach an output port in a cycle
all but the winner leave the mesh, are counted and recorded; a crossing admits what R66 and R68 allow, discards and
counts the rest, and discards and counts as slips the admitted beats that it cannot deliver on time. -/
def Obligations.MeshCommandsResult : Prop :=
  (∀ (s : State) (d : Fin 4) (u : Fin 128) (out : Fin 5) (c key : Nat) (w y : Nat × Beat) (r : List (Nat × Beat)),
    keyOf s.mach d.val u.val = some key → executes s.mach (partOf s.mach d.val) c = true →
    let n := (part s.mach (partOf s.mach d.val)).step
    let l := contenders s.mach n d.val (u.val % 16) (u.val / 16) out.val c
    winner l = some w → l.erase w = y :: r →
    let lost := (y :: r).map (fun e => e.2)
    let at_ : StnLast := { cycle := c, step := n, a := out.val, b := (r.getLast?.getD y).1, c := w.1 }
    exec (.routerForward d u out c) s = nextMach s (bumpBy .stnCollide (iStn key) 0 lost.length
      (onStn key (fun t => { t with collideAt := at_ }) (discard lost s.mach)))) ∧
  (∀ (s : State) (d : Fin 4) (u : Fin 128) (out : Fin 5) (c key : Nat), keyOf s.mach d.val u.val = some key →
    executes s.mach (partOf s.mach d.val) c = true →
    (contenders s.mach (part s.mach (partOf s.mach d.val)).step d.val (u.val % 16) (u.val / 16) out.val c).length ≤ 1 →
    exec (.routerForward d u out c) s = nextMach s s.mach) ∧
  (∀ (s : State) (d : Fin 4) (side : Side) (c : Nat) (slipped : List Nat),
    executes s.mach (partOf s.mach d.val) c = true →
    let east := decide (side = .east)
    let p := partOf s.mach d.val
    let m := (List.range 8).foldl (fun m y =>
      routerForward d.val (16 * y + if east then 15 else 0) (if east then 2 else 4) c m) s.mach
    let l := offers m (part m p).step d.val east c
    let lately := ((die m d.val).admits east).filter (fun t => decide (c ≤ t + 8))
    let ok := if partOf m (neighbour d.val east) = p then admitBeats (16 - lately.length) none l else []
    let lost := (l.map (fun e => e.2)).filter (fun b => !ok.contains b)
    let late := ok.filter (fun b => slipped.contains b.row)
    exec (.crossingAdmit d side c slipped) s = nextMach s (bumpBy .clkSlip (iDie (neighbour d.val east)) 0 late.length
      (bumpBy (if east then .stnXingDropE else .stnXingDropW) (iDie d.val) 0 lost.length
        (onDie d.val (fun y =>
          if east then { y with admitE := lately ++ ok.map (fun _ => c) }
          else { y with admitW := lately ++ ok.map (fun _ => c) })
          (discard (lost ++ late) m)))))

/-- BEAT_RECEIVE (R18, R71, R290, R291, R325, Table 7-3): a beat that fits the one slot of its cycle is written there
and STN_RXBEATS and STN_STAMP_LAST record it; a slot without a beat halts the station with MISSING_BEAT, a beat without
a slot with STAMP_MISMATCH; with neither nothing happens. The local port forwards first. -/
def Obligations.ReceiveCommandResult : Prop :=
  ∀ (s : State) (d : Fin 4) (u : Fin 128) (c pidx : Nat), physOf s.mach d.val u.val = some pidx →
    let p := partOf s.mach d.val
    executes s.mach p c = true →
    let key := stKey d.val pidx
    let m := if 2 ≤ c then routerForward d.val u.val 0 (c - 2) s.mach else s.mach
    let beat := deliveredBeat m (part m p).step d.val u.val c
    let slots := slotsIn (stn m key) c
    (∀ (r : RecvSt) (i : Nat) (b : Beat), slots = [(r, i)] → beat = some b → r.dead = false → b.stamp = r.stamp i →
      b.srcDie = r.die → b.srcUnit = r.unit →
      exec (.beatReceive d u c) s = nextMach s (takeBeat s.fuses p d.val u.val pidx c r i b
        (onStn key (closeSlots c []) { m with mesh := m.mesh.erase b }))) ∧
    (∀ (r : RecvSt) (i : Nat), slots = [(r, i)] → beat = none → r.dead = false →
      exec (.beatReceive d u c) s = nextMach s (haltSlot s.fuses p d.val u.val pidx c 0x07
        (stampArg (some (r.stamp i, i)) none) (some r) (onStn key (closeSlots c [r]) m))) ∧
    (∀ (b : Beat), slots = [] → beat = some b →
      exec (.beatReceive d u c) s = nextMach s (haltSlot s.fuses p d.val u.val pidx c 0x06 (stampArg none (some b)) none
        (onStn key (closeSlots c []) { m with mesh := m.mesh.erase b }))) ∧
    (slots = [] → beat = none →
      exec (.beatReceive d u c) s = nextMach s (onStn key (closeSlots c []) m))

/-- LANE_BEAT_ACCESS (R330 to R332, R337 to R344, R361, R364, R365, R367 to R369, R377, R384, R474): one beat of a started
transfer moves through its port in a cycle that no other access takes, if the station has it or has room for it: from HBM,
host memory or the cistern into the slice, or from the slice to them, to the query buffer of the tap, or into the packet
of an LK.INJECT; its edge station then sends what it may. A beat that fails its check halts the partition and ends the
transfer. A beat that the cycle does not let through stays where it is. -/
def Obligations.LaneBeatResult : Prop :=
  ∀ (s : State) (d : Fin 4) (u : Fin 128) (desc : Fin 64) (c key : Nat) (t : Xfer) (lane : Lane),
    keyOf s.mach d.val u.val = some key → findXfer s.mach key desc.val = some (lane, t) →
    let at_ := laneAt s.mach key c
    let may := t.open_ && decide (t.moved + lostOf s.mach t < t.len) && laneFree s.mach t at_ && !cold s.mach t
      && inTurn s.mach lane t at_
    (may = false → exec (.laneBeatAccess d u desc c) s = nextMach s s.mach) ∧
    (laneMesh lane t at_ s.mach = none → exec (.laneBeatAccess d u desc c) s = nextMach s s.mach) ∧
    ∀ (n : Mach), may = true → laneMesh lane t at_ s.mach = some n →
    let m0 := recordLane t.key (!t.out) t.port (t.loc + t.moved) 0 t.iaddr at_
      (if blockBeat t then cistServed (partOf n t.die) n else n)
    let fed (m : Mach) : Prop := exec (.laneBeatAccess d u desc c) s = nextMach s (feed lane t.key t.desc at_ m)
    let q := part m0 (partOf m0 t.die)
    (∀ (w : Nat) (m : Mach) (l : List Byte) (t' : Xfer), lane = .well w → t.kind = 0 → t.out = false →
      nextIn w t m0 = (m, .ok (l, t')) →
      fed (putXfer (.well w) t { t' with moved := t.moved + 1 }
        (laneWrite s.fuses t.key t.port (128 * (t.loc + t.moved)) at_ l m))) ∧
    (∀ (w : Nat) (m : Mach) (e : HbmStop), lane = .well w → t.kind = 0 → t.out = false → nextIn w t m0 = (m, .error e) →
      fed (stopXfer s.fuses w t c e m)) ∧
    (∀ (w : Nat) (m : Mach) (l : List Byte), lane = .well w → t.kind = 0 → t.out = true → t.mode = 6 →
      laneRead t.key (t.loc + t.moved) at_ m0 = (m, [], l) →
      fed (putXfer (.well w) t { t with moved := t.moved + 1 }
        (onWell w (fun h => { h with queries := tput [] h.queries (t.addr + t.moved) l }) m))) ∧
    (∀ (w : Nat) (m n : Mach) (l : List Byte), lane = .well w → t.kind = 0 → t.out = true → t.mode ≠ 6 →
      laneRead t.key (t.loc + t.moved) at_ m0 = (m, [], l) →
      writeHbm w t.addr (t.addr + t.len) (t.addr + t.moved) l m = (n, none) →
      fed (putXfer (.well w) t { t with moved := t.moved + 1 } n)) ∧
    (∀ (w : Nat), lane = .host w → t.kind = 1 → t.out = false → hostFails m0 q t = none →
      let l := hostBeat m0 q t
      fed (putXfer (.host t.die) t { t with moved := t.moved + 1, buffered := t.buffered ++ l }
        (laneWrite s.fuses t.key t.port (128 * (t.loc + t.moved)) at_ l m0))) ∧
    (∀ (w sub arg : Nat), lane = .host w → t.kind = 1 → t.out = false → hostFails m0 q t = some (sub, arg) →
      fed (hostHalt s.fuses t c sub arg (endXfer (.host t.die) t m0))) ∧
    (∀ (w : Nat) (m : Mach) (l : List Byte), lane = .host w → t.kind = 1 → t.out = true →
      laneRead t.key (t.loc + t.moved) at_ m0 = (m, [], l) → sealedBlock q t = none →
      fed (putXfer (.host t.die) t { t with moved := t.moved + 1 } (pokeHost (hostAddr q (t.addr + t.moved)) l m))) ∧
    (∀ (w : Nat) (m : Mach) (l : List Byte) (b : Nat), lane = .host w → t.kind = 1 → t.out = true →
      laneRead t.key (t.loc + t.moved) at_ m0 = (m, [], l) → sealedBlock q t = some b →
      fed (if t.buffered.length + l.length < 4096 then
          putXfer (.host t.die) t { t with moved := t.moved + 1, buffered := t.buffered ++ l } m
        else putXfer (.host t.die) t { t with moved := t.moved + 1, buffered := [] }
          (writeSealed (partOf m0 t.die) b (t.buffered ++ l) m))) ∧
    (∀ (w : Nat), lane = .host w → t.kind = 2 → t.out = false →
      (t.moved % 32 = 0 → cistFails m0 (partOf m0 t.die) (t.addr + t.moved / 32) = none) →
      let l := peeks m0.mem.cist (cistAddr (partOf m0 t.die) t.addr + 128 * t.moved) 128
      fed (putXfer (.host t.die) t { t with moved := t.moved + 1, buffered := t.buffered ++ l }
        (laneWrite s.fuses t.key t.port (128 * (t.loc + t.moved)) at_ l m0))) ∧
    (∀ (w code : Nat), lane = .host w → t.kind = 2 → t.out = false → t.moved % 32 = 0 →
      cistFails m0 (partOf m0 t.die) (t.addr + t.moved / 32) = some code →
      fed (hostHalt s.fuses t c 5 (code * 2 ^ 40 + (t.addr + t.moved / 32)) (endXfer (.host t.die) t m0))) ∧
    (∀ (w : Nat) (m : Mach) (l : List Byte), lane = .host w → t.kind = 2 → t.out = true →
      laneRead t.key (t.loc + t.moved) at_ m0 = (m, [], l) →
      fed (if t.buffered.length + l.length < 4096 then
          putXfer (.host t.die) t { t with moved := t.moved + 1, buffered := t.buffered ++ l } m
        else putXfer (.host t.die) t { t with moved := t.moved + 1, buffered := [] }
          (writeBlock (partOf m0 t.die) (t.addr + t.moved / 32) (t.buffered ++ l) m))) ∧
    (∀ (w : Nat) (m : Mach) (b : Nat) (r : List Nat) (l : List Byte), lane = .host w ∨ lane = .well w → t.kind < 3 →
      (lane = .well w → t.kind = 0) → (t.kind = 0 → lane = .well w) → (lane = .host w → w = t.die) → t.out = true →
      laneRead t.key (t.loc + t.moved) at_ m0 = (m, b :: r, l) →
      fed (laneHalt s.fuses t c (t.loc + t.moved) (b :: r) (endXfer lane t m))) ∧
    (∀ (w : Nat) (m : Mach) (l : List Byte), lane = .link w → t.kind = 3 →
      laneRead t.key (t.loc + t.moved) at_ m0 = (m, [], l) →
      (t.moved + 1) % 32 ≠ 0 → t.moved + 1 < t.len →
      fed (putXfer (.link t.die) t { t with moved := t.moved + 1, buffered := t.buffered ++ l } m))

/-- WELLHEAD_REQUEST_START and DESCRIPTOR_READY (R70, R118, R120, R296, R327, R333, R339, R341 to R344, R493, R663): the
first request that has not started starts once it has arrived, a list, a score or a selection read first, while fewer than
64 have, and its edge station sends what it may; a transfer that is complete leaves its edge station, the region of an
LK.EXPECT staying open until SB.CLOSE, its descriptor becomes READY in the wall cycle, visible from the next, and the
causes that wait for it clear then. -/
def Obligations.TransferProgressResult : Prop :=
  (∀ (s : State) (d : Fin 4) (c : Nat) (t : Xfer),
    (tget [] s.mach.hosts d.val).find? (fun t => !t.started) = some t →
    ((tget [] s.mach.hosts d.val).filter (fun t => t.started)).length < 64 → arrived s.mach c t = true →
    exec (.wellheadRequestStart (.host d) c) s = nextMach s (feed (.host d.val) t.key t.desc (laneAt s.mach t.key c)
      (putXfer (.host d.val) t { t with started := true } s.mach))) ∧
  (∀ (s : State) (w : Fin 16) (c : Nat) (t : Xfer), (well s.mach w.val).queue.find? (fun t => !t.started) = some t →
    ((well s.mach w.val).queue.filter (fun t => t.started)).length < 64 → arrived s.mach c t = true →
    let go (src : List Nat) (buf : List Byte) : Xfer := { t with started := true, src := src, buffered := buf }
    let fed (m : Mach) : Mach := feed (.well w.val) t.key t.desc (laneAt s.mach t.key c) m
    (t.mode ≠ 4 → t.mode ≠ 5 → t.mode ≠ 7 →
      exec (.wellheadRequestStart (.well w) c) s =
        nextMach s (fed (putXfer (.well w.val) t (go ((List.range t.len).map (fun j => t.addr + j)) []) s.mach))) ∧
    (∀ (m : Mach) (l : List Nat), t.mode = 4 → startGather w.val t s.mach = (m, .ok l) →
      exec (.wellheadRequestStart (.well w) c) s = nextMach s (fed (putXfer (.well w.val) t (go l []) m))) ∧
    (∀ (m : Mach) (l : List Byte), t.mode = 5 → startScore w.val t s.mach = (m, .ok l) →
      exec (.wellheadRequestStart (.well w) c) s = nextMach s (fed (putXfer (.well w.val) t (go [] l) m))) ∧
    (∀ (m : Mach) (l : List Nat), t.mode = 7 → startSgather w.val t s.mach = (m, .ok l) →
      exec (.wellheadRequestStart (.well w) c) s = nextMach s (fed (putXfer (.well w.val) t (go l []) m)))) ∧
  (∀ (s : State) (d : Fin 4) (u : Fin 128) (desc : Fin 64) (wall : Int) (key : Nat) (l : Lane) (t : Xfer),
    keyOf s.mach d.val u.val = some key → findXfer s.mach key desc.val = some (l, t) → xferDone s.mach t = true →
    let m := if t.kind = 4 then putXfer l t { t with ready := true } s.mach else endXfer l t s.mach
    let p := partOf m d.val
    exec (.descriptorReady d u desc wall) s = nextMach s (noteFetch t (clearCause p (wall + 1)
      (fun c => decide (c.code < 4) && c.die == d.val && c.unit == u.val && c.desc == desc.val)
      (onStn key (fun y => { y with sbd := tmod {} y.sbd desc.val (fun e => { e with
        state := .ready, readyAt := if (part m p).inStep then wall else -7, readyStep := (part m p).step }) })
        m))))

/-- REFRESH_TICK, REFRESH_UNIT and PAGE_REENCRYPT (R294, R296, R352, R354 to R357, R715, R716): ticks count from power-on;
the debt of a wellhead that does not refresh itself grows by one at every hot tick and at every second normal one, up to
9, where a wellhead that serves the step holds the partition; a unit performed lowers it by one and at 0 the cause clears;
the page of the old epoch with the lowest address is re-encrypted, and the old slot and the rotation end when no page is
left. -/
def Obligations.RefreshCommandsResult : Prop :=
  (∀ (s : State) (w : Fin 16) (c wall : Int), wellFitted s.fuses w.val = true →
    let h := well s.mach w.val
    let p := partOf s.mach (wellDie w.val)
    let debt := if h.selfref = false ∧ (h.hotNext = true ∨ (h.ticks + 1) % 2 = 0) then min 9 (h.debt + 1) else h.debt
    let m := onWell w.val (fun h => { h with ticks := h.ticks + 1, debt := debt, hot := h.hotNext }) s.mach
    h.debt ≤ 9 →
    exec (.refreshTick w c wall) s = nextMach s
      (if debt = 9 ∧ h.unused = false ∧ stepping m p = true ∧ refreshing m p w.val = false then
        assertCause s.fuses p c { die := wellDie w.val, unit := wellUnit w.val, code := 4, desc := 0xFFFFFF, since := wall
                                  queue := 3, iaddr := 0 } m
       else m)) ∧
  (∀ (s : State) (w : Fin 16) (c : Nat) (wall : Int), (well s.mach w.val).debt ≠ 0 → mayRefresh s.mach w.val c = true →
    let m := bump .wlhRefunits (iWell w.val) (onWell w.val (fun h => { h with debt := h.debt - 1 }) s.mach)
    exec (.refreshUnit w c wall) s = nextMach s
      (if (well s.mach w.val).debt = 1 then
        clearCause (partOf s.mach (wellDie w.val)) wall (fun c => c.code == 4 && c.unit == wellUnit w.val) m
       else m)) ∧
  (∀ (s : State) (w : Fin 16), (part s.mach (partOf s.mach (wellDie w.val))).rot.state = 2 →
    wellFitted s.fuses w.val = true →
    exec (.pageReencrypt w) s = nextMach s (endRotation s.fuses (partOf s.mach (wellDie w.val)) (dropOld w.val
      (match (well s.mach w.val).pages.find? (fun y => y.2 == oldPage (well s.mach w.val)) with
       | some y => reencrypt w.val (32 * y.1) s.mach
       | none => s.mach))))

/-- PLAN_LOAD and PLAN_START (R318 to R321, R554, R625): an image without a load status is loaded into an EMPTY
partition, which is LOADED then, at step 0; a LOADED or STOPPED plan whose time and weights allow it is RUNNING then, with
the anchor as its release time; in any other state, and for an image with a load status, the commands change no plan. -/
def Obligations.PlanLoadStartResult : Prop :=
  (∀ (s : State) (v : Via) (p : Fin 4) (pl : PlanImage), served s.mach v (some p.val) 0x201 →
    (part s.mach p.val).st = .empty → loadStatus s.fuses s.mach p.val pl = 0 →
    ∃ t, exec (.planLoad v p pl) s = nextMach s t ∧ t = answer v .ok (loadPlan s.fuses p.val pl s.mach) ∧
      (part t p.val).st = .loaded ∧ (part t p.val).plan = some pl ∧ (part t p.val).step = 0) ∧
  (∀ (s : State) (v : Via) (p : Fin 4) (pl : PlanImage), served s.mach v (some p.val) 0x201 →
    (part s.mach p.val).st ≠ .empty →
    exec (.planLoad v p pl) s = nextMach s (answer v .badState s.mach)) ∧
  (∀ (s : State) (v : Via) (p : Fin 4) (pl : PlanImage), served s.mach v (some p.val) 0x201 →
    (part s.mach p.val).st = .empty → loadStatus s.fuses s.mach p.val pl ≠ 0 →
    exec (.planLoad v p pl) s = nextMach s (complete v .loadRejected (loadStatus s.fuses s.mach p.val pl) .empty
      (rejectFit s.fuses p.val (loadStatus s.fuses s.mach p.val pl) pl.grid s.mach))) ∧
  (∀ (s : State) (v : Via) (p : Fin 4) (anchor : Nat) (pl : PlanImage), served s.mach v (some p.val) 0x202 →
    (part s.mach p.val).plan = some pl → weightsOk s.mach p.val pl = true →
    (pl.members.all (fun y => y.1 == s.mach.moduleId) = true ∨ s.mach.clk.st ≠ 0) →
    let m := onPart p.val (fun q => { q with st := .running, release := anchor }) s.mach
    ((part s.mach p.val).st = .loaded → exec (.planStart v p anchor) s =
      nextMach s (answer v .ok (journalStart s.fuses p.val anchor pl (fillQueues (part s.mach p.val).dies m)))) ∧
    ((part s.mach p.val).st = .stopped →
      exec (.planStart v p anchor) s = nextMach s (answer v .ok (flushJournal p.val m)))) ∧
  (∀ (s : State) (v : Via) (p : Fin 4) (anchor : Nat), served s.mach v (some p.val) 0x202 →
    (part s.mach p.val).st ≠ .loaded → (part s.mach p.val).st ≠ .stopped →
    exec (.planStart v p anchor) s = nextMach s (answer v .badState s.mach))

/-- The other plan commands (R314, R317 to R319, R322, R829, R832): PLAN_STOP stops a RUNNING plan, PLAN_UNLOAD resets the
partition of a plan that does not run, PLAN_VARIANT arms a switch, at VLEAD steps from now or at the step it names, and
sends it to the other members, PLAN_STATUS answers the state, the step and the hold counts, and FAULT_READ the 64 bytes
of the fault record, zero before a halt; in a state that Table 7-8 does not allow the answer is BAD_STATE and nothing
else changes. -/
def Obligations.PlanOtherCommandsResult : Prop :=
  (∀ (s : State) (v : Via) (p : Fin 4), served s.mach v (some p.val) 0x203 →
    exec (.planStop v p) s = nextMach s
      (if (part s.mach p.val).st = .running then answer v .ok (stopPlan p.val s.mach) else answer v .badState s.mach)) ∧
  (∀ (s : State) (v : Via) (p : Fin 4), served s.mach v (some p.val) 0x205 →
    (part s.mach p.val).st = .loaded ∨ (part s.mach p.val).st = .stopped ∨ (part s.mach p.val).st = .halted →
    let m := cutOff p.val s.mach
    exec (.planUnload v p) s = nextMach s (answer v .ok (partitionReset p.val
      (if (serveOf m p.val).isSome = true then failAll s.fuses p.val m else m)))) ∧
  (∀ (s : State) (v : Via) (p : Fin 4), served s.mach v (some p.val) 0x205 →
    (part s.mach p.val).st = .empty ∨ (part s.mach p.val).st = .running ∨ (part s.mach p.val).st = .stopping →
    exec (.planUnload v p) s = nextMach s (answer v .badState s.mach)) ∧
  (∀ (s : State) (v : Via) (p : Fin 4), served s.mach v (some p.val) 0x204 →
    let q := part s.mach p.val
    let n (r : Reg) : Nat := (ctr s.mach r (iPart p.val) 0).count
    exec (.planStatus v p) s = nextMach s (complete v .ok 0 (.fields [("STATE", q.st.code), ("STEP", q.step)
      , ("LATE", q.late), ("DMA", n .hldCntDma), ("LINK", n .hldCntLink), ("CISTERN", n .hldCntCistern)
      , ("HOST", n .hldCntHost), ("REFRESH", n .hldCntRefresh), ("GATE", n .hldCntGate), ("TOTAL", n .hldCntTotal)
      , ("EPISODES", n .hldEpisodes)]) s.mach)) ∧
  (∀ (s : State) (v : Via) (p : Fin 4), served s.mach v (some p.val) 0x206 →
    exec (.faultRead v p) s = nextMach s (complete v .ok 0 (.bytes (match (part s.mach p.val).fault with
      | some r => r.bytes (ctr s.mach .seqSecondary (iPart p.val) 0).count
      | none => List.replicate 64 0)) s.mach)) ∧
  (∀ (s : State) (v : Via) (p : Fin 4) (n step : Nat) (pl : PlanImage), served s.mach v (some p.val) 0x207 →
    (part s.mach p.val).plan = some pl → (part s.mach p.val).st = .running → journalRefuses s.mach p.val v = false →
    v.caller ≠ .journal → n < pl.variants.length →
    let e := if step = 0 then (part s.mach p.val).step + pl.vlead else step
    let a : Armed := { variant := n, step := e, originMod := s.mach.moduleId, originDie := p.val
                       payload := payloadOf s.mach v }
    exec (.planVariant v p n step) s = nextMach s
      (if e < (part s.mach p.val).step + 2 then answer v .range s.mach
       else answer v .ok ((pl.members.filter (fun y => y != (s.mach.moduleId, p.val))).foldl
        (sendVariant s.fuses p.val a) (arm p.val a s.mach))))

/-- The integrity commands (R398 to R405, R407 to R409): SCRUB_RANGE checks the units of a range in order and answers the
summary of Table 9-5; ECC_FLIP_ARM arms the mask of its target; ECC_REMAP_ADD records a candidate; ECC_COUNTS answers
the counters of every station and wellhead of the partition. -/
def Obligations.IntegrityCommandsResult : Prop :=
  (∀ (s : State) (v : Via) (p : Fin 4) (t : Target) (start n : Nat) (y : Place), served s.mach v (some p.val) 0x701 →
    placeOf s.fuses s.mach p.val t = some y → start + n ≤ placeSize s.mach p.val y →
    slicesFree (part s.mach p.val).st = true ∨ (∀ k, y ≠ .slice k) →
    let r := scrubPlace p.val y start n s.mach
    exec (.scrubRange v p t start n) s =
      nextMach s (complete v .ok 0 (.bytes (scrubBytes 0 (placeUnits y * n) r.2)) r.1)) ∧
  (∀ (s : State) (v : Via) (p : Fin 4) (t : Target) (mask : BitVec 72), served s.mach v (some p.val) 0x702 →
    (part s.mach p.val).st = .empty ∨ consents s.mach p.val 0 = true →
    let f : EccFlip := { state := 1, firedAt := 0, mask := mask }
    (∀ k, placeOf s.fuses s.mach p.val t = some (.slice k) → exec (.eccFlipArm v p t mask) s =
      nextMach s (answer v .ok (onStn k (fun y => { y with flip := f }) s.mach))) ∧
    (∀ w, placeOf s.fuses s.mach p.val t = some (.well w) → exec (.eccFlipArm v p t mask) s =
      nextMach s (answer v .ok (onWell w (fun y => { y with flip := f }) s.mach)))) ∧
  (∀ (s : State) (v : Via) (p : Fin 4) (t : Target) (loc : Nat), served s.mach v (some p.val) 0x703 →
    (∀ k, placeOf s.fuses s.mach p.val t = some (.slice k) → loc < 32768 → exec (.eccRemapAdd v p t loc) s =
      nextMach s (answer v .ok (record { kind := 0, place := k, unit := 16 * loc, what := 3 } s.mach))) ∧
    (∀ w, placeOf s.fuses s.mach p.val t = some (.well w) → loc < wellBeats → exec (.eccRemapAdd v p t loc) s =
      nextMach s (answer v .ok (record { kind := 1, place := w, unit := 4 * loc, what := 3 } s.mach)))) ∧
  (∀ (s : State) (v : Via) (p : Fin 4), served s.mach v (some p.val) 0x704 →
    exec (.eccCounts v p) s = nextMach s (complete v .ok 0 (.fields (
      (part s.mach p.val).dies.flatMap (fun d => (List.range 144).flatMap (fun i => stationCounts s.mach (stKey d i)))
        ++ (partWells s.fuses s.mach p.val).flatMap (wellCounts s.mach))) s.mach))

/-- The units that a port receives (R417, R418, R421, R428, R430, R440, R455, R456, R458, R460): a sound unit's prefix is
taken first; a packet in sequence within its grant is stored and acknowledged; a request that this end must answer is
acknowledged, and a width change or a retrain begins; WIDTH_MARK switches the receiver; DOZE is recorded and
acknowledged in ACTIVE. A unit that is not heard, or is not sound, changes at most its error counter. -/
def Obligations.LinkReceiveResult : Prop :=
  (∀ (s : State) (k : Fin 16) (u : LinkUnit) (c : Fin 16 → LinkUnit → Instr),
    c ∈ [Instr.pkt, .link, .widthReq, .retrainReq, .reqAck, .widthMark, .doze, .dozeAck] →
    soundUnit s.mach k.val u = false →
    exec (c k u) s = nextMach s (if (port s.mach k.val).hears = false then s.mach
      else if u.lcrcOk && u.fecOk then bump .lrkKindDrop (iPort k.val)
        (onPort k.val (fun x => { x with lastHeard := s.mach.clk.wall }) s.mach)
      else bump .lrkLcrcErr (iPort k.val) s.mach)) ∧
  (∀ (s : State) (k : Fin 16) (u : LinkUnit), soundUnit s.mach k.val u = true →
    let m := heard k.val u s.mach
    let q := port m k.val
    exec (.link k u) s = nextMach s m ∧
    (∀ y, u.pkt = some y → u.kind = 1 → q.active = true → u.arg % 2 ^ 24 = q.rxNext →
      let p := carried u y
      units p.size ≤ q.outst.get u.cls →
      exec (.pkt k u) s = nextMach s (onPort k.val (fun q => { (q.oweAck m.clk.wall) with
        rxNext := (q.rxNext + 1) % 2 ^ 24
        outst := q.outst.mod u.cls (fun x => x - units p.size)
        holds := q.holds.mod u.cls (fun x => x + units p.size)
        inbox := q.inbox ++ [{ pkt := p, port := k.val, cls := u.cls, len16 := u.len16, at_ := m.clk.wall }] }) m)) ∧
    (∀ y, u.pkt = some y → u.kind = 1 → q.active = true → u.arg % 2 ^ 24 = q.rxNext →
      q.outst.get u.cls < units (carried u y).size →
      exec (.pkt k u) s = nextMach s (bump .lrkCreditViol (iPort k.val) m)) ∧
    (∀ g, u.kind = 4 → yields m k.val = true → groupFor q.lanes (u.arg % 256) = some g →
      exec (.widthReq k u) s =
        nextMach s (startWidth k.val g m.clk.wall (queueCtl k.val (ctlUnit 6 4) (dropReq k.val m)))) ∧
    (u.kind = 5 → yields m k.val = true →
      exec (.retrainReq k u) s = nextMach s (onPort k.val (fun q => { q with retrain := true })
        (queueCtl k.val (ctlUnit 6 5) (dropReq k.val m)))) ∧
    (∀ mask t g, u.kind = 6 → q.req = some (4, mask, t) → u.arg % 16 = 4 → groupFor q.lanes mask = some g →
      exec (.reqAck k u) s = nextMach s (startWidth k.val g t (onPort k.val (fun q => { q with req := none }) m))) ∧
    (∀ mask t, u.kind = 6 → q.req = some (5, mask, t) → u.arg % 16 = 5 →
      exec (.reqAck k u) s =
        nextMach s (downPort s.fuses k.val 4 true (onPort k.val (fun q => { q with req := none }) m))) ∧
    (u.kind = 7 → exec (.widthMark k u) s =
      nextMach s (onPort k.val (fun q => { q with op := q.op.map (fun o => { o with rx := true }) }) m)) ∧
    (u.kind = 8 → exec (.doze k u) s = nextMach s (
      if q.active = false then m
      else if u.arg % 2 = 1 then queueCtl k.val (ctlUnit 9 1) (onPort k.val (fun q => { q with peerDoze := true }) m)
      else onPort k.val (fun q => { q with peerDoze := false }) m)) ∧
    (u.kind = 9 → u.arg % 2 = 1 →
      exec (.dozeAck k u) s = nextMach s (onPort k.val (fun q => { q with slowKeep := q.doze }) m)))

/-- KEEPALIVE and UNIT_TRANSMIT (R414, R419, R420, R423, R426, R427, R429, R434, R436, R456): a port that hears sends a
keep-alive at its time, and in a transmission the unit that R419 chooses once its last unit has left: a unit of a width
change, a bare prefix, a packet sent again or one sent for the first time, which takes the next LSEQ and its credit;
where nothing may be sent, nothing is. -/
def Obligations.LinkTransmitResult : Prop :=
  (∀ (s : State) (k : Fin 16), (port s.mach k.val).hears = true → (port s.mach k.val).silent = false →
    let q := port s.mach k.val
    exec (.keepalive k) s = nextMach s (sendUnit k.val (ctlUnit 3 0)
      (reachWall (q.lastSent + (if q.slowKeep = true then 100000 else 1000)) s.mach))) ∧
  (∀ (s : State) (k : Fin 16), (port s.mach k.val).hears = true →
    let m := pump k.val (reachWall (((port s.mach k.val).busy + 999) / 1000) s.mach)
    (∀ u, (port m k.val).choose m.clk.wall = .ctl u →
      exec (.unitTransmit k) s = nextMach s (sendCtl s.fuses k.val u m)) ∧
    ((port m k.val).choose m.clk.wall = .bare →
      exec (.unitTransmit k) s = nextMach s (sendUnit k.val (ctlUnit 2 0) (noteCtl k.val m))) ∧
    (∀ o, (port m k.val).choose m.clk.wall = .again o →
      exec (.unitTransmit k) s = nextMach s (sendAgain k.val o m)) ∧
    (∀ o, (port m k.val).choose m.clk.wall = .fresh o →
      exec (.unitTransmit k) s = nextMach s (sendFresh k.val o m)) ∧
    ((port m k.val).choose m.clk.wall = .nothing → exec (.unitTransmit k) s = nextMach s m))

/-- The timers and losses of a link (R433, R434, R437, R454, R457, R459, R461): the replay timer marks what has no
acknowledgement to be sent again, and the fourth expiry takes the port down; silence, the loss of a lane in use, a width
change not complete within 4 us and a loss of signal do so with their cause; a request without an answer is abandoned
after 10 us and its conditions are evaluated again; a width change complete at both ends sets the new width. -/
def Obligations.LinkTimersResult : Prop :=
  (∀ (s : State) (k : Fin 16) (t : Nat), (port s.mach k.val).timer = some t →
    let m := bump .lrkTimeouts (iPort k.val) (reachWall (t + 2 * (port s.mach k.val).rtt + 1000) s.mach)
    (3 ≤ (port m k.val).expiries → exec (.replayTimeout k) s = nextMach s (downPort s.fuses k.val 2 false m)) ∧
    ((port m k.val).expiries < 3 → exec (.replayTimeout k) s =
      nextMach s (bumpBy .lrkReplayed (iPort k.val) 0 ((port m k.val).store.filter (fun o => o.lseq.isSome)).length
        (onPort k.val (fun q => { q with
          expiries := q.expiries + 1, timer := none
          store := q.store.map (fun o => if o.lseq.isSome then { o with again := true } else o) }) m)))) ∧
  (∀ (s : State) (k : Fin 16), [5, 6, 7].contains (port s.mach k.val).st = true →
    exec (.silence k) s = nextMach s (downPort s.fuses k.val 1 false
      (reachWall ((port s.mach k.val).lastHeard + (port s.mach k.val).downTime) s.mach))) ∧
  (∀ (s : State) (k : Fin 16) (lane : Fin 8), (port s.mach k.val).hears = true → (port s.mach k.val).st ≠ 9 →
    exec (.lockLoss k lane) s = nextMach s
      (if bitAt (port s.mach k.val).lanes lane.val = true then downPort s.fuses k.val 3 false s.mach else s.mach)) ∧
  (∀ (s : State) (k : Fin 16) (kind mask t : Nat), (port s.mach k.val).req = some (kind, mask, t) →
    exec (.reqTimeout k) s = nextMach s (evalLanes k.val (dropReq k.val (reachWall (t + 10000) s.mach)))) ∧
  (∀ (s : State) (k : Fin 16) (o : WidthOp), (port s.mach k.val).op = some o →
    exec (.widthChangeTimeout k) s = nextMach s (downPort s.fuses k.val 4 false (reachWall (o.start + 4000) s.mach)) ∧
    (o.tx = true → o.rx = true → exec (.laneRealign k) s =
      nextMach s (evalLanes k.val (raiseEvt 0x0012 1 (iPort k.val) o.width (bump .lrkWidthChg (iPort k.val)
        (onPort k.val (fun q => { q with st := 6, width := o.width, lanes := o.lanes, op := none }) s.mach)))))) ∧
  (∀ (s : State) (k : Fin 16),
    ((port s.mach k.val).active = true → exec (.lossOfSignal k) s =
      nextMach s (startPriming k.val (downPort s.fuses k.val 3 false s.mach))) ∧
    ((port s.mach k.val).active = false → [2, 3, 4, 5, 9].contains (port s.mach k.val).st = true →
      exec (.lossOfSignal k) s =
        nextMach s (startPriming k.val (onPort k.val (fun x => { x with fromEq := false }) s.mach))))

/-- Priming (R8, R39, R423, R438, R439, R445 to R451, R453, R454): each phase leads to the next, LOCK_ALIGN settles the
width from the lanes that both ends find usable, sends this end's identity, and stops at a peer that is not the wired
one, TIME measures the round trip with 16 markers, and AUTH makes the port ACTIVE with the grants at their reserves; a phase that fails takes the port down and
doubles its interval, after which priming starts again. A window counts its errors and may ask for a smaller width. -/
def Obligations.LinkPrimingResult : Prop :=
  (∀ (s : State) (k : Fin 16), (port s.mach k.val).st = 8 → (port s.mach k.val).enable = true →
    mayPrime s.mach k.val = true → exec (.primeRetry k) s = nextMach s (startPriming k.val
      (reachWall ((port s.mach k.val).downAt + (port s.mach k.val).backoff) s.mach))) ∧
  (∀ (s : State) (k : Fin 16), (port s.mach k.val).st = 1 →
    exec (.detect k) s = nextMach s (onPort k.val (fun q => { q with st := 2 }) s.mach)) ∧
  (∀ (s : State) (k : Fin 16), (port s.mach k.val).st = 2 →
    exec (.equalise k) s = nextMach s (onPort k.val (fun q => { q with st := 3 }) s.mach)) ∧
  (∀ (s : State) (k : Fin 16) (y : PeerIdent), (port s.mach k.val).st = 3 →
    let w := (port s.mach k.val).widthNow
    let g := groups.find? (fun g => decide (max w y.width ≤ g.1) && within g.2 y.ownLanes.toNat
      && within g.2 y.lanes.toNat)
    let m := onPort k.val (fun q => { q with
      peerMod := y.mod % 16384, peerPort := y.port % 16, unusable := 255 - y.ownLanes.toNat
      lastHeard := s.mach.clk.wall, lastSent := s.mach.clk.wall }) { s.mach with
        out := s.mach.out ++ [.ident k.val (if s.mach.located = true then s.mach.moduleId else s.mach.moduleId % 8)
          y.ownLanes.toNat w] }
    (g = none → exec (.lockAlign k y) s = nextMach s (failPriming s.fuses k.val m)) ∧
    (∀ a, g = some a →
      let n := onPort k.val (fun q => { q with width := a.1, lanes := a.2 }) m
      exec (.lockAlign k y) s = nextMach s (if wired n k.val y = true then onPort k.val (fun q => { q with st := 4 }) n
        else raiseEvt 0x0011 1 (iPort k.val) (y.mod % 16384 * 65536 + y.port % 16)
          (onPort k.val (fun q => { q with st := 9 }) n)))) ∧
  (∀ (s : State) (k : Fin 16) (markers : List (Nat × Nat)) (offset : Int) (r : Nat), (port s.mach k.val).st = 4 →
    markers.length = 16 → minOf (markers.map (fun y => y.1 - y.2)) = some r →
    exec (.time k markers offset) s = nextMach s (onPort k.val (fun q => { q with
        st := 5, rtt := (r + 15) / 16 % 2 ^ 32, timed := true, lastHeard := s.mach.clk.wall })
      (onMport k.val (fun x => { x with rtt := r, offset := offset, fresh := x.fresh ++ [offset] })
        { s.mach with out := s.mach.out ++ [.timing k.val 16] }))) ∧
  (∀ (s : State) (k : Fin 16) (ok : Bool), (port s.mach k.val).st = 5 →
    exec (.auth k ok) s = nextMach s (if ok = true then reholdAll (enterActive k.val s.mach)
      else failPriming s.fuses k.val s.mach)) ∧
  (∀ (s : State) (k : Fin 16), [2, 3, 4, 5].contains (port s.mach k.val).st = true →
    exec (.primeFail k) s = nextMach s (onPort k.val (fun q => { q with backoff := min (2 * q.backoff) 1000000000 })
      (downPort s.fuses k.val 6 false (bump .lrkPrimeFail (iPort k.val) s.mach)))) ∧
  (∀ (s : State) (k : Fin 16) (w : LaneWindow), (port s.mach k.val).lanes ≠ 0 →
    let q := port s.mach k.val
    let bad (i : Nat) : Bool := bitAt q.lanes i && q.thrNow != 0 && decide (q.thrNow < w.sym.getD i 0)
    exec (.laneWindow k w) s = nextMach s (evalLanes k.val (onPort k.val (fun q => { q with
        unusable := (List.range 8).foldl (fun a i => if bad i then putBit a i else a) q.unusable })
      (bumpBy .lrkFecUnc (iPort k.val) 0 w.fecUnc (bumpBy .lrkFecCorr (iPort k.val) 0 w.fecCorr
        ((List.range 8).foldl (fun m i => bumpBy .lrkLaneSym (iPort k.val) i (w.sym.getD i 0) m) s.mach))))))

/-- The link commands (R8, R439, R455, R463, Table 10-7): LINK_STATUS and LINK_COUNTERS answer the registers, LINK_PRIME
takes the port down with cause COMMAND and LINK_DISABLE holds it OFF as well, LINK_ENABLE lets a port that is OFF prime,
LINK_WIDTH asks an ACTIVE port's peer for a width that its lanes allow; a port in another state answers BAD_STATE. -/
def Obligations.LinkCommandsResult : Prop :=
  ∀ (s : State) (v : Via) (k : Fin 16),
    let p := some (partOf s.mach (portDie k.val))
    let q := port s.mach k.val
    let n (r : Reg) (i : Nat) : Nat := (ctr s.mach r (iPort k.val) i).word
    (served s.mach v p 0x501 → exec (.linkStatus v k) s = nextMach s (complete v .ok 0
      (.fields [("LRK_STATE", lrkState q), ("LRK_RTT", q.rtt), ("LRK_SEQ", lrkSeq q)]) s.mach)) ∧
    (served s.mach v p 0x502 → exec (.linkPrime v k) s = nextMach s
      (if q.st = 0 then answer v .badState s.mach
       else answer v .ok (onPort k.val (fun q => { q with
         backoff := 1000000, downAt := (downPort s.fuses k.val 5 false s.mach).clk.wall, fromEq := false })
         (downPort s.fuses k.val 5 false s.mach)))) ∧
    (served s.mach v p 0x503 → exec (.linkDisable v k) s = nextMach s (answer v .ok
      (onPort k.val (fun q => { q with st := 0, enable := false }) (downPort s.fuses k.val 5 false s.mach)))) ∧
    (served s.mach v p 0x504 → exec (.linkEnable v k) s = nextMach s
      (if q.st = 0 then answer v .ok (wakePort k.val (onPort k.val (fun q => { q with enable := true }) s.mach))
       else answer v .badState s.mach)) ∧
    (∀ mask : BitVec 8, served s.mach v p 0x505 → exec (.linkWidth v k mask) s = nextMach s
      (if q.st = 6 ∧ (groupFor q.lanes mask.toNat).isSome = true then
         answer v .ok (askPeer k.val 4 mask.toNat (dropReq k.val s.mach))
       else answer v .badState s.mach)) ∧
    (served s.mach v p 0x506 → exec (.linkCounters v k) s = nextMach s (complete v .ok 0 (.fields (
      [("LRK_FEC_CORR", n .lrkFecCorr 0), ("LRK_FEC_UNC", n .lrkFecUnc 0), ("LRK_LCRC_ERR", n .lrkLcrcErr 0)
      , ("LRK_SEQ_DROP", n .lrkSeqDrop 0), ("LRK_KIND_DROP", n .lrkKindDrop 0)
      , ("LRK_CREDIT_VIOL", n .lrkCreditViol 0), ("LRK_TIMEOUTS", n .lrkTimeouts 0)
      , ("LRK_REPLAYED", n .lrkReplayed 0), ("LRK_DOWNS", n .lrkDowns 0), ("LRK_PRIME_FAIL", n .lrkPrimeFail 0)
      , ("LRK_WIDTH_CHG", n .lrkWidthChg 0)] ++ (List.range 8).map (fun i => ("LRK_LANE_SYM", n .lrkLaneSym i))))
      s.mach))

/-- PACKET_RECEIVE (R480, R485, R488, Table 11-5): the checks of the table in their order, each with its counter and its
event; a packet for another module goes on with one hop more, and the first in its order for this one is delivered. -/
def Obligations.PacketReceiveResult : Prop :=
  ∀ (s : State) (k : Fin 16) (i : InPkt) (r : List InPkt), (port s.mach k.val).inbox = i :: r →
    let m := onPort k.val (fun q => { q with inbox := r }) s.mach
    let h := i.pkt.hdr
    let d := portDie k.val
    let drop (c : Reg) (d : Nat) : Mach := dropPkt i c d m
    (h.hcrc ≠ h.crc →
      exec (.packetReceive k) s = nextMach s (raiseEvt 0x0015 0 (iDie d) k.val (drop .rteHcrcErr d))) ∧
    (h.hcrc = h.crc →
      ((prefixOk i && headerOk m h) = false → exec (.packetReceive k) s = nextMach s (drop .rteHdrErr d)) ∧
      ((prefixOk i && headerOk m h) = true →
        (h.dstMod ≠ m.moduleId → 15 ≤ h.hops → exec (.packetReceive k) s = nextMach s (drop .rteHopsDrop d)) ∧
        (h.dstMod ≠ m.moduleId → h.hops < 15 → exec (.packetReceive k) s = nextMach s
          (forward s.fuses { i with pkt := { i.pkt with hdr := { h with hops := h.hops + 1 } } } m)) ∧
        (h.dstMod = m.moduleId → dieHeld m h.dstDie = false →
          exec (.packetReceive k) s = nextMach s (drop .rteRemoteDrop h.dstDie)) ∧
        (h.dstMod = m.moduleId → dieHeld m h.dstDie = true → slotOk m i = false →
          exec (.packetReceive k) s = nextMach s (drop .rteKeyDrop h.dstDie)) ∧
        (h.dstMod = m.moduleId → dieHeld m h.dstDie = true → slotOk m i = true → h.keyslot ≠ 0 →
          i.pkt.tagOk = false → exec (.packetReceive k) s =
            nextMach s (raiseEvt 0x0016 1 (iDie h.dstDie) h.srcMod (drop .rteAuthFail h.dstDie))) ∧
        (h.dstMod = m.moduleId → dieHeld m h.dstDie = true → slotOk m i = true →
          (h.keyslot = 0 ∨ i.pkt.tagOk = true) → exec (.packetReceive k) s =
            nextMach s (if (h.isLocal || h.unordered) = true then deliver s.fuses i m else order s.fuses i m))))

/-- WRITE, READ_REQ, READ_RESP and LA_ADD (R217, R326, R492 to R494, R497, R498, R501): the request at the front of a die
executes once the response cache has room: a write stores its data in the region of the station, each beat in a cycle
that R330 leaves free and not before there are such cycles, in the wellhead or the host window, and a request answers its
status; a read answers its data, or that host memory cannot be corrected; a response gives its data to the request that
waits for it, and without one is counted; a target that fails is R496's. -/
def Obligations.PacketExecuteResult : Prop :=
  (∀ (s : State) (d : Fin 4) (i : InPkt), front s.mach d.val (fun p => p.hdr.op == 1) = some i →
    cacheRoom s.mach i.pkt.hdr = true →
    let h := i.pkt.hdr
    let l := i.pkt.payload.take (32 * h.len)
    (∀ sub, targetFails s.fuses s.mach i.pkt = some sub → exec (.write d) s = nextMach s
      (failTarget s.fuses i sub (onDie d.val (fun x => { x with deliver := x.deliver.drop 1 }) s.mach))) ∧
    (∀ key t, targetFails s.fuses s.mach i.pkt = none → aimOf s.fuses s.mach h = .station key →
      regionFor s.mach h (32 * h.len) = some t →
      let ps := beatPieces l.length h.addr l
      let times := pieceTimes s.mach key t.port 0 (laneAt s.mach key (cycleNow s.mach (partOf s.mach d.val))) ps
      (∀ cs, times = some cs → exec (.write d) s = nextMach s (executed d.val i
        (storePieces s.fuses key t.port (ps.zip cs) (countRegion d.val t h.len s.mach)))) ∧
      (times = none → exec (.write d) s = nextMach s s.mach)) ∧
    (targetFails s.fuses s.mach i.pkt = none → (∀ key, aimOf s.fuses s.mach h ≠ .station key) →
      let m := (putRemote s.fuses h h.addr l s.mach).1
      exec (.write d) s = nextMach s (executed d.val i (if isAsk h = true then
        respond s.fuses i.pkt 0 (statusLine (putRemote s.fuses h h.addr l s.mach).2) m else m)))) ∧
  (∀ (s : State) (d : Fin 4) (i : InPkt), front s.mach d.val (fun p => p.hdr.op == 2) = some i →
    cacheRoom s.mach i.pkt.hdr = true →
    let h := i.pkt.hdr
    let a := (readArgs i.pkt).1
    let n := (readArgs i.pkt).2.1
    let reply := (readArgs i.pkt).2.2
    let send (l : List Byte) (m : Mach) : Mach := executed d.val i (respond s.fuses i.pkt reply l m)
    (∀ sub, targetFails s.fuses s.mach i.pkt = some sub → exec (.readReq d) s = nextMach s
      (failTarget s.fuses i sub (onDie d.val (fun x => { x with deliver := x.deliver.drop 1 }) s.mach))) ∧
    (targetFails s.fuses s.mach i.pkt = none → (∀ w, aimOf s.fuses s.mach h ≠ .well w) →
      let base := (part s.mach (partOf s.mach d.val)).hwBase + a
      exec (.readReq d) s = nextMach s
        (send (if hostBad s.mach base n = true then statusLine 2 else peeks s.mach.mem.host base n) s.mach)) ∧
    (∀ w m l, targetFails s.fuses s.mach i.pkt = none → aimOf s.fuses s.mach h = .well w →
      readBeats s.fuses w (a / 128) ((a + n + 127) / 128 - a / 128) s.mach = (m, some l) →
      exec (.readReq d) s = nextMach s (send ((l.drop (a % 128)).take n) m))) ∧
  (∀ (s : State) (d : Fin 4) (i : InPkt), front s.mach d.val (fun p => p.hdr.op == 3) = some i →
    let h := i.pkt.hdr
    let mine (r : Request) : Bool :=
      r.pkt.hdr.tag == h.tag && r.pkt.hdr.dstMod == h.srcMod && r.pkt.hdr.dstDie == h.srcDie
    ((die s.mach d.val).reqs.find? mine = none → exec (.readResp d) s =
      nextMach s (bump .rteRespDup (iDie d.val) (executed d.val i s.mach))) ∧
    (∀ r, (die s.mach d.val).reqs.find? mine = some r →
      let m := onDie d.val (fun x => { x with reqs := x.reqs.erase r }) s.mach
      exec (.readResp d) s = nextMach s (issueAsks s.fuses d.val (executed d.val i (if r.pkt.hdr.op = 2 then
        (putRemote s.fuses h h.addr (i.pkt.payload.take (32 * h.len)) m).1 else m))))) ∧
  (∀ (s : State) (d : Fin 4) (cycle : Nat) (i : InPkt) (key : Nat) (t : Xfer),
    front s.mach d.val (fun p => p.hdr.op == 4) = some i → targetFails s.fuses s.mach i.pkt = none →
    aimOf s.fuses s.mach i.pkt.hdr = .station key → regionFor s.mach i.pkt.hdr (32 * i.pkt.hdr.len) = some t →
    let h := i.pkt.hdr
    let l := i.pkt.payload.take (32 * h.len)
    let m := countRegion d.val t h.len s.mach
    let ps := beatPieces l.length h.addr l
    let place := laneAt s.mach key cycle
    let add (cs : List LaneAt) (m : Mach) : Mach :=
      (ps.zip cs).foldl (addPiece s.fuses (partOf s.mach d.val) d.val h.dstUnit key t.port) m
    (∀ cs, pieceTimes s.mach key t.port 2 place ps = some cs → exec (.laAdd d cycle) s = nextMach s (executed d.val i
      (if place.when = none then settleStn key (add cs (settleStn key m)) else add cs m))) ∧
    (pieceTimes s.mach key t.port 2 place ps = none → exec (.laAdd d cycle) s = nextMach s s.mach))

/-- TIME_MARKER, DRAIN, COLL_ABORT_PACKET, VARIANT and DELIVERED (R490, R491, R507, R508, R514, R515, R548, R549, R830,
R831): the control packet at the front of a die leaves it and has its effect: a marker that echoes one of ours and is
not late measures the offset; a drain counts against its bank; an abort of a collective of the plan that this partition is a
member of reaches it once in 10 ms; a
variant is armed, or halts the plan if its step has begun; a delivery count never falls. -/
def Obligations.ControlPacketsResult : Prop :=
  (∀ (s : State) (d : Fin 4) (i : InPkt), front s.mach d.val (isCtl 1) = some i →
    let k := i.port
    let l := i.pkt.payload
    let m := executed d.val i s.mach
    let x := mport m k
    let t4 := mtimeAt m i.at_
    let n := onMport k (fun y => { y with flags := leAt l 1 1 % 32, got := some (leAt l 2 2, t4) }) m
    ((bitAt (leAt l 1 1) 0 = false ∨ x.sent.find? (fun y => y.1 == leAt l 4 2) = none) →
      exec (.timeMarker d) s = nextMach s (bump .mtmMarkDrop (iPort k) n)) ∧
    (∀ y, bitAt (leAt l 1 1) 0 = true → x.sent.find? (fun y => y.1 == leAt l 4 2) = some y →
      let z := measure y.2 (leAt l 8 8 * 65536 + leAt l 6 2 : Nat) t4 (leAt l 16 4 * 256 : Nat) (x.asym * 65536 / 1000)
      exec (.timeMarker d) s = nextMach s (if ((port n k).rtt + 20 : Nat) * 65536 < z.1 then
          bump .mtmMarkDrop (iPort k) n
        else onMport k (fun y => { y with valid := true, rtt := (z.1 / 4096).toNat % 2 ^ 24, offset := z.2 / 256
                                          fresh := y.fresh ++ [z.2 / 256] }) n))) ∧
  (∀ (s : State) (d : Fin 4) (i : InPkt), front s.mach d.val (isCtl 2) = some i →
    let e := leAt i.pkt.payload 1 1 == 1
    let m := executed d.val i s.mach
    let t := arrivalTable m i.port
    exec (.drain d) s = nextMach s (
      if (rteOf m t).bank e = 3 then tryRelease t (onRte t (fun r => { r with gotDrain := putBit r.gotDrain i.port }) m)
      else if (rteOf m t).bank e = 2 then onRte t (fun r => { r with earlyDrain := putBit r.earlyDrain i.port }) m
      else m)) ∧
  (∀ (s : State) (d : Fin 4) (i : InPkt), front s.mach d.val (isCtl 3) = some i →
    let l := i.pkt.payload
    let m := executed d.val i s.mach
    let p := partOf s.mach d.val
    let lately := m.aborts.filter (fun y => decide (m.clk.wall < y.2.2.2 + 10000000))
    let a : Abort := { cause := leAt l 1 1, mod := leAt l 2 2, die := leAt l 4 1, coll := leAt l 5 1, step := leAt l 6 2 }
    let known := lately.any (fun y => y.1 == a.coll && y.2.1 == a.mod && y.2.2.1 == a.die)
    ((l.drop 8).take 16 ≠ digest16 m p ∨ memberOf m p a.coll = false → exec (.collAbortPacket d) s = nextMach s m) ∧
    ((l.drop 8).take 16 = digest16 m p → memberOf m p a.coll = true → known = true →
      exec (.collAbortPacket d) s = nextMach s (bump .rteAbortDup (iDie d.val) m)) ∧
    ((l.drop 8).take 16 = digest16 m p → memberOf m p a.coll = true → known = false → exec (.collAbortPacket d) s =
      nextMach s (abortMember s.fuses p a { m with aborts := lately ++ [(a.coll, a.mod, a.die, m.clk.wall)] }))) ∧
  (∀ (s : State) (d : Fin 4) (i : InPkt), front s.mach d.val (isCtl 4) = some i →
    let l := i.pkt.payload
    let m := executed d.val i s.mach
    let p := partOf s.mach d.val
    let v := leAt l 1 1
    let e := leAt l 6 6
    (planOf m p = none ∨ (l.drop 16).take 16 ≠ digest16 m p → exec (.variant d) s = nextMach s m) ∧
    (planOf m p ≠ none → (l.drop 16).take 16 = digest16 m p → exec (.variant d) s = nextMach s (
      if begun (part m p) e = true then forceHalt s.fuses p 5 (v % 16 * 2 ^ 44 + e % 2 ^ 44) (cycleNow m p) m
      else arm p { variant := v, step := e, originMod := leAt l 2 2, originDie := leAt l 4 1
                   payload := leBytes 1 v ++ zeros 7 ++ leBytes 6 e } m))) ∧
  (∀ (s : State) (d : Fin 4) (i : InPkt), front s.mach d.val (isCtl 5) = some i →
    let h := i.pkt.hdr
    let l := i.pkt.payload
    let m := executed d.val i s.mach
    let up (n : Nat) (y : PairCls) : PairCls := { y with deliv := max y.deliv n }
    exec (.delivered d) s = nextMach s (if (pairOf m d.val h.srcMod h.srcDie).live = true then
        pumpAll (onPair d.val h.srcMod h.srcDie (fun x => { x with
          c0 := up (leAt l 2 6) x.c0, c1 := up (leAt l 8 6) x.c1, c2 := up (leAt l 14 6) x.c2 }) m)
      else m))

/-- The timed events of a die's packets (R481, R482, R484, R489, R491, R500, R501, R503, R514, R515): a held packet is
forwarded, escapes in C3 after 10 us without credit, or is discarded after 2 ms without a route; a gap in an order is
told once, after 2 ms; delivery counts are sent; a request without a response is sent again three times and fails then,
and its work with it; the
oldest response is forgotten after 1 ms; a drained port says so, and a bank is open again at the latest after 2 ms. -/
def Obligations.WaitingPacketsResult : Prop :=
  (∀ (s : State) (k : Fin 16) (i : InPkt), (port s.mach k.val).fwd = [i] → i.pkt.hdr.cls = 0 →
    i.pkt.hdr.escaped = false →
    let m := reachWall (i.at_ + 600) s.mach
    let q := port s.mach k.val
    let late := decide (i.at_ + 600 < m.clk.wall) || decide (1000 * m.clk.wall < q.busy) || (q.head 0).isSome
      || decide (q.credit 0 < units i.pkt.size)
    exec (.forwardStart k) s = nextMach s (putPort k.val { i.through i.viaIn with since := m.clk.wall }
      (onPort k.val (fun q => { q with fwd := q.fwd.erase i })
        (if late = true then bump .rteFwdLate (iDie (portDie k.val)) m else m)))) ∧
  (∀ (s : State) (k : Fin 16) (i : InPkt) (r : List InPkt), (port s.mach k.val).fwd = i :: r → i.pkt.hdr.cls ≠ 0 →
    exec (.forwardStart k) s = nextMach s (putPort k.val
      { i.through i.viaIn with since := s.mach.clk.wall }
      (onPort k.val (fun q => { q with fwd := q.fwd.erase i }) s.mach))) ∧
  (∀ (s : State) (k : Fin 16) (o : OutPkt),
    let q := port s.mach k.val
    ((q.next 0 = none ∧ q.head 0 = some o) ∨ ((q.next 0).isSome = true ∧ q.next 1 = none ∧ q.head 1 = some o)
      ∨ (q.head 0 = none ∧ q.next 1 = none ∧ q.head 1 = some o)) →
    let m := onPort k.val (fun q => { q with store := q.store.erase o }) (reachWall (o.since + 10000) s.mach)
    exec (.escape k) s = nextMach s (pump k.val (place s.fuses (portDie k.val) (storeTable m k.val o.pkt.hdr)
      { o with pkt := { o.pkt with hdr := o.pkt.hdr.setFlag 4 }, cls := 3 }
      (bump .rteEscaped (iDie (portDie k.val)) m)))) ∧
  (∀ (s : State) (d : Fin 4) (x : Held) (r : List Held), (die (rehold d.val s.mach) d.val).held = x :: r →
    exec (.noRoute d) s = nextMach s (raiseEvt 0x0013 1 (iDie d.val) x.out.pkt.hdr.dstMod (bump .rteNoroute (iDie d.val)
      (refillHeld d.val (x.out.freePool
        (onDie d.val (fun y => { y with held := r }) (reachWall (x.since + 2000000) (rehold d.val s.mach)))))))) ∧
  (∀ (s : State) (d : Fin 4) (w : Waiting),
    let order (h : Header) : PairCls := (pairOf s.mach d.val h.srcMod h.srcDie).cls h.cls
    let untold (w : Waiting) : Bool := (order w.inp.pkt.hdr).gap != some (order w.inp.pkt.hdr).next
    (die s.mach d.val).reorder.find? untold = some w →
    let h := w.inp.pkt.hdr
    exec (.pseqGap d) s = nextMach s (raiseEvt 0x0014 1 (iDie d.val) (h.srcMod * 65536 + h.srcDie * 16384 + h.cls)
      (bump .rteGap (iDie d.val) (onPair d.val h.srcMod h.srcDie
        (fun x => x.onCls h.cls (fun y => { y with gap := some y.next })) (reachWall (w.since + 2000000) s.mach))))) ∧
  (∀ (s : State) (d e : Fin 4) (mod slot key : Nat), (pairOf s.mach d.val mod e.val).live = true →
    let x := pairOf s.mach d.val mod e.val
    let full (y : PairCls) : Bool := decide (y.told + 4096 ≤ y.next)
    (x.c0.told ≠ x.c0.next ∨ x.c1.told ≠ x.c1.next ∨ x.c2.told ≠ x.c2.next) →
    let m := if (full x.c0 || full x.c1 || full x.c2) = true then s.mach else reachWall (x.toldAt + 100000) s.mach
    let n := ((fslot m d.val slot).ep key).unord
    sealSlot m d.val mod e.val = some (slot, key) → n < 2 ^ 48 - 1 →
    let h : Header := { newHdr m d.val 0xF0 with
      dstMod := mod, dstDie := e.val, dstUnit := 0xF0, flags := 64, keyslot := slot, keyEpoch := key
      tag := n % 65536, pseq := n / 65536 % 65536, xfer := n / 2 ^ 32 % 65536 }
    let told (y : PairCls) : PairCls := { y with told := y.next }
    let m1 := onSlot d.val slot (fun f => f.onEp key (fun y => { y with unord := n + 1 })) m
    let m2 := onPair d.val mod e.val (fun x => { x with
      c0 := told x.c0, c1 := told x.c1, c2 := told x.c2, toldAt := m1.clk.wall }) m1
    exec (.deliveredSend d mod e) s = nextMach s (place s.fuses d.val (some (partOf m2 d.val))
      { pkt := mkPacket h (deliveredBytes x), cls := 2 } m2)) ∧
  (∀ (s : State) (d : Fin 4) (tag : Nat) (r : Request),
    (die s.mach d.val).reqs.find? (fun r => r.pkt.hdr.tag == tag) = some r →
    let m := reachWall (r.sentAt + 200000) s.mach
    let n := bump .rteNoresp (iDie d.val) (onDie d.val (fun x => { x with reqs := x.reqs.erase r }) m)
    (r.replays < 3 → exec (.requestReplay d tag) s = nextMach s (resend s.fuses d.val r m)) ∧
    (∀ v, 3 ≤ r.replays → r.via = some v →
      exec (.requestReplay d tag) s = nextMach s (issueAsks s.fuses d.val (workFails d.val v n))) ∧
    (3 ≤ r.replays → r.via = none → exec (.requestReplay d tag) s = nextMach s (issueAsks s.fuses d.val n))) ∧
  (∀ (s : State) (d : Fin 4) (c : Cached) (r : List Cached), (die s.mach d.val).cache = c :: r →
    exec (.responseCacheExpire d) s =
      nextMach s (onDie d.val (fun x => { x with cache := r }) (reachWall (c.at_ + 1000000) s.mach))) ∧
  (∀ (s : State) (k : Fin 16) (e : Bool),
    let t := arrivalTable s.mach k.val
    let q := port s.mach k.val
    (rteOf s.mach t).draining = some e → q.active = true → bitAt (rteOf s.mach t).sentDrain k.val = false →
    q.store.any (fun o => o.pkt.hdr.epoch == b2n e) = false →
    exec (.drainSend k) s = nextMach s (tryRelease t (onRte t (fun r => { r with sentDrain := putBit r.sentDrain k.val })
      (sendLocal k.val none ([2, BitVec.ofNat 8 (b2n e)] ++ zeros 30) s.mach)))) ∧
  (∀ (s : State) (t : TableId) (e : Bool), (rteOf s.mach (TableId.opt t)).draining = some e →
    exec (.epochRelease t) s = nextMach s (onRte (TableId.opt t) (fun r => r.setBank e 0)
      (reachWall ((rteOf s.mach (TableId.opt t)).flipAt + 2000000) s.mach)))

/-- The route commands (R494, R506, R512, R513, R516, R517): ROUTE_WRITE fills an OPEN bank and commits it, ROUTE_FLIP
flips to a committed one at its step, or at once where no plan runs, RWIN_SET sets a remote window, COLL_ABORT begins an
abort with this partition as its origin; the module's table is the operator's. -/
def Obligations.RouteCommandsResult : Prop :=
  (∀ (s : State) (v : Via) (t : TableId), TableId.opt t = none → callerOperator v.caller = false → v.caller ≠ .journal →
    (∀ bank l commit, served s.mach v none 0x510 →
      exec (.routeWrite v t bank l commit) s = nextMach s (answer v .denied s.mach)) ∧
    (∀ step, served s.mach v none 0x511 → exec (.routeFlip v t step) s = nextMach s (answer v .denied s.mach)) ∧
    (served s.mach v none 0x512 → exec (.routeStatus v t) s = nextMach s (answer v .denied s.mach))) ∧
  (∀ (s : State) (v : Via) (t : TableId), TableId.opt t ≠ none ∨ callerOperator v.caller = true ∨ v.caller = .journal →
    let o := TableId.opt t
    let r := rteOf s.mach o
    (∀ (bank : Fin 2) (l : List (Nat × RouteEntry)) (commit : Bool), served s.mach v o 0x510 →
      let put (b : Table RouteEntry) : Table RouteEntry := l.foldl (fun b y => tput noRoute b y.1 y.2) b
      let m := onRte o (fun r => if bank.val = 1 then { r with r1 := put r.r1 } else { r with r0 := put r.r0 }) s.mach
      exec (.routeWrite v t bank l commit) s = nextMach s (
        if r.bank (bank.val == 1) ≠ 0 then answer v .badState s.mach
        else if 512 < l.length ∨ l.all (entryOk (tablePorts s.mach o)) = false then answer v .range s.mach
        else answer v .ok (if commit = true then onRte o (fun r => r.setBank (bank.val == 1) 1) m else m))) ∧
    (∀ step, served s.mach v o 0x511 →
      let m := onRte o (fun r => { r with flipStep := step }) s.mach
      (r.bank (!r.epoch) ≠ 1 → exec (.routeFlip v t step) s = nextMach s (answer v .badState s.mach)) ∧
      (r.bank (!r.epoch) = 1 → (∀ p, o = some p → runs m p = true → exec (.routeFlip v t step) s =
        nextMach s (answer v .ok (onRte o (fun r => { r with pend := true }) m)))) ∧
      (r.bank (!r.epoch) = 1 → (∀ p, o = some p → runs m p = false) → exec (.routeFlip v t step) s =
        nextMach s (answer v .ok (flipTable o m)))) ∧
    (served s.mach v o 0x512 →
      exec (.routeStatus v t) s = nextMach s (complete v .ok 0 (.bytes (leBytes 12 (rteCtl r))) s.mach))) ∧
  (∀ (s : State) (v : Via) (d : Fin 4) (idx : Fin 8) (w : RWin), served s.mach v (some (partOf s.mach d.val)) 0x513 →
    let ok := w.unit = 0xF8 ∨ (0xE0 ≤ w.unit ∧ w.unit < 0xF0 ∧ wellDie (w.unit - 0xE0) = d.val)
    (w.enable = true → ¬ ok ∨ 4 ≤ w.ops → exec (.rwinSet v d idx w) s = nextMach s (answer v .range s.mach)) ∧
    (w.enable = false ∨ (ok ∧ w.ops < 4) → exec (.rwinSet v d idx w) s = nextMach s (answer v .ok
      (onDie d.val (fun x => { x with
        rwins := tput noWindow x.rwins idx.val (if w.enable = true then w else noWindow) }) s.mach)))) ∧
  (∀ (s : State) (v : Via) (p : Fin 4) (coll : Nat), served s.mach v (some p.val) 0x514 →
    exec (.collAbort v p coll) s = nextMach s (
      if planOf s.mach p.val = none then answer v .badState s.mach
      else if (collsOf s.mach p.val).all (fun c => c.index != coll) = true then answer v .range s.mach
      else answer v .ok (abortMember s.fuses p.val
        { cause := 4, mod := s.mach.moduleId, die := p.val, coll := coll
          step := (part s.mach p.val).step % 65536 } s.mach)))

/-- The clock commands (R520 to R526, R530 to R537): the loss of the reference is counted and told once; a new target
whose step differs from the step wanted before, or from CURRENT without a pending change, begins a change, which takes effect at once where no plan runs and the standby
PLLs are locked; a droop stretches each of its periods by at most half a nominal one and the other dies of the partition
hear of it; a die stretches until it has caught up; a monitored region adds its window to its counters. -/
def Obligations.ClockCommandsResult : Prop :=
  (∀ s : State, exec .refLoss s = nextMach s (if s.mach.clk.refLost = true then s.mach else
    raiseEvt 0x0020 1 iModule 0 (bump .clkRefloss iModule
      { s.mach with clk := { s.mach.clk with refLost := true } }))) ∧
  (∀ s : State, exec .refValid s = nextMach s { s.mach with clk := { s.mach.clk with refLost := false } }) ∧
  (∀ (s : State) (p t : Fin 4),
    let m := onPart p.val (fun q => { q with target := t.val }) s.mach
    let w := (wanted m (part m p.val)).1
    exec (.clkTargetWrite p t) s = nextMach s (if w = (wanted s.mach (part s.mach p.val)).1 ∧
        (w = (part s.mach p.val).cur ∨ (part s.mach p.val).clkPend = true) then m
      else onPart p.val (fun q => { q with clkPend := decide (w ≠ q.cur), stbyLock := false }) m)) ∧
  (∀ (s : State) (p : Fin 4),
    let w := wanted s.mach (part s.mach p.val)
    let m := onPart p.val (fun q => { q with stbyLock := decide (w.1 ≠ q.cur) }) s.mach
    (runs m p.val = true → exec (.pllLock p) s = nextMach s m) ∧
    (runs m p.val = false → (part m p.val).clkPend = true → (part m p.val).stbyLock = true →
      wanted m (part m p.val) = w →
      exec (.pllLock p) s = nextMach s (onPart p.val (fun q => { q with
        cur := w.1, clkPend := false, stbyLock := false, setBy := w.2 }) m))) ∧
  (∀ (s : State) (d : Fin 4) (l : List Nat),
    let half := halfPeriod (part s.mach (partOf s.mach d.val)).cur
    exec (.droop d l) s = nextMach s (bumpBy .clkStretch (iDie d.val) 0 l.length
      (addStretch d.val ((l.map (fun x => min x half)).sum) s.mach))) ∧
  (∀ (s : State) (d : Fin 4) (periods : Nat),
    let half := halfPeriod (part s.mach (partOf s.mach d.val)).cur
    let gap := (die s.mach d.val).told - (die s.mach d.val).stretch
    let n := min periods ((gap + half - 1) / half)
    exec (.sympatheticStretch d periods) s = nextMach s (bumpBy .clkSymp (iDie d.val) 0 n
      (addStretch d.val (min gap (n * half)) s.mach))) ∧
  (∀ (s : State) (d : Fin 4) (r : Fin 13) (hist : List Nat) (duty : Nat), monitored s.mach d.val r.val = true →
    let i := iRegion d.val r.val
    let m := bumpBy .clkDutyErr i 0 duty
      ((List.range 16).foldl (fun m b => bumpBy .clkJhist i b (hist.getD b 0) m) s.mach)
    let ends := hist.getD 0 0 + hist.getD 15 0
    let n := if m.clk.dutyThr < duty then raiseEvt 0x0022 1 i duty m else m
    exec (.clkMonitorWindow d r hist duty) s =
      nextMach s (if n.clk.jitThr < ends then raiseEvt 0x0023 1 i ends n else n))

/-- Module time (R541 to R543, R545, R546, R551, Table 12-4): a marker takes the next number of its port; an offset to
the PTP master enters the mean of the last second; servo_update() moves the state of MTIME, steps it by the offset where
no plan runs and it is FREE or far off, and otherwise sets the rate from the median of the ports, PTP and the integral,
with one event while it is far off; the offsets of the ports are used once. -/
def Obligations.ModuleTimeResult : Prop :=
  (∀ (s : State) (k : Fin 16), (port s.mach k.val).active = true →
    let n := (mport s.mach k.val).seq
    exec (.timeMarkerSend k) s = nextMach s (sendLocal k.val none ([1, 0] ++ leBytes 2 n ++ zeros 28)
      (onMport k.val (fun x => { x with seq := (n + 1) % 65536 }) s.mach))) ∧
  (∀ (s : State) (offset : Int), s.mach.clk.cfg.ptpEn = true →
    let l := lastSecond s.mach.clk.wall s.mach.clk.ptp ++ [(s.mach.clk.wall, offset)]
    exec (.ptpSync offset) s = nextMach s { s.mach with clk := { s.mach.clk with
      ptp := l, lastSync := some s.mach.clk.wall, ptpOfs := mean (l.map (fun y => y.2)) } }) ∧
  (∀ s : State,
    let c := s.mach.clk
    let l := lastSecond c.wall c.ptp
    let n : Mach := { s.mach with clk := { c with
      ptpOfs := if ptpValid s.mach = true ∧ l ≠ [] then mean (l.map (fun y => y.2)) else c.ptpOfs
      peers := (usedPorts s.mach).foldl (fun a k => a + 2 ^ k) 0 } }
    let m := moveState (sourceOfs n).isSome (lockOk n) n
    let thr : Int := (m.clk.cfg.stepThr * 256000 : Nat)
    let done (m : Mach) : Mach := (List.range 16).foldl (fun m k =>
      onMport k (fun x => { x with valid := !x.fresh.isEmpty, fresh := [] }) m) m
    (sourceOfs n = none → m.clk.st = 3 → exec .servoUpdate s = nextMach s (done m)) ∧
    (sourceOfs n = none → m.clk.st ≠ 3 → exec .servoUpdate s = nextMach s (done (servoRate m))) ∧
    (∀ ofs src, sourceOfs n = some (ofs, src) → anyRuns m = false → c.st = 0 ∨ ofs < -thr ∨ thr < ofs →
      exec .servoUpdate s = nextMach s (done (stepTime ofs src m))) ∧
    (∀ ofs src, sourceOfs n = some (ofs, src) → anyRuns m = true ∨ c.st ≠ 0 → -thr ≤ ofs → ofs ≤ thr →
      exec .servoUpdate s = nextMach s (done
        { servoRate m with clk := { (servoRate m).clk with farTold := false } })) ∧
    (∀ ofs src, sourceOfs n = some (ofs, src) → anyRuns m = true → ofs < -thr ∨ thr < ofs →
      (servoRate m).clk.farTold = false → exec .servoUpdate s = nextMach s (done (raiseEvt 0x0024 0 iModule
        (twos 64 (ofs / 256)) { servoRate m with clk := { (servoRate m).clk with farTold := true } }))))

/-- The session commands (R561, R562, R604 to R606, R633, R649): SESS_OPEN gives the lowest free entry its ID,
SESS_TRUNCATE shortens the context of an IDLE session and folds its chain, SESS_CLOSE frees an IDLE or PARKED session and
its generation advances, SESS_STATUS answers it; an ID of another generation is STALE, and a swap holds a truncation. -/
def Obligations.SessionCommandsResult : Prop :=
  (∀ (s : State) (v : Via) (p : Fin 4) (chan : Option Nat), serves s.mach v p.val 0x301 →
    let m := noteCommand v p.val 0x301 s.mach
    let i := lowestFree (fun s => s.st == .free) 0 (part m p.val).srv.sess
    let n := onSess p.val i (fun s => { gen := s.gen, st := .idle, channel := chan }) m
    (∀ c, chan = some c → c < (((part m p.val).sec.policy).map (fun y => y.maxChannels)).getD 0) → i < 65536 →
    exec (.sessOpen v p chan) s =
      nextMach s (complete v .ok 0 (.fields [("SESSION", sessId (sess n p.val i).gen i)]) n)) ∧
  (∀ (s : State) (v : Via) (p : Fin 4) (sid i : Nat), serves s.mach v p.val 0x302 →
    let m := noteCommand v p.val 0x302 s.mach
    findSess m p.val sid = some i →
    exec (.sessClose v p sid) s = nextMach s (
      if (sess m p.val i).st = .idle ∨ (sess m p.val i).st = .parked then
        answer v .ok (onSess p.val i Session.freed m)
      else answer v .badState m)) ∧
  (∀ (s : State) (v : Via) (p : Fin 4) (sid newL i : Nat), serves s.mach v p.val 0x306 →
    let m := noteCommand v p.val 0x306 s.mach
    findSess m p.val sid = some i →
    ((sess m p.val i).st ≠ .idle ∨ swapping m p.val = true →
      exec (.sessTruncate v p sid newL) s = nextMach s (answer v .badState m)) ∧
    ((sess m p.val i).st = .idle → swapping m p.val = false →
      exec (.sessTruncate v p sid newL) s = nextMach s (
        if newL < (sess m p.val i).len then
          complete v .ok 0 (.fields [("L", newL)]) (onSess p.val i (fun s => { s with
            len := newL, log := s.log.take newL, again := []
            chain := sha256 ([3] ++ digestBytes s.chain ++ leBytes 4 newL) }) m)
        else answer v .range m))) ∧
  (∀ (s : State) (v : Via) (p : Fin 4) (sid i : Nat), served s.mach v (some p.val) 0x309 →
    isHome s.mach p.val = true → (part s.mach p.val).st = .running ∨ (part s.mach p.val).st = .stopped →
    findSess s.mach p.val sid = some i →
    let x := sess s.mach p.val i
    exec (.sessStatus v p sid) s = nextMach s (complete v .ok 0
      (.fields [("STATE", x.st.ctorIdx), ("L", x.len), ("DIGEST", x.digest.toNat)]) s.mach)) ∧
  (∀ (s : State) (v : Via) (p : Fin 4) (sid newL : Nat), findSess s.mach p.val sid = none → v.caller = .journal →
    (serves s.mach v p.val 0x302 → exec (.sessClose v p sid) s = nextMach s (answer v .stale s.mach)) ∧
    (serves s.mach v p.val 0x306 → exec (.sessTruncate v p sid newL) s = nextMach s (answer v .stale s.mach)))

/-- The request commands (R561 to R563, R577, R581, R590, R594, R595, R608, R648, R649, R704): REQ_SUBMIT opens a request
on an IDLE session, on a channel with an envelope whose tag holds and whose counter has grown; of one that the journal submits, the prompt is that of its TOKENS
entry;
REQ_CANCEL sets the CANCEL bit and the slot mask, ends the request CANCELLED, and one that has committed nothing leaves the context as it was; REQ_STATUS answers the
state, the status, the sequence number and the length of the context. -/
def Obligations.RequestCommandsResult : Prop :=
  (∀ (s : State) (v : Via) (p : Fin 4) (r : ReqParams) (tokens : List Nat) (i : Nat) (sv : Serve),
    serves s.mach v p.val 0x303 →
    let m := noteCommand v p.val 0x303 s.mach
    let x := sess m p.val i
    let k (c : Nat) : Channel := tget {} (part m p.val).sec.channels c
    let j := lowestFree (fun y => y.st == .free) 0 (part m p.val).srv.reqs
    findSess m p.val r.session = some i → serveOf m p.val = some sv →
    (x.st ≠ .idle ∨ x.req.isSome = true → exec (.reqSubmit v p r tokens) s = nextMach s (answer v .badState m)) ∧
    (x.st = .idle → x.req = none → submitBad m p.val sv x r = true →
      exec (.reqSubmit v p r tokens) s = nextMach s (answer v .range m)) ∧
    (∀ c, x.st = .idle → x.req = none → submitBad m p.val sv x r = false → x.channel = some c →
      v.caller ≠ .journal → openEnvelope m (k c) r = none →
      exec (.reqSubmit v p r tokens) s = nextMach s (answer v .denied (bump .secEnvReject (iPart p.val) m))) ∧
    (x.st = .idle → x.req = none → submitBad m p.val sv x r = false → x.channel = none →
      v.caller ≠ .journal → r.stopLens.all (fun n => decide (n ≤ 16)) = true →
      exec (.reqSubmit v p r tokens) s =
        nextMach s (if j < 4096 then
          openRequest v p.val i j r (wordsOf r.promptLen (peeks m.mem.host r.promptAddr (4 * r.promptLen))) m
        else answer v .full m)) ∧
    (∀ c n l, x.st = .idle → x.req = none → submitBad m p.val sv x r = false → x.channel = some c →
      v.caller ≠ .journal → openEnvelope m (k c) r = some (n, l) → (withStops r l).stopLens.all (fun n => decide (n ≤ 16)) = true → j < 4096 →
      exec (.reqSubmit v p r tokens) s = nextMach s (openRequest v p.val i j (withStops r l) (wordsOf r.promptLen (l.drop 648))
        (onPart p.val (fun q => { q with
          sec := { q.sec with channels := tmod {} q.sec.channels c (fun k => { k with last := some n }) } }) m))) ∧
    (x.st = .idle → x.req = none → submitBad m p.val sv x r = false → v.caller = .journal →
      r.stopLens.all (fun n => decide (n ≤ 16)) = true → j < 4096 →
      exec (.reqSubmit v p r tokens) s = nextMach s (openRequest v p.val i j r tokens m))) ∧
  (∀ (s : State) (v : Via) (p : Fin 4) (rid i : Nat), serves s.mach v p.val 0x304 →
    let m := noteCommand v p.val 0x304 s.mach
    let r := req m p.val i
    findReq m p.val rid = some i →
    (r.st = .free → exec (.reqCancel v p rid) s = nextMach s (answer v .badState m)) ∧
    (r.st ≠ .free → r.ended = true ∨ r.cancel = true →
      exec (.reqCancel v p rid) s = nextMach s (answer v .ok m)) ∧
    (r.st ≠ .free → r.ended = false → r.cancel = false →
      let n := onReq p.val i (fun x => { x with cancel := true })
        (onSrv p.val (fun x => { x with mask := (slotsOfReq m p.val i).foldr insertNat x.mask }) m)
      let early := (r.st == .queued || r.st == .prefill) && r.tokens == [] && (sess n p.val r.sess).again == []
      exec (.reqCancel v p rid) s = nextMach s (answer v .ok (endRequest p.val i none 0 0 2 (if early = true then
        onSess p.val r.sess (fun x => { x with len := r.baseLen, log := x.log.take r.baseLen }) n else n))))) ∧
  (∀ (s : State) (v : Via) (p : Fin 4) (rid i : Nat), served s.mach v (some p.val) 0x305 →
    isHome s.mach p.val = true → (part s.mach p.val).st = .running ∨ (part s.mach p.val).st = .stopped →
    findReq s.mach p.val rid = some i →
    let r := req s.mach p.val i
    exec (.reqStatus v p rid) s = nextMach s (complete v .ok 0 (.fields [("STATE", r.st.ctorIdx)
      , ("STATUS", reqStatusOf r), ("SEQ", r.seq), ("CTX_LEN", (sess s.mach p.val r.sess).len)]) s.mach))

/-- Park and unpark (R369, R596 to R603, R605, R633, R650, R780): PARK takes an IDLE session whose image has room, on the
cistern only with the tank's reserve, and PARK_COMMIT replaces its directory entry in one commit; UNPARK takes a PARKED
session under the plan and weights of its image, and UNPARK_CHECK makes it IDLE again where the image is as recorded;
both wait for the responses of members on other modules, and a response that never comes ends them with IO_ERROR. -/
def Obligations.ParkCommandsResult : Prop :=
  (∀ (s : State) (v : Via) (p : Fin 4) (sid i : Nat) (dest : Fin 2) (blocks : List Nat),
    serves s.mach v p.val 0x307 →
    let m := noteCommand v p.val 0x307 s.mach
    let x := sess m p.val i
    let img : Image := { len := x.len, chain := x.chain, log := x.log, members := []
                         program := ((planOf m p.val).map (fun pl => pl.digest)).getD 0, wset := wsetOf m p.val
                         dest := dest.val, blocks := blocks }
    let n := askMembers s.fuses p.val v (onSess p.val i (fun s => { s with
      st := .parking, writing := some img, via := some v, noResp := false }) m)
    findSess m p.val sid = some i →
    (x.st ≠ .idle ∨ swapping m p.val = true →
      exec (.park v p sid dest blocks) s = nextMach s (answer v .badState m)) ∧
    (x.st = .idle → swapping m p.val = false →
      (dest.val = 0 → m.pwr.cistern = 3 → exec (.park v p sid dest blocks) s = nextMach s (answer v .ioError m)) ∧
      (dest.val = 1 ∨ m.pwr.cistern ≠ 3 →
        (parkRoom m p.val dest.val blocks = false →
          exec (.park v p sid dest blocks) s = nextMach s (answer v .noSpace m)) ∧
        (parkRoom m p.val dest.val blocks = true → dest.val = 0 → reserveOk m (.park p.val sid) = false →
          exec (.park v p sid dest blocks) s = nextMach s (answer v .holdupLow (bump .pwrHoldupLow iModule m))) ∧
        (parkRoom m p.val dest.val blocks = true → dest.val = 1 ∨ reserveOk m (.park p.val sid) = true →
          exec (.park v p sid dest blocks) s =
            nextMach s (if dest.val = 0 then askCommit (.park p.val sid) n else n))))) ∧
  (∀ (s : State) (p : Fin 4) (sid i : Nat) (members : List Digest) (img : Image),
    findSess s.mach p.val sid = some i → (sess s.mach p.val i).writing = some img →
    (sess s.mach p.val i).st = .parking → img.dest ≠ 0 ∨ commitReady s.mach (.park p.val sid) = true →
    (awaits s.mach p.val i = true → exec (.parkCommit p sid members) s = nextMach s s.mach) ∧
    (awaits s.mach p.val i = false → (sess s.mach p.val i).noResp = true → exec (.parkCommit p sid members) s =
      nextMach s (loseSess p.val i .idle (if img.dest = 0 then endCommit s.mach else s.mach))) ∧
    (awaits s.mach p.val i = false → (sess s.mach p.val i).noResp = false →
    let d := sha256 (members.flatMap digestBytes)
    let m := if img.dest = 0 then endCommit (onPart p.val (fun q => { q with dirty := [] }) s.mach) else s.mach
    exec (.parkCommit p sid members) s = nextMach s (answerSess p.val i .ok (.bytes (digestBytes d))
      (bump .srvParks (iPart p.val) (onSess p.val i (fun s => { s with
        st := .parked, digest := d, image := some { img with members := members }, writing := none
        log := [] }) m))))) ∧
  (∀ (s : State) (v : Via) (p : Fin 4) (sid i : Nat) (program wset : Digest), serves s.mach v p.val 0x308 →
    let m := noteCommand v p.val 0x308 s.mach
    findSess m p.val sid = some i →
    ((sess m p.val i).st ≠ .parked ∨ swapping m p.val = true →
      exec (.unpark v p sid program wset) s = nextMach s (answer v .badState m)) ∧
    ((sess m p.val i).st = .parked → swapping m p.val = false →
      exec (.unpark v p sid program wset) s = nextMach s (
        if program = ((planOf m p.val).map (fun pl => pl.digest)).getD 0 ∧ wset = wsetOf m p.val then
          askMembers s.fuses p.val v
            (onSess p.val i (fun s => { s with st := .unparking, via := some v, noResp := false }) m)
        else answer v .planMismatch m))) ∧
  (∀ (s : State) (p : Fin 4) (sid i : Nat) (readable : Bool) (members : List Digest) (img : Image),
    findSess s.mach p.val sid = some i → (sess s.mach p.val i).image = some img →
    (sess s.mach p.val i).st = .unparking → awaits s.mach p.val i = false →
    ((sess s.mach p.val i).noResp = true →
      exec (.unparkCheck p sid readable members) s = nextMach s (loseSess p.val i .parked s.mach)) ∧
    ((sess s.mach p.val i).noResp = false →
    let back (st : Status) (m : Mach) : Mach :=
      answerSess p.val i st .empty (onSess p.val i (fun s => { s with st := .parked }) m)
    let m := fetchRead p.val 2 (4096 * img.blocks.headD 0) (draw s.mach).1 (members.getLastD 0) (draw s.mach).2
    let good := members = img.members ∧ sha256 (members.flatMap digestBytes) = (sess m p.val i).digest
    (readable = false ∨ (img.dest = 0 ∧ s.mach.pwr.cistern = 3) →
      exec (.unparkCheck p sid readable members) s = nextMach s (back .ioError s.mach)) ∧
    (readable = true → img.dest ≠ 0 ∨ s.mach.pwr.cistern ≠ 3 → ¬ good →
      exec (.unparkCheck p sid readable members) s =
        nextMach s (back .digestMismatch (bump .srvDigestFail (iPart p.val) m))) ∧
    (readable = true → img.dest ≠ 0 ∨ s.mach.pwr.cistern ≠ 3 → good →
      exec (.unparkCheck p sid readable members) s = nextMach s (answerSess p.val i .ok (.fields [("L", img.len)])
        (bump .srvUnparks (iPart p.val) (onSess p.val i (fun s => { s with
          st := .idle, len := img.len, chain := img.chain, log := img.log }) m))))))

/-- The serving events (R565, R568, R571, R573, R583 to R585, R591, R648, R705): at COMMIT the records of
earlier commits are written where their rings have room, the candidates of the step are committed, requests whose prompt
is context hold decode slots, and the manifest LEAD steps ahead is sealed, once a step; a member stores its manifest, and
a hold that waits for it clears; at a layer boundary the slot mask is read; the waiting records of a request are written
in order while its ring has room. -/
def Obligations.ServingEventsResult : Prop :=
  (∀ (s : State) (p : Fin 4) (block : List Candidate) (sv : Serve), serveOf s.mach p.val = some sv →
    (sv.home = true → stepping s.mach p.val = true →
      (part s.mach p.val).srv.commitStep ≠ some (part s.mach p.val).step →
      let n := (part s.mach p.val).step
      let m := block.foldl (commitOne p.val n sv.maxCtx sv.draftK) (writeDue s.fuses p.val s.mach)
      exec (.commitPoint p block) s = nextMach s (sealAt p.val (n + sv.lead) sv (onSrv p.val (fun x => { x with
        commitStep := some n }) ((openReqs m p.val).foldl (fun m i => toDecode p.val i m) m)))) ∧
    (sv.home = false ∨ stepping s.mach p.val = false
        ∨ (part s.mach p.val).srv.commitStep = some (part s.mach p.val).step →
      exec (.commitPoint p block) s = nextMach s s.mach)) ∧
  (∀ (s : State) (p : Fin 4) (f : Manifest) (wall : Nat), (serveOf s.mach p.val).isSome = true →
    (part s.mach p.val).srv.got.any (fun g => g.step == f.step) = false →
    let m := onSrv p.val (fun x => { x with got := x.got ++ [f] }) s.mach
    exec (.manifestReceive p f wall) s = nextMach s (if f.step = (part s.mach p.val).step then
      clearCause p.val wall (fun c => c.code == 1 && c.desc == 0xFFFFFF) m else m)) ∧
  (∀ (s : State) (p : Fin 4) (cycle : Nat) (sv : Serve), serveOf s.mach p.val = some sv →
    exec (.layerBoundary p cycle) s = nextMach s (
      if stepping s.mach p.val = true ∧ sv.rungs.any (fun r => r.variant == (part s.mach p.val).variant
          && r.bounds.any (fun l => l.contains cycle)) = true then
        onSrv p.val (fun x => { x with masked := x.mask }) s.mach
      else s.mach)) ∧
  (∀ (s : State) (p : Fin 4) (rid i : Nat) (o : OutRec) (l : List OutRec), findReq s.mach p.val rid = some i →
    (req s.mach p.val i).out = o :: l →
    let r := req s.mach p.val i
    let room := consumed s.mach r.par.ringAddr + r.par.ringEntries
    let m := onReq p.val i (fun x => { x with
      out := l, st := if l = [] ∧ x.st = .outWait ∧ x.ended = false then .decode else x.st }) (putRecord p.val i o s.mach)
    let full := decide (o.seq + 1 = consumed m r.par.ringAddr + r.par.ringEntries - 16)
    let n := if o.last then afterLast s.fuses p.val i o m else m
    (room ≤ o.seq → exec (.outputRecordWrite p rid) s = nextMach s s.mach) ∧
    (o.seq < room → exec (.outputRecordWrite p rid) s = nextMach s (writeWaiting s.fuses p.val i l.length
      (if (bitAt r.par.rflags 1 && (o.last || full)) = true then interrupt p.val 1 n else n)))) ∧
  (∀ (s : State) (p : Fin 4) (rid i : Nat), findReq s.mach p.val rid = some i → (req s.mach p.val i).out = [] →
    exec (.outputRecordWrite p rid) s = nextMach s s.mach)

/-- The weight commands (R617, R618, R621, R622, R624, R627 to R633, R636): a fetch or a stage checks its manifest in the
order of R617 and begins a job over its entries, keeping what is verified already; WEIGHTS_SWAP arms the swap at its
barrier; pace, abort, status and target act on the job, the registers and the table of targets; a command that the state
does not allow answers BAD_STATE. -/
def Obligations.WeightsCommandsResult : Prop :=
  (∀ (s : State) (v : Via) (p : Fin 4) (w : WPayload) (x : WManifest),
    let q := part s.mach p.val
    (served s.mach v (some p.val) 0x401 →
      let same := q.wgt.cur == some x && q.wgt.mkey == w.mkey && q.wgt.phase == 0
      let ok := if same then q.wgt.verified else []
      let j : Job := { man := x, pay := w, via := v, chunks := ok.map (fun i => (i, { issued := true, ok := true }))
                       bucket := bucketDepth w.rateCap, at_ := s.mach.clk.wall }
      ((q.st ≠ .loaded ∧ q.st ≠ .stopped) ∨ weightsBusy s.mach p.val = true →
        exec (.weightsFetch v p w x) s = nextMach s (answer v .badState s.mach)) ∧
      (q.st = .loaded ∨ q.st = .stopped → weightsBusy s.mach p.val = false →
        (payloadOk q false w = false → exec (.weightsFetch v p w x) s = nextMach s (answer v .range s.mach)) ∧
        (∀ st, payloadOk q false w = true → checkManifest s.mach p.val w x = some st →
          exec (.weightsFetch v p w x) s = nextMach s (answer v st s.mach)) ∧
        (payloadOk q false w = true → checkManifest s.mach p.val w x = none →
          exec (.weightsFetch v p w x) s = nextMach s (maybeDone p.val (onWgt p.val (fun y => { y with
            st := 1, phase := 0, groups := 0, mkey := w.mkey, digest := x.wset, cur := some x, verified := ok
            total := x.entries.length, done := ok.length, maxOut := w.maxOut, rateCap := w.rateCap
            job := some j }) s.mach))))) ∧
    (served s.mach v (some p.val) 0x402 →
      let j : Job := { man := x, pay := w, via := v, bucket := bucketDepth w.rateCap, at_ := s.mach.clk.wall }
      (q.st = .empty ∨ weightsBusy s.mach p.val = true →
        exec (.weightsStage v p w x) s = nextMach s (answer v .badState s.mach)) ∧
      (q.st ≠ .empty → weightsBusy s.mach p.val = false → payloadOk q true w = true →
        checkManifest s.mach p.val w x = none →
        exec (.weightsStage v p w x) s = nextMach s (
          if w.destLen * (if w.dest = 0 then 4096 else 1) < totalBytes x then answer v .noSpace s.mach
          else onWgt p.val (fun y => { y with
            stage := 1, staged := none, total := x.entries.length, done := 0, maxOut := w.maxOut, rateCap := w.rateCap
            job := some j }) s.mach)))) ∧
  (∀ (s : State) (v : Via) (p : Fin 4) (barrier ctx : Nat) (sv : Serve) (y : WManifest × WPayload),
    served s.mach v (some p.val) 0x403 →
    let q := part s.mach p.val
    serveOf s.mach p.val = some sv → q.wgt.staged = some y → sv.home = true → q.st = .running → q.wgt.stage = 2 →
    q.srv.sess.any (fun z => z.2.st == .parking || z.2.st == .unparking) = false → weightsBusy s.mach p.val = false →
    barrier < 2 ^ 48 → ctx ≤ 1 → (q.wgt.cur.map (sameShape y.1)).getD false = true →
    journalRefuses s.mach p.val v = false →
    let first := firstUnsealed s.mach p.val sv.lead
    (q.wgt.phase ≠ 2 → v.caller ≠ .journal → exec (.weightsSwap v p barrier ctx) s =
      nextMach s (onWgt p.val (fun w => { w with
        swap := some v, ctx := ctx, barrier := max barrier first, groups := 0 }) s.mach)) ∧
    (q.wgt.phase = 2 → v.caller ≠ .journal → exec (.weightsSwap v p barrier ctx) s =
      nextMach s (againGroups (onWgt p.val (fun w => { w with swap := some v, ctx := ctx })
        (journalCommand p.val 0x403 (payloadOf s.mach v) (stepNow s.mach p.val) (posNow s.mach p.val) s.mach)) p.val))) ∧
  (∀ (s : State) (v : Via) (p : Fin 4), (part s.mach p.val).wgt.job = none →
    (∀ a b, served s.mach v (some p.val) 0x404 →
      exec (.weightsPace v p a b) s = nextMach s (answer v .badState s.mach)) ∧
    (served s.mach v (some p.val) 0x405 → exec (.weightsAbort v p) s = nextMach s (answer v .badState s.mach))) ∧
  (∀ (s : State) (v : Via) (p : Fin 4) (j : Job), (part s.mach p.val).wgt.job = some j →
    (∀ a b, served s.mach v (some p.val) 0x404 →
      exec (.weightsPace v p a b) s = nextMach s (if paceOk a b = true then
        answer v .ok (onWgt p.val (fun w => { w with
          maxOut := a, rateCap := b
          job := some { (j.fill (part s.mach p.val).wgt.rateCap s.mach.clk.wall) with
            bucket := min (j.fill (part s.mach p.val).wgt.rateCap s.mach.clk.wall).bucket (bucketDepth b) } }) s.mach)
        else answer v .range s.mach)) ∧
    (served s.mach v (some p.val) 0x405 →
      exec (.weightsAbort v p) s = nextMach s (answer v .ok (endJob p.val j none .aborted s.mach)))) ∧
  (∀ (s : State) (v : Via) (p : Fin 4), served s.mach v (some p.val) 0x406 →
    let w := (part s.mach p.val).wgt
    exec (.weightsStatus v p) s = nextMach s (complete v .ok 0 (.fields [("WGT_STATE", w.stateWord)
      , ("WGT_PROGRESS", w.progressWord), ("WGT_DIGEST", w.digest.toNat), ("WGT_SDIGEST", w.sdigest.toNat)]) s.mach)) ∧
  (∀ (s : State) (v : Via) (p : Fin 4) (t : Fin 16) (addr service : Nat) (nqn : List Byte),
    served s.mach v (some p.val) 0x407 →
    exec (.weightsTarget v p t addr service nqn) s = nextMach s (
      if (part s.mach p.val).wgt.job.isSome = true then answer v .badState s.mach
      else if 2 ^ 128 ≤ addr ∨ 2 ^ 64 ≤ service ∨ 223 < nqn.length then answer v .range s.mach
      else answer v .ok (onWgt p.val (fun w => { w with
        targets := tput {} w.targets t.val { addr := addr, service := service, nqn := nqn } }) s.mach)))

/-- The events of a job of the weights (R618, R620, R622, R623, R626, R627, R632, R636): the next chunk in entry order is
issued within MAX_OUT and the rate; a chunk that arrives at a gateway that is free for it is decrypted, checked, placed and
counted, or read again once; a Read without
completion or with an error status is retried three times; OVERWRITE reads the entries of a layer group back from staging,
and the group is done when all are verified. -/
def Obligations.ChunkEventsResult : Prop :=
  (∀ (s : State) (p : Fin 4) (j : Job) (i : Nat) (e : WEntry), (part s.mach p.val).wgt.job = some j →
    (List.range j.man.entries.length).find? (fun i => !(tget {} j.chunks i).issued) = some i →
    j.man.entries[i]? = some e →
    let w := (part s.mach p.val).wgt
    let b := (j.fill w.rateCap s.mach.clk.wall).bucket
    let k : Job := { j.fill w.rateCap s.mach.clk.wall with
      out := j.out + e.length, bucket := if w.rateCap = 0 then b else b - 1000 * e.length
      chunks := tmod {} j.chunks i (fun c => { c with issued := true }) }
    exec (.chunkIssue p) s = nextMach s (
      if w.maxOut < j.out + e.length ∨ (w.rateCap ≠ 0 ∧ b < 1000 * e.length) then s.mach
      else sendReads e (onWgt p.val (fun w => { w with job := some k }) s.mach))) ∧
  (∀ (s : State) (p : Fin 4) (j : Job) (i : Nat) (e : WEntry) (cipher : List Byte),
    (part s.mach p.val).wgt.job = some j → j.man.entries[i]? = some e → (tget {} j.chunks i).issued = true →
    (tget {} j.chunks i).ok = false → (chunkBytes s.mach e cipher).length = e.length →
    let l := chunkBytes s.mach e cipher
    let tagOk := (openChunk (tget {} (part s.mach p.val).sec.models j.pay.mkey) j.man e l).1
    let plain := (openChunk (tget {} (part s.mach p.val).sec.models j.pay.mkey) j.man e l).2
    let stage := decide ((part s.mach p.val).wgt.stage = 1)
    gatewayFree s.mach (chunkDie s.mach p.val stage e) = true →
    let y := if stage then (stageChunk p.val j i l s.mach, true) else placeChunk s.fuses p.val e plain s.mach
    let m := countFails p.val e tagOk plain (onWgt p.val (fun w => { w with
      job := w.job.map (fun j => { j with out := j.out - e.length }) }) y.1)
    (y.2 = true → chunkFails e tagOk plain = none →
      exec (.chunkVerify p i true cipher) s = nextMach s (maybeDone p.val (onWgt p.val (fun w => { w with
        done := w.done + 1, verified := if stage then w.verified else insertNat i w.verified })
        (bump .wgtChunks (iPart p.val) (onChunk p.val i (fun c => { c with ok := true }) m))))) ∧
    (∀ st, y.2 = true → chunkFails e tagOk plain = some st → (tget {} j.chunks i).again = false →
      exec (.chunkVerify p i true cipher) s =
        nextMach s (onChunk p.val i (fun c => { c with issued := false, again := true }) m)) ∧
    (∀ st, y.2 = true → chunkFails e tagOk plain = some st → (tget {} j.chunks i).again = true →
      exec (.chunkVerify p i true cipher) s = nextMach s (endJob p.val j (some i) st m)) ∧
    (y.2 = false → exec (.chunkVerify p i true cipher) s = nextMach s (endJob p.val j (some i) .ioError m))) ∧
  (∀ (s : State) (p : Fin 4) (i : Nat) (x : WManifest) (w : WPayload) (e : WEntry) (cipher : List Byte),
    (part s.mach p.val).wgt.job = none → swapEntry s.mach p.val i = some (x, w, e) →
    let k := tget {} (part s.mach p.val).sec.models w.mkey
    let tagOk := (openChunk k x e (stagedBytes s.mach p.val x w i e.length)).1
    let plain := (openChunk k x e (stagedBytes s.mach p.val x w i e.length)).2
    gatewayFree s.mach (chunkDie s.mach p.val false e) = true →
    let y := placeChunk s.fuses p.val e plain s.mach
    let m := countFails p.val e tagOk plain y.1
    (y.2 = true → chunkFails e tagOk plain = none →
      exec (.chunkVerify p i true cipher) s = nextMach s (bump .wgtChunks (iPart p.val) (onWgt p.val (fun w => { w with
        done := w.done + 1, verified := insertNat i w.verified }) m))) ∧
    (∀ st, y.2 = true → chunkFails e tagOk plain = some st →
      exec (.chunkVerify p i true cipher) s = nextMach s (swapFails p.val i st m)) ∧
    (y.2 = false → exec (.chunkVerify p i true cipher) s = nextMach s (swapFails p.val i .ioError m))) ∧
  (∀ (s : State) (p : Fin 4) (j : Job) (i : Nat) (e : WEntry), (part s.mach p.val).wgt.job = some j →
    j.man.entries[i]? = some e → (tget {} j.chunks i).issued = true → (tget {} j.chunks i).ok = false →
    exec (.readTimeout p i) s = nextMach s (if (tget {} j.chunks i).retries < 3 then
        bump .wgtIoRetry (iPart p.val) (sendReads e (onChunk p.val i (fun c => { c with
          retries := c.retries + 1 }) s.mach))
      else endJob p.val j (some i) .ioError s.mach)) ∧
  (∀ (s : State) (p : Fin 4) (i : Nat) (e : WManifest × WPayload × WEntry), (part s.mach p.val).wgt.job = none →
    swapEntry s.mach p.val i = some e →
    exec (.readTimeout p i) s = nextMach s (swapFails p.val i .ioError s.mach)) ∧
  (∀ (s : State) (p : Fin 4) (i : Nat) (cipher : List Byte),
    exec (.chunkVerify p i false cipher) s = exec (.readTimeout p i) s) ∧
  (∀ (s : State) (p : Fin 4) (y : WManifest × WPayload), (part s.mach p.val).wgt.staged = some y →
    (part s.mach p.val).wgt.phase = 2 → (part s.mach p.val).wgt.st = 4 →
    (part s.mach p.val).wgt.groups < groupCount s.mach p.val →
    (∀ (i : Nat) (e : WEntry), y.1.entries[i]? = some e → (groupTensors s.mach p.val).contains e.tensor = true →
      (part s.mach p.val).wgt.verified.contains i = true) →
    exec (.layerGroupDone p) s = nextMach s (onWgt p.val (fun w => { w with
      groups := w.groups + 1, verified := [] }) s.mach))

/-- The determinism commands (R645, R652 to R654, R660, R661, R665, R671, R689, Tables 15-8 to 15-10): DET_JOURNAL sets
or ends the journal of a plan that does not run, DET_REPLAY arms a replay on a LOADED plan whose digests agree,
PROV_CONFIG and PROV_SEAL act on the provenance rings, DET_TRUNCATE arms a point that has not passed under the consent of
the policy, DET_DISARM disarms one, and DET_STATUS answers. -/
def Obligations.DeterminismCommandsResult : Prop :=
  ∀ (s : State) (v : Via) (p : Fin 4),
    let q := part s.mach p.val
    (served s.mach v (some p.val) 0x601 →
      (∀ dest, quiet q.st = false → exec (.detJournal v p dest) s = nextMach s (answer v .badState s.mach)) ∧
      (quiet q.st = true → exec (.detJournal v p none) s = nextMach s (answer v .ok (onDet p.val (fun x => { x with
        journal := false, dest := none, jfull := false, pending := [] }) s.mach))) ∧
      (∀ d, quiet q.st = true → exec (.detJournal v p (some d)) s = nextMach s (if jdestOk q d = true then
        answer v .ok (onDet p.val (fun x => { x with
          journal := true, dest := some d, pos := 0, jfull := false }) s.mach)
        else answer v .range s.mach))) ∧
    (∀ (j : JHead) (pl : PlanImage), served s.mach v (some p.val) 0x602 → q.plan = some pl →
      (q.st ≠ .loaded → exec (.detReplay v p j) s = nextMach s (answer v .badState s.mach)) ∧
      (q.st = .loaded → exec (.detReplay v p j) s = nextMach s (
        if j.program ≠ pl.digest then answer v .planMismatch s.mach
        else if j.config ≠ configDigest s.fuses s.mach p.val then answer v .configMismatch s.mach
        else if j.chainOk = false then answer v .journalInvalid s.mach
        else answer v .ok (setSeed q.dies j.seed (onDet p.val (fun x => { x with replay := some j }) s.mach))))) ∧
    (∀ c : ProvCfg, served s.mach v (some p.val) 0x603 → exec (.provConfig v p c) s = nextMach s (
      if quiet q.st = false then answer v .badState s.mach
      else if provOk q c = false then answer v .range s.mach
      else answer v .ok (onProv p.val (fun x => { x with cfg := some c }) s.mach))) ∧
    (served s.mach v (some p.val) 0x604 →
      let y := closeBatch p.val s.mach
      exec (.provSeal v p) s = nextMach s (complete v .ok 0 (if y.2 = [] then .empty else .bytes y.2) y.1)) ∧
    (∀ t : TruncPayload, served s.mach v (some p.val) 0x605 →
      let open_ := q.det.trunc < 2 ∧ (q.st = .loaded ∨ q.st = .stopped ∨ (q.st = .running ∧ q.step < t.step))
      (consents s.mach p.val 2 = false → exec (.detTruncate v p t) s = nextMach s (answer v .denied s.mach)) ∧
      (consents s.mach p.val 2 = true → ¬ open_ →
        exec (.detTruncate v p t) s = nextMach s (answer v .badState s.mach)) ∧
      (consents s.mach p.val 2 = true → open_ → exec (.detTruncate v p t) s = nextMach s (
        if truncOk s.fuses s.mach p.val t = false then answer v .range s.mach
        else if t.dumpLen < dumpSize t then answer v .noSpace s.mach
        else answer v .ok (onDet p.val (fun x => { x with trunc := 1, point := some t, dumps := [] }) s.mach)))) ∧
    (served s.mach v (some p.val) 0x606 →
      let x := q.det
      exec (.detStatus v p) s = nextMach s (complete v .ok 0 (.fields ([("DET_STATE", x.stateWord)
        , ("CHAIN", x.chain.toNat), ("POSITION", x.pos)] ++ x.dumps.map (fun d => ("DUMP", d.toNat)))) s.mach)) ∧
    (served s.mach v (some p.val) 0x607 →
      exec (.detDisarm v p) s = nextMach s (answer v .ok (onDet p.val (fun x => if x.trunc = 1 then
        { x with trunc := 0, point := none } else x) s.mach)))

/-- TRUNCATE_POINT and TRUNCATE_SETTLE (R665 to R671): at the point of its step every station stops, its receive slots
and the beats on the mesh are gone and the causes asserted are kept; once what has started has completed, or SETTLE has
elapsed, the digests of the dumps are taken, the dump area is written and the partition halts with reason 11H. -/
def Obligations.TruncateEventsResult : Prop :=
  (∀ (s : State) (p : Fin 4) (t : TruncPayload), (part s.mach p.val).det.point = some t →
    (part s.mach p.val).det.trunc = 1 → stepping s.mach p.val = true → (part s.mach p.val).step = t.step →
    let ds := (part s.mach p.val).dies
    let m := onPart p.val (fun q => { q with inStep := false }) (onDet p.val (fun x => { x with
      trunc := 2, stopCauses := causeMask s.mach p.val
      settleEnd := s.mach.clk.wall + 1000 * t.settleUs }) s.mach)
    exec (.truncatePoint p) s = nextMach s (bump .detTruncs (iPart p.val) { m with
      stations := tmapIf {} (fun k => ds.contains (k / 256)) (fun s => { s with recvs := [] }) m.stations
      mesh := m.mesh.filter (fun b => !ds.contains b.dstDie) })) ∧
  (∀ (s : State) (p : Fin 4) (t : TruncPayload), (part s.mach p.val).det.point = some t →
    (part s.mach p.val).det.trunc = 2 →
    let q := part s.mach p.val
    let m := onDet p.val (fun x => { x with trunc := 3 })
      (if unsettled s.mach p.val = true then reachWall q.det.settleEnd s.mach else s.mach)
    let y := dumpAll s.fuses p.val t.regions m
    let n := writeDump t (onDet p.val (fun x => { x with dumps := y.2 }) y.1)
    let pend := n.stations.any (fun z => q.dies.contains (z.1 / 256) && z.2.sbd.any (fun d => d.2.state == .pending))
    exec (.truncateSettle p) s = nextMach s (haltPart s.fuses p.val
      { reason := 0x11, die := p.val, queue := 3, unit := 0, pidx := 0xFF, cycle := t.cycle, iaddr := none
        subcode := 0, arg := pack [(8, t.regions.length), (1, b2n pend), (39, 0)] 0, station := false
        issuer := none, causes := some q.det.stopCauses } n))

/-- Identity, assignment, enrolment, sessions, policies and attestation (R24, R678 to R690, R696, R717, R720, Tables 16-3
to 16-5, 16-8, 16-14): a command that needs a statement takes one that is signed and moves the change counter on, answers
STALE to an old counter and DENIED to any other fault; an accepted one assigns or releases dies, enrols the keys, or sets
the policy; a session opens on an ASSIGNED partition with the keys of its wellheads. -/
def Obligations.SecurityCommandsResult : Prop :=
  ∀ (s : State) (v : Via),
    (served s.mach v none 0x101 → exec (.secIdentity v) s = nextMach s (complete v .ok 0
      (.bytes (leBytes (Config.choice (2 ^ 80) % 3073) (Config.random (2 ^ 80)))) s.mach)) ∧
    (∀ (st : Statement) (o c : Nat), served s.mach v none 0x104 →
      (st.changeCtr ≠ s.mach.change → exec (.secEnroll v st o c) s = nextMach s (answer v .stale s.mach)) ∧
      (st.changeCtr = s.mach.change → authentic s.mach st 3 0xFF = false →
        exec (.secEnroll v st o c) s = nextMach s (answer v .denied (bump .secSigfail iModule s.mach))) ∧
      (authentic s.mach st 3 0xFF = true → exec (.secEnroll v st o c) s = nextMach s (answer v .ok
        { counted s.mach with operatorKey := some o, custodianKey := some c }))) ∧
    (∀ (st : Statement) (b : PartBody), served s.mach v none 0x103 → compositions.contains b.dies = true →
      (∀ q, q ∈ holders s.mach b.dies → (part s.mach q).sec.st = 0) →
      (assignOk s.fuses s.mach b = false →
        exec (.partitionSetAssign v st b) s = nextMach s (answer v .range s.mach)) ∧
      (assignOk s.fuses s.mach b = true → authentic s.mach st 1 (b.dies.headD 0) = true →
        exec (.partitionSetAssign v st b) s = nextMach s (answer v .ok (assign b (counted s.mach))))) ∧
    (∀ (st : Statement) (b : PartBody), served s.mach v none 0x103 → compositions.contains b.dies = true →
      b.restZero = true →
      let p := b.dies.headD 0
      ((part s.mach p).dies ≠ b.dies ∨ (part s.mach p).sec.st ≠ 1 →
        exec (.partitionSetRelease v st b) s = nextMach s (answer v .badState s.mach)) ∧
      ((part s.mach p).dies = b.dies → (part s.mach p).sec.st = 1 → authentic s.mach st 1 p = true →
        exec (.partitionSetRelease v st b) s = nextMach s (answer v .ok (beginTeardown p 1 (counted s.mach))))) ∧
    (∀ (p : Fin 4) (y : Policy) (sigOk : Bool), served s.mach v (some p.val) 0x105 →
      ((part s.mach p.val).sec.st ≠ 1 →
        exec (.secSessionOpen v p y sigOk) s = nextMach s (answer v .badState s.mach)) ∧
      ((part s.mach p.val).sec.st = 1 → sigOk = false →
        exec (.secSessionOpen v p y sigOk) s = nextMach s (answer v .denied s.mach)) ∧
      ((part s.mach p.val).sec.st = 1 → sigOk = true → policyOk y = true →
        exec (.secSessionOpen v p y sigOk) s = nextMach s (answer v .ok (sessionKeys s.fuses p.val (onPart p.val (fun q =>
          { q with sealedKey := some (s.mach.freeCtr + 1), sealedCtr := 0, sec := { q.sec with
              st := 2, policy := some y, session := Config.random s.mach.freeCtr % 2 ^ 64 } })
          { s.mach with freeCtr := s.mach.freeCtr + 2 }))))) ∧
    (∀ (p : Fin 4) (st : Statement) (y : Policy), served s.mach v (some p.val) 0x106 →
      ((part s.mach p.val).sec.st ≠ 2 →
        exec (.secPolicySet v p st y) s = nextMach s (answer v .badState s.mach)) ∧
      ((part s.mach p.val).sec.st = 2 → policyOk y = true → authentic s.mach st 2 p.val = true →
        exec (.secPolicySet v p st y) s = nextMach s (answer v .ok (onPart p.val (fun q => { q with
          sec := { q.sec with policy := some y } }) (counted s.mach))))) ∧
    (∀ (p : Fin 4) (nonce : BitVec 256), served s.mach v (some p.val) 0x102 →
      ((part s.mach p.val).sec.st ≠ 2 → exec (.secAttest v p nonce) s = nextMach s (answer v .badState s.mach)) ∧
      ((part s.mach p.val).sec.st = 2 →
        let y := signature s.mach
        exec (.secAttest v p nonce) s = nextMach s (complete v .ok 0
          (.bytes (attestReport s.fuses y.2 p.val nonce ++ y.1)) y.2))) ∧
    (∀ p : Fin 4, served s.mach v (some p.val) 0x10C →
      let q := part s.mach p.val
      exec (.secStatus v p) s = nextMach s (complete v .ok 0 (.fields ([("SEC_PART", secPartWord q)
        , ("SEC_ROT", q.rot.word), ("PARK", q.sec.park.st), ("DEBUG", q.sec.debugKey.st)
        , ("ATTEST", ofLe q.sec.lastAttest)]
        ++ (die s.mach p.val).slots.map (fun y => ("FSLOT", y.1 * 2 ^ 32 + y.2.word))
        ++ q.sec.models.map (fun y => ("MODEL", y.1 * 2 ^ 32 + y.2.st))
        ++ q.sec.channels.map (fun y => ("CHANNEL", y.1 * 2 ^ 32 + y.2.st)))) s.mach))

/-- The keys of a session (R693 to R695, R709 to R711, R713 to R716): a blob of the session in force loads its key, one of
kinds 2 to 4 only with its signature; a destroyed key keeps no key; a switch waits for its step; a rotation needs a free
slot in every wellhead, and its new key is used at once where no plan runs. -/
def Obligations.KeyCommandsResult : Prop :=
  ∀ (s : State) (v : Via) (p : Fin 4),
    let q := part s.mach p.val
    let onSec (f : Sec → Sec) (m : Mach) : Mach := onPart p.val (fun q => { q with sec := f q.sec }) m
    (∀ k : KeyBlob, served s.mach v (some p.val) 0x107 →
      let mine := q.sec.st = 2 ∧ k.decrypts = true ∧ k.session.toNat = q.sec.session
      let unsigned := 2 ≤ k.kind ∧ k.kind ≤ 4 ∧ k.sigOk = false
      (¬ mine → exec (.secKeyLoad v p k) s = nextMach s (answer v .denied s.mach)) ∧
      (mine → unsigned →
        exec (.secKeyLoad v p k) s = nextMach s (answer v .denied (bump .secSigfail iModule s.mach))) ∧
      (mine → ¬ unsigned → exec (.secKeyLoad v p k) s = nextMach s (if blobOk s.mach p.val k = true then
        answer v .ok (bump .secKeyloads (iPart p.val) (loadKey p.val k s.mach)) else answer v .range s.mach))) ∧
    (served s.mach v (some p.val) 0x108 →
      (∀ i, exec (.secKeyDestroy v p (.model i)) s = nextMach s (answer v .ok
        (onSec (fun x => { x with models := tmod {} x.models i.val LoadedKey.destroy }) s.mach))) ∧
      exec (.secKeyDestroy v p .park) s =
        nextMach s (answer v .ok (onSec (fun x => { x with park := x.park.destroy }) s.mach)) ∧
      exec (.secKeyDestroy v p .debug) s =
        nextMach s (answer v .ok (onSec (fun x => { x with debugKey := x.debugKey.destroy }) s.mach)) ∧
      (∀ n, exec (.secKeyDestroy v p (.channel n)) s = nextMach s (if n < maxChannels s.mach p.val then
        answer v .ok (onSec (fun x => { x with channels := tmod {} x.channels n Channel.destroy }) s.mach)
        else answer v .range s.mach)) ∧
      (∀ i e, exec (.secKeyDestroy v p (.fabric i e)) s = nextMach s (
        if i.val = 0 then answer v .range s.mach
        else if b2n (fslot s.mach p.val i.val).wr = e.val then answer v .badState s.mach
        else answer v .ok (q.dies.foldl (fun m d =>
          onSlot d i.val (fun f => f.onEp e.val KeyEpoch.destroy) m) s.mach)))) ∧
    (∀ (i : Fin 256) (step : Nat), served s.mach v (some p.val) 0x109 →
      let f := fslot s.mach p.val i.val
      exec (.secKeySwitch v p i step) s = nextMach s (
        if i.val = 0 ∨ 2 ^ 48 ≤ step then answer v .range s.mach
        else if f.ep0.st ≠ 1 ∨ f.ep1.st ≠ 1 then answer v .badState s.mach
        else answer v .ok (q.dies.foldl (fun m d =>
          onSlot d i.val (fun f => { f with pending := true, switchStep := step }) m) s.mach))) ∧
    (served s.mach v (some p.val) 0x10A →
      let room (w : Nat) : Bool := (well s.mach w).slot0 == .empty || (well s.mach w).slot1 == .empty
      exec (.secMemkeyRotate v p) s = nextMach s (
        if q.sec.st = 2 ∧ q.rot.state = 0 ∧ (partWells s.fuses s.mach p.val).all room = true then
          answer v .ok (onPart p.val (fun q => { q with rot := { q.rot with state := 1, loaded := false } }) s.mach)
        else answer v .badState s.mach)) ∧
    (q.rot.state = 1 → q.rot.loaded = false →
      let m := onPart p.val (fun q => { q with rot := { q.rot with loaded := true } })
        ((partWells s.fuses s.mach p.val).foldl (fun m w => onWell w (fun h =>
          if h.slot0 = .empty then { h with slot0 := .loaded } else { h with slot1 := .loaded }) m) s.mach)
      exec (.memkeyLoaded p) s = nextMach s (if runs m p.val = true then m else startReencrypt s.fuses p.val m))

/-- Teardown (R717 to R720, Tables 16-10 and 16-11): SEC_TEARDOWN takes a signed statement of an OPEN partition, or of an
ASSIGNED one with MODE 1, and fences the partition; the drain ends when all is done or after 2 ms, and the keys are
destroyed and the memories scrubbed; the attestation is signed, kept and sent, and the partition is ASSIGNED or FREE. -/
def Obligations.TeardownResult : Prop :=
  (∀ (s : State) (v : Via) (p : Fin 4) (st : Statement) (mode : Fin 2), served s.mach v (some p.val) 0x10B →
    let x := (part s.mach p.val).sec.st
    let may := x = 2 ∨ (x = 1 ∧ mode.val = 1)
    (¬ may → exec (.secTeardown v p st mode) s = nextMach s (answer v .badState s.mach)) ∧
    (may → st.changeCtr ≠ s.mach.change → exec (.secTeardown v p st mode) s = nextMach s (answer v .stale s.mach)) ∧
    (may → st.changeCtr = s.mach.change → authentic s.mach st 4 p.val = false →
      exec (.secTeardown v p st mode) s = nextMach s (answer v .denied (bump .secSigfail iModule s.mach))) ∧
    (may → authentic s.mach st 4 p.val = true → exec (.secTeardown v p st mode) s =
      nextMach s (answer v .ok (beginTeardown p.val mode.val (counted s.mach))))) ∧
  (∀ (s : State) (p : Fin 4), (part s.mach p.val).sec.st = 3 →
    (part s.mach p.val).sec.phase = 2 ∨ ((part s.mach p.val).sec.phase = 1 ∧ runs s.mach p.val = false) →
    let m := if drained s.mach p.val = true then s.mach
      else reachWall ((part s.mach p.val).sec.fenceEnd + 2000000) s.mach
    exec (.teardownDrainEnd p) s = nextMach s (scrub s.fuses p.val (destroyKeys s.fuses p.val
      (if (serveOf m p.val).isSome = true then failAll s.fuses p.val m else m)))) ∧
  (∀ (s : State) (p : Fin 4), (part s.mach p.val).sec.st = 3 → (part s.mach p.val).sec.phase = 4 →
    let y := signature s.mach
    let z := draw y.2
    let l := scrubAttest z.2 p.val ++ y.1
    exec (.teardownScrubDone p) s = nextMach s (leaveTeardown p.val l (bump .secTeardowns (iPart p.val)
      (pushReport (z.1 % 65536) l z.2))))

/-- MAILBOX_SCAN, MGMT_COMMAND and the completion of a command (R728 to R734, R739, R740): what host software stored and
posted since the last scan is in host memory and in the slots, but in the reserved region and in a slot that firmware has
taken; firmware that is READY takes the posted slots in ascending order and writes the status block, and before that it
takes nothing. A slot in the wrong format and an unknown code complete at once; a completed slot carries STATUS, DETAIL,
RLEN and DONE_AT, its OWN is 0 and it is no longer busy. The management network's commands are taken from an
authenticated client alone. -/
def Obligations.MailboxCommandsResult : Prop :=
  (∀ (s : State) (w : Fin 5) (posts : List SlotPost) (stores : List HostStore),
    let m := posts.foldl (postSlot w.val) (stores.foldl hostStore s.mach)
    (s.mach.boot = 3 → exec (.mailboxScan w posts stores) s =
      nextMach s (statusBlock w.val ((List.range 32).foldl (takeSlot w.val) m))) ∧
    (s.mach.boot ≠ 3 → exec (.mailboxScan w posts stores) s = nextMach s m)) ∧
  (∀ (m : Mach) (h : HostStore),
    (h.addr + h.bytes.length ≤ 0x3F80000000 → (hostStore m h).mem = (pokeHost h.addr h.bytes m).mem) ∧
    (0x3F80000000 < h.addr + h.bytes.length → hostStore m h = m)) ∧
  (∀ (m : Mach) (w : Nat) (p : SlotPost),
    let i := p.slot.val
    (bitAt (win m w).busy i = true → postSlot w m p = m) ∧
    (bitAt (win m w).busy i = false →
      let x := tget {} (win (postSlot w m p) w).slots i
      x.own = p.own ∧ x.code = p.code ∧ x.flags = p.flags + 256 * p.resv ∧ x.plen = p.plen ∧ x.tag = p.tag
        ∧ x.payload = p.payload.take p.plen)) ∧
  (∀ (s : State) (y : SlotPost) (clientOk : Bool), s.mach.boot ≠ 3 ∨ clientOk = false →
    exec (.mgmtCommand clientOk y) s = nextMach s s.mach) ∧
  (∀ (s : State) (y : SlotPost), s.mach.boot = 3 →
    let m := { s.mach with mgmtTag := y.tag }
    let wrong := y.own ≠ 1 ∨ y.resv ≠ 0 ∨ 1 < y.flags ∨ 4096 < y.plen
    let reply (st : Status) : Mach := { m with out := m.out ++ [.mgmt st.code 0 y.tag .empty] }
    (wrong → exec (.mgmtCommand true y) s = nextMach s (reply .badFormat)) ∧
    (¬ wrong → codeKnown y.code = false → exec (.mgmtCommand true y) s = nextMach s (reply .unknownCommand)) ∧
    (¬ wrong → codeKnown y.code = true → exec (.mgmtCommand true y) s = nextMach s m)) ∧
  (∀ (m : Mach) (w i : Nat),
    let x := tget {} (win m w).slots i
    (x.own = 0 ∨ bitAt (win m w).busy i = true → takeSlot w m i = m) ∧
    let taken := onWin w (fun y => { y with
      busy := putBit y.busy i, slots := tmod {} y.slots i (fun z => { z with takenAt := nowNs m }) }) m
    (bitAt (win m w).busy i = false → x.own ≠ 0 → x.own ≠ 1 → takeSlot w m i = completeSlot w i .badFormat 0 .empty m) ∧
    (bitAt (win m w).busy i = false → x.own = 1 → 1 < x.flags ∨ 4096 < x.plen →
      takeSlot w m i = completeSlot w i .badFormat 0 .empty taken) ∧
    (bitAt (win m w).busy i = false → x.own = 1 → x.flags ≤ 1 → x.plen ≤ 4096 → codeKnown x.code = false →
      takeSlot w m i = completeSlot w i .unknownCommand 0 .empty taken) ∧
    (bitAt (win m w).busy i = false → x.own = 1 → x.flags ≤ 1 → x.plen ≤ 4096 → codeKnown x.code = true →
      takeSlot w m i = taken)) ∧
  (∀ (m : Mach) (w i detail : Nat) (st : Status) (r : Resp),
    let n := completeSlot w i st detail r m
    let x := tget {} (win n w).slots i
    x.own = 0 ∧ x.status = st.code ∧ x.detail = detail ∧ x.doneAt = nowNs m ∧ x.resp = r ∧
      bitAt (win n w).busy i = false ∧ (r = .empty → x.rlen = 0) ∧ (∀ l, r = .bytes l → x.rlen = l.length)) ∧
  (∀ (m : Mach) (w : Nat),
    let y := (win (statusBlock w m) w).status
    y.heartbeat = (win m w).status.heartbeat + 1 ∧ y.scanMtime = nowNs m ∧ y.busy = (win m w).busy ∧ y.boot = m.boot ∧
      y.module = m.moduleId ∧ y.fwVersion = m.fw.runVersion ∧ y.fwSvn = m.fw.runSvn ∧
      y.events = (win m w).waiting.length ∧
      (w < 4 → y.pstate = (part m w).sec.st ∧ y.planState = (part m w).st.code ∧ y.step = (part m w).step))

/-- Registers (R12, R13, R742 to R746, Table 17-8): REG_DIR answers 60 entries of the directory, REG_READ up to 120 copies
of a register that the caller may read and changes no register, REG_WRITE stores a value that the register takes, or
answers why not. -/
def Obligations.RegisterCommandsResult : Prop :=
  ∀ (s : State) (v : Via),
    (∀ first, served s.mach v none 0x901 → exec (.regDir v first) s =
      nextMach s (complete v .ok 0 (.bytes (((allRegs.drop first).take 60).flatMap dirEntry)) s.mach)) ∧
    (∀ (num elem count bank : Nat) (inst : BitVec 32) (r : Reg), served s.mach v none 0x902 → regOfNum num = some r →
      let kind := inst.toNat / 0x10000000
      let low := inst.toNat % 0x10000000
      let at_ (i : Nat) : RegAt := { kind := kind, low := low, elem := elem + i, bank := bank }
      let bad := count = 0 ∨ 120 < count ∨ regRange s.fuses s.mach r kind low elem count = true
      (bad → exec (.regRead v num elem count inst bank) s = nextMach s (answer v .range s.mach)) ∧
      (¬ bad → mayRead s.mach v.caller r (at_ 0) = false →
        exec (.regRead v num elem count inst bank) s = nextMach s (answer v .denied s.mach)) ∧
      (¬ bad → mayRead s.mach v.caller r (at_ 0) = true →
        exec (.regRead v num elem count inst bank) s = nextMach s (complete v .ok 0 (.bytes
          ((List.range count).flatMap (fun i => leBytes 32 (regValue s.fuses s.mach r (at_ i))))) s.mach))) ∧
    (∀ (num elem : Nat) (inst : BitVec 32) (value : BitVec 256) (r : Reg), served s.mach v none 0x903 →
      regOfNum num = some r →
      let a : RegAt := { kind := inst.toNat / 0x10000000, low := inst.toNat % 0x10000000, elem := elem, bank := 0 }
      let bad := ((regInfo r).wmask = 0 ∧ (regInfo r).cmask = 0) ∨ regRange s.fuses s.mach r a.kind a.low elem 1 = true
      (bad → exec (.regWrite v num elem inst value) s = nextMach s (answer v .range s.mach)) ∧
      (¬ bad → mayWrite s.mach v.caller r a = false →
        exec (.regWrite v num elem inst value) s = nextMach s (answer v .denied s.mach)) ∧
      (∀ st, ¬ bad → mayWrite s.mach v.caller r a = true → writeFails s.fuses s.mach r a value.toNat = some st →
        exec (.regWrite v num elem inst value) s = nextMach s (answer v st s.mach)) ∧
      (¬ bad → mayWrite s.mach v.caller r a = true → writeFails s.fuses s.mach r a value.toNat = none →
        exec (.regWrite v num elem inst value) s =
          nextMach s (answer v .ok (regStore s.fuses r a value.toNat s.mach))))

/-- Events, telemetry and HEALTH (R806, R810, R823, Table 17-18): EVT_READ answers and removes the oldest records of the
caller's window, TELEM_CONFIG sets or ends the telemetry of a partition, HEALTH answers the record of the module. -/
def Obligations.TelemetryCommandsResult : Prop :=
  (∀ (s : State) (v : Via) (n : Nat), served s.mach v none 0x904 →
    let w := callerWin v.caller
    exec (.evtRead v n) s = nextMach s (if n = 0 ∨ 127 < n then answer v .range s.mach
      else complete v .ok 0 (.bytes (((win s.mach w).waiting.take n).flatMap (evtBytes w)))
        (onWin w (fun x => { x with waiting := x.waiting.drop n }) s.mach))) ∧
  (∀ (s : State) (v : Via) (p : Fin 4) (addr entries every : Nat), served s.mach v (some p.val) 0x905 →
    let ok := addr % 64 = 0 ∧ telemSize entries = true ∧ every ≤ 65535
      ∧ inClear (part s.mach p.val) addr (64 + 64 * entries) = true
    (addr = 0 → exec (.telemConfig v p addr entries every) s =
      nextMach s (answer v .ok (onPart p.val (fun q => { q with telem := {} }) s.mach))) ∧
    (addr ≠ 0 → ¬ ok → exec (.telemConfig v p addr entries every) s = nextMach s (answer v .range s.mach)) ∧
    (addr ≠ 0 → ok → exec (.telemConfig v p addr entries every) s = nextMach s (answer v .ok (onPart p.val (fun q =>
      { q with telem := { addr := addr, pushEvery := every, entries := entries } }) s.mach)))) ∧
  (∀ (s : State) (v : Via), served s.mach v none 0x906 →
    exec (.health v) s = nextMach s (complete v .ok 0 (.bytes (healthBytes s.mach)) s.mach))

/-- Firmware (R754 to R759, Table 17-11): FW_STAGE copies an image into the
reserved region, keeps one that verifies and drops the staged one otherwise,
FW_COMMIT asks for a protected commit of the staged image, FW_ACTIVATE boots the committed one where no session is open,
FW_STATUS answers, FW_SVN_ADVANCE moves the fuses up to the running image. -/
def Obligations.FirmwareCommandsResult : Prop :=
  ∀ (s : State) (v : Via),
    (∀ (addr len : Nat) (i : FwImage), served s.mach v none 0x810 →
      let m := pokeHost 0x3F80000000 (peeks s.mach.mem.host addr (min len 0x80000000)) s.mach
      let put (o : Option FwImage) : Mach := { m with fw := { m.fw with staged := o } }
      (s.mach.fw.commit.isSome = true →
        exec (.fwStage v addr len i) s = nextMach s (answer v .badState s.mach)) ∧
      (s.mach.fw.commit = none → addr + len ≤ 2 ^ 38 → imageFault s.mach i = none →
        exec (.fwStage v addr len i) s = nextMach s (answer v .ok (put (some i)))) ∧
      (s.mach.fw.commit = none → addr + len ≤ 2 ^ 38 → imageFault s.mach i = some 3 →
        exec (.fwStage v addr len i) s = nextMach s (answer v .rollback (put none))) ∧
      (∀ c, s.mach.fw.commit = none → addr + len ≤ 2 ^ 38 → imageFault s.mach i = some c → c ≠ 3 →
        exec (.fwStage v addr len i) s = nextMach s (answer v .imageInvalid (put none)))) ∧
    (served s.mach v none 0x811 →
      (∀ i, s.mach.fw.staged = some i → s.mach.fw.commit = none → exec (.fwCommit v) s =
        nextMach s (askCommit .fw { s.mach with fw := { s.mach.fw with commit := some (i, v) } })) ∧
      (s.mach.fw.staged = none ∨ s.mach.fw.commit.isSome = true →
        exec (.fwCommit v) s = nextMach s (answer v .badState s.mach))) ∧
    (served s.mach v none 0x812 →
      let m := answer v .ok s.mach
      exec (.fwActivate v) s = nextMach s (
        if s.mach.parts.any (fun y => y.2.sec.st == 2 || y.2.sec.st == 3) = true then answer v .badState s.mach
        else bootLogic (committed m) [] m)) ∧
    (served s.mach v none 0x813 → exec (.fwStatus v) s = nextMach s (complete v .ok 0 (.fields
      [("MBX_BOOT", mbxBoot s.mach), ("STAGED", ((s.mach.fw.staged).map (fun i => i.digest.toNat)).getD 0)
      , ("COMMITTED", s.mach.fw.digest.toNat), ("GEN", s.mach.fw.latest.gen)
      , ("DONE", b2n s.mach.fw.latest.done), ("PROGRESS", s.mach.fw.latest.progress)
      , ("TARGET", s.mach.fw.latest.digest.toNat)]) s.mach)) ∧
    (served s.mach v none 0x814 → exec (.fwSvnAdvance v) s = nextMach s (
      if s.mach.fw.svnFuse < s.mach.fw.runSvn then
        answer v .ok { s.mach with fw := { s.mach.fw with svnFuse := s.mach.fw.runSvn } }
      else answer v .badState s.mach))

/-- Watchdogs, machine errors and edge stations (R387, R816, R819, Table 17-15): each raises its event; the watchdog of a
partition and a failed edge station halt the plan that runs there with their subcode, the security watchdog boots the
committed image, a machine error interrupts the windows that hold its address. -/
def Obligations.FaultEventsResult : Prop :=
  (∀ (s : State) (p : Fin 4),
    let m := raiseEvt 0x0051 2 (iPart p.val) 0 s.mach
    exec (.wdogControl p) s = nextMach s (
      if runs m p.val = true then forceHalt s.fuses p.val 2 0 (cycleNow m p.val) m else m)) ∧
  (∀ s : State, exec .wdogMgmt s = nextMach s (raiseEvt 0x0052 1 iModule 0 s.mach)) ∧
  (∀ s : State,
    exec .wdogSecurity s = nextMach s (raiseEvt 0x0053 2 iModule 0 (bootLogic (committed s.mach) [] s.mach))) ∧
  (∀ (s : State) (addr : Nat),
    let m := raiseEvt 0x0033 1 iModule addr s.mach
    exec (.machineError addr) s = nextMach s ((errorWindows s.mach addr).foldl (fun m w => interrupt w 2 m) m)) ∧
  (∀ (s : State) (d : Fin 4), exec (.edgeCheck d none) s = nextMach s s.mach) ∧
  (∀ (s : State) (d : Fin 4) (u : Fin 256), dieRuns s.mach d.val = true →
    let m := raiseEvt 0x0054 2 (iDie d.val) u.val s.mach
    let p := partOf m d.val
    exec (.edgeCheck d (some u)) s = nextMach s (onDie d.val (fun x => { x with failed := true })
      (forceHalt s.fuses p 6 (d.val * 256 + u.val) (cycleNow m p) m)))

/-- POWER_ON, FILL_COMPLETE and RECOVERY_START (R391, R394, R397, R445, R752 to R754, R760, R761, Table 17-12): the boot of
an image that verifies reaches FILL with its identity, remap entries and failure record, one that does not reaches
RECOVERY with its cause; a commit that a loss of power left WRITING is repeated from what the reserved region holds
(whether it holds it is the device's own, log 193); the end of the fill sets ECC_FILL, makes firmware READY and wakes the ports. -/
def Obligations.BootCommandsResult : Prop :=
  (∀ (s : State) (i : FwImage) (l : List (Fin 4 × Fin 4)),
    let up := logicUp (loseAlwaysOn s.mach)
    let m := (repeatCommit i up).1
    let i' := (repeatCommit i up).2
    (up.fw.latest.done = true → i' = i ∧ m.fw = { up.fw with left := none }) ∧
    (∀ j, up.fw.latest.done = false → up.fw.left = some j → j.digest = up.fw.latest.digest →
      (Config.regionKept up.freeCtr = true ∧ i' = j ∧ m.fw.latest.done = true ∧ m.fw.digest = j.digest ∧ m.fw.svn = j.svn
        ∧ m.fw.version = j.version) ∨
      (Config.regionKept up.freeCtr = false ∧ i' = i ∧ m.fw = { up.fw with left := none })) ∧
    (∀ c, imageFault m i' = some c →
      exec (.powerOn i l) s = nextMach s { m with boot := 4, fw := { m.fw with cause := c } }) ∧
    (imageFault m i' = none → m.fw.latest.done = false →
      exec (.powerOn i l) s = nextMach s { m with boot := 4, fw := { m.fw with cause := 4 } }) ∧
    (imageFault m i' = none → m.fw.latest.done = true →
      exec (.powerOn i l) s = nextMach s ((l.map (fun y => (y.1.val, y.2.val))).foldl alignFails (loadRemaps (tellFailure
        { m with boot := 2, fw := { m.fw with
          svn := i'.svn, version := i'.version, digest := i'.digest, cause := 0
          runSvn := i'.svn, runVersion := i'.version, runDigest := i'.digest } }))))) ∧
  (∀ (s : State) (a b : Nat), s.mach.boot = 2 →
    let m := { s.mach with boot := 3, eccFill := pack [(2, 3), (14, 0), (8, satN 255 a), (8, satN 255 b)] 0 }
    exec (.fillComplete a b) s = nextMach s ((List.range 16).foldl (fun m k => wakePort k m)
      ((List.range b).foldl (fun m _ => recordFail 1 m) ((List.range a).foldl (fun m _ => recordFail 0 m) m)))) ∧
  (∀ (s : State) (i : FwImage),
    (s.mach.boot = 4 → imageFault s.mach i = none → exec (.recoveryStart i) s =
      nextMach s (bootLogic i [] (endRecord i (beginRecord i s.mach)))) ∧
    (s.mach.boot ≠ 4 ∨ (imageFault s.mach i).isSome = true →
      exec (.recoveryStart i) s = nextMach s s.mach))

/-- The frames of the Wiluc chain that are forwarded (R5, R764 to R767, R771, R772, R843): a powered module forwards a
frame that is not its own, its bypass passes every frame without power; ENUM at a module without an address takes the next
slot of the mask, unless another slot was set, and goes on with the following number; CHAIN_TAKEOVER ends the bypass. -/
def Obligations.ChainForwardResult : Prop :=
  (∀ s : State, exec .chainTakeover s = nextMach s { s.mach with wch := { s.mach.wch with bypass := false } }) ∧
  (∀ (s : State) (f : Frame), s.mach.wch.bypass = true →
    exec (.wilucForward f) s = nextMach s { s.mach with out := s.mach.out ++ [.frame f] }) ∧
  (∀ (s : State) (f : Frame), s.mach.wch.bypass = false → s.mach.wch.addr ≠ 0 → f.dst ≠ s.mach.wch.addr →
    f.dst ≠ 0xFF → exec (.wilucForward f) s = nextMach s (forwardFrame f (arrive s.mach))) ∧
  (∀ (s : State) (f : Frame), f.typ = 1 → s.mach.wch.addr = 0 → s.mach.wch.bypass = false →
    let m := arrive s.mach
    let next := enumSlot (leAt f.payload 0 1) (leAt f.payload 1 1)
    (frameSound f = false →
      exec (.enum f) s = nextMach s (forwardFrame f (bump .wchCrcErr iModule m))) ∧
    (frameSound f = true → next = none → exec (.enum f) s = nextMach s (forwardFrame f m)) ∧
    (∀ n, frameSound f = true → next = some n → m.wch.slot ≠ 0 ∧ m.wch.slot ≠ n →
      exec (.enum f) s = nextMach s (raiseEvt 0x0050 1 iModule (16 * n + m.wch.slot) (forwardFrame f m))) ∧
    (∀ n, frameSound f = true → next = some n → m.wch.slot = 0 ∨ m.wch.slot = n →
      exec (.enum f) s = nextMach s (forwardFrame
        (frameSeal { f with payload := leBytes 1 (n + 1) ++ f.payload.drop 1 })
        { m with wch := { m.wch with addr := n, slot := n }, moduleId := moduleIdOf m.wch.pod m.wch.shelf n })))

/-- The frames of the Wiluc chain that a module executes (R761, R768, R769, R773, R793, R803, R806, Tables 17-16 to
17-18): a sound frame for this module, or for all, is executed once and answered with its status; a repeat of the last
SEQ of its type gets the last response again; a reserved byte, a LEN above 52 or an unassigned type is BAD_FRAME; a frame
that is not sound is counted and no more. -/
def Obligations.ChainExecuteResult : Prop :=
  ∀ (s : State) (f : Frame) (i : FwImage) (c : Instr) (act : Mach → Nat × List Byte × Mach),
    s.mach.wch.bypass = false → s.mach.wch.addr ≠ 0 → f.dst = s.mach.wch.addr ∨ f.dst = 0xFF →
    (f.typ, c, act) ∈ [(1, Instr.enum f, fun m => (1, [], m)), (2, .setLocation f, setLocation f)
      , (3, .power f, powerFrame f), (4, .healthFrame f, fun m => (0, (healthBytes m).drop 1, m))
      , (5, .holdup f, fun m => (0, tankBytes m, m)), (6, .rcvBegin f, rcvBegin f), (7, .rcvData f, rcvData f)
      , (8, .rcvEnd f i, rcvEnd f i)]
      ∨ (frameTypes.contains f.typ = false ∧ c = .wilucForward f ∧ act = fun m => (2, [], m)) →
    let m := if f.dst = s.mach.wch.addr then bump .wchFrames iModule (arrive s.mach) else forwardFrame f (arrive s.mach)
    let last := tget (256, none) m.wch.last f.typ
    let keep (r : Frame) (m : Mach) : Mach :=
      { m with wch := { m.wch with last := tput (256, none) m.wch.last f.typ (f.seq, some r) } }
    (frameSound f = false → exec c s = nextMach s (bump .wchCrcErr iModule m)) ∧
    (frameSound f = true →
      (∀ r, last.1 = f.seq → last.2 = some r →
        exec c s = nextMach s (bump .wchRepeat iModule (sendFrame r m.wch.inAt m))) ∧
      (last.1 ≠ f.seq → f.resv = 0 → f.len ≤ 52 →
        let y := act m
        let r := response y.2.2 f y.1 y.2.1
        exec c s = nextMach s (sendFrame r m.wch.inAt (keep r y.2.2))) ∧
      (last.1 ≠ f.seq → f.resv ≠ 0 ∨ 52 < f.len →
        let r := response m f 2 []
        exec c s = nextMach s (sendFrame r m.wch.inAt (keep r m))))

/-- The power commands (R790, R792 to R794, R797, R803): PWR_SET begins the transition to a state that is allowed, waits
for the one under way, answers at once in the state that it names, and boots a module that is OFF; one that is not
allowed answers why. The end of a transition completes its command with OK before the state is reached: stacks in
self-refresh in DOZE, ports without power as well in SLEEP, the logic side without power in OFF; the wake from each of
them and the dies that come back after a trip in RUN; then the changes that waited are taken in their order. PWR_LIMIT
stores a limit from 1,000 W to the grade's maximum; PWR_STATUS answers the state, the input, the tank and the thermal
state of each partition. -/
def Obligations.PowerCommandsResult : Prop :=
  (∀ (s : State) (v : Via) (t : Nat), served s.mach v none 0x801 →
    (t ≠ 0 → t ≠ 2 → t ≠ 3 → t ≠ 4 → exec (.pwrSet v t) s = nextMach s (answer v .range s.mach)) ∧
    (t = 0 ∨ t = 2 ∨ t = 3 ∨ t = 4 →
      (s.mach.pwr.inTransit = true → exec (.pwrSet v t) s = nextMach s
        { s.mach with pwr := { s.mach.pwr with queue := s.mach.pwr.queue ++ [(t, some v)] } }) ∧
      (∀ st, s.mach.pwr.inTransit = false → powerRefused s.mach t = some st →
        exec (.pwrSet v t) s = nextMach s (answer v st s.mach)) ∧
      (s.mach.pwr.inTransit = false → powerRefused s.mach t = none → s.mach.pwr.st ≠ 4 → t ≠ 0 → t = s.mach.pwr.st →
        exec (.pwrSet v t) s = nextMach s (answer v .ok s.mach)) ∧
      (s.mach.pwr.inTransit = false → powerRefused s.mach t = none → s.mach.pwr.st ≠ 4 →
        t = 0 ∨ t ≠ s.mach.pwr.st →
        let m := if t = 2 then dozePorts true s.mach else s.mach
        exec (.pwrSet v t) s = nextMach s { m with pwr := { m.pwr with
          inTransit := true, target := t, via := some v
          restore := if t = 0 ∧ m.pwr.st = 0 then restorable m else [] } }) ∧
      (s.mach.pwr.inTransit = false → powerRefused s.mach t = none → s.mach.pwr.st = 4 →
        exec (.pwrSet v t) s = nextMach s (if t = 0 then bootLogic (committed s.mach) [] s.mach else s.mach)))) ∧
  (∀ s : State,
    (s.mach.pwr.inTransit = true → s.mach.pwr.failing = false →
      let m := answerOpt s.mach.pwr.via .ok { s.mach with pwr := { s.mach.pwr with inTransit := false, via := none } }
      let moved (n : Mach) (st : Nat) : Mach := { n with pwr := { n.pwr with st := st } }
      let end_ (n : Mach) : Host.Outcome State Fault Refusal := nextMach s (takeQueue n.pwr.queue n)
      let run (n : Mach) : Mach := { n with pwr := { n.pwr with st := 0, restore := [] } }
      (s.mach.pwr.target = 0 → s.mach.pwr.st = 2 → exec .powerTransitionDone s = end_ (run (wakeDoze s.fuses m))) ∧
      (s.mach.pwr.target = 0 → s.mach.pwr.st = 3 → exec .powerTransitionDone s = end_ (run (wakeSleep s.fuses m))) ∧
      (s.mach.pwr.target = 0 → s.mach.pwr.st ≠ 2 → s.mach.pwr.st ≠ 3 →
        exec .powerTransitionDone s = end_ (run (restoreDies s.fuses m))) ∧
      (s.mach.pwr.target = 2 → exec .powerTransitionDone s = end_ (moved (sleepWells s.fuses true m) 2)) ∧
      (s.mach.pwr.target = 3 → exec .powerTransitionDone s =
        end_ (moved (sleepWells s.fuses true ((List.range 16).foldl (portOff s.fuses 5) m)) 3)) ∧
      (s.mach.pwr.target = 4 → exec .powerTransitionDone s = end_ (moved (losePower none m) 4))) ∧
    (s.mach.pwr.inTransit = false ∨ s.mach.pwr.failing = true →
      exec .powerTransitionDone s = nextMach s s.mach)) ∧
  (∀ (m : Mach) (t : Nat) (o : Option Via) (r : List (Nat × Option Via)),
    takeQueue [] m = { m with pwr := { m.pwr with queue := [] } } ∧
    takeQueue ((t, o) :: r) m =
      (if (takePower t o m).pwr.inTransit = true then
        { takePower t o m with pwr := { (takePower t o m).pwr with queue := r } } else takeQueue r (takePower t o m))) ∧
  (∀ (s : State) (v : Via), served s.mach v none 0x802 → exec (.pwrStatus v) s = nextMach s (complete v .ok 0
    (.fields ([("PWR_STATE", pwrState s.mach), ("PWR_IN", pwrIn s.mach.pwr), ("PWR_HOLDUP", pwrHoldup s.mach)]
      ++ s.mach.parts.map (fun y => ("THM_STATE", thmState y.2)))) s.mach)) ∧
  (∀ (s : State) (v : Via) (w : Nat), served s.mach v none 0x804 → exec (.pwrLimit v w) s = nextMach s (
    if w < 1000 ∨ maxWatts s.fuses < w then answer v .range s.mach
    else answer v .ok { s.mach with pwr := { s.mach.pwr with limit := some w } }))

/-- The surge tank and the input (R776, R778 to R785, R822): a test starts with the tank at 54 V; its end gives C and E,
answers those who asked and decides the commit that
waited, which starts once the tank is back at 54 V; the failure of the input is recorded and takes all but the
hold-up domain, stops a commit of firmware with its record not DONE, or lets a park commit go on; its return boots the committed image once
the module is OFF, and an empty tank takes the always-on
domain too. -/
def Obligations.TankEventsResult : Prop :=
  (∀ (s : State) (v : Via), served s.mach v none 0x803 → exec (.holdupTest v) s = nextMach s (startTest
    { s.mach with pwr := { s.mach.pwr with tests := s.mach.pwr.tests ++ [v] } })) ∧
  (∀ s : State, exec .holdupTestDaily s =
    nextMach s (startTest { s.mach with pwr := { s.mach.pwr with selfTest := true } })) ∧
  (∀ s : State, s.mach.pwr.tank ≠ 2 → s.mach.pwr.inputOk = true → exec .tankReady s =
    let m := { s.mach with pwr := { s.mach.pwr with tank := 1, vtank := 54000 } }
    nextMach s (startTest (startCommit m))) ∧
  (∀ m : Mach, (m.pwr.toStart = false ∨ m.pwr.commit = none → startCommit m = m) ∧
    (∀ c, m.pwr.toStart = true → m.pwr.commit = some c → startCommit m =
      if c.need ≤ m.pwr.energy then
        (match c, m.fw.commit with
          | .fw, some (i, _) => beginRecord i { m with pwr := { m.pwr with toStart := false } }
          | _, _ => { m with pwr := { m.pwr with toStart := false } })
      else endCommit (refuseCommit c m))) ∧
  (∀ (s : State) (dv v0 : Nat), s.mach.pwr.tank = 2 → dv ≠ 0 →
    let e := (v0 * v0 - 900000000) / (2000 * dv)
    let m := bump .pwrHoldupTests iModule { s.mach with pwr := { s.mach.pwr with
      cap := 1000000 / dv, energy := e, testedAt := some (nowNs s.mach), tank := 0, vtank := v0 - dv, selfTest := false
      tests := [], fault := decide (e < 3000) } }
    let n := if e < 3000 then raiseEvt 0x0060 1 iModule e m else m
    exec (.holdupTestDone dv v0) s = nextMach s (decideCommit (s.mach.pwr.tests.foldl (fun m v =>
      complete v .ok 0 (.bytes (leBytes 8 (pwrHoldup m))) m) n))) ∧
  (∀ s : State, goingPark s.mach = none →
    let m := losePower none (bump .pwrFails iModule (stopCommit s.mach))
    exec .inputFail s = nextMach s { m with pwr := { m.pwr with
      failed := some (nowNs s.mach, false), inputOk := false, hotSwapOpen := true, tank := 3, st := 4, target := 4
      failing := false } }) ∧
  (∀ (s : State) (p i : Nat), goingPark s.mach = some (p, i) →
    let a := bump .pwrFails iModule (stopCommit s.mach)
    let m := losePower (some p) a
    let n := onSess p i (fun _ => { sess a p i with via := none }) { m with pwr := { m.pwr with
      failed := some (nowNs s.mach, false), inputOk := false, hotSwapOpen := true, tank := 3 } }
    exec .inputFail s = nextMach s { n with pwr := { n.pwr with
      commit := s.mach.pwr.commit, failing := true, inTransit := true, target := 4 } }) ∧
  (∀ s : State, exec .inputOvervoltage s =
    nextMach s { s.mach with pwr := { s.mach.pwr with hotSwapOpen := true, inputOk := false } }) ∧
  (∀ s : State, s.mach.pwr.failed.isSome = true →
    (s.mach.pwr.failing = false → exec .inputReturn s = nextMach s (bootLogic (committed s.mach) [] s.mach)) ∧
    (s.mach.pwr.failing = true → exec .inputReturn s = nextMach s s.mach) ∧
    (let m := loseAlwaysOn (losePower none s.mach)
     exec .tankExhausted s = nextMach s { m with pwr := { m.pwr with st := 4, target := 4, failing := false } })) ∧
  (∀ s : State, s.mach.pwr.failed = none →
    exec .inputReturn s = nextMach s s.mach ∧ exec .tankExhausted s = nextMach s s.mach)

/-- Power and thermal limits (R795 to R799): a sample above the limit stretches every die; the power step goes up above
97 % of the limit over 100 ms and down below 90 % over 1 s; the thermal step of a partition goes up at 105 °C and down
when every die has stayed at or below 100 °C for 1 s, and R799 stretches in F3 from 110 °C to 108 °C. -/
def Obligations.LimitEventsResult : Prop :=
  (∀ (s : State) (vin iin pin pavg : Nat),
    let above := decide (10 * limitWatts s.fuses s.mach < pin)
    let m : Mach := { s.mach with pwr := { s.mach.pwr with
      vin := satN 65535 vin, iin := satN 65535 iin, pin := satN 65535 pin, pavg := satN 65535 pavg, stretching := above
      inputOk := decide (40000 ≤ vin) && decide (vin ≤ 60000) && !s.mach.pwr.hotSwapOpen } }
    exec (.powerSample vin iin pin pavg) s =
      nextMach s (if above then bump .pwrLimStretch iModule (stretchAll 3333333 m) else m)) ∧
  (∀ (s : State) (a b : Nat),
    let l := limitWatts s.fuses s.mach
    let n := s.mach.pwr.step
    (97 * l < 10 * a → n < 3 → exec (.powerStepUpdate a b) s = nextMach s (setPowerStep (n + 1) s.mach)) ∧
    (97 * l < 10 * a → 3 ≤ n → exec (.powerStepUpdate a b) s = nextMach s s.mach) ∧
    (10 * a ≤ 97 * l → 10 * b < 90 * l → 0 < n →
      exec (.powerStepUpdate a b) s = nextMach s (setPowerStep (n - 1) s.mach)) ∧
    (10 * a ≤ 97 * l → 90 * l ≤ 10 * b ∨ n = 0 → exec (.powerStepUpdate a b) s = nextMach s s.mach)) ∧
  (∀ (s : State) (p : Fin 4),
    let q := part s.mach p.val
    let m := (q.stretched.filter (fun d => atLeast s.mach d 108)).foldl (fun m d => addStretch d 3333333333 m) s.mach
    let hot := q.dies.any (fun d => atLeast m d 105)
    (hot = true → q.thermal < 3 → exec (.thermalStepUpdate p) s =
      nextMach s (updateStretch p.val (bump .thmThrottle iModule (setThermal p.val (q.thermal + 1) m)))) ∧
    (hot = true → 3 ≤ q.thermal → exec (.thermalStepUpdate p) s = nextMach s (updateStretch p.val m)) ∧
    (hot = false → q.dies.all (coolLong m) = true → 0 < q.thermal → exec (.thermalStepUpdate p) s =
      nextMach s (updateStretch p.val (setThermal p.val (q.thermal - 1) m))) ∧
    (hot = false → q.dies.all (coolLong m) = false ∨ q.thermal = 0 →
      exec (.thermalStepUpdate p) s = nextMach s (updateStretch p.val m)))

/-- Temperatures, rails and coolant (R26, R354, R787, R800, R802, Table 18-4): the sensor of a stack that the grade does
not have changes nothing; a reading that crosses its threshold is told,
sets the refresh rate of its stack or the throttle of the cistern; a trip of a die or a stack halts the plan there and
takes the rails of the die, one of the cistern takes the cistern, one of a rail takes the module; so do the faults of
rails; too little flow and too warm an inlet are told. -/
def Obligations.ThermalEventsResult : Prop :=
  (∀ (s : State) (x : Sensor) (t : Int), absent s.fuses x = true →
    exec (.thmWarn x t) s = nextMach s s.mach ∧ exec (.thmTrip x t) s = nextMach s s.mach) ∧
  (∀ (s : State) (x : Sensor) (t : Int), absent s.fuses x = false →
    let m := setTemp x.kind x.index t s.mach
    let tell (n : Mach) : Mach := if warns (tempOf s.mach x.kind x.index) x.kind t = true then
      raiseEvt 0x0063 1 (iSensor x.kind x.index) (twos 16 t) n else n
    (x.kind = 1 → exec (.thmWarn x t) s = nextMach s (tell ([2 * x.index, 2 * x.index + 1].foldl (fun m w =>
      onWell w (fun h => { h with
        hotNext := if 1360 < t then true else if t < 1328 then false else h.hotNext }) m) m))) ∧
    (x.kind = 2 → exec (.thmWarn x t) s = nextMach s (tell { m with pwr := { m.pwr with
      cistern := cisternAt m.pwr.cistern t } })) ∧
    (x.kind ≠ 1 → x.kind ≠ 2 → exec (.thmWarn x t) s = nextMach s (tell m))) ∧
  (∀ (s : State) (x : Sensor) (t : Int), absent s.fuses x = false →
    let m := raiseEvt 0x0064 2 (iSensor x.kind x.index) (twos 16 t)
      (bump .thmTrips iModule (setTemp x.kind x.index t s.mach))
    let arg := pack [(4, x.kind), (4, x.index), (24, 0), (16, twos 16 t)] 0
    let trip (d : Nat) : Mach := dieOff s.fuses d (forceHalt s.fuses (partOf m d) 4 arg (cycleNow m (partOf m d)) m)
    (x.kind = 0 → exec (.thmTrip x t) s = nextMach s (trip x.index)) ∧
    (x.kind = 1 → exec (.thmTrip x t) s = nextMach s (trip (x.index / 2))) ∧
    (x.kind = 2 → exec (.thmTrip x t) s = nextMach s { m with pwr := { m.pwr with cistern := 3 } }) ∧
    (x.kind = 3 → exec (.thmTrip x t) s = nextMach s (logicOff m)) ∧
    (4 ≤ x.kind → exec (.thmTrip x t) s = nextMach s m)) ∧
  (∀ (s : State) (d : Fin 4),
    let m := raiseEvt 0x0061 2 (iDie d.val) 6 s.mach
    let p := partOf m d.val
    exec (.railFault (.vcore d)) s = nextMach s (onDie d.val (fun x => { x with failed := true })
      ((diePorts d.val).foldl (portOff s.fuses 3) (forceHalt s.fuses p 3 d.val (cycleNow m p) m)))) ∧
  (∀ (s : State) (n : Nat), exec (.railFault (.other n)) s =
    nextMach s (logicOff (raiseEvt 0x0061 2 iModule n s.mach))) ∧
  (∀ (s : State) (flow : Nat), exec (.coolFlow flow) s = nextMach s (if flow < 160 then
    raiseEvt 0x0065 1 iModule flow (setTemp 4 8 flow s.mach) else setTemp 4 8 flow s.mach)) ∧
  (∀ (s : State) (t : Int), exec (.coolInlet t) s = nextMach s (if 752 < t then
    raiseEvt 0x0066 1 iModule (twos 16 t) (setTemp 4 0 t s.mach) else setTemp 4 0 t s.mach))
end

