-- ==== Sys2Proof/Laws/Issue.lean ====
section
/-! SUPPORT. What the issue of an instruction that executes normally leaves. -/

namespace Sys2Proof.Machine

theorem firstBad_sound (m : Mach) (key : Nat) (l : List Got) (h : ∀ g ∈ l, g.words m key .bad = []) :
    firstBad m key l = {} := by
  induction l with
  | nil => rfl
  | cons g r ih =>
    simp only [firstBad, h g (List.mem_cons_self ..), true_or, if_true]
    exact ih (fun y hy => h y (List.mem_cons_of_mem _ hy))

theorem noteCorrected_nil (key port : Nat) (cache : Bool) (c : Option Nat) (beat : Nat) (m : Mach) :
    noteCorrected key port cache c beat [] m = m := by simp [noteCorrected]

theorem noteBad_nil (key : Nat) (cache : Bool) (beat : Nat) (m : Mach) : noteBad key cache beat [] m = m := by
  simp [noteBad]

theorem countReads_sound (m0 : Mach) (key cut : Nat) (m : Mach) (l : List Got)
    (h : ∀ g ∈ l, g.words m0 key .corrected = [] ∧ g.words m0 key .bad = []) : countReads m0 key cut l m = m := by
  induction l with
  | nil => rfl
  | cons g r ih =>
    have i := ih (fun y hy => h y (List.mem_cons_of_mem _ hy))
    obtain ⟨h1, h2⟩ := h g (List.mem_cons_self ..)
    unfold countReads at i ⊢
    rw [List.foldl_cons]
    simp only [h1, h2, noteCorrected_nil, noteBad_nil, ite_self]
    exact i

theorem readsSound_words {x : Ctx} {sp : Spec} (h : readsSound x sp = true) :
    ∀ g ∈ gotsOf x sp, g.words x.m x.key .corrected = [] ∧ g.words x.m x.key .bad = [] := by
  simpa only [readsSound, List.all_eq_true, Bool.and_eq_true, List.isEmpty_iff] using h

@[simp] theorem lets_none (c : Nat) : Cut.lets {} c = true := by
  simp only [Cut.lets, farAway, true_or, decide_true]

theorem filter_lets_none (l : List LateWrite) : l.filter (fun w => Cut.lets {} w.cycle) = l :=
  List.filter_eq_self.2 (fun _ _ => lets_none _)

@[simp] theorem isOf_nil (w : LateWrite) : w.isOf [] = false := by simp [LateWrite.isOf]

theorem firstClash_nil : firstClash [] = none := by simp [firstClash, minOf]

@[simp] theorem recallFor_nil (fz : Fuses) (key : Nat) (m : Mach) : recallFor fz key [] [] m = m := by simp [recallFor]

/-- An effect without writes makes none. -/
@[simp] theorem writeOut_nil (x : Ctx) (m : Mach) : writeOut x [] [] m = m := by
  simp [writeOut, cacheAll, writeAll]

/-- An instruction without a conflict whose reads are sound leaves its effect and nothing else. -/
theorem perform_clean {x : Ctx} {sp : Spec} (eff : Ctx → Cut → Eff) (m : Mach) (hc : clashes x sp = [])
    (hs : readsSound x sp = true) :
    perform x sp eff m =
      (eff x {}).next (writeOut x ((eff x {}).writes.map (ownWrite x)) ((eff x {}).cache.map (ownWrite x))
        (onIssue x sp [] {} (gotsOf x sp) (eff x {}) m)) := by
  have h := readsSound_words hs
  have h1 : firstBad x.m x.key (gotsOf x sp) = {} := firstBad_sound _ _ _ (fun g hg => (h g hg).2)
  have h2 (cut : Nat) : countReads x.m x.key cut (gotsOf x sp) m = m := countReads_sound _ _ _ _ _ h
  unfold perform
  simp only [h1, hc, h2, firstClash_nil, Option.filter_none, if_true, filter_lets_none, isOf_nil, Bool.not_false,
    show ({} : Cut).cycle = farAway from rfl, List.filter_eq_self.2 (fun _ _ => rfl)]

/-- The machine and the place of a context are those of its queue; nothing has been read for it. -/
theorem ctxOf_m {fz : Fuses} {m : Mach} {a : At} {x : Ctx} (h : ctxOf fz m a = some x) :
    x.m = m ∧ x.own = ownOf m x.p x.d x.unit x.q ∧ x.got = [] ∧ x.buf = none := by
  simp only [ctxOf, ctxAt, Option.bind_eq_bind, Option.bind_eq_some_iff] at h
  obtain ⟨_, _, _, _, h⟩ := h
  simp only [Option.some.injEq] at h
  subst h
  exact ⟨rfl, rfl, rfl, rfl⟩

/-- An instruction whose accesses meet later makes neither those nor what they meet, and halts in the cycle of the
conflict. -/
theorem perform_meets {x : Ctx} {sp : Spec} {y : Nat × Nat × Nat} (eff : Ctx → Cut → Eff) (m : Mach)
    (hc : firstClash (clashes x sp) = some y) (hy : y.1 < farAway) (hs : readsSound x sp = true)
    (hl : lostHere x y.1 sp ≠ []) :
    perform x sp eff m =
      (let lost := lostHere x y.1 sp
       let got := loseGots x.m lost x.q x.e.off (gotsOf x sp)
       let e := eff { x with got := got } {}
       let m := loseAccs x.fz x.key (lostBefore x y.1 sp) { countReads x.m x.key farAway got m with
         freeCtr := (countReads x.m x.key farAway got m).freeCtr + 1 }
       let n := e.next (writeOut x ((e.writes.map (ownWrite x)).filter (fun w => !w.isOf lost)) (e.cache.map (ownWrite x))
         (onIssue x sp lost {} got e m))
       haltUnit x y.1 0x03 y.2.1 y.2.2 (some x.e.off) { n with freeCtr := n.freeCtr + 1 }) := by
  have h := readsSound_words hs
  have h1 : firstBad x.m x.key (gotsOf x sp) = {} := firstBad_sound _ _ _ (fun g hg => (h g hg).2)
  have h3 : decide (y.1 ≤ ({} : Cut).cycle) = true := decide_eq_true (Nat.le_of_lt hy)
  unfold perform
  simp only [h1, hc, Option.filter, h3, if_true, filter_lets_none, if_neg hl]
  rfl

/-- An instruction that issues does what it performs. -/
theorem issue_at {s : State} {a : At} {r : Row} {x : Ctx} (eff : Ctx → Cut → Eff) (hx : ctxOf s.fuses s.mach a = some x)
    (hw : issuesAt r x = true) :
    issue a r (specRow r) eff s.fuses s.mach = perform x (specRow r x) eff s.mach ∧ readsSound x (specRow r x) = true := by
  obtain ⟨hm, ho, _⟩ := ctxOf_m hx
  simp only [issuesAt, Bool.and_eq_true, decide_eq_true_eq, Bool.not_eq_true'] at hw
  obtain ⟨⟨⟨⟨⟨⟨⟨⟨hr, ha⟩, hb⟩, hact⟩, hv⟩, hp⟩, hca⟩, hh⟩, hs⟩ := hw
  refine ⟨?_, hs⟩
  have hl : pastLimit x = none ∧ autoGate x s.mach = s.mach := by
    unfold inBudget at hb
    unfold pastLimit autoGate
    cases hg : x.qs.gate with
    | none => simp
    | some g =>
      rw [hg] at hb
      simp only [Bool.and_eq_true, decide_eq_true_eq] at hb
      constructor
      · simp [Option.filter]; omega
      · simp only; rw [if_neg (by omega)]
  unfold issue
  rw [hx]
  simp only [hr, ha, hl.1, hl.2, ne_eq, not_true_eq_false, Bool.true_eq_false, or_self, if_false]
  rw [hm] at hact
  rw [if_pos (by rw [← ho]; exact hact)]
  have e : { x with m := s.mach, own := ownOf s.mach x.p x.d x.unit x.q } = x := by
    rw [← ho, ← hm]
  rw [e]
  simp only [Ctx.st, hm] at hh
  unfold issueAt
  simp only [hv, hp, hca, hh, Bool.false_eq_true, if_false, or_self]

/-- An instruction that executes normally leaves its effect. -/
theorem issue_well {s : State} {a : At} {r : Row} {x : Ctx} (eff : Ctx → Cut → Eff) (h : Issues s a r x) :
    issue a r (specRow r) eff s.fuses s.mach = issueOf x r (eff x {}) s.mach := by
  obtain ⟨e, hs⟩ := issue_at eff h.1 h.2.1
  rw [e]
  exact perform_clean eff s.mach h.2.2 hs

/-- A read of an instruction that issues is one of the beat as it stands. -/
theorem read_here {fz : Fuses} {m : Mach} {a : At} {x : Ctx} (h : ctxOf fz m a = some x) (c b : Nat) :
    x.read c b = readBeat x.m x.key x.own c b ∧ x.beat true c b = readCache x.m x.key x.own c b := by
  simp [Ctx.read, Ctx.beat, (ctxOf_m h).2.2.1]

/-! ### Conflicts -/

/-- The clashes of two accesses. -/
def pairClash (a b : Acc) : List (Nat × Nat × Nat) :=
  (if portClash a b then [(clashCycle a b, 3, a.port)] else []) ++ (if bankClash a b then [(clashCycle a b, 2, a.bank)] else [])

/-- The clashes of accesses among themselves are those of their pairs. -/
theorem mem_clashesOf (a : Acc) (r : List Acc) (e : Nat × Nat × Nat) :
    e ∈ clashesOf [] (a :: r) ↔ (∃ b ∈ r, e ∈ pairClash a b) ∨ e ∈ clashesOf [] r := by
  have f (l : List Acc) (acc : List (Nat × Nat × Nat)) : e ∈ l.foldl (fun l b =>
        let l := if bankClash a b then (clashCycle a b, 2, a.bank) :: l else l
        if portClash a b then (clashCycle a b, 3, a.port) :: l else l) acc ↔ (∃ b ∈ l, e ∈ pairClash a b) ∨ e ∈ acc := by
    induction l generalizing acc with
    | nil => simp
    | cons b l ih =>
      rw [List.foldl_cons, ih]
      cases h1 : bankClash a b <;> cases h2 : portClash a b <;> simp [pairClash, h1, h2] <;> grind
  simp only [clashesOf, List.nil_append, List.mem_append, f, List.not_mem_nil, or_false]

/-- Two accesses without further cycles clash in the cycle of both. -/
theorem pairClash_cycle {a b : Acc} {e : Nat × Nat × Nat} (ha : a.hold = 0) (hb : b.hold = 0) (h : e ∈ pairClash a b) :
    a.cycle = e.1 ∧ b.cycle = e.1 := by
  rw [pairClash, List.mem_append] at h
  rcases h with h | h
  · split at h
    · rename_i c
      have e := List.mem_singleton.1 h
      rw [e]
      simp only [portClash, Bool.and_eq_true, beq_iff_eq] at c
      simp only [clashCycle]; grind
    · cases h
  · split at h
    · rename_i c
      have e := List.mem_singleton.1 h
      rw [e]
      simp only [bankClash, Bool.and_eq_true, decide_eq_true_eq, ha, hb] at c
      simp only [clashCycle]; grind
    · cases h

/-- Accesses without further cycles clash with those of their own cycle only. -/
theorem clashesOf_at (l : List Acc) (e : Nat × Nat × Nat) (h : ∀ a ∈ l, a.hold = 0) :
    e ∈ clashesOf [] l ↔ e ∈ clashesOf [] (l.filter (fun a => a.cycle == e.1)) := by
  induction l with
  | nil => rfl
  | cons a r ih =>
    have ih := ih (fun b hb => h b (List.mem_cons_of_mem _ hb))
    have ha := h a (List.mem_cons_self ..)
    have g : (∃ b ∈ r, e ∈ pairClash a b) ↔ a.cycle = e.1 ∧ ∃ b ∈ r.filter (fun a => a.cycle == e.1), e ∈ pairClash a b := by
      constructor
      · rintro ⟨b, hb, he⟩
        have := pairClash_cycle ha (h b (List.mem_cons_of_mem _ hb)) he
        exact ⟨this.1, b, List.mem_filter.2 ⟨hb, by simp [this.2]⟩, he⟩
      · rintro ⟨_, b, hb, he⟩
        exact ⟨b, (List.mem_filter.1 hb).1, he⟩
    rw [mem_clashesOf, g, ih]
    by_cases c : a.cycle = e.1
    · rw [List.filter_cons_of_pos (by simp [c]), mem_clashesOf]; simp [c]
    · rw [List.filter_cons_of_neg (by simp [c])]; simp [c]

/-- Where there is a clash there is a first one, no later. -/
theorem firstClash_some {l : List (Nat × Nat × Nat)} {e : Nat × Nat × Nat} (h : e ∈ l) :
    ∃ y, firstClash l = some y ∧ y.1 ≤ e.1 := by
  have m (l : List Nat) (k : Nat) (h : k ∈ l) : ∃ c, minOf l = some c ∧ c ≤ k ∧ c ∈ l := by
    induction l generalizing k with
    | nil => cases h
    | cons x r ih =>
      rw [minOf]
      cases hr : minOf r with
      | none =>
        rcases List.mem_cons.1 h with rfl | h
        · exact ⟨_, rfl, Nat.le_refl _, List.mem_cons_self ..⟩
        · obtain ⟨c, hc, _⟩ := ih k h
          rw [hr] at hc; cases hc
      | some y =>
        have hy : y ∈ r := by
          cases r with
          | nil => cases hr
          | cons z t =>
            obtain ⟨c, hc, _, i⟩ := ih z (List.mem_cons_self ..)
            rw [hr] at hc; cases hc; exact i
        have hle : k ∈ r → y ≤ k := fun hk => by
          obtain ⟨c, hc, i, _⟩ := ih k hk
          rw [hr] at hc; cases hc; exact i
        refine ⟨_, rfl, ?_, ?_⟩
        · rcases List.mem_cons.1 h with rfl | h
          · split <;> omega
          · have := hle h
            split <;> omega
        · split
          · exact List.mem_cons_self ..
          · exact List.mem_cons_of_mem _ hy
  have p (l : List (Nat × Nat)) (x : Nat × Nat) (h : x ∈ l) : ∃ y, leastPair l = some y := by
    cases l with
    | nil => cases h
    | cons z r =>
      rw [leastPair]
      cases leastPair r with
      | none => exact ⟨_, rfl⟩
      | some y => exact ⟨_, rfl⟩
  obtain ⟨c, h1, h2, h3⟩ := m (l.map (fun x => x.1)) e.1 (List.mem_map.2 ⟨e, h, rfl⟩)
  obtain ⟨z, hz, rfl⟩ := List.mem_map.1 h3
  obtain ⟨y, hy⟩ := p ((l.filter (fun x => x.1 == z.1)).map (fun x => x.2)) z.2
    (List.mem_map.2 ⟨z, List.mem_filter.2 ⟨hz, by simp⟩, rfl⟩)
  exact ⟨(z.1, y), by simp only [firstClash, h1, hy, Option.map_some], h2⟩

/-- A clash is one of an access with a recorded one or with one that follows it. -/
theorem clash_pair (old l : List Acc) (e : Nat × Nat × Nat) (h : e ∈ clashesOf old l) :
    ∃ pre a post b, l = pre ++ a :: post ∧ b ∈ old ++ post ∧ e ∈ pairClash a b := by
  induction l with
  | nil => cases h
  | cons a r ih =>
    have f (l : List Acc) (acc : List (Nat × Nat × Nat)) : e ∈ l.foldl (fun l b =>
        let l := if bankClash a b then (clashCycle a b, 2, a.bank) :: l else l
        if portClash a b then (clashCycle a b, 3, a.port) :: l else l) acc → (∃ b ∈ l, e ∈ pairClash a b) ∨ e ∈ acc := by
      induction l generalizing acc with
      | nil => simp
      | cons b l ih =>
        rw [List.foldl_cons]
        intro h
        rcases ih _ h with ⟨c, hc, he⟩ | h
        · exact .inl ⟨c, List.mem_cons_of_mem _ hc, he⟩
        · cases h1 : bankClash a b <;> cases h2 : portClash a b <;> simp [pairClash, h1, h2] at h ⊢ <;> grind
    rw [clashesOf, List.mem_append] at h
    rcases h with h | h
    · rcases f _ _ h with ⟨b, hb, he⟩ | h
      · exact ⟨[], a, r, b, rfl, hb, he⟩
      · cases h
    · obtain ⟨pre, c, post, b, rfl, hb, he⟩ := ih h
      exact ⟨a :: pre, c, post, b, rfl, hb, he⟩

/-- Two accesses of a clash meet, in its cycle. -/
theorem pairClash_meets {a b : Acc} {e : Nat × Nat × Nat} (h : e ∈ pairClash a b) :
    anyClash a b = true ∧ clashCycle a b = e.1 := by
  rw [pairClash, List.mem_append] at h
  unfold anyClash
  rcases h with h | h <;> split at h <;> first | (cases h; done) | (rename_i c; rw [List.mem_singleton.1 h]; simp [c])

/-- The first clash is one of them. -/
theorem firstClash_mem {l : List (Nat × Nat × Nat)} {y : Nat × Nat × Nat} (h : firstClash l = some y) : y ∈ l := by
  have p (l : List (Nat × Nat)) (y : Nat × Nat) (h : leastPair l = some y) : y ∈ l := by
    induction l generalizing y with
    | nil => cases h
    | cons x r ih =>
      rw [leastPair] at h
      split at h
      · cases h; exact List.mem_cons_self ..
      · rename_i z hz
        cases h
        split
        · exact List.mem_cons_self ..
        · exact List.mem_cons_of_mem _ (ih z hz)
  unfold firstClash at h
  split at h
  · cases h
  · rename_i c hc
    cases hq : leastPair ((l.filter (fun x => x.1 == c)).map (fun x => x.2)) with
    | none => rw [hq] at h; cases h
    | some z =>
      rw [hq] at h
      cases h
      obtain ⟨w, hw, rfl⟩ := List.mem_map.1 (p _ _ hq)
      obtain ⟨hw, he⟩ := List.mem_filter.1 hw
      have : w.1 = c := by simpa using he
      subst this; exact (List.mem_filter.1 ‹_ ∈ List.filter _ l›).1

/-- An instruction whose accesses meet others loses some of its own. -/
theorem lostHere_some {x : Ctx} {sp : Spec} {y : Nat × Nat × Nat} (h : firstClash (clashes x sp) = some y) :
    lostHere x y.1 sp ≠ [] := by
  obtain ⟨pre, a, post, b, hl, hb, he⟩ := clash_pair _ _ _ (firstClash_mem h)
  obtain ⟨h1, h2⟩ := pairClash_meets he
  have hi : (a, pre.length) ∈ (newAccs x sp).zipIdx := by
    rw [hl, List.mem_zipIdx_iff_getElem?]; simp
  have hb : b ∈ nearAccs x ++ (((newAccs x sp).zipIdx).filter (fun (_, j) => j != pre.length)).map (fun y => y.1) := by
    rcases List.mem_append.1 hb with hb | hb
    · exact List.mem_append_left _ hb
    · apply List.mem_append_right
      obtain ⟨i, hi⟩ := List.mem_iff_getElem?.1 hb
      refine List.mem_map.2 ⟨(b, pre.length + (i + 1)), List.mem_filter.2 ⟨?_, by simp⟩, rfl⟩
      rw [hl, List.mem_zipIdx_iff_getElem?]
      simp [List.getElem?_append_right, hi]
  have : a ∈ lostHere x y.1 sp := by
    unfold lostHere
    refine List.mem_map.2 ⟨(a, pre.length), List.mem_filter.2 ⟨hi, ?_⟩, rfl⟩
    exact List.any_eq_true.2 ⟨b, hb, by simp [h1, h2]⟩
  exact List.ne_nil_of_mem this
end Sys2Proof.Machine
end

