-- ==== Sys2Proof/Laws/Tables.lean ====
section
/-! SUPPORT. Laws of tables: what reading a key gives after a change, and the canonical form. -/

namespace Sys2Proof.Machine

variable {α : Type}

/-! ### Reading after a change -/

@[simp] theorem tget_nil (d : α) (k : Nat) : tget d [] k = d := rfl

@[simp] theorem tget_tset_same (d : α) (t : Table α) (k : Nat) (v : α) : tget d (tset t k v) k = v := by
  induction t with
  | nil => simp [tset, tget]
  | cons e r ih =>
    obtain ⟨j, w⟩ := e
    unfold tset
    split
    · simp [tget]
    · split
      · simp [tget]
      · simp only [tget]
        rw [if_neg (by omega), ih]

theorem tget_tset_other (d : α) (t : Table α) {k i : Nat} (v : α) (h : i ≠ k) :
    tget d (tset t k v) i = tget d t i := by
  induction t with
  | nil => simp [tset, tget, h.symm]
  | cons e r ih =>
    obtain ⟨j, w⟩ := e
    unfold tset
    split
    · simp only [tget]; rw [if_neg h.symm]
    · split
      · next h1 h2 => subst h2; simp only [tget]; rw [if_neg h.symm, if_neg h.symm]
      · simp only [tget, ih]

@[simp] theorem tget_tdel_same (d : α) (t : Table α) (k : Nat) : tget d (tdel t k) k = d := by
  induction t with
  | nil => rfl
  | cons e r ih =>
    obtain ⟨j, w⟩ := e
    unfold tdel
    split
    · exact ih
    · next h => simp only [tget]; rw [if_neg h, ih]

theorem tget_tdel_other (d : α) (t : Table α) {k i : Nat} (h : i ≠ k) : tget d (tdel t k) i = tget d t i := by
  induction t with
  | nil => rfl
  | cons e r ih =>
    obtain ⟨j, w⟩ := e
    unfold tdel
    split
    · next e => subst e; simp only [tget]; rw [if_neg h.symm, ih]
    · simp only [tget, ih]

variable [DecidableEq α]

@[simp] theorem tget_tput_same (d : α) (t : Table α) (k : Nat) (v : α) : tget d (tput d t k v) k = v := by
  unfold tput
  split
  · next h => rw [tget_tdel_same, h]
  · exact tget_tset_same d t k v

theorem tget_tput_other (d : α) (t : Table α) {k i : Nat} (v : α) (h : i ≠ k) :
    tget d (tput d t k v) i = tget d t i := by
  unfold tput
  split
  · exact tget_tdel_other d t h
  · exact tget_tset_other d t v h

theorem tget_tput (d : α) (t : Table α) (k i : Nat) (v : α) :
    tget d (tput d t k v) i = if i = k then v else tget d t i := by
  split
  · next h => subst h; exact tget_tput_same d t i v
  · next h => exact tget_tput_other d t v h

@[simp] theorem tget_tmod_same (d : α) (t : Table α) (k : Nat) (f : α → α) :
    tget d (tmod d t k f) k = f (tget d t k) := tget_tput_same d t k _

theorem tget_tmod_other (d : α) (t : Table α) {k i : Nat} (f : α → α) (h : i ≠ k) :
    tget d (tmod d t k f) i = tget d t i := tget_tput_other d t _ h

theorem tget_tmod (d : α) (t : Table α) (k i : Nat) (f : α → α) :
    tget d (tmod d t k f) i = if i = k then f (tget d t k) else tget d t i := tget_tput d t k i _

/-! ### The canonical form -/

theorem tableWfFrom_mono (d : α) {lo hi : Nat} (t : Table α) (h : lo ≤ hi) (w : tableWfFrom d hi t = true) :
    tableWfFrom d lo t = true := by
  cases t with
  | nil => rfl
  | cons e r =>
    obtain ⟨j, v⟩ := e
    simp only [tableWfFrom, Bool.and_eq_true, decide_eq_true_eq] at w ⊢
    exact ⟨⟨by omega, w.1.2⟩, w.2⟩

theorem tableWfFrom_tset (d : α) {lo : Nat} (t : Table α) (k : Nat) (v : α) (hk : lo ≤ k) (hv : v ≠ d)
    (w : tableWfFrom d lo t = true) : tableWfFrom d lo (tset t k v) = true := by
  induction t generalizing lo with
  | nil => simp [tset, tableWfFrom, hk, hv]
  | cons e r ih =>
    obtain ⟨j, x⟩ := e
    simp only [tableWfFrom, Bool.and_eq_true, decide_eq_true_eq] at w
    unfold tset
    split
    · next h => simp only [tableWfFrom, Bool.and_eq_true, decide_eq_true_eq]; exact ⟨⟨hk, hv⟩, ⟨by omega, w.1.2⟩, w.2⟩
    · split
      · next h => subst h; simp only [tableWfFrom, Bool.and_eq_true, decide_eq_true_eq]; exact ⟨⟨hk, hv⟩, w.2⟩
      · next h1 h2 =>
        simp only [tableWfFrom, Bool.and_eq_true, decide_eq_true_eq]
        exact ⟨w.1, ih (by omega) w.2⟩

theorem tableWfFrom_tdel (d : α) {lo : Nat} (t : Table α) (k : Nat) (w : tableWfFrom d lo t = true) :
    tableWfFrom d lo (tdel t k) = true := by
  induction t generalizing lo with
  | nil => rfl
  | cons e r ih =>
    obtain ⟨j, x⟩ := e
    simp only [tableWfFrom, Bool.and_eq_true, decide_eq_true_eq] at w
    unfold tdel
    split
    · exact ih (tableWfFrom_mono d r (by omega) w.2)
    · simp only [tableWfFrom, Bool.and_eq_true, decide_eq_true_eq]; exact ⟨w.1, ih w.2⟩

/-- Writing a key keeps the canonical form. -/
theorem tableWf_tput (d : α) (t : Table α) (k : Nat) (v : α) (w : tableWf d t = true) :
    tableWf d (tput d t k v) = true := by
  unfold tput
  split
  · exact tableWfFrom_tdel d t k w
  · next h => exact tableWfFrom_tset d t k v (Nat.zero_le k) h w

/-- Dropping entries keeps the canonical form. -/
theorem tableWfFrom_filter (d : α) {lo : Nat} (t : Table α) (f : Nat × α → Bool) (w : tableWfFrom d lo t = true) :
    tableWfFrom d lo (t.filter f) = true := by
  induction t generalizing lo with
  | nil => rfl
  | cons e r ih =>
    obtain ⟨j, x⟩ := e
    simp only [tableWfFrom, Bool.and_eq_true, decide_eq_true_eq] at w
    rw [List.filter_cons]
    split
    · simp only [tableWfFrom, Bool.and_eq_true, decide_eq_true_eq]; exact ⟨w.1, ih w.2⟩
    · exact ih (tableWfFrom_mono d r (by omega) w.2)

end Sys2Proof.Machine
end

