-- ==== Sys2Proof/Laws/Memory.lean ====
section
/-! SUPPORT. Laws of memories: what a byte reads as after a write, and that every operation keeps the canonical
form. -/

namespace Sys2Proof.Machine

/-! ### One memory -/

@[simp] theorem peek_poke_same (m : List Host.Cell) (a : Nat) (b : Byte) : peek (poke m a b) a = b :=
  tget_tput_same 0 m a b

theorem peek_poke_other (m : List Host.Cell) {a c : Nat} (b : Byte) (h : c ≠ a) : peek (poke m a b) c = peek m c :=
  tget_tput_other 0 m b h

/-- A write leaves every byte outside it alone. -/
theorem peek_pokes_outside (m : List Host.Cell) (a c : Nat) (l : List Byte) (h : c < a ∨ a + l.length ≤ c) :
    peek (pokes m a l) c = peek m c := by
  induction l generalizing m a with
  | nil => rfl
  | cons b r ih =>
    simp only [List.length_cons] at h
    simp only [pokes]
    rw [ih _ _ (by omega), peek_poke_other _ _ (by omega)]

/-- A byte inside a write reads as written. -/
theorem peek_pokes_inside (m : List Host.Cell) (a i : Nat) (l : List Byte) (h : i < l.length) :
    peek (pokes m a l) (a + i) = l[i] := by
  induction l generalizing m a i with
  | nil => simp at h
  | cons b r ih =>
    simp only [pokes]
    cases i with
    | zero => rw [peek_pokes_outside _ _ _ _ (by omega)]; simp
    | succ n =>
      have := ih (poke m a b) (a + 1) n (by simpa using h)
      rw [show a + (n + 1) = a + 1 + n by omega, this]
      rfl

theorem peeks_length (m : List Host.Cell) (a n : Nat) : (peeks m a n).length = n := by
  induction n generalizing a with
  | zero => rfl
  | succ n ih => simp [peeks, ih]

theorem wipe_wf (m : List Host.Cell) (lo hi : Nat) (w : memWf m = true) : memWf (wipe m lo hi) = true :=
  tableWfFrom_filter 0 m _ w

theorem poke_wf (m : List Host.Cell) (a : Nat) (b : Byte) (w : memWf m = true) : memWf (poke m a b) = true :=
  tableWf_tput 0 m a b w

theorem pokes_wf (m : List Host.Cell) (a : Nat) (l : List Byte) (w : memWf m = true) : memWf (pokes m a l) = true := by
  induction l generalizing m a with
  | nil => exact w
  | cons b r ih => exact ih _ _ (poke_wf m a b w)

theorem pokes_each_wf {α : Type} (at_ : α → Nat) (bytes : α → List Byte) (l : List α) (m : List Host.Cell)
    (w : memWf m = true) : memWf (l.foldl (fun c y => pokes c (at_ y) (bytes y)) m) = true := by
  induction l generalizing m with
  | nil => exact w
  | cons y r ih => exact ih _ (pokes_wf m _ _ w)

/-! ### The memories of the module -/

theorem Mems.wf_iff (m : Mems) : m.wf = true ↔ memWf m.scratch = true ∧ memWf m.cache = true ∧ memWf m.hbm = true
    ∧ memWf m.host = true ∧ memWf m.cist = true := by
  simp [Mems.wf, and_assoc]

theorem wf_pokeScratch (k off : Nat) (l : List Byte) (m : Mach) (w : m.mem.wf = true) :
    (pokeScratch k off l m).mem.wf = true := by
  rw [Mems.wf_iff] at w ⊢
  exact ⟨pokes_each_wf _ _ _ _ w.1, w.2⟩

theorem wf_pokeCache (k off : Nat) (l : List Byte) (m : Mach) (w : m.mem.wf = true) :
    (pokeCache k off l m).mem.wf = true := by
  rw [Mems.wf_iff] at w ⊢
  exact ⟨w.1, pokes_wf _ _ _ w.2.1, w.2.2⟩

theorem wf_pokeHbm (a : Nat) (l : List Byte) (m : Mach) (w : m.mem.wf = true) : (pokeHbm a l m).mem.wf = true := by
  rw [Mems.wf_iff] at w ⊢
  exact ⟨w.1, w.2.1, pokes_wf _ _ _ w.2.2.1, w.2.2.2⟩

theorem wf_pokeHost (a : Nat) (l : List Byte) (m : Mach) (w : m.mem.wf = true) : (pokeHost a l m).mem.wf = true := by
  rw [Mems.wf_iff] at w ⊢
  exact ⟨w.1, w.2.1, w.2.2.1, pokes_wf _ _ _ w.2.2.2.1, w.2.2.2.2⟩

theorem wf_pokeCist (a : Nat) (l : List Byte) (m : Mach) (w : m.mem.wf = true) : (pokeCist a l m).mem.wf = true := by
  rw [Mems.wf_iff] at w ⊢
  exact ⟨w.1, w.2.1, w.2.2.1, w.2.2.2.1, pokes_wf _ _ _ w.2.2.2.2⟩

end Sys2Proof.Machine
end

