-- ==== Sys2Proof/Laws/State.lean ====
section
/-! SUPPORT. One law for each field of the changing state and each plain update: the update leaves the field alone. -/

namespace Sys2Proof.Machine

/-! ### pokeScratch -/

@[simp] theorem pokeScratch_dies (k off : Nat) (l : List Byte) (m : Mach) : (pokeScratch k off l m).dies = m.dies := rfl
@[simp] theorem pokeScratch_stations (k off : Nat) (l : List Byte) (m : Mach) :
    (pokeScratch k off l m).stations = m.stations :=
  rfl
@[simp] theorem pokeScratch_wells (k off : Nat) (l : List Byte) (m : Mach) : (pokeScratch k off l m).wells = m.wells :=
  rfl
@[simp] theorem pokeScratch_parts (k off : Nat) (l : List Byte) (m : Mach) : (pokeScratch k off l m).parts = m.parts :=
  rfl
@[simp] theorem pokeScratch_wins (k off : Nat) (l : List Byte) (m : Mach) : (pokeScratch k off l m).wins = m.wins := rfl
@[simp] theorem pokeScratch_mesh (k off : Nat) (l : List Byte) (m : Mach) : (pokeScratch k off l m).mesh = m.mesh := rfl
@[simp] theorem pokeScratch_history (k off : Nat) (l : List Byte) (m : Mach) :
    (pokeScratch k off l m).history = m.history :=
  rfl
@[simp] theorem pokeScratch_hosts (k off : Nat) (l : List Byte) (m : Mach) : (pokeScratch k off l m).hosts = m.hosts :=
  rfl
@[simp] theorem pokeScratch_links (k off : Nat) (l : List Byte) (m : Mach) : (pokeScratch k off l m).links = m.links :=
  rfl
@[simp] theorem pokeScratch_ports (k off : Nat) (l : List Byte) (m : Mach) : (pokeScratch k off l m).ports = m.ports :=
  rfl
@[simp] theorem pokeScratch_rte (k off : Nat) (l : List Byte) (m : Mach) : (pokeScratch k off l m).rte = m.rte := rfl
@[simp] theorem pokeScratch_aborts (k off : Nat) (l : List Byte) (m : Mach) :
    (pokeScratch k off l m).aborts = m.aborts :=
  rfl
@[simp] theorem pokeScratch_ctrs (k off : Nat) (l : List Byte) (m : Mach) : (pokeScratch k off l m).ctrs = m.ctrs := rfl
@[simp] theorem pokeScratch_evtCfg (k off : Nat) (l : List Byte) (m : Mach) :
    (pokeScratch k off l m).evtCfg = m.evtCfg :=
  rfl
@[simp] theorem pokeScratch_clk (k off : Nat) (l : List Byte) (m : Mach) : (pokeScratch k off l m).clk = m.clk := rfl
@[simp] theorem pokeScratch_moduleId (k off : Nat) (l : List Byte) (m : Mach) :
    (pokeScratch k off l m).moduleId = m.moduleId :=
  rfl
@[simp] theorem pokeScratch_located (k off : Nat) (l : List Byte) (m : Mach) :
    (pokeScratch k off l m).located = m.located :=
  rfl
@[simp] theorem pokeScratch_boot (k off : Nat) (l : List Byte) (m : Mach) : (pokeScratch k off l m).boot = m.boot := rfl
@[simp] theorem pokeScratch_change (k off : Nat) (l : List Byte) (m : Mach) :
    (pokeScratch k off l m).change = m.change :=
  rfl
@[simp] theorem pokeScratch_operatorKey (k off : Nat) (l : List Byte) (m : Mach) :
    (pokeScratch k off l m).operatorKey = m.operatorKey :=
  rfl
@[simp] theorem pokeScratch_custodianKey (k off : Nat) (l : List Byte) (m : Mach) :
    (pokeScratch k off l m).custodianKey = m.custodianKey :=
  rfl
@[simp] theorem pokeScratch_mgmtTag (k off : Nat) (l : List Byte) (m : Mach) :
    (pokeScratch k off l m).mgmtTag = m.mgmtTag :=
  rfl
@[simp] theorem pokeScratch_fw (k off : Nat) (l : List Byte) (m : Mach) : (pokeScratch k off l m).fw = m.fw := rfl
@[simp] theorem pokeScratch_wch (k off : Nat) (l : List Byte) (m : Mach) : (pokeScratch k off l m).wch = m.wch := rfl
@[simp] theorem pokeScratch_pwr (k off : Nat) (l : List Byte) (m : Mach) : (pokeScratch k off l m).pwr = m.pwr := rfl
@[simp] theorem pokeScratch_eccFill (k off : Nat) (l : List Byte) (m : Mach) :
    (pokeScratch k off l m).eccFill = m.eccFill :=
  rfl
@[simp] theorem pokeScratch_hostErr (k off : Nat) (l : List Byte) (m : Mach) :
    (pokeScratch k off l m).hostErr = m.hostErr :=
  rfl
@[simp] theorem pokeScratch_cistErr (k off : Nat) (l : List Byte) (m : Mach) :
    (pokeScratch k off l m).cistErr = m.cistErr :=
  rfl
@[simp] theorem pokeScratch_cistCrc (k off : Nat) (l : List Byte) (m : Mach) :
    (pokeScratch k off l m).cistCrc = m.cistCrc :=
  rfl
@[simp] theorem pokeScratch_cistTurn (k off : Nat) (l : List Byte) (m : Mach) :
    (pokeScratch k off l m).cistTurn = m.cistTurn :=
  rfl
@[simp] theorem pokeScratch_out (k off : Nat) (l : List Byte) (m : Mach) : (pokeScratch k off l m).out = m.out := rfl
@[simp] theorem pokeScratch_freeCtr (k off : Nat) (l : List Byte) (m : Mach) :
    (pokeScratch k off l m).freeCtr = m.freeCtr :=
  rfl

/-! ### pokeCache -/

@[simp] theorem pokeCache_dies (k off : Nat) (l : List Byte) (m : Mach) : (pokeCache k off l m).dies = m.dies := rfl
@[simp] theorem pokeCache_stations (k off : Nat) (l : List Byte) (m : Mach) :
    (pokeCache k off l m).stations = m.stations :=
  rfl
@[simp] theorem pokeCache_wells (k off : Nat) (l : List Byte) (m : Mach) : (pokeCache k off l m).wells = m.wells := rfl
@[simp] theorem pokeCache_parts (k off : Nat) (l : List Byte) (m : Mach) : (pokeCache k off l m).parts = m.parts := rfl
@[simp] theorem pokeCache_wins (k off : Nat) (l : List Byte) (m : Mach) : (pokeCache k off l m).wins = m.wins := rfl
@[simp] theorem pokeCache_mesh (k off : Nat) (l : List Byte) (m : Mach) : (pokeCache k off l m).mesh = m.mesh := rfl
@[simp] theorem pokeCache_history (k off : Nat) (l : List Byte) (m : Mach) :
    (pokeCache k off l m).history = m.history :=
  rfl
@[simp] theorem pokeCache_hosts (k off : Nat) (l : List Byte) (m : Mach) : (pokeCache k off l m).hosts = m.hosts := rfl
@[simp] theorem pokeCache_links (k off : Nat) (l : List Byte) (m : Mach) : (pokeCache k off l m).links = m.links := rfl
@[simp] theorem pokeCache_ports (k off : Nat) (l : List Byte) (m : Mach) : (pokeCache k off l m).ports = m.ports := rfl
@[simp] theorem pokeCache_rte (k off : Nat) (l : List Byte) (m : Mach) : (pokeCache k off l m).rte = m.rte := rfl
@[simp] theorem pokeCache_aborts (k off : Nat) (l : List Byte) (m : Mach) : (pokeCache k off l m).aborts = m.aborts :=
  rfl
@[simp] theorem pokeCache_ctrs (k off : Nat) (l : List Byte) (m : Mach) : (pokeCache k off l m).ctrs = m.ctrs := rfl
@[simp] theorem pokeCache_evtCfg (k off : Nat) (l : List Byte) (m : Mach) : (pokeCache k off l m).evtCfg = m.evtCfg :=
  rfl
@[simp] theorem pokeCache_clk (k off : Nat) (l : List Byte) (m : Mach) : (pokeCache k off l m).clk = m.clk := rfl
@[simp] theorem pokeCache_moduleId (k off : Nat) (l : List Byte) (m : Mach) :
    (pokeCache k off l m).moduleId = m.moduleId :=
  rfl
@[simp] theorem pokeCache_located (k off : Nat) (l : List Byte) (m : Mach) :
    (pokeCache k off l m).located = m.located :=
  rfl
@[simp] theorem pokeCache_boot (k off : Nat) (l : List Byte) (m : Mach) : (pokeCache k off l m).boot = m.boot := rfl
@[simp] theorem pokeCache_change (k off : Nat) (l : List Byte) (m : Mach) : (pokeCache k off l m).change = m.change :=
  rfl
@[simp] theorem pokeCache_operatorKey (k off : Nat) (l : List Byte) (m : Mach) :
    (pokeCache k off l m).operatorKey = m.operatorKey :=
  rfl
@[simp] theorem pokeCache_custodianKey (k off : Nat) (l : List Byte) (m : Mach) :
    (pokeCache k off l m).custodianKey = m.custodianKey :=
  rfl
@[simp] theorem pokeCache_mgmtTag (k off : Nat) (l : List Byte) (m : Mach) :
    (pokeCache k off l m).mgmtTag = m.mgmtTag :=
  rfl
@[simp] theorem pokeCache_fw (k off : Nat) (l : List Byte) (m : Mach) : (pokeCache k off l m).fw = m.fw := rfl
@[simp] theorem pokeCache_wch (k off : Nat) (l : List Byte) (m : Mach) : (pokeCache k off l m).wch = m.wch := rfl
@[simp] theorem pokeCache_pwr (k off : Nat) (l : List Byte) (m : Mach) : (pokeCache k off l m).pwr = m.pwr := rfl
@[simp] theorem pokeCache_eccFill (k off : Nat) (l : List Byte) (m : Mach) :
    (pokeCache k off l m).eccFill = m.eccFill :=
  rfl
@[simp] theorem pokeCache_hostErr (k off : Nat) (l : List Byte) (m : Mach) :
    (pokeCache k off l m).hostErr = m.hostErr :=
  rfl
@[simp] theorem pokeCache_cistErr (k off : Nat) (l : List Byte) (m : Mach) :
    (pokeCache k off l m).cistErr = m.cistErr :=
  rfl
@[simp] theorem pokeCache_cistCrc (k off : Nat) (l : List Byte) (m : Mach) :
    (pokeCache k off l m).cistCrc = m.cistCrc :=
  rfl
@[simp] theorem pokeCache_cistTurn (k off : Nat) (l : List Byte) (m : Mach) :
    (pokeCache k off l m).cistTurn = m.cistTurn :=
  rfl
@[simp] theorem pokeCache_out (k off : Nat) (l : List Byte) (m : Mach) : (pokeCache k off l m).out = m.out := rfl
@[simp] theorem pokeCache_freeCtr (k off : Nat) (l : List Byte) (m : Mach) :
    (pokeCache k off l m).freeCtr = m.freeCtr :=
  rfl

/-! ### pokeHbm -/

@[simp] theorem pokeHbm_dies (a : Nat) (l : List Byte) (m : Mach) : (pokeHbm a l m).dies = m.dies := rfl
@[simp] theorem pokeHbm_stations (a : Nat) (l : List Byte) (m : Mach) : (pokeHbm a l m).stations = m.stations := rfl
@[simp] theorem pokeHbm_wells (a : Nat) (l : List Byte) (m : Mach) : (pokeHbm a l m).wells = m.wells := rfl
@[simp] theorem pokeHbm_parts (a : Nat) (l : List Byte) (m : Mach) : (pokeHbm a l m).parts = m.parts := rfl
@[simp] theorem pokeHbm_wins (a : Nat) (l : List Byte) (m : Mach) : (pokeHbm a l m).wins = m.wins := rfl
@[simp] theorem pokeHbm_mesh (a : Nat) (l : List Byte) (m : Mach) : (pokeHbm a l m).mesh = m.mesh := rfl
@[simp] theorem pokeHbm_history (a : Nat) (l : List Byte) (m : Mach) : (pokeHbm a l m).history = m.history := rfl
@[simp] theorem pokeHbm_hosts (a : Nat) (l : List Byte) (m : Mach) : (pokeHbm a l m).hosts = m.hosts := rfl
@[simp] theorem pokeHbm_links (a : Nat) (l : List Byte) (m : Mach) : (pokeHbm a l m).links = m.links := rfl
@[simp] theorem pokeHbm_ports (a : Nat) (l : List Byte) (m : Mach) : (pokeHbm a l m).ports = m.ports := rfl
@[simp] theorem pokeHbm_rte (a : Nat) (l : List Byte) (m : Mach) : (pokeHbm a l m).rte = m.rte := rfl
@[simp] theorem pokeHbm_aborts (a : Nat) (l : List Byte) (m : Mach) : (pokeHbm a l m).aborts = m.aborts := rfl
@[simp] theorem pokeHbm_ctrs (a : Nat) (l : List Byte) (m : Mach) : (pokeHbm a l m).ctrs = m.ctrs := rfl
@[simp] theorem pokeHbm_evtCfg (a : Nat) (l : List Byte) (m : Mach) : (pokeHbm a l m).evtCfg = m.evtCfg := rfl
@[simp] theorem pokeHbm_clk (a : Nat) (l : List Byte) (m : Mach) : (pokeHbm a l m).clk = m.clk := rfl
@[simp] theorem pokeHbm_moduleId (a : Nat) (l : List Byte) (m : Mach) : (pokeHbm a l m).moduleId = m.moduleId := rfl
@[simp] theorem pokeHbm_located (a : Nat) (l : List Byte) (m : Mach) : (pokeHbm a l m).located = m.located := rfl
@[simp] theorem pokeHbm_boot (a : Nat) (l : List Byte) (m : Mach) : (pokeHbm a l m).boot = m.boot := rfl
@[simp] theorem pokeHbm_change (a : Nat) (l : List Byte) (m : Mach) : (pokeHbm a l m).change = m.change := rfl
@[simp] theorem pokeHbm_operatorKey (a : Nat) (l : List Byte) (m : Mach) :
    (pokeHbm a l m).operatorKey = m.operatorKey :=
  rfl
@[simp] theorem pokeHbm_custodianKey (a : Nat) (l : List Byte) (m : Mach) :
    (pokeHbm a l m).custodianKey = m.custodianKey :=
  rfl
@[simp] theorem pokeHbm_mgmtTag (a : Nat) (l : List Byte) (m : Mach) : (pokeHbm a l m).mgmtTag = m.mgmtTag := rfl
@[simp] theorem pokeHbm_fw (a : Nat) (l : List Byte) (m : Mach) : (pokeHbm a l m).fw = m.fw := rfl
@[simp] theorem pokeHbm_wch (a : Nat) (l : List Byte) (m : Mach) : (pokeHbm a l m).wch = m.wch := rfl
@[simp] theorem pokeHbm_pwr (a : Nat) (l : List Byte) (m : Mach) : (pokeHbm a l m).pwr = m.pwr := rfl
@[simp] theorem pokeHbm_eccFill (a : Nat) (l : List Byte) (m : Mach) : (pokeHbm a l m).eccFill = m.eccFill := rfl
@[simp] theorem pokeHbm_hostErr (a : Nat) (l : List Byte) (m : Mach) : (pokeHbm a l m).hostErr = m.hostErr := rfl
@[simp] theorem pokeHbm_cistErr (a : Nat) (l : List Byte) (m : Mach) : (pokeHbm a l m).cistErr = m.cistErr := rfl
@[simp] theorem pokeHbm_cistCrc (a : Nat) (l : List Byte) (m : Mach) : (pokeHbm a l m).cistCrc = m.cistCrc := rfl
@[simp] theorem pokeHbm_cistTurn (a : Nat) (l : List Byte) (m : Mach) : (pokeHbm a l m).cistTurn = m.cistTurn := rfl
@[simp] theorem pokeHbm_out (a : Nat) (l : List Byte) (m : Mach) : (pokeHbm a l m).out = m.out := rfl
@[simp] theorem pokeHbm_freeCtr (a : Nat) (l : List Byte) (m : Mach) : (pokeHbm a l m).freeCtr = m.freeCtr := rfl

/-! ### pokeHost -/

@[simp] theorem pokeHost_dies (a : Nat) (l : List Byte) (m : Mach) : (pokeHost a l m).dies = m.dies := rfl
@[simp] theorem pokeHost_stations (a : Nat) (l : List Byte) (m : Mach) : (pokeHost a l m).stations = m.stations := rfl
@[simp] theorem pokeHost_wells (a : Nat) (l : List Byte) (m : Mach) : (pokeHost a l m).wells = m.wells := rfl
@[simp] theorem pokeHost_parts (a : Nat) (l : List Byte) (m : Mach) : (pokeHost a l m).parts = m.parts := rfl
@[simp] theorem pokeHost_wins (a : Nat) (l : List Byte) (m : Mach) : (pokeHost a l m).wins = m.wins := rfl
@[simp] theorem pokeHost_mesh (a : Nat) (l : List Byte) (m : Mach) : (pokeHost a l m).mesh = m.mesh := rfl
@[simp] theorem pokeHost_history (a : Nat) (l : List Byte) (m : Mach) : (pokeHost a l m).history = m.history := rfl
@[simp] theorem pokeHost_hosts (a : Nat) (l : List Byte) (m : Mach) : (pokeHost a l m).hosts = m.hosts := rfl
@[simp] theorem pokeHost_links (a : Nat) (l : List Byte) (m : Mach) : (pokeHost a l m).links = m.links := rfl
@[simp] theorem pokeHost_ports (a : Nat) (l : List Byte) (m : Mach) : (pokeHost a l m).ports = m.ports := rfl
@[simp] theorem pokeHost_rte (a : Nat) (l : List Byte) (m : Mach) : (pokeHost a l m).rte = m.rte := rfl
@[simp] theorem pokeHost_aborts (a : Nat) (l : List Byte) (m : Mach) : (pokeHost a l m).aborts = m.aborts := rfl
@[simp] theorem pokeHost_ctrs (a : Nat) (l : List Byte) (m : Mach) : (pokeHost a l m).ctrs = m.ctrs := rfl
@[simp] theorem pokeHost_evtCfg (a : Nat) (l : List Byte) (m : Mach) : (pokeHost a l m).evtCfg = m.evtCfg := rfl
@[simp] theorem pokeHost_clk (a : Nat) (l : List Byte) (m : Mach) : (pokeHost a l m).clk = m.clk := rfl
@[simp] theorem pokeHost_moduleId (a : Nat) (l : List Byte) (m : Mach) : (pokeHost a l m).moduleId = m.moduleId := rfl
@[simp] theorem pokeHost_located (a : Nat) (l : List Byte) (m : Mach) : (pokeHost a l m).located = m.located := rfl
@[simp] theorem pokeHost_boot (a : Nat) (l : List Byte) (m : Mach) : (pokeHost a l m).boot = m.boot := rfl
@[simp] theorem pokeHost_change (a : Nat) (l : List Byte) (m : Mach) : (pokeHost a l m).change = m.change := rfl
@[simp] theorem pokeHost_operatorKey (a : Nat) (l : List Byte) (m : Mach) :
    (pokeHost a l m).operatorKey = m.operatorKey :=
  rfl
@[simp] theorem pokeHost_custodianKey (a : Nat) (l : List Byte) (m : Mach) :
    (pokeHost a l m).custodianKey = m.custodianKey :=
  rfl
@[simp] theorem pokeHost_mgmtTag (a : Nat) (l : List Byte) (m : Mach) : (pokeHost a l m).mgmtTag = m.mgmtTag := rfl
@[simp] theorem pokeHost_fw (a : Nat) (l : List Byte) (m : Mach) : (pokeHost a l m).fw = m.fw := rfl
@[simp] theorem pokeHost_wch (a : Nat) (l : List Byte) (m : Mach) : (pokeHost a l m).wch = m.wch := rfl
@[simp] theorem pokeHost_pwr (a : Nat) (l : List Byte) (m : Mach) : (pokeHost a l m).pwr = m.pwr := rfl
@[simp] theorem pokeHost_eccFill (a : Nat) (l : List Byte) (m : Mach) : (pokeHost a l m).eccFill = m.eccFill := rfl
@[simp] theorem pokeHost_cistErr (a : Nat) (l : List Byte) (m : Mach) : (pokeHost a l m).cistErr = m.cistErr := rfl
@[simp] theorem pokeHost_cistCrc (a : Nat) (l : List Byte) (m : Mach) : (pokeHost a l m).cistCrc = m.cistCrc := rfl
@[simp] theorem pokeHost_cistTurn (a : Nat) (l : List Byte) (m : Mach) : (pokeHost a l m).cistTurn = m.cistTurn := rfl
@[simp] theorem pokeHost_out (a : Nat) (l : List Byte) (m : Mach) : (pokeHost a l m).out = m.out := rfl
@[simp] theorem pokeHost_freeCtr (a : Nat) (l : List Byte) (m : Mach) : (pokeHost a l m).freeCtr = m.freeCtr := rfl

/-! ### pokeCist -/

@[simp] theorem pokeCist_dies (a : Nat) (l : List Byte) (m : Mach) : (pokeCist a l m).dies = m.dies := rfl
@[simp] theorem pokeCist_stations (a : Nat) (l : List Byte) (m : Mach) : (pokeCist a l m).stations = m.stations := rfl
@[simp] theorem pokeCist_wells (a : Nat) (l : List Byte) (m : Mach) : (pokeCist a l m).wells = m.wells := rfl
@[simp] theorem pokeCist_parts (a : Nat) (l : List Byte) (m : Mach) : (pokeCist a l m).parts = m.parts := rfl
@[simp] theorem pokeCist_wins (a : Nat) (l : List Byte) (m : Mach) : (pokeCist a l m).wins = m.wins := rfl
@[simp] theorem pokeCist_mesh (a : Nat) (l : List Byte) (m : Mach) : (pokeCist a l m).mesh = m.mesh := rfl
@[simp] theorem pokeCist_history (a : Nat) (l : List Byte) (m : Mach) : (pokeCist a l m).history = m.history := rfl
@[simp] theorem pokeCist_hosts (a : Nat) (l : List Byte) (m : Mach) : (pokeCist a l m).hosts = m.hosts := rfl
@[simp] theorem pokeCist_links (a : Nat) (l : List Byte) (m : Mach) : (pokeCist a l m).links = m.links := rfl
@[simp] theorem pokeCist_ports (a : Nat) (l : List Byte) (m : Mach) : (pokeCist a l m).ports = m.ports := rfl
@[simp] theorem pokeCist_rte (a : Nat) (l : List Byte) (m : Mach) : (pokeCist a l m).rte = m.rte := rfl
@[simp] theorem pokeCist_aborts (a : Nat) (l : List Byte) (m : Mach) : (pokeCist a l m).aborts = m.aborts := rfl
@[simp] theorem pokeCist_ctrs (a : Nat) (l : List Byte) (m : Mach) : (pokeCist a l m).ctrs = m.ctrs := rfl
@[simp] theorem pokeCist_evtCfg (a : Nat) (l : List Byte) (m : Mach) : (pokeCist a l m).evtCfg = m.evtCfg := rfl
@[simp] theorem pokeCist_clk (a : Nat) (l : List Byte) (m : Mach) : (pokeCist a l m).clk = m.clk := rfl
@[simp] theorem pokeCist_moduleId (a : Nat) (l : List Byte) (m : Mach) : (pokeCist a l m).moduleId = m.moduleId := rfl
@[simp] theorem pokeCist_located (a : Nat) (l : List Byte) (m : Mach) : (pokeCist a l m).located = m.located := rfl
@[simp] theorem pokeCist_boot (a : Nat) (l : List Byte) (m : Mach) : (pokeCist a l m).boot = m.boot := rfl
@[simp] theorem pokeCist_change (a : Nat) (l : List Byte) (m : Mach) : (pokeCist a l m).change = m.change := rfl
@[simp] theorem pokeCist_operatorKey (a : Nat) (l : List Byte) (m : Mach) :
    (pokeCist a l m).operatorKey = m.operatorKey :=
  rfl
@[simp] theorem pokeCist_custodianKey (a : Nat) (l : List Byte) (m : Mach) :
    (pokeCist a l m).custodianKey = m.custodianKey :=
  rfl
@[simp] theorem pokeCist_mgmtTag (a : Nat) (l : List Byte) (m : Mach) : (pokeCist a l m).mgmtTag = m.mgmtTag := rfl
@[simp] theorem pokeCist_fw (a : Nat) (l : List Byte) (m : Mach) : (pokeCist a l m).fw = m.fw := rfl
@[simp] theorem pokeCist_wch (a : Nat) (l : List Byte) (m : Mach) : (pokeCist a l m).wch = m.wch := rfl
@[simp] theorem pokeCist_pwr (a : Nat) (l : List Byte) (m : Mach) : (pokeCist a l m).pwr = m.pwr := rfl
@[simp] theorem pokeCist_eccFill (a : Nat) (l : List Byte) (m : Mach) : (pokeCist a l m).eccFill = m.eccFill := rfl
@[simp] theorem pokeCist_hostErr (a : Nat) (l : List Byte) (m : Mach) : (pokeCist a l m).hostErr = m.hostErr := rfl
@[simp] theorem pokeCist_cistTurn (a : Nat) (l : List Byte) (m : Mach) : (pokeCist a l m).cistTurn = m.cistTurn := rfl
@[simp] theorem pokeCist_out (a : Nat) (l : List Byte) (m : Mach) : (pokeCist a l m).out = m.out := rfl
@[simp] theorem pokeCist_freeCtr (a : Nat) (l : List Byte) (m : Mach) : (pokeCist a l m).freeCtr = m.freeCtr := rfl

/-! ### onStn -/

@[simp] theorem onStn_mem (k : Nat) (f : Station → Station) (m : Mach) : (onStn k f m).mem = m.mem := rfl
@[simp] theorem onStn_dies (k : Nat) (f : Station → Station) (m : Mach) : (onStn k f m).dies = m.dies := rfl
@[simp] theorem onStn_wells (k : Nat) (f : Station → Station) (m : Mach) : (onStn k f m).wells = m.wells := rfl
@[simp] theorem onStn_parts (k : Nat) (f : Station → Station) (m : Mach) : (onStn k f m).parts = m.parts := rfl
@[simp] theorem onStn_wins (k : Nat) (f : Station → Station) (m : Mach) : (onStn k f m).wins = m.wins := rfl
@[simp] theorem onStn_mesh (k : Nat) (f : Station → Station) (m : Mach) : (onStn k f m).mesh = m.mesh := rfl
@[simp] theorem onStn_history (k : Nat) (f : Station → Station) (m : Mach) : (onStn k f m).history = m.history := rfl
@[simp] theorem onStn_hosts (k : Nat) (f : Station → Station) (m : Mach) : (onStn k f m).hosts = m.hosts := rfl
@[simp] theorem onStn_links (k : Nat) (f : Station → Station) (m : Mach) : (onStn k f m).links = m.links := rfl
@[simp] theorem onStn_ports (k : Nat) (f : Station → Station) (m : Mach) : (onStn k f m).ports = m.ports := rfl
@[simp] theorem onStn_rte (k : Nat) (f : Station → Station) (m : Mach) : (onStn k f m).rte = m.rte := rfl
@[simp] theorem onStn_aborts (k : Nat) (f : Station → Station) (m : Mach) : (onStn k f m).aborts = m.aborts := rfl
@[simp] theorem onStn_ctrs (k : Nat) (f : Station → Station) (m : Mach) : (onStn k f m).ctrs = m.ctrs := rfl
@[simp] theorem onStn_evtCfg (k : Nat) (f : Station → Station) (m : Mach) : (onStn k f m).evtCfg = m.evtCfg := rfl
@[simp] theorem onStn_clk (k : Nat) (f : Station → Station) (m : Mach) : (onStn k f m).clk = m.clk := rfl
@[simp] theorem onStn_moduleId (k : Nat) (f : Station → Station) (m : Mach) : (onStn k f m).moduleId = m.moduleId := rfl
@[simp] theorem onStn_located (k : Nat) (f : Station → Station) (m : Mach) : (onStn k f m).located = m.located := rfl
@[simp] theorem onStn_boot (k : Nat) (f : Station → Station) (m : Mach) : (onStn k f m).boot = m.boot := rfl
@[simp] theorem onStn_change (k : Nat) (f : Station → Station) (m : Mach) : (onStn k f m).change = m.change := rfl
@[simp] theorem onStn_operatorKey (k : Nat) (f : Station → Station) (m : Mach) :
    (onStn k f m).operatorKey = m.operatorKey :=
  rfl
@[simp] theorem onStn_custodianKey (k : Nat) (f : Station → Station) (m : Mach) :
    (onStn k f m).custodianKey = m.custodianKey :=
  rfl
@[simp] theorem onStn_mgmtTag (k : Nat) (f : Station → Station) (m : Mach) : (onStn k f m).mgmtTag = m.mgmtTag := rfl
@[simp] theorem onStn_fw (k : Nat) (f : Station → Station) (m : Mach) : (onStn k f m).fw = m.fw := rfl
@[simp] theorem onStn_wch (k : Nat) (f : Station → Station) (m : Mach) : (onStn k f m).wch = m.wch := rfl
@[simp] theorem onStn_pwr (k : Nat) (f : Station → Station) (m : Mach) : (onStn k f m).pwr = m.pwr := rfl
@[simp] theorem onStn_eccFill (k : Nat) (f : Station → Station) (m : Mach) : (onStn k f m).eccFill = m.eccFill := rfl
@[simp] theorem onStn_hostErr (k : Nat) (f : Station → Station) (m : Mach) : (onStn k f m).hostErr = m.hostErr := rfl
@[simp] theorem onStn_cistErr (k : Nat) (f : Station → Station) (m : Mach) : (onStn k f m).cistErr = m.cistErr := rfl
@[simp] theorem onStn_cistCrc (k : Nat) (f : Station → Station) (m : Mach) : (onStn k f m).cistCrc = m.cistCrc := rfl
@[simp] theorem onStn_cistTurn (k : Nat) (f : Station → Station) (m : Mach) : (onStn k f m).cistTurn = m.cistTurn := rfl
@[simp] theorem onStn_out (k : Nat) (f : Station → Station) (m : Mach) : (onStn k f m).out = m.out := rfl
@[simp] theorem onStn_freeCtr (k : Nat) (f : Station → Station) (m : Mach) : (onStn k f m).freeCtr = m.freeCtr := rfl

/-! ### onWell -/

@[simp] theorem onWell_mem (k : Nat) (f : Well → Well) (m : Mach) : (onWell k f m).mem = m.mem := rfl
@[simp] theorem onWell_dies (k : Nat) (f : Well → Well) (m : Mach) : (onWell k f m).dies = m.dies := rfl
@[simp] theorem onWell_stations (k : Nat) (f : Well → Well) (m : Mach) : (onWell k f m).stations = m.stations := rfl
@[simp] theorem onWell_parts (k : Nat) (f : Well → Well) (m : Mach) : (onWell k f m).parts = m.parts := rfl
@[simp] theorem onWell_wins (k : Nat) (f : Well → Well) (m : Mach) : (onWell k f m).wins = m.wins := rfl
@[simp] theorem onWell_mesh (k : Nat) (f : Well → Well) (m : Mach) : (onWell k f m).mesh = m.mesh := rfl
@[simp] theorem onWell_history (k : Nat) (f : Well → Well) (m : Mach) : (onWell k f m).history = m.history := rfl
@[simp] theorem onWell_hosts (k : Nat) (f : Well → Well) (m : Mach) : (onWell k f m).hosts = m.hosts := rfl
@[simp] theorem onWell_links (k : Nat) (f : Well → Well) (m : Mach) : (onWell k f m).links = m.links := rfl
@[simp] theorem onWell_ports (k : Nat) (f : Well → Well) (m : Mach) : (onWell k f m).ports = m.ports := rfl
@[simp] theorem onWell_rte (k : Nat) (f : Well → Well) (m : Mach) : (onWell k f m).rte = m.rte := rfl
@[simp] theorem onWell_aborts (k : Nat) (f : Well → Well) (m : Mach) : (onWell k f m).aborts = m.aborts := rfl
@[simp] theorem onWell_ctrs (k : Nat) (f : Well → Well) (m : Mach) : (onWell k f m).ctrs = m.ctrs := rfl
@[simp] theorem onWell_evtCfg (k : Nat) (f : Well → Well) (m : Mach) : (onWell k f m).evtCfg = m.evtCfg := rfl
@[simp] theorem onWell_clk (k : Nat) (f : Well → Well) (m : Mach) : (onWell k f m).clk = m.clk := rfl
@[simp] theorem onWell_moduleId (k : Nat) (f : Well → Well) (m : Mach) : (onWell k f m).moduleId = m.moduleId := rfl
@[simp] theorem onWell_located (k : Nat) (f : Well → Well) (m : Mach) : (onWell k f m).located = m.located := rfl
@[simp] theorem onWell_boot (k : Nat) (f : Well → Well) (m : Mach) : (onWell k f m).boot = m.boot := rfl
@[simp] theorem onWell_change (k : Nat) (f : Well → Well) (m : Mach) : (onWell k f m).change = m.change := rfl
@[simp] theorem onWell_operatorKey (k : Nat) (f : Well → Well) (m : Mach) :
    (onWell k f m).operatorKey = m.operatorKey :=
  rfl
@[simp] theorem onWell_custodianKey (k : Nat) (f : Well → Well) (m : Mach) :
    (onWell k f m).custodianKey = m.custodianKey :=
  rfl
@[simp] theorem onWell_mgmtTag (k : Nat) (f : Well → Well) (m : Mach) : (onWell k f m).mgmtTag = m.mgmtTag := rfl
@[simp] theorem onWell_fw (k : Nat) (f : Well → Well) (m : Mach) : (onWell k f m).fw = m.fw := rfl
@[simp] theorem onWell_wch (k : Nat) (f : Well → Well) (m : Mach) : (onWell k f m).wch = m.wch := rfl
@[simp] theorem onWell_pwr (k : Nat) (f : Well → Well) (m : Mach) : (onWell k f m).pwr = m.pwr := rfl
@[simp] theorem onWell_eccFill (k : Nat) (f : Well → Well) (m : Mach) : (onWell k f m).eccFill = m.eccFill := rfl
@[simp] theorem onWell_hostErr (k : Nat) (f : Well → Well) (m : Mach) : (onWell k f m).hostErr = m.hostErr := rfl
@[simp] theorem onWell_cistErr (k : Nat) (f : Well → Well) (m : Mach) : (onWell k f m).cistErr = m.cistErr := rfl
@[simp] theorem onWell_cistCrc (k : Nat) (f : Well → Well) (m : Mach) : (onWell k f m).cistCrc = m.cistCrc := rfl
@[simp] theorem onWell_cistTurn (k : Nat) (f : Well → Well) (m : Mach) : (onWell k f m).cistTurn = m.cistTurn := rfl
@[simp] theorem onWell_out (k : Nat) (f : Well → Well) (m : Mach) : (onWell k f m).out = m.out := rfl
@[simp] theorem onWell_freeCtr (k : Nat) (f : Well → Well) (m : Mach) : (onWell k f m).freeCtr = m.freeCtr := rfl

/-! ### onDie -/

@[simp] theorem onDie_mem (k : Nat) (f : Die → Die) (m : Mach) : (onDie k f m).mem = m.mem := rfl
@[simp] theorem onDie_stations (k : Nat) (f : Die → Die) (m : Mach) : (onDie k f m).stations = m.stations := rfl
@[simp] theorem onDie_wells (k : Nat) (f : Die → Die) (m : Mach) : (onDie k f m).wells = m.wells := rfl
@[simp] theorem onDie_parts (k : Nat) (f : Die → Die) (m : Mach) : (onDie k f m).parts = m.parts := rfl
@[simp] theorem onDie_wins (k : Nat) (f : Die → Die) (m : Mach) : (onDie k f m).wins = m.wins := rfl
@[simp] theorem onDie_mesh (k : Nat) (f : Die → Die) (m : Mach) : (onDie k f m).mesh = m.mesh := rfl
@[simp] theorem onDie_history (k : Nat) (f : Die → Die) (m : Mach) : (onDie k f m).history = m.history := rfl
@[simp] theorem onDie_hosts (k : Nat) (f : Die → Die) (m : Mach) : (onDie k f m).hosts = m.hosts := rfl
@[simp] theorem onDie_links (k : Nat) (f : Die → Die) (m : Mach) : (onDie k f m).links = m.links := rfl
@[simp] theorem onDie_ports (k : Nat) (f : Die → Die) (m : Mach) : (onDie k f m).ports = m.ports := rfl
@[simp] theorem onDie_rte (k : Nat) (f : Die → Die) (m : Mach) : (onDie k f m).rte = m.rte := rfl
@[simp] theorem onDie_aborts (k : Nat) (f : Die → Die) (m : Mach) : (onDie k f m).aborts = m.aborts := rfl
@[simp] theorem onDie_ctrs (k : Nat) (f : Die → Die) (m : Mach) : (onDie k f m).ctrs = m.ctrs := rfl
@[simp] theorem onDie_evtCfg (k : Nat) (f : Die → Die) (m : Mach) : (onDie k f m).evtCfg = m.evtCfg := rfl
@[simp] theorem onDie_clk (k : Nat) (f : Die → Die) (m : Mach) : (onDie k f m).clk = m.clk := rfl
@[simp] theorem onDie_moduleId (k : Nat) (f : Die → Die) (m : Mach) : (onDie k f m).moduleId = m.moduleId := rfl
@[simp] theorem onDie_located (k : Nat) (f : Die → Die) (m : Mach) : (onDie k f m).located = m.located := rfl
@[simp] theorem onDie_boot (k : Nat) (f : Die → Die) (m : Mach) : (onDie k f m).boot = m.boot := rfl
@[simp] theorem onDie_change (k : Nat) (f : Die → Die) (m : Mach) : (onDie k f m).change = m.change := rfl
@[simp] theorem onDie_operatorKey (k : Nat) (f : Die → Die) (m : Mach) : (onDie k f m).operatorKey = m.operatorKey :=
  rfl
@[simp] theorem onDie_custodianKey (k : Nat) (f : Die → Die) (m : Mach) : (onDie k f m).custodianKey = m.custodianKey :=
  rfl
@[simp] theorem onDie_mgmtTag (k : Nat) (f : Die → Die) (m : Mach) : (onDie k f m).mgmtTag = m.mgmtTag := rfl
@[simp] theorem onDie_fw (k : Nat) (f : Die → Die) (m : Mach) : (onDie k f m).fw = m.fw := rfl
@[simp] theorem onDie_wch (k : Nat) (f : Die → Die) (m : Mach) : (onDie k f m).wch = m.wch := rfl
@[simp] theorem onDie_pwr (k : Nat) (f : Die → Die) (m : Mach) : (onDie k f m).pwr = m.pwr := rfl
@[simp] theorem onDie_eccFill (k : Nat) (f : Die → Die) (m : Mach) : (onDie k f m).eccFill = m.eccFill := rfl
@[simp] theorem onDie_hostErr (k : Nat) (f : Die → Die) (m : Mach) : (onDie k f m).hostErr = m.hostErr := rfl
@[simp] theorem onDie_cistErr (k : Nat) (f : Die → Die) (m : Mach) : (onDie k f m).cistErr = m.cistErr := rfl
@[simp] theorem onDie_cistCrc (k : Nat) (f : Die → Die) (m : Mach) : (onDie k f m).cistCrc = m.cistCrc := rfl
@[simp] theorem onDie_cistTurn (k : Nat) (f : Die → Die) (m : Mach) : (onDie k f m).cistTurn = m.cistTurn := rfl
@[simp] theorem onDie_out (k : Nat) (f : Die → Die) (m : Mach) : (onDie k f m).out = m.out := rfl
@[simp] theorem onDie_freeCtr (k : Nat) (f : Die → Die) (m : Mach) : (onDie k f m).freeCtr = m.freeCtr := rfl

/-! ### onPart -/

@[simp] theorem onPart_mem (k : Nat) (f : Part → Part) (m : Mach) : (onPart k f m).mem = m.mem := rfl
@[simp] theorem onPart_dies (k : Nat) (f : Part → Part) (m : Mach) : (onPart k f m).dies = m.dies := rfl
@[simp] theorem onPart_stations (k : Nat) (f : Part → Part) (m : Mach) : (onPart k f m).stations = m.stations := rfl
@[simp] theorem onPart_wells (k : Nat) (f : Part → Part) (m : Mach) : (onPart k f m).wells = m.wells := rfl
@[simp] theorem onPart_wins (k : Nat) (f : Part → Part) (m : Mach) : (onPart k f m).wins = m.wins := rfl
@[simp] theorem onPart_mesh (k : Nat) (f : Part → Part) (m : Mach) : (onPart k f m).mesh = m.mesh := rfl
@[simp] theorem onPart_history (k : Nat) (f : Part → Part) (m : Mach) : (onPart k f m).history = m.history := rfl
@[simp] theorem onPart_hosts (k : Nat) (f : Part → Part) (m : Mach) : (onPart k f m).hosts = m.hosts := rfl
@[simp] theorem onPart_links (k : Nat) (f : Part → Part) (m : Mach) : (onPart k f m).links = m.links := rfl
@[simp] theorem onPart_ports (k : Nat) (f : Part → Part) (m : Mach) : (onPart k f m).ports = m.ports := rfl
@[simp] theorem onPart_rte (k : Nat) (f : Part → Part) (m : Mach) : (onPart k f m).rte = m.rte := rfl
@[simp] theorem onPart_aborts (k : Nat) (f : Part → Part) (m : Mach) : (onPart k f m).aborts = m.aborts := rfl
@[simp] theorem onPart_ctrs (k : Nat) (f : Part → Part) (m : Mach) : (onPart k f m).ctrs = m.ctrs := rfl
@[simp] theorem onPart_evtCfg (k : Nat) (f : Part → Part) (m : Mach) : (onPart k f m).evtCfg = m.evtCfg := rfl
@[simp] theorem onPart_clk (k : Nat) (f : Part → Part) (m : Mach) : (onPart k f m).clk = m.clk := rfl
@[simp] theorem onPart_moduleId (k : Nat) (f : Part → Part) (m : Mach) : (onPart k f m).moduleId = m.moduleId := rfl
@[simp] theorem onPart_located (k : Nat) (f : Part → Part) (m : Mach) : (onPart k f m).located = m.located := rfl
@[simp] theorem onPart_boot (k : Nat) (f : Part → Part) (m : Mach) : (onPart k f m).boot = m.boot := rfl
@[simp] theorem onPart_change (k : Nat) (f : Part → Part) (m : Mach) : (onPart k f m).change = m.change := rfl
@[simp] theorem onPart_operatorKey (k : Nat) (f : Part → Part) (m : Mach) :
    (onPart k f m).operatorKey = m.operatorKey :=
  rfl
@[simp] theorem onPart_custodianKey (k : Nat) (f : Part → Part) (m : Mach) :
    (onPart k f m).custodianKey = m.custodianKey :=
  rfl
@[simp] theorem onPart_mgmtTag (k : Nat) (f : Part → Part) (m : Mach) : (onPart k f m).mgmtTag = m.mgmtTag := rfl
@[simp] theorem onPart_fw (k : Nat) (f : Part → Part) (m : Mach) : (onPart k f m).fw = m.fw := rfl
@[simp] theorem onPart_wch (k : Nat) (f : Part → Part) (m : Mach) : (onPart k f m).wch = m.wch := rfl
@[simp] theorem onPart_pwr (k : Nat) (f : Part → Part) (m : Mach) : (onPart k f m).pwr = m.pwr := rfl
@[simp] theorem onPart_eccFill (k : Nat) (f : Part → Part) (m : Mach) : (onPart k f m).eccFill = m.eccFill := rfl
@[simp] theorem onPart_hostErr (k : Nat) (f : Part → Part) (m : Mach) : (onPart k f m).hostErr = m.hostErr := rfl
@[simp] theorem onPart_cistErr (k : Nat) (f : Part → Part) (m : Mach) : (onPart k f m).cistErr = m.cistErr := rfl
@[simp] theorem onPart_cistCrc (k : Nat) (f : Part → Part) (m : Mach) : (onPart k f m).cistCrc = m.cistCrc := rfl
@[simp] theorem onPart_cistTurn (k : Nat) (f : Part → Part) (m : Mach) : (onPart k f m).cistTurn = m.cistTurn := rfl
@[simp] theorem onPart_out (k : Nat) (f : Part → Part) (m : Mach) : (onPart k f m).out = m.out := rfl
@[simp] theorem onPart_freeCtr (k : Nat) (f : Part → Part) (m : Mach) : (onPart k f m).freeCtr = m.freeCtr := rfl

/-! ### onWin -/

@[simp] theorem onWin_mem (k : Nat) (f : Win → Win) (m : Mach) : (onWin k f m).mem = m.mem := rfl
@[simp] theorem onWin_dies (k : Nat) (f : Win → Win) (m : Mach) : (onWin k f m).dies = m.dies := rfl
@[simp] theorem onWin_stations (k : Nat) (f : Win → Win) (m : Mach) : (onWin k f m).stations = m.stations := rfl
@[simp] theorem onWin_wells (k : Nat) (f : Win → Win) (m : Mach) : (onWin k f m).wells = m.wells := rfl
@[simp] theorem onWin_parts (k : Nat) (f : Win → Win) (m : Mach) : (onWin k f m).parts = m.parts := rfl
@[simp] theorem onWin_mesh (k : Nat) (f : Win → Win) (m : Mach) : (onWin k f m).mesh = m.mesh := rfl
@[simp] theorem onWin_history (k : Nat) (f : Win → Win) (m : Mach) : (onWin k f m).history = m.history := rfl
@[simp] theorem onWin_hosts (k : Nat) (f : Win → Win) (m : Mach) : (onWin k f m).hosts = m.hosts := rfl
@[simp] theorem onWin_links (k : Nat) (f : Win → Win) (m : Mach) : (onWin k f m).links = m.links := rfl
@[simp] theorem onWin_ports (k : Nat) (f : Win → Win) (m : Mach) : (onWin k f m).ports = m.ports := rfl
@[simp] theorem onWin_rte (k : Nat) (f : Win → Win) (m : Mach) : (onWin k f m).rte = m.rte := rfl
@[simp] theorem onWin_aborts (k : Nat) (f : Win → Win) (m : Mach) : (onWin k f m).aborts = m.aborts := rfl
@[simp] theorem onWin_ctrs (k : Nat) (f : Win → Win) (m : Mach) : (onWin k f m).ctrs = m.ctrs := rfl
@[simp] theorem onWin_evtCfg (k : Nat) (f : Win → Win) (m : Mach) : (onWin k f m).evtCfg = m.evtCfg := rfl
@[simp] theorem onWin_clk (k : Nat) (f : Win → Win) (m : Mach) : (onWin k f m).clk = m.clk := rfl
@[simp] theorem onWin_moduleId (k : Nat) (f : Win → Win) (m : Mach) : (onWin k f m).moduleId = m.moduleId := rfl
@[simp] theorem onWin_located (k : Nat) (f : Win → Win) (m : Mach) : (onWin k f m).located = m.located := rfl
@[simp] theorem onWin_boot (k : Nat) (f : Win → Win) (m : Mach) : (onWin k f m).boot = m.boot := rfl
@[simp] theorem onWin_change (k : Nat) (f : Win → Win) (m : Mach) : (onWin k f m).change = m.change := rfl
@[simp] theorem onWin_operatorKey (k : Nat) (f : Win → Win) (m : Mach) : (onWin k f m).operatorKey = m.operatorKey :=
  rfl
@[simp] theorem onWin_custodianKey (k : Nat) (f : Win → Win) (m : Mach) : (onWin k f m).custodianKey = m.custodianKey :=
  rfl
@[simp] theorem onWin_mgmtTag (k : Nat) (f : Win → Win) (m : Mach) : (onWin k f m).mgmtTag = m.mgmtTag := rfl
@[simp] theorem onWin_fw (k : Nat) (f : Win → Win) (m : Mach) : (onWin k f m).fw = m.fw := rfl
@[simp] theorem onWin_wch (k : Nat) (f : Win → Win) (m : Mach) : (onWin k f m).wch = m.wch := rfl
@[simp] theorem onWin_pwr (k : Nat) (f : Win → Win) (m : Mach) : (onWin k f m).pwr = m.pwr := rfl
@[simp] theorem onWin_eccFill (k : Nat) (f : Win → Win) (m : Mach) : (onWin k f m).eccFill = m.eccFill := rfl
@[simp] theorem onWin_hostErr (k : Nat) (f : Win → Win) (m : Mach) : (onWin k f m).hostErr = m.hostErr := rfl
@[simp] theorem onWin_cistErr (k : Nat) (f : Win → Win) (m : Mach) : (onWin k f m).cistErr = m.cistErr := rfl
@[simp] theorem onWin_cistCrc (k : Nat) (f : Win → Win) (m : Mach) : (onWin k f m).cistCrc = m.cistCrc := rfl
@[simp] theorem onWin_cistTurn (k : Nat) (f : Win → Win) (m : Mach) : (onWin k f m).cistTurn = m.cistTurn := rfl
@[simp] theorem onWin_out (k : Nat) (f : Win → Win) (m : Mach) : (onWin k f m).out = m.out := rfl
@[simp] theorem onWin_freeCtr (k : Nat) (f : Win → Win) (m : Mach) : (onWin k f m).freeCtr = m.freeCtr := rfl

/-! ### passNs -/

@[simp] theorem passNs_mem (n : Nat) (m : Mach) : (passNs n m).mem = m.mem := rfl
@[simp] theorem passNs_dies (n : Nat) (m : Mach) : (passNs n m).dies = m.dies := rfl
@[simp] theorem passNs_stations (n : Nat) (m : Mach) : (passNs n m).stations = m.stations := rfl
@[simp] theorem passNs_wells (n : Nat) (m : Mach) : (passNs n m).wells = m.wells := rfl
@[simp] theorem passNs_parts (n : Nat) (m : Mach) : (passNs n m).parts = m.parts := rfl
@[simp] theorem passNs_wins (n : Nat) (m : Mach) : (passNs n m).wins = m.wins := rfl
@[simp] theorem passNs_mesh (n : Nat) (m : Mach) : (passNs n m).mesh = m.mesh := rfl
@[simp] theorem passNs_history (n : Nat) (m : Mach) : (passNs n m).history = m.history := rfl
@[simp] theorem passNs_hosts (n : Nat) (m : Mach) : (passNs n m).hosts = m.hosts := rfl
@[simp] theorem passNs_links (n : Nat) (m : Mach) : (passNs n m).links = m.links := rfl
@[simp] theorem passNs_ports (n : Nat) (m : Mach) : (passNs n m).ports = m.ports := rfl
@[simp] theorem passNs_rte (n : Nat) (m : Mach) : (passNs n m).rte = m.rte := rfl
@[simp] theorem passNs_aborts (n : Nat) (m : Mach) : (passNs n m).aborts = m.aborts := rfl
@[simp] theorem passNs_ctrs (n : Nat) (m : Mach) : (passNs n m).ctrs = m.ctrs := rfl
@[simp] theorem passNs_evtCfg (n : Nat) (m : Mach) : (passNs n m).evtCfg = m.evtCfg := rfl
@[simp] theorem passNs_moduleId (n : Nat) (m : Mach) : (passNs n m).moduleId = m.moduleId := rfl
@[simp] theorem passNs_located (n : Nat) (m : Mach) : (passNs n m).located = m.located := rfl
@[simp] theorem passNs_boot (n : Nat) (m : Mach) : (passNs n m).boot = m.boot := rfl
@[simp] theorem passNs_change (n : Nat) (m : Mach) : (passNs n m).change = m.change := rfl
@[simp] theorem passNs_operatorKey (n : Nat) (m : Mach) : (passNs n m).operatorKey = m.operatorKey := rfl
@[simp] theorem passNs_custodianKey (n : Nat) (m : Mach) : (passNs n m).custodianKey = m.custodianKey := rfl
@[simp] theorem passNs_mgmtTag (n : Nat) (m : Mach) : (passNs n m).mgmtTag = m.mgmtTag := rfl
@[simp] theorem passNs_fw (n : Nat) (m : Mach) : (passNs n m).fw = m.fw := rfl
@[simp] theorem passNs_wch (n : Nat) (m : Mach) : (passNs n m).wch = m.wch := rfl
@[simp] theorem passNs_pwr (n : Nat) (m : Mach) : (passNs n m).pwr = m.pwr := rfl
@[simp] theorem passNs_eccFill (n : Nat) (m : Mach) : (passNs n m).eccFill = m.eccFill := rfl
@[simp] theorem passNs_hostErr (n : Nat) (m : Mach) : (passNs n m).hostErr = m.hostErr := rfl
@[simp] theorem passNs_cistErr (n : Nat) (m : Mach) : (passNs n m).cistErr = m.cistErr := rfl
@[simp] theorem passNs_cistCrc (n : Nat) (m : Mach) : (passNs n m).cistCrc = m.cistCrc := rfl
@[simp] theorem passNs_cistTurn (n : Nat) (m : Mach) : (passNs n m).cistTurn = m.cistTurn := rfl
@[simp] theorem passNs_out (n : Nat) (m : Mach) : (passNs n m).out = m.out := rfl
@[simp] theorem passNs_freeCtr (n : Nat) (m : Mach) : (passNs n m).freeCtr = m.freeCtr := rfl

/-! ### bumpQuiet -/

@[simp] theorem bumpQuiet_mem (r : Reg) (i e n : Nat) (m : Mach) : (bumpQuiet r i e n m).mem = m.mem := rfl
@[simp] theorem bumpQuiet_dies (r : Reg) (i e n : Nat) (m : Mach) : (bumpQuiet r i e n m).dies = m.dies := rfl
@[simp] theorem bumpQuiet_stations (r : Reg) (i e n : Nat) (m : Mach) : (bumpQuiet r i e n m).stations = m.stations :=
  rfl
@[simp] theorem bumpQuiet_wells (r : Reg) (i e n : Nat) (m : Mach) : (bumpQuiet r i e n m).wells = m.wells := rfl
@[simp] theorem bumpQuiet_parts (r : Reg) (i e n : Nat) (m : Mach) : (bumpQuiet r i e n m).parts = m.parts := rfl
@[simp] theorem bumpQuiet_wins (r : Reg) (i e n : Nat) (m : Mach) : (bumpQuiet r i e n m).wins = m.wins := rfl
@[simp] theorem bumpQuiet_mesh (r : Reg) (i e n : Nat) (m : Mach) : (bumpQuiet r i e n m).mesh = m.mesh := rfl
@[simp] theorem bumpQuiet_history (r : Reg) (i e n : Nat) (m : Mach) : (bumpQuiet r i e n m).history = m.history := rfl
@[simp] theorem bumpQuiet_hosts (r : Reg) (i e n : Nat) (m : Mach) : (bumpQuiet r i e n m).hosts = m.hosts := rfl
@[simp] theorem bumpQuiet_links (r : Reg) (i e n : Nat) (m : Mach) : (bumpQuiet r i e n m).links = m.links := rfl
@[simp] theorem bumpQuiet_ports (r : Reg) (i e n : Nat) (m : Mach) : (bumpQuiet r i e n m).ports = m.ports := rfl
@[simp] theorem bumpQuiet_rte (r : Reg) (i e n : Nat) (m : Mach) : (bumpQuiet r i e n m).rte = m.rte := rfl
@[simp] theorem bumpQuiet_aborts (r : Reg) (i e n : Nat) (m : Mach) : (bumpQuiet r i e n m).aborts = m.aborts := rfl
@[simp] theorem bumpQuiet_evtCfg (r : Reg) (i e n : Nat) (m : Mach) : (bumpQuiet r i e n m).evtCfg = m.evtCfg := rfl
@[simp] theorem bumpQuiet_clk (r : Reg) (i e n : Nat) (m : Mach) : (bumpQuiet r i e n m).clk = m.clk := rfl
@[simp] theorem bumpQuiet_moduleId (r : Reg) (i e n : Nat) (m : Mach) : (bumpQuiet r i e n m).moduleId = m.moduleId :=
  rfl
@[simp] theorem bumpQuiet_located (r : Reg) (i e n : Nat) (m : Mach) : (bumpQuiet r i e n m).located = m.located := rfl
@[simp] theorem bumpQuiet_boot (r : Reg) (i e n : Nat) (m : Mach) : (bumpQuiet r i e n m).boot = m.boot := rfl
@[simp] theorem bumpQuiet_change (r : Reg) (i e n : Nat) (m : Mach) : (bumpQuiet r i e n m).change = m.change := rfl
@[simp] theorem bumpQuiet_operatorKey (r : Reg) (i e n : Nat) (m : Mach) :
    (bumpQuiet r i e n m).operatorKey = m.operatorKey :=
  rfl
@[simp] theorem bumpQuiet_custodianKey (r : Reg) (i e n : Nat) (m : Mach) :
    (bumpQuiet r i e n m).custodianKey = m.custodianKey :=
  rfl
@[simp] theorem bumpQuiet_mgmtTag (r : Reg) (i e n : Nat) (m : Mach) : (bumpQuiet r i e n m).mgmtTag = m.mgmtTag := rfl
@[simp] theorem bumpQuiet_fw (r : Reg) (i e n : Nat) (m : Mach) : (bumpQuiet r i e n m).fw = m.fw := rfl
@[simp] theorem bumpQuiet_wch (r : Reg) (i e n : Nat) (m : Mach) : (bumpQuiet r i e n m).wch = m.wch := rfl
@[simp] theorem bumpQuiet_pwr (r : Reg) (i e n : Nat) (m : Mach) : (bumpQuiet r i e n m).pwr = m.pwr := rfl
@[simp] theorem bumpQuiet_eccFill (r : Reg) (i e n : Nat) (m : Mach) : (bumpQuiet r i e n m).eccFill = m.eccFill := rfl
@[simp] theorem bumpQuiet_hostErr (r : Reg) (i e n : Nat) (m : Mach) : (bumpQuiet r i e n m).hostErr = m.hostErr := rfl
@[simp] theorem bumpQuiet_cistErr (r : Reg) (i e n : Nat) (m : Mach) : (bumpQuiet r i e n m).cistErr = m.cistErr := rfl
@[simp] theorem bumpQuiet_cistCrc (r : Reg) (i e n : Nat) (m : Mach) : (bumpQuiet r i e n m).cistCrc = m.cistCrc := rfl
@[simp] theorem bumpQuiet_cistTurn (r : Reg) (i e n : Nat) (m : Mach) : (bumpQuiet r i e n m).cistTurn = m.cistTurn :=
  rfl
@[simp] theorem bumpQuiet_out (r : Reg) (i e n : Nat) (m : Mach) : (bumpQuiet r i e n m).out = m.out := rfl
@[simp] theorem bumpQuiet_freeCtr (r : Reg) (i e n : Nat) (m : Mach) : (bumpQuiet r i e n m).freeCtr = m.freeCtr := rfl

/-! ### clearCtr -/

@[simp] theorem clearCtr_mem (r : Reg) (i e : Nat) (m : Mach) : (clearCtr r i e m).mem = m.mem := rfl
@[simp] theorem clearCtr_dies (r : Reg) (i e : Nat) (m : Mach) : (clearCtr r i e m).dies = m.dies := rfl
@[simp] theorem clearCtr_stations (r : Reg) (i e : Nat) (m : Mach) : (clearCtr r i e m).stations = m.stations := rfl
@[simp] theorem clearCtr_wells (r : Reg) (i e : Nat) (m : Mach) : (clearCtr r i e m).wells = m.wells := rfl
@[simp] theorem clearCtr_parts (r : Reg) (i e : Nat) (m : Mach) : (clearCtr r i e m).parts = m.parts := rfl
@[simp] theorem clearCtr_wins (r : Reg) (i e : Nat) (m : Mach) : (clearCtr r i e m).wins = m.wins := rfl
@[simp] theorem clearCtr_mesh (r : Reg) (i e : Nat) (m : Mach) : (clearCtr r i e m).mesh = m.mesh := rfl
@[simp] theorem clearCtr_history (r : Reg) (i e : Nat) (m : Mach) : (clearCtr r i e m).history = m.history := rfl
@[simp] theorem clearCtr_hosts (r : Reg) (i e : Nat) (m : Mach) : (clearCtr r i e m).hosts = m.hosts := rfl
@[simp] theorem clearCtr_links (r : Reg) (i e : Nat) (m : Mach) : (clearCtr r i e m).links = m.links := rfl
@[simp] theorem clearCtr_ports (r : Reg) (i e : Nat) (m : Mach) : (clearCtr r i e m).ports = m.ports := rfl
@[simp] theorem clearCtr_rte (r : Reg) (i e : Nat) (m : Mach) : (clearCtr r i e m).rte = m.rte := rfl
@[simp] theorem clearCtr_aborts (r : Reg) (i e : Nat) (m : Mach) : (clearCtr r i e m).aborts = m.aborts := rfl
@[simp] theorem clearCtr_evtCfg (r : Reg) (i e : Nat) (m : Mach) : (clearCtr r i e m).evtCfg = m.evtCfg := rfl
@[simp] theorem clearCtr_clk (r : Reg) (i e : Nat) (m : Mach) : (clearCtr r i e m).clk = m.clk := rfl
@[simp] theorem clearCtr_moduleId (r : Reg) (i e : Nat) (m : Mach) : (clearCtr r i e m).moduleId = m.moduleId := rfl
@[simp] theorem clearCtr_located (r : Reg) (i e : Nat) (m : Mach) : (clearCtr r i e m).located = m.located := rfl
@[simp] theorem clearCtr_boot (r : Reg) (i e : Nat) (m : Mach) : (clearCtr r i e m).boot = m.boot := rfl
@[simp] theorem clearCtr_change (r : Reg) (i e : Nat) (m : Mach) : (clearCtr r i e m).change = m.change := rfl
@[simp] theorem clearCtr_operatorKey (r : Reg) (i e : Nat) (m : Mach) :
    (clearCtr r i e m).operatorKey = m.operatorKey :=
  rfl
@[simp] theorem clearCtr_custodianKey (r : Reg) (i e : Nat) (m : Mach) :
    (clearCtr r i e m).custodianKey = m.custodianKey :=
  rfl
@[simp] theorem clearCtr_mgmtTag (r : Reg) (i e : Nat) (m : Mach) : (clearCtr r i e m).mgmtTag = m.mgmtTag := rfl
@[simp] theorem clearCtr_fw (r : Reg) (i e : Nat) (m : Mach) : (clearCtr r i e m).fw = m.fw := rfl
@[simp] theorem clearCtr_wch (r : Reg) (i e : Nat) (m : Mach) : (clearCtr r i e m).wch = m.wch := rfl
@[simp] theorem clearCtr_pwr (r : Reg) (i e : Nat) (m : Mach) : (clearCtr r i e m).pwr = m.pwr := rfl
@[simp] theorem clearCtr_eccFill (r : Reg) (i e : Nat) (m : Mach) : (clearCtr r i e m).eccFill = m.eccFill := rfl
@[simp] theorem clearCtr_hostErr (r : Reg) (i e : Nat) (m : Mach) : (clearCtr r i e m).hostErr = m.hostErr := rfl
@[simp] theorem clearCtr_cistErr (r : Reg) (i e : Nat) (m : Mach) : (clearCtr r i e m).cistErr = m.cistErr := rfl
@[simp] theorem clearCtr_cistCrc (r : Reg) (i e : Nat) (m : Mach) : (clearCtr r i e m).cistCrc = m.cistCrc := rfl
@[simp] theorem clearCtr_cistTurn (r : Reg) (i e : Nat) (m : Mach) : (clearCtr r i e m).cistTurn = m.cistTurn := rfl
@[simp] theorem clearCtr_out (r : Reg) (i e : Nat) (m : Mach) : (clearCtr r i e m).out = m.out := rfl
@[simp] theorem clearCtr_freeCtr (r : Reg) (i e : Nat) (m : Mach) : (clearCtr r i e m).freeCtr = m.freeCtr := rfl

/-! ### pushReport -/

@[simp] theorem pushReport_mem (c : Nat) (l : List Byte) (m : Mach) : (pushReport c l m).mem = m.mem := rfl
@[simp] theorem pushReport_dies (c : Nat) (l : List Byte) (m : Mach) : (pushReport c l m).dies = m.dies := rfl
@[simp] theorem pushReport_stations (c : Nat) (l : List Byte) (m : Mach) : (pushReport c l m).stations = m.stations :=
  rfl
@[simp] theorem pushReport_wells (c : Nat) (l : List Byte) (m : Mach) : (pushReport c l m).wells = m.wells := rfl
@[simp] theorem pushReport_parts (c : Nat) (l : List Byte) (m : Mach) : (pushReport c l m).parts = m.parts := rfl
@[simp] theorem pushReport_wins (c : Nat) (l : List Byte) (m : Mach) : (pushReport c l m).wins = m.wins := rfl
@[simp] theorem pushReport_mesh (c : Nat) (l : List Byte) (m : Mach) : (pushReport c l m).mesh = m.mesh := rfl
@[simp] theorem pushReport_history (c : Nat) (l : List Byte) (m : Mach) : (pushReport c l m).history = m.history := rfl
@[simp] theorem pushReport_hosts (c : Nat) (l : List Byte) (m : Mach) : (pushReport c l m).hosts = m.hosts := rfl
@[simp] theorem pushReport_links (c : Nat) (l : List Byte) (m : Mach) : (pushReport c l m).links = m.links := rfl
@[simp] theorem pushReport_ports (c : Nat) (l : List Byte) (m : Mach) : (pushReport c l m).ports = m.ports := rfl
@[simp] theorem pushReport_rte (c : Nat) (l : List Byte) (m : Mach) : (pushReport c l m).rte = m.rte := rfl
@[simp] theorem pushReport_aborts (c : Nat) (l : List Byte) (m : Mach) : (pushReport c l m).aborts = m.aborts := rfl
@[simp] theorem pushReport_ctrs (c : Nat) (l : List Byte) (m : Mach) : (pushReport c l m).ctrs = m.ctrs := rfl
@[simp] theorem pushReport_evtCfg (c : Nat) (l : List Byte) (m : Mach) : (pushReport c l m).evtCfg = m.evtCfg := rfl
@[simp] theorem pushReport_clk (c : Nat) (l : List Byte) (m : Mach) : (pushReport c l m).clk = m.clk := rfl
@[simp] theorem pushReport_moduleId (c : Nat) (l : List Byte) (m : Mach) : (pushReport c l m).moduleId = m.moduleId :=
  rfl
@[simp] theorem pushReport_located (c : Nat) (l : List Byte) (m : Mach) : (pushReport c l m).located = m.located := rfl
@[simp] theorem pushReport_boot (c : Nat) (l : List Byte) (m : Mach) : (pushReport c l m).boot = m.boot := rfl
@[simp] theorem pushReport_change (c : Nat) (l : List Byte) (m : Mach) : (pushReport c l m).change = m.change := rfl
@[simp] theorem pushReport_operatorKey (c : Nat) (l : List Byte) (m : Mach) :
    (pushReport c l m).operatorKey = m.operatorKey :=
  rfl
@[simp] theorem pushReport_custodianKey (c : Nat) (l : List Byte) (m : Mach) :
    (pushReport c l m).custodianKey = m.custodianKey :=
  rfl
@[simp] theorem pushReport_mgmtTag (c : Nat) (l : List Byte) (m : Mach) : (pushReport c l m).mgmtTag = m.mgmtTag := rfl
@[simp] theorem pushReport_fw (c : Nat) (l : List Byte) (m : Mach) : (pushReport c l m).fw = m.fw := rfl
@[simp] theorem pushReport_wch (c : Nat) (l : List Byte) (m : Mach) : (pushReport c l m).wch = m.wch := rfl
@[simp] theorem pushReport_pwr (c : Nat) (l : List Byte) (m : Mach) : (pushReport c l m).pwr = m.pwr := rfl
@[simp] theorem pushReport_eccFill (c : Nat) (l : List Byte) (m : Mach) : (pushReport c l m).eccFill = m.eccFill := rfl
@[simp] theorem pushReport_hostErr (c : Nat) (l : List Byte) (m : Mach) : (pushReport c l m).hostErr = m.hostErr := rfl
@[simp] theorem pushReport_cistErr (c : Nat) (l : List Byte) (m : Mach) : (pushReport c l m).cistErr = m.cistErr := rfl
@[simp] theorem pushReport_cistCrc (c : Nat) (l : List Byte) (m : Mach) : (pushReport c l m).cistCrc = m.cistCrc := rfl
@[simp] theorem pushReport_cistTurn (c : Nat) (l : List Byte) (m : Mach) : (pushReport c l m).cistTurn = m.cistTurn :=
  rfl
@[simp] theorem pushReport_freeCtr (c : Nat) (l : List Byte) (m : Mach) : (pushReport c l m).freeCtr = m.freeCtr := rfl

/-! ### Instances -/

@[simp] theorem stn_onStn_same (k : Nat) (f : Station → Station) (m : Mach) : stn (onStn k f m) k = f (stn m k) :=
  tget_tmod_same ({} : Station) m.stations k f

theorem stn_onStn_other {k j : Nat} (f : Station → Station) (m : Mach) (h : j ≠ k) : stn (onStn k f m) j = stn m j :=
  tget_tmod_other ({} : Station) m.stations f h

@[simp] theorem stn_pokeScratch (k off : Nat) (l : List Byte) (m : Mach) (j : Nat) :
    stn (pokeScratch k off l m) j = stn m j :=
  rfl
@[simp] theorem stn_pokeCache (k off : Nat) (l : List Byte) (m : Mach) (j : Nat) :
    stn (pokeCache k off l m) j = stn m j :=
  rfl
@[simp] theorem stn_pokeHbm (a : Nat) (l : List Byte) (m : Mach) (j : Nat) : stn (pokeHbm a l m) j = stn m j := rfl
@[simp] theorem stn_pokeHost (a : Nat) (l : List Byte) (m : Mach) (j : Nat) : stn (pokeHost a l m) j = stn m j := rfl
@[simp] theorem stn_pokeCist (a : Nat) (l : List Byte) (m : Mach) (j : Nat) : stn (pokeCist a l m) j = stn m j := rfl
@[simp] theorem stn_onWell (k : Nat) (f : Well → Well) (m : Mach) (j : Nat) : stn (onWell k f m) j = stn m j := rfl
@[simp] theorem stn_onDie (k : Nat) (f : Die → Die) (m : Mach) (j : Nat) : stn (onDie k f m) j = stn m j := rfl
@[simp] theorem stn_onPart (k : Nat) (f : Part → Part) (m : Mach) (j : Nat) : stn (onPart k f m) j = stn m j := rfl
@[simp] theorem stn_onWin (k : Nat) (f : Win → Win) (m : Mach) (j : Nat) : stn (onWin k f m) j = stn m j := rfl
@[simp] theorem stn_passNs (n : Nat) (m : Mach) (j : Nat) : stn (passNs n m) j = stn m j := rfl
@[simp] theorem stn_bumpQuiet (r : Reg) (i e n : Nat) (m : Mach) (j : Nat) : stn (bumpQuiet r i e n m) j = stn m j :=
  rfl
@[simp] theorem stn_clearCtr (r : Reg) (i e : Nat) (m : Mach) (j : Nat) : stn (clearCtr r i e m) j = stn m j := rfl
@[simp] theorem stn_pushReport (c : Nat) (l : List Byte) (m : Mach) (j : Nat) : stn (pushReport c l m) j = stn m j :=
  rfl

@[simp] theorem well_onWell_same (k : Nat) (f : Well → Well) (m : Mach) : well (onWell k f m) k = f (well m k) :=
  tget_tmod_same ({} : Well) m.wells k f

theorem well_onWell_other {k j : Nat} (f : Well → Well) (m : Mach) (h : j ≠ k) : well (onWell k f m) j = well m j :=
  tget_tmod_other ({} : Well) m.wells f h

@[simp] theorem well_pokeScratch (k off : Nat) (l : List Byte) (m : Mach) (j : Nat) :
    well (pokeScratch k off l m) j = well m j :=
  rfl
@[simp] theorem well_pokeCache (k off : Nat) (l : List Byte) (m : Mach) (j : Nat) :
    well (pokeCache k off l m) j = well m j :=
  rfl
@[simp] theorem well_pokeHbm (a : Nat) (l : List Byte) (m : Mach) (j : Nat) : well (pokeHbm a l m) j = well m j := rfl
@[simp] theorem well_pokeHost (a : Nat) (l : List Byte) (m : Mach) (j : Nat) : well (pokeHost a l m) j = well m j := rfl
@[simp] theorem well_pokeCist (a : Nat) (l : List Byte) (m : Mach) (j : Nat) : well (pokeCist a l m) j = well m j := rfl
@[simp] theorem well_onStn (k : Nat) (f : Station → Station) (m : Mach) (j : Nat) : well (onStn k f m) j = well m j :=
  rfl
@[simp] theorem well_onDie (k : Nat) (f : Die → Die) (m : Mach) (j : Nat) : well (onDie k f m) j = well m j := rfl
@[simp] theorem well_onPart (k : Nat) (f : Part → Part) (m : Mach) (j : Nat) : well (onPart k f m) j = well m j := rfl
@[simp] theorem well_onWin (k : Nat) (f : Win → Win) (m : Mach) (j : Nat) : well (onWin k f m) j = well m j := rfl
@[simp] theorem well_passNs (n : Nat) (m : Mach) (j : Nat) : well (passNs n m) j = well m j := rfl
@[simp] theorem well_bumpQuiet (r : Reg) (i e n : Nat) (m : Mach) (j : Nat) : well (bumpQuiet r i e n m) j = well m j :=
  rfl
@[simp] theorem well_clearCtr (r : Reg) (i e : Nat) (m : Mach) (j : Nat) : well (clearCtr r i e m) j = well m j := rfl
@[simp] theorem well_pushReport (c : Nat) (l : List Byte) (m : Mach) (j : Nat) : well (pushReport c l m) j = well m j :=
  rfl

@[simp] theorem die_onDie_same (k : Nat) (f : Die → Die) (m : Mach) : die (onDie k f m) k = f (die m k) :=
  tget_tmod_same ({} : Die) m.dies k f

theorem die_onDie_other {k j : Nat} (f : Die → Die) (m : Mach) (h : j ≠ k) : die (onDie k f m) j = die m j :=
  tget_tmod_other ({} : Die) m.dies f h

@[simp] theorem die_pokeScratch (k off : Nat) (l : List Byte) (m : Mach) (j : Nat) :
    die (pokeScratch k off l m) j = die m j :=
  rfl
@[simp] theorem die_pokeCache (k off : Nat) (l : List Byte) (m : Mach) (j : Nat) :
    die (pokeCache k off l m) j = die m j :=
  rfl
@[simp] theorem die_pokeHbm (a : Nat) (l : List Byte) (m : Mach) (j : Nat) : die (pokeHbm a l m) j = die m j := rfl
@[simp] theorem die_pokeHost (a : Nat) (l : List Byte) (m : Mach) (j : Nat) : die (pokeHost a l m) j = die m j := rfl
@[simp] theorem die_pokeCist (a : Nat) (l : List Byte) (m : Mach) (j : Nat) : die (pokeCist a l m) j = die m j := rfl
@[simp] theorem die_onStn (k : Nat) (f : Station → Station) (m : Mach) (j : Nat) : die (onStn k f m) j = die m j := rfl
@[simp] theorem die_onWell (k : Nat) (f : Well → Well) (m : Mach) (j : Nat) : die (onWell k f m) j = die m j := rfl
@[simp] theorem die_onPart (k : Nat) (f : Part → Part) (m : Mach) (j : Nat) : die (onPart k f m) j = die m j := rfl
@[simp] theorem die_onWin (k : Nat) (f : Win → Win) (m : Mach) (j : Nat) : die (onWin k f m) j = die m j := rfl
@[simp] theorem die_passNs (n : Nat) (m : Mach) (j : Nat) : die (passNs n m) j = die m j := rfl
@[simp] theorem die_bumpQuiet (r : Reg) (i e n : Nat) (m : Mach) (j : Nat) : die (bumpQuiet r i e n m) j = die m j :=
  rfl
@[simp] theorem die_clearCtr (r : Reg) (i e : Nat) (m : Mach) (j : Nat) : die (clearCtr r i e m) j = die m j := rfl
@[simp] theorem die_pushReport (c : Nat) (l : List Byte) (m : Mach) (j : Nat) : die (pushReport c l m) j = die m j :=
  rfl

@[simp] theorem part_onPart_same (k : Nat) (f : Part → Part) (m : Mach) : part (onPart k f m) k = f (part m k) :=
  tget_tmod_same ({} : Part) m.parts k f

theorem part_onPart_other {k j : Nat} (f : Part → Part) (m : Mach) (h : j ≠ k) : part (onPart k f m) j = part m j :=
  tget_tmod_other ({} : Part) m.parts f h

@[simp] theorem part_pokeScratch (k off : Nat) (l : List Byte) (m : Mach) (j : Nat) :
    part (pokeScratch k off l m) j = part m j :=
  rfl
@[simp] theorem part_pokeCache (k off : Nat) (l : List Byte) (m : Mach) (j : Nat) :
    part (pokeCache k off l m) j = part m j :=
  rfl
@[simp] theorem part_pokeHbm (a : Nat) (l : List Byte) (m : Mach) (j : Nat) : part (pokeHbm a l m) j = part m j := rfl
@[simp] theorem part_pokeHost (a : Nat) (l : List Byte) (m : Mach) (j : Nat) : part (pokeHost a l m) j = part m j := rfl
@[simp] theorem part_pokeCist (a : Nat) (l : List Byte) (m : Mach) (j : Nat) : part (pokeCist a l m) j = part m j := rfl
@[simp] theorem part_onStn (k : Nat) (f : Station → Station) (m : Mach) (j : Nat) : part (onStn k f m) j = part m j :=
  rfl
@[simp] theorem part_onWell (k : Nat) (f : Well → Well) (m : Mach) (j : Nat) : part (onWell k f m) j = part m j := rfl
@[simp] theorem part_onDie (k : Nat) (f : Die → Die) (m : Mach) (j : Nat) : part (onDie k f m) j = part m j := rfl
@[simp] theorem part_onWin (k : Nat) (f : Win → Win) (m : Mach) (j : Nat) : part (onWin k f m) j = part m j := rfl
@[simp] theorem part_passNs (n : Nat) (m : Mach) (j : Nat) : part (passNs n m) j = part m j := rfl
@[simp] theorem part_bumpQuiet (r : Reg) (i e n : Nat) (m : Mach) (j : Nat) : part (bumpQuiet r i e n m) j = part m j :=
  rfl
@[simp] theorem part_clearCtr (r : Reg) (i e : Nat) (m : Mach) (j : Nat) : part (clearCtr r i e m) j = part m j := rfl
@[simp] theorem part_pushReport (c : Nat) (l : List Byte) (m : Mach) (j : Nat) : part (pushReport c l m) j = part m j :=
  rfl

@[simp] theorem win_onWin_same (k : Nat) (f : Win → Win) (m : Mach) : win (onWin k f m) k = f (win m k) :=
  tget_tmod_same ({} : Win) m.wins k f

theorem win_onWin_other {k j : Nat} (f : Win → Win) (m : Mach) (h : j ≠ k) : win (onWin k f m) j = win m j :=
  tget_tmod_other ({} : Win) m.wins f h

@[simp] theorem win_pokeScratch (k off : Nat) (l : List Byte) (m : Mach) (j : Nat) :
    win (pokeScratch k off l m) j = win m j :=
  rfl
@[simp] theorem win_pokeCache (k off : Nat) (l : List Byte) (m : Mach) (j : Nat) :
    win (pokeCache k off l m) j = win m j :=
  rfl
@[simp] theorem win_pokeHbm (a : Nat) (l : List Byte) (m : Mach) (j : Nat) : win (pokeHbm a l m) j = win m j := rfl
@[simp] theorem win_pokeHost (a : Nat) (l : List Byte) (m : Mach) (j : Nat) : win (pokeHost a l m) j = win m j := rfl
@[simp] theorem win_pokeCist (a : Nat) (l : List Byte) (m : Mach) (j : Nat) : win (pokeCist a l m) j = win m j := rfl
@[simp] theorem win_onStn (k : Nat) (f : Station → Station) (m : Mach) (j : Nat) : win (onStn k f m) j = win m j := rfl
@[simp] theorem win_onWell (k : Nat) (f : Well → Well) (m : Mach) (j : Nat) : win (onWell k f m) j = win m j := rfl
@[simp] theorem win_onDie (k : Nat) (f : Die → Die) (m : Mach) (j : Nat) : win (onDie k f m) j = win m j := rfl
@[simp] theorem win_onPart (k : Nat) (f : Part → Part) (m : Mach) (j : Nat) : win (onPart k f m) j = win m j := rfl
@[simp] theorem win_passNs (n : Nat) (m : Mach) (j : Nat) : win (passNs n m) j = win m j := rfl
@[simp] theorem win_bumpQuiet (r : Reg) (i e n : Nat) (m : Mach) (j : Nat) : win (bumpQuiet r i e n m) j = win m j :=
  rfl
@[simp] theorem win_clearCtr (r : Reg) (i e : Nat) (m : Mach) (j : Nat) : win (clearCtr r i e m) j = win m j := rfl
@[simp] theorem win_pushReport (c : Nat) (l : List Byte) (m : Mach) (j : Nat) : win (pushReport c l m) j = win m j :=
  rfl

end Sys2Proof.Machine
end

