-- ==== Sys2Proof/Laws/Ops.lean ====
section
/-! SUPPORT. What counters and events leave alone: they change the counters, the windows and what is sent, and nothing
else. -/

namespace Sys2Proof.Machine

/-- Two states that differ in the counters, the windows and what is sent only. -/
def SameMach (m n : Mach) : Prop := n = { m with ctrs := n.ctrs, wins := n.wins, out := n.out }

theorem SameMach.refl (m : Mach) : SameMach m m := rfl

theorem SameMach.trans {l m n : Mach} (h : SameMach l m) (k : SameMach m n) : SameMach l n := by
  unfold SameMach at *
  rw [k]
  rw [h]

theorem same_interrupt (w src : Nat) (m : Mach) : SameMach m (interrupt w src m) := by
  unfold interrupt
  simp only
  split
  · split <;> rfl
  · rfl

theorem same_tellWindow (e : Evt) (m : Mach) (w : Nat) : SameMach m (tellWindow e m w) := by
  unfold tellWindow
  simp only
  split
  · rfl
  · exact SameMach.trans (m := onWin w (fun x => { x with waiting := (addWaiting (win m w).waiting e).1 }) m) rfl
      (same_interrupt _ _ _)

theorem same_foldl {α : Type} (f : Mach → α → Mach) (h : ∀ m x, SameMach m (f m x)) (l : List α) (m : Mach) :
    SameMach m (l.foldl f m) := by
  induction l generalizing m with
  | nil => rfl
  | cons x r ih => exact (h m x).trans (ih _)

theorem same_report (b : Bool) (c : Nat) (l : List Byte) {m n : Mach} (h : SameMach m n) :
    SameMach m (if b then pushReport c l n else n) := by
  split
  · exact h.trans rfl
  · exact h

theorem same_raiseOnce (code sev inst arg : Nat) (l : List Byte) (m : Mach) :
    SameMach m (raiseOnce code sev inst arg l m) := by
  unfold raiseOnce
  have h (e : Evt) (ws : List Nat) : SameMach m (ws.foldl (tellWindow e) (bumpQuiet .evtRaised iModule 0 1 m)) :=
    SameMach.trans (m := bumpQuiet .evtRaised iModule 0 1 m) rfl
      (same_foldl (tellWindow e) (fun m w => same_tellWindow e m w) ws _)
  exact same_report _ _ _ (h _ _)

theorem same_tellFull (fuel : Nat) (was m : Mach) : SameMach m (tellFull fuel was m) := by
  induction fuel generalizing was m with
  | zero => rfl
  | succ n ih =>
    unfold tellFull
    simp only
    split
    · rfl
    · exact (same_foldl _ (fun m y => same_raiseOnce _ _ _ _ _ _) _ m).trans (ih _ _)

theorem same_raiseWith (code sev inst arg : Nat) (l : List Byte) (m : Mach) :
    SameMach m (raiseWith code sev inst arg l m) :=
  (same_raiseOnce code sev inst arg l m).trans (same_tellFull _ _ _)

theorem same_raiseEvt (code sev inst arg : Nat) (m : Mach) : SameMach m (raiseEvt code sev inst arg m) :=
  same_raiseWith code sev inst arg [] m

theorem same_bumpBy (r : Reg) (i e n : Nat) (m : Mach) : SameMach m (bumpBy r i e n m) := by
  unfold bumpBy
  simp only
  split
  · exact SameMach.trans (m := bumpQuiet r i e n m) rfl (same_raiseEvt _ _ _ _ _)
  · rfl

theorem same_bump (r : Reg) (i : Nat) (m : Mach) : SameMach m (bump r i m) := same_bumpBy r i 0 1 m

theorem SameMach.mem {m n : Mach} (h : SameMach m n) : n.mem = m.mem := by rw [h]
theorem SameMach.dies {m n : Mach} (h : SameMach m n) : n.dies = m.dies := by rw [h]
theorem SameMach.stations {m n : Mach} (h : SameMach m n) : n.stations = m.stations := by rw [h]
theorem SameMach.wells {m n : Mach} (h : SameMach m n) : n.wells = m.wells := by rw [h]
theorem SameMach.parts {m n : Mach} (h : SameMach m n) : n.parts = m.parts := by rw [h]
theorem SameMach.mesh {m n : Mach} (h : SameMach m n) : n.mesh = m.mesh := by rw [h]
theorem SameMach.history {m n : Mach} (h : SameMach m n) : n.history = m.history := by rw [h]
theorem SameMach.hosts {m n : Mach} (h : SameMach m n) : n.hosts = m.hosts := by rw [h]
theorem SameMach.links {m n : Mach} (h : SameMach m n) : n.links = m.links := by rw [h]
theorem SameMach.ports {m n : Mach} (h : SameMach m n) : n.ports = m.ports := by rw [h]
theorem SameMach.rte {m n : Mach} (h : SameMach m n) : n.rte = m.rte := by rw [h]
theorem SameMach.aborts {m n : Mach} (h : SameMach m n) : n.aborts = m.aborts := by rw [h]
theorem SameMach.evtCfg {m n : Mach} (h : SameMach m n) : n.evtCfg = m.evtCfg := by rw [h]
theorem SameMach.clk {m n : Mach} (h : SameMach m n) : n.clk = m.clk := by rw [h]
theorem SameMach.moduleId {m n : Mach} (h : SameMach m n) : n.moduleId = m.moduleId := by rw [h]
theorem SameMach.located {m n : Mach} (h : SameMach m n) : n.located = m.located := by rw [h]
theorem SameMach.boot {m n : Mach} (h : SameMach m n) : n.boot = m.boot := by rw [h]
theorem SameMach.change {m n : Mach} (h : SameMach m n) : n.change = m.change := by rw [h]
theorem SameMach.operatorKey {m n : Mach} (h : SameMach m n) : n.operatorKey = m.operatorKey := by rw [h]
theorem SameMach.custodianKey {m n : Mach} (h : SameMach m n) : n.custodianKey = m.custodianKey := by rw [h]
theorem SameMach.mgmtTag {m n : Mach} (h : SameMach m n) : n.mgmtTag = m.mgmtTag := by rw [h]
theorem SameMach.fw {m n : Mach} (h : SameMach m n) : n.fw = m.fw := by rw [h]
theorem SameMach.wch {m n : Mach} (h : SameMach m n) : n.wch = m.wch := by rw [h]
theorem SameMach.pwr {m n : Mach} (h : SameMach m n) : n.pwr = m.pwr := by rw [h]
theorem SameMach.eccFill {m n : Mach} (h : SameMach m n) : n.eccFill = m.eccFill := by rw [h]
theorem SameMach.hostErr {m n : Mach} (h : SameMach m n) : n.hostErr = m.hostErr := by rw [h]
theorem SameMach.cistErr {m n : Mach} (h : SameMach m n) : n.cistErr = m.cistErr := by rw [h]
theorem SameMach.cistCrc {m n : Mach} (h : SameMach m n) : n.cistCrc = m.cistCrc := by rw [h]
theorem SameMach.cistTurn {m n : Mach} (h : SameMach m n) : n.cistTurn = m.cistTurn := by rw [h]
theorem SameMach.freeCtr {m n : Mach} (h : SameMach m n) : n.freeCtr = m.freeCtr := by rw [h]

@[simp] theorem interrupt_mem (w src : Nat) (m : Mach) :
    (interrupt w src m).mem = m.mem := (same_interrupt w src m).mem

@[simp] theorem interrupt_dies (w src : Nat) (m : Mach) :
    (interrupt w src m).dies = m.dies := (same_interrupt w src m).dies

@[simp] theorem interrupt_stations (w src : Nat) (m : Mach) :
    (interrupt w src m).stations = m.stations := (same_interrupt w src m).stations

@[simp] theorem interrupt_wells (w src : Nat) (m : Mach) :
    (interrupt w src m).wells = m.wells := (same_interrupt w src m).wells

@[simp] theorem interrupt_parts (w src : Nat) (m : Mach) :
    (interrupt w src m).parts = m.parts := (same_interrupt w src m).parts

@[simp] theorem interrupt_mesh (w src : Nat) (m : Mach) :
    (interrupt w src m).mesh = m.mesh := (same_interrupt w src m).mesh

@[simp] theorem interrupt_history (w src : Nat) (m : Mach) :
    (interrupt w src m).history = m.history := (same_interrupt w src m).history

@[simp] theorem interrupt_hosts (w src : Nat) (m : Mach) :
    (interrupt w src m).hosts = m.hosts := (same_interrupt w src m).hosts

@[simp] theorem interrupt_links (w src : Nat) (m : Mach) :
    (interrupt w src m).links = m.links := (same_interrupt w src m).links

@[simp] theorem interrupt_ports (w src : Nat) (m : Mach) :
    (interrupt w src m).ports = m.ports := (same_interrupt w src m).ports

@[simp] theorem interrupt_rte (w src : Nat) (m : Mach) :
    (interrupt w src m).rte = m.rte := (same_interrupt w src m).rte

@[simp] theorem interrupt_aborts (w src : Nat) (m : Mach) :
    (interrupt w src m).aborts = m.aborts := (same_interrupt w src m).aborts

@[simp] theorem interrupt_evtCfg (w src : Nat) (m : Mach) :
    (interrupt w src m).evtCfg = m.evtCfg := (same_interrupt w src m).evtCfg

@[simp] theorem interrupt_clk (w src : Nat) (m : Mach) :
    (interrupt w src m).clk = m.clk := (same_interrupt w src m).clk

@[simp] theorem interrupt_moduleId (w src : Nat) (m : Mach) :
    (interrupt w src m).moduleId = m.moduleId := (same_interrupt w src m).moduleId

@[simp] theorem interrupt_located (w src : Nat) (m : Mach) :
    (interrupt w src m).located = m.located := (same_interrupt w src m).located

@[simp] theorem interrupt_boot (w src : Nat) (m : Mach) :
    (interrupt w src m).boot = m.boot := (same_interrupt w src m).boot

@[simp] theorem interrupt_change (w src : Nat) (m : Mach) :
    (interrupt w src m).change = m.change := (same_interrupt w src m).change

@[simp] theorem interrupt_operatorKey (w src : Nat) (m : Mach) :
    (interrupt w src m).operatorKey = m.operatorKey := (same_interrupt w src m).operatorKey

@[simp] theorem interrupt_custodianKey (w src : Nat) (m : Mach) :
    (interrupt w src m).custodianKey = m.custodianKey := (same_interrupt w src m).custodianKey

@[simp] theorem interrupt_mgmtTag (w src : Nat) (m : Mach) :
    (interrupt w src m).mgmtTag = m.mgmtTag := (same_interrupt w src m).mgmtTag

@[simp] theorem interrupt_fw (w src : Nat) (m : Mach) :
    (interrupt w src m).fw = m.fw := (same_interrupt w src m).fw

@[simp] theorem interrupt_wch (w src : Nat) (m : Mach) :
    (interrupt w src m).wch = m.wch := (same_interrupt w src m).wch

@[simp] theorem interrupt_pwr (w src : Nat) (m : Mach) :
    (interrupt w src m).pwr = m.pwr := (same_interrupt w src m).pwr

@[simp] theorem interrupt_eccFill (w src : Nat) (m : Mach) :
    (interrupt w src m).eccFill = m.eccFill := (same_interrupt w src m).eccFill

@[simp] theorem interrupt_hostErr (w src : Nat) (m : Mach) :
    (interrupt w src m).hostErr = m.hostErr := (same_interrupt w src m).hostErr

@[simp] theorem interrupt_cistErr (w src : Nat) (m : Mach) :
    (interrupt w src m).cistErr = m.cistErr := (same_interrupt w src m).cistErr

@[simp] theorem interrupt_cistCrc (w src : Nat) (m : Mach) :
    (interrupt w src m).cistCrc = m.cistCrc := (same_interrupt w src m).cistCrc

@[simp] theorem interrupt_cistTurn (w src : Nat) (m : Mach) :
    (interrupt w src m).cistTurn = m.cistTurn := (same_interrupt w src m).cistTurn

@[simp] theorem interrupt_freeCtr (w src : Nat) (m : Mach) :
    (interrupt w src m).freeCtr = m.freeCtr := (same_interrupt w src m).freeCtr

@[simp] theorem stn_interrupt (w src : Nat) (m : Mach) (j : Nat) :
    stn (interrupt w src m) j = stn m j := by simp [stn]

@[simp] theorem well_interrupt (w src : Nat) (m : Mach) (j : Nat) :
    well (interrupt w src m) j = well m j := by simp [well]

@[simp] theorem die_interrupt (w src : Nat) (m : Mach) (j : Nat) :
    die (interrupt w src m) j = die m j := by simp [die]

@[simp] theorem part_interrupt (w src : Nat) (m : Mach) (j : Nat) :
    part (interrupt w src m) j = part m j := by simp [part]

@[simp] theorem tellWindow_mem (e : Evt) (w : Nat) (m : Mach) :
    (tellWindow e m w).mem = m.mem := (same_tellWindow e m w).mem

@[simp] theorem tellWindow_dies (e : Evt) (w : Nat) (m : Mach) :
    (tellWindow e m w).dies = m.dies := (same_tellWindow e m w).dies

@[simp] theorem tellWindow_stations (e : Evt) (w : Nat) (m : Mach) :
    (tellWindow e m w).stations = m.stations := (same_tellWindow e m w).stations

@[simp] theorem tellWindow_wells (e : Evt) (w : Nat) (m : Mach) :
    (tellWindow e m w).wells = m.wells := (same_tellWindow e m w).wells

@[simp] theorem tellWindow_parts (e : Evt) (w : Nat) (m : Mach) :
    (tellWindow e m w).parts = m.parts := (same_tellWindow e m w).parts

@[simp] theorem tellWindow_mesh (e : Evt) (w : Nat) (m : Mach) :
    (tellWindow e m w).mesh = m.mesh := (same_tellWindow e m w).mesh

@[simp] theorem tellWindow_history (e : Evt) (w : Nat) (m : Mach) :
    (tellWindow e m w).history = m.history := (same_tellWindow e m w).history

@[simp] theorem tellWindow_hosts (e : Evt) (w : Nat) (m : Mach) :
    (tellWindow e m w).hosts = m.hosts := (same_tellWindow e m w).hosts

@[simp] theorem tellWindow_links (e : Evt) (w : Nat) (m : Mach) :
    (tellWindow e m w).links = m.links := (same_tellWindow e m w).links

@[simp] theorem tellWindow_ports (e : Evt) (w : Nat) (m : Mach) :
    (tellWindow e m w).ports = m.ports := (same_tellWindow e m w).ports

@[simp] theorem tellWindow_rte (e : Evt) (w : Nat) (m : Mach) :
    (tellWindow e m w).rte = m.rte := (same_tellWindow e m w).rte

@[simp] theorem tellWindow_aborts (e : Evt) (w : Nat) (m : Mach) :
    (tellWindow e m w).aborts = m.aborts := (same_tellWindow e m w).aborts

@[simp] theorem tellWindow_evtCfg (e : Evt) (w : Nat) (m : Mach) :
    (tellWindow e m w).evtCfg = m.evtCfg := (same_tellWindow e m w).evtCfg

@[simp] theorem tellWindow_clk (e : Evt) (w : Nat) (m : Mach) :
    (tellWindow e m w).clk = m.clk := (same_tellWindow e m w).clk

@[simp] theorem tellWindow_moduleId (e : Evt) (w : Nat) (m : Mach) :
    (tellWindow e m w).moduleId = m.moduleId := (same_tellWindow e m w).moduleId

@[simp] theorem tellWindow_located (e : Evt) (w : Nat) (m : Mach) :
    (tellWindow e m w).located = m.located := (same_tellWindow e m w).located

@[simp] theorem tellWindow_boot (e : Evt) (w : Nat) (m : Mach) :
    (tellWindow e m w).boot = m.boot := (same_tellWindow e m w).boot

@[simp] theorem tellWindow_change (e : Evt) (w : Nat) (m : Mach) :
    (tellWindow e m w).change = m.change := (same_tellWindow e m w).change

@[simp] theorem tellWindow_operatorKey (e : Evt) (w : Nat) (m : Mach) :
    (tellWindow e m w).operatorKey = m.operatorKey := (same_tellWindow e m w).operatorKey

@[simp] theorem tellWindow_custodianKey (e : Evt) (w : Nat) (m : Mach) :
    (tellWindow e m w).custodianKey = m.custodianKey := (same_tellWindow e m w).custodianKey

@[simp] theorem tellWindow_mgmtTag (e : Evt) (w : Nat) (m : Mach) :
    (tellWindow e m w).mgmtTag = m.mgmtTag := (same_tellWindow e m w).mgmtTag

@[simp] theorem tellWindow_fw (e : Evt) (w : Nat) (m : Mach) :
    (tellWindow e m w).fw = m.fw := (same_tellWindow e m w).fw

@[simp] theorem tellWindow_wch (e : Evt) (w : Nat) (m : Mach) :
    (tellWindow e m w).wch = m.wch := (same_tellWindow e m w).wch

@[simp] theorem tellWindow_pwr (e : Evt) (w : Nat) (m : Mach) :
    (tellWindow e m w).pwr = m.pwr := (same_tellWindow e m w).pwr

@[simp] theorem tellWindow_eccFill (e : Evt) (w : Nat) (m : Mach) :
    (tellWindow e m w).eccFill = m.eccFill := (same_tellWindow e m w).eccFill

@[simp] theorem tellWindow_hostErr (e : Evt) (w : Nat) (m : Mach) :
    (tellWindow e m w).hostErr = m.hostErr := (same_tellWindow e m w).hostErr

@[simp] theorem tellWindow_cistErr (e : Evt) (w : Nat) (m : Mach) :
    (tellWindow e m w).cistErr = m.cistErr := (same_tellWindow e m w).cistErr

@[simp] theorem tellWindow_cistCrc (e : Evt) (w : Nat) (m : Mach) :
    (tellWindow e m w).cistCrc = m.cistCrc := (same_tellWindow e m w).cistCrc

@[simp] theorem tellWindow_cistTurn (e : Evt) (w : Nat) (m : Mach) :
    (tellWindow e m w).cistTurn = m.cistTurn := (same_tellWindow e m w).cistTurn

@[simp] theorem tellWindow_freeCtr (e : Evt) (w : Nat) (m : Mach) :
    (tellWindow e m w).freeCtr = m.freeCtr := (same_tellWindow e m w).freeCtr

@[simp] theorem stn_tellWindow (e : Evt) (w : Nat) (m : Mach) (j : Nat) :
    stn (tellWindow e m w) j = stn m j := by simp [stn]

@[simp] theorem well_tellWindow (e : Evt) (w : Nat) (m : Mach) (j : Nat) :
    well (tellWindow e m w) j = well m j := by simp [well]

@[simp] theorem die_tellWindow (e : Evt) (w : Nat) (m : Mach) (j : Nat) :
    die (tellWindow e m w) j = die m j := by simp [die]

@[simp] theorem part_tellWindow (e : Evt) (w : Nat) (m : Mach) (j : Nat) :
    part (tellWindow e m w) j = part m j := by simp [part]

@[simp] theorem raiseWith_mem (code sev inst arg : Nat) (l : List Byte) (m : Mach) :
    (raiseWith code sev inst arg l m).mem = m.mem := (same_raiseWith code sev inst arg l m).mem

@[simp] theorem raiseWith_dies (code sev inst arg : Nat) (l : List Byte) (m : Mach) :
    (raiseWith code sev inst arg l m).dies = m.dies := (same_raiseWith code sev inst arg l m).dies

@[simp] theorem raiseWith_stations (code sev inst arg : Nat) (l : List Byte) (m : Mach) :
    (raiseWith code sev inst arg l m).stations = m.stations := (same_raiseWith code sev inst arg l m).stations

@[simp] theorem raiseWith_wells (code sev inst arg : Nat) (l : List Byte) (m : Mach) :
    (raiseWith code sev inst arg l m).wells = m.wells := (same_raiseWith code sev inst arg l m).wells

@[simp] theorem raiseWith_parts (code sev inst arg : Nat) (l : List Byte) (m : Mach) :
    (raiseWith code sev inst arg l m).parts = m.parts := (same_raiseWith code sev inst arg l m).parts

@[simp] theorem raiseWith_mesh (code sev inst arg : Nat) (l : List Byte) (m : Mach) :
    (raiseWith code sev inst arg l m).mesh = m.mesh := (same_raiseWith code sev inst arg l m).mesh

@[simp] theorem raiseWith_history (code sev inst arg : Nat) (l : List Byte) (m : Mach) :
    (raiseWith code sev inst arg l m).history = m.history := (same_raiseWith code sev inst arg l m).history

@[simp] theorem raiseWith_hosts (code sev inst arg : Nat) (l : List Byte) (m : Mach) :
    (raiseWith code sev inst arg l m).hosts = m.hosts := (same_raiseWith code sev inst arg l m).hosts

@[simp] theorem raiseWith_links (code sev inst arg : Nat) (l : List Byte) (m : Mach) :
    (raiseWith code sev inst arg l m).links = m.links := (same_raiseWith code sev inst arg l m).links

@[simp] theorem raiseWith_ports (code sev inst arg : Nat) (l : List Byte) (m : Mach) :
    (raiseWith code sev inst arg l m).ports = m.ports := (same_raiseWith code sev inst arg l m).ports

@[simp] theorem raiseWith_rte (code sev inst arg : Nat) (l : List Byte) (m : Mach) :
    (raiseWith code sev inst arg l m).rte = m.rte := (same_raiseWith code sev inst arg l m).rte

@[simp] theorem raiseWith_aborts (code sev inst arg : Nat) (l : List Byte) (m : Mach) :
    (raiseWith code sev inst arg l m).aborts = m.aborts := (same_raiseWith code sev inst arg l m).aborts

@[simp] theorem raiseWith_evtCfg (code sev inst arg : Nat) (l : List Byte) (m : Mach) :
    (raiseWith code sev inst arg l m).evtCfg = m.evtCfg := (same_raiseWith code sev inst arg l m).evtCfg

@[simp] theorem raiseWith_clk (code sev inst arg : Nat) (l : List Byte) (m : Mach) :
    (raiseWith code sev inst arg l m).clk = m.clk := (same_raiseWith code sev inst arg l m).clk

@[simp] theorem raiseWith_moduleId (code sev inst arg : Nat) (l : List Byte) (m : Mach) :
    (raiseWith code sev inst arg l m).moduleId = m.moduleId := (same_raiseWith code sev inst arg l m).moduleId

@[simp] theorem raiseWith_located (code sev inst arg : Nat) (l : List Byte) (m : Mach) :
    (raiseWith code sev inst arg l m).located = m.located := (same_raiseWith code sev inst arg l m).located

@[simp] theorem raiseWith_boot (code sev inst arg : Nat) (l : List Byte) (m : Mach) :
    (raiseWith code sev inst arg l m).boot = m.boot := (same_raiseWith code sev inst arg l m).boot

@[simp] theorem raiseWith_change (code sev inst arg : Nat) (l : List Byte) (m : Mach) :
    (raiseWith code sev inst arg l m).change = m.change := (same_raiseWith code sev inst arg l m).change

@[simp] theorem raiseWith_operatorKey (code sev inst arg : Nat) (l : List Byte) (m : Mach) :
    (raiseWith code sev inst arg l m).operatorKey = m.operatorKey := (same_raiseWith code sev inst arg l m).operatorKey

@[simp] theorem raiseWith_custodianKey (code sev inst arg : Nat) (l : List Byte) (m : Mach) :
    (raiseWith code sev inst arg l m).custodianKey = m.custodianKey := (same_raiseWith code sev inst arg l m).custodianKey

@[simp] theorem raiseWith_mgmtTag (code sev inst arg : Nat) (l : List Byte) (m : Mach) :
    (raiseWith code sev inst arg l m).mgmtTag = m.mgmtTag := (same_raiseWith code sev inst arg l m).mgmtTag

@[simp] theorem raiseWith_fw (code sev inst arg : Nat) (l : List Byte) (m : Mach) :
    (raiseWith code sev inst arg l m).fw = m.fw := (same_raiseWith code sev inst arg l m).fw

@[simp] theorem raiseWith_wch (code sev inst arg : Nat) (l : List Byte) (m : Mach) :
    (raiseWith code sev inst arg l m).wch = m.wch := (same_raiseWith code sev inst arg l m).wch

@[simp] theorem raiseWith_pwr (code sev inst arg : Nat) (l : List Byte) (m : Mach) :
    (raiseWith code sev inst arg l m).pwr = m.pwr := (same_raiseWith code sev inst arg l m).pwr

@[simp] theorem raiseWith_eccFill (code sev inst arg : Nat) (l : List Byte) (m : Mach) :
    (raiseWith code sev inst arg l m).eccFill = m.eccFill := (same_raiseWith code sev inst arg l m).eccFill

@[simp] theorem raiseWith_hostErr (code sev inst arg : Nat) (l : List Byte) (m : Mach) :
    (raiseWith code sev inst arg l m).hostErr = m.hostErr := (same_raiseWith code sev inst arg l m).hostErr

@[simp] theorem raiseWith_cistErr (code sev inst arg : Nat) (l : List Byte) (m : Mach) :
    (raiseWith code sev inst arg l m).cistErr = m.cistErr := (same_raiseWith code sev inst arg l m).cistErr

@[simp] theorem raiseWith_cistCrc (code sev inst arg : Nat) (l : List Byte) (m : Mach) :
    (raiseWith code sev inst arg l m).cistCrc = m.cistCrc := (same_raiseWith code sev inst arg l m).cistCrc

@[simp] theorem raiseWith_cistTurn (code sev inst arg : Nat) (l : List Byte) (m : Mach) :
    (raiseWith code sev inst arg l m).cistTurn = m.cistTurn := (same_raiseWith code sev inst arg l m).cistTurn

@[simp] theorem raiseWith_freeCtr (code sev inst arg : Nat) (l : List Byte) (m : Mach) :
    (raiseWith code sev inst arg l m).freeCtr = m.freeCtr := (same_raiseWith code sev inst arg l m).freeCtr

@[simp] theorem stn_raiseWith (code sev inst arg : Nat) (l : List Byte) (m : Mach) (j : Nat) :
    stn (raiseWith code sev inst arg l m) j = stn m j := by simp [stn]

@[simp] theorem well_raiseWith (code sev inst arg : Nat) (l : List Byte) (m : Mach) (j : Nat) :
    well (raiseWith code sev inst arg l m) j = well m j := by simp [well]

@[simp] theorem die_raiseWith (code sev inst arg : Nat) (l : List Byte) (m : Mach) (j : Nat) :
    die (raiseWith code sev inst arg l m) j = die m j := by simp [die]

@[simp] theorem part_raiseWith (code sev inst arg : Nat) (l : List Byte) (m : Mach) (j : Nat) :
    part (raiseWith code sev inst arg l m) j = part m j := by simp [part]

@[simp] theorem raiseEvt_mem (code sev inst arg : Nat) (m : Mach) :
    (raiseEvt code sev inst arg m).mem = m.mem := (same_raiseEvt code sev inst arg m).mem

@[simp] theorem raiseEvt_dies (code sev inst arg : Nat) (m : Mach) :
    (raiseEvt code sev inst arg m).dies = m.dies := (same_raiseEvt code sev inst arg m).dies

@[simp] theorem raiseEvt_stations (code sev inst arg : Nat) (m : Mach) :
    (raiseEvt code sev inst arg m).stations = m.stations := (same_raiseEvt code sev inst arg m).stations

@[simp] theorem raiseEvt_wells (code sev inst arg : Nat) (m : Mach) :
    (raiseEvt code sev inst arg m).wells = m.wells := (same_raiseEvt code sev inst arg m).wells

@[simp] theorem raiseEvt_parts (code sev inst arg : Nat) (m : Mach) :
    (raiseEvt code sev inst arg m).parts = m.parts := (same_raiseEvt code sev inst arg m).parts

@[simp] theorem raiseEvt_mesh (code sev inst arg : Nat) (m : Mach) :
    (raiseEvt code sev inst arg m).mesh = m.mesh := (same_raiseEvt code sev inst arg m).mesh

@[simp] theorem raiseEvt_history (code sev inst arg : Nat) (m : Mach) :
    (raiseEvt code sev inst arg m).history = m.history := (same_raiseEvt code sev inst arg m).history

@[simp] theorem raiseEvt_hosts (code sev inst arg : Nat) (m : Mach) :
    (raiseEvt code sev inst arg m).hosts = m.hosts := (same_raiseEvt code sev inst arg m).hosts

@[simp] theorem raiseEvt_links (code sev inst arg : Nat) (m : Mach) :
    (raiseEvt code sev inst arg m).links = m.links := (same_raiseEvt code sev inst arg m).links

@[simp] theorem raiseEvt_ports (code sev inst arg : Nat) (m : Mach) :
    (raiseEvt code sev inst arg m).ports = m.ports := (same_raiseEvt code sev inst arg m).ports

@[simp] theorem raiseEvt_rte (code sev inst arg : Nat) (m : Mach) :
    (raiseEvt code sev inst arg m).rte = m.rte := (same_raiseEvt code sev inst arg m).rte

@[simp] theorem raiseEvt_aborts (code sev inst arg : Nat) (m : Mach) :
    (raiseEvt code sev inst arg m).aborts = m.aborts := (same_raiseEvt code sev inst arg m).aborts

@[simp] theorem raiseEvt_evtCfg (code sev inst arg : Nat) (m : Mach) :
    (raiseEvt code sev inst arg m).evtCfg = m.evtCfg := (same_raiseEvt code sev inst arg m).evtCfg

@[simp] theorem raiseEvt_clk (code sev inst arg : Nat) (m : Mach) :
    (raiseEvt code sev inst arg m).clk = m.clk := (same_raiseEvt code sev inst arg m).clk

@[simp] theorem raiseEvt_moduleId (code sev inst arg : Nat) (m : Mach) :
    (raiseEvt code sev inst arg m).moduleId = m.moduleId := (same_raiseEvt code sev inst arg m).moduleId

@[simp] theorem raiseEvt_located (code sev inst arg : Nat) (m : Mach) :
    (raiseEvt code sev inst arg m).located = m.located := (same_raiseEvt code sev inst arg m).located

@[simp] theorem raiseEvt_boot (code sev inst arg : Nat) (m : Mach) :
    (raiseEvt code sev inst arg m).boot = m.boot := (same_raiseEvt code sev inst arg m).boot

@[simp] theorem raiseEvt_change (code sev inst arg : Nat) (m : Mach) :
    (raiseEvt code sev inst arg m).change = m.change := (same_raiseEvt code sev inst arg m).change

@[simp] theorem raiseEvt_operatorKey (code sev inst arg : Nat) (m : Mach) :
    (raiseEvt code sev inst arg m).operatorKey = m.operatorKey := (same_raiseEvt code sev inst arg m).operatorKey

@[simp] theorem raiseEvt_custodianKey (code sev inst arg : Nat) (m : Mach) :
    (raiseEvt code sev inst arg m).custodianKey = m.custodianKey := (same_raiseEvt code sev inst arg m).custodianKey

@[simp] theorem raiseEvt_mgmtTag (code sev inst arg : Nat) (m : Mach) :
    (raiseEvt code sev inst arg m).mgmtTag = m.mgmtTag := (same_raiseEvt code sev inst arg m).mgmtTag

@[simp] theorem raiseEvt_fw (code sev inst arg : Nat) (m : Mach) :
    (raiseEvt code sev inst arg m).fw = m.fw := (same_raiseEvt code sev inst arg m).fw

@[simp] theorem raiseEvt_wch (code sev inst arg : Nat) (m : Mach) :
    (raiseEvt code sev inst arg m).wch = m.wch := (same_raiseEvt code sev inst arg m).wch

@[simp] theorem raiseEvt_pwr (code sev inst arg : Nat) (m : Mach) :
    (raiseEvt code sev inst arg m).pwr = m.pwr := (same_raiseEvt code sev inst arg m).pwr

@[simp] theorem raiseEvt_eccFill (code sev inst arg : Nat) (m : Mach) :
    (raiseEvt code sev inst arg m).eccFill = m.eccFill := (same_raiseEvt code sev inst arg m).eccFill

@[simp] theorem raiseEvt_hostErr (code sev inst arg : Nat) (m : Mach) :
    (raiseEvt code sev inst arg m).hostErr = m.hostErr := (same_raiseEvt code sev inst arg m).hostErr

@[simp] theorem raiseEvt_cistErr (code sev inst arg : Nat) (m : Mach) :
    (raiseEvt code sev inst arg m).cistErr = m.cistErr := (same_raiseEvt code sev inst arg m).cistErr

@[simp] theorem raiseEvt_cistCrc (code sev inst arg : Nat) (m : Mach) :
    (raiseEvt code sev inst arg m).cistCrc = m.cistCrc := (same_raiseEvt code sev inst arg m).cistCrc

@[simp] theorem raiseEvt_cistTurn (code sev inst arg : Nat) (m : Mach) :
    (raiseEvt code sev inst arg m).cistTurn = m.cistTurn := (same_raiseEvt code sev inst arg m).cistTurn

@[simp] theorem raiseEvt_freeCtr (code sev inst arg : Nat) (m : Mach) :
    (raiseEvt code sev inst arg m).freeCtr = m.freeCtr := (same_raiseEvt code sev inst arg m).freeCtr

@[simp] theorem stn_raiseEvt (code sev inst arg : Nat) (m : Mach) (j : Nat) :
    stn (raiseEvt code sev inst arg m) j = stn m j := by simp [stn]

@[simp] theorem well_raiseEvt (code sev inst arg : Nat) (m : Mach) (j : Nat) :
    well (raiseEvt code sev inst arg m) j = well m j := by simp [well]

@[simp] theorem die_raiseEvt (code sev inst arg : Nat) (m : Mach) (j : Nat) :
    die (raiseEvt code sev inst arg m) j = die m j := by simp [die]

@[simp] theorem part_raiseEvt (code sev inst arg : Nat) (m : Mach) (j : Nat) :
    part (raiseEvt code sev inst arg m) j = part m j := by simp [part]

@[simp] theorem bumpBy_mem (r : Reg) (i e n : Nat) (m : Mach) :
    (bumpBy r i e n m).mem = m.mem := (same_bumpBy r i e n m).mem

@[simp] theorem bumpBy_dies (r : Reg) (i e n : Nat) (m : Mach) :
    (bumpBy r i e n m).dies = m.dies := (same_bumpBy r i e n m).dies

@[simp] theorem bumpBy_stations (r : Reg) (i e n : Nat) (m : Mach) :
    (bumpBy r i e n m).stations = m.stations := (same_bumpBy r i e n m).stations

@[simp] theorem bumpBy_wells (r : Reg) (i e n : Nat) (m : Mach) :
    (bumpBy r i e n m).wells = m.wells := (same_bumpBy r i e n m).wells

@[simp] theorem bumpBy_parts (r : Reg) (i e n : Nat) (m : Mach) :
    (bumpBy r i e n m).parts = m.parts := (same_bumpBy r i e n m).parts

@[simp] theorem bumpBy_mesh (r : Reg) (i e n : Nat) (m : Mach) :
    (bumpBy r i e n m).mesh = m.mesh := (same_bumpBy r i e n m).mesh

@[simp] theorem bumpBy_history (r : Reg) (i e n : Nat) (m : Mach) :
    (bumpBy r i e n m).history = m.history := (same_bumpBy r i e n m).history

@[simp] theorem bumpBy_hosts (r : Reg) (i e n : Nat) (m : Mach) :
    (bumpBy r i e n m).hosts = m.hosts := (same_bumpBy r i e n m).hosts

@[simp] theorem bumpBy_links (r : Reg) (i e n : Nat) (m : Mach) :
    (bumpBy r i e n m).links = m.links := (same_bumpBy r i e n m).links

@[simp] theorem bumpBy_ports (r : Reg) (i e n : Nat) (m : Mach) :
    (bumpBy r i e n m).ports = m.ports := (same_bumpBy r i e n m).ports

@[simp] theorem bumpBy_rte (r : Reg) (i e n : Nat) (m : Mach) :
    (bumpBy r i e n m).rte = m.rte := (same_bumpBy r i e n m).rte

@[simp] theorem bumpBy_aborts (r : Reg) (i e n : Nat) (m : Mach) :
    (bumpBy r i e n m).aborts = m.aborts := (same_bumpBy r i e n m).aborts

@[simp] theorem bumpBy_evtCfg (r : Reg) (i e n : Nat) (m : Mach) :
    (bumpBy r i e n m).evtCfg = m.evtCfg := (same_bumpBy r i e n m).evtCfg

@[simp] theorem bumpBy_clk (r : Reg) (i e n : Nat) (m : Mach) :
    (bumpBy r i e n m).clk = m.clk := (same_bumpBy r i e n m).clk

@[simp] theorem bumpBy_moduleId (r : Reg) (i e n : Nat) (m : Mach) :
    (bumpBy r i e n m).moduleId = m.moduleId := (same_bumpBy r i e n m).moduleId

@[simp] theorem bumpBy_located (r : Reg) (i e n : Nat) (m : Mach) :
    (bumpBy r i e n m).located = m.located := (same_bumpBy r i e n m).located

@[simp] theorem bumpBy_boot (r : Reg) (i e n : Nat) (m : Mach) :
    (bumpBy r i e n m).boot = m.boot := (same_bumpBy r i e n m).boot

@[simp] theorem bumpBy_change (r : Reg) (i e n : Nat) (m : Mach) :
    (bumpBy r i e n m).change = m.change := (same_bumpBy r i e n m).change

@[simp] theorem bumpBy_operatorKey (r : Reg) (i e n : Nat) (m : Mach) :
    (bumpBy r i e n m).operatorKey = m.operatorKey := (same_bumpBy r i e n m).operatorKey

@[simp] theorem bumpBy_custodianKey (r : Reg) (i e n : Nat) (m : Mach) :
    (bumpBy r i e n m).custodianKey = m.custodianKey := (same_bumpBy r i e n m).custodianKey

@[simp] theorem bumpBy_mgmtTag (r : Reg) (i e n : Nat) (m : Mach) :
    (bumpBy r i e n m).mgmtTag = m.mgmtTag := (same_bumpBy r i e n m).mgmtTag

@[simp] theorem bumpBy_fw (r : Reg) (i e n : Nat) (m : Mach) :
    (bumpBy r i e n m).fw = m.fw := (same_bumpBy r i e n m).fw

@[simp] theorem bumpBy_wch (r : Reg) (i e n : Nat) (m : Mach) :
    (bumpBy r i e n m).wch = m.wch := (same_bumpBy r i e n m).wch

@[simp] theorem bumpBy_pwr (r : Reg) (i e n : Nat) (m : Mach) :
    (bumpBy r i e n m).pwr = m.pwr := (same_bumpBy r i e n m).pwr

@[simp] theorem bumpBy_eccFill (r : Reg) (i e n : Nat) (m : Mach) :
    (bumpBy r i e n m).eccFill = m.eccFill := (same_bumpBy r i e n m).eccFill

@[simp] theorem bumpBy_hostErr (r : Reg) (i e n : Nat) (m : Mach) :
    (bumpBy r i e n m).hostErr = m.hostErr := (same_bumpBy r i e n m).hostErr

@[simp] theorem bumpBy_cistErr (r : Reg) (i e n : Nat) (m : Mach) :
    (bumpBy r i e n m).cistErr = m.cistErr := (same_bumpBy r i e n m).cistErr

@[simp] theorem bumpBy_cistCrc (r : Reg) (i e n : Nat) (m : Mach) :
    (bumpBy r i e n m).cistCrc = m.cistCrc := (same_bumpBy r i e n m).cistCrc

@[simp] theorem bumpBy_cistTurn (r : Reg) (i e n : Nat) (m : Mach) :
    (bumpBy r i e n m).cistTurn = m.cistTurn := (same_bumpBy r i e n m).cistTurn

@[simp] theorem bumpBy_freeCtr (r : Reg) (i e n : Nat) (m : Mach) :
    (bumpBy r i e n m).freeCtr = m.freeCtr := (same_bumpBy r i e n m).freeCtr

@[simp] theorem stn_bumpBy (r : Reg) (i e n : Nat) (m : Mach) (j : Nat) :
    stn (bumpBy r i e n m) j = stn m j := by simp [stn]

@[simp] theorem well_bumpBy (r : Reg) (i e n : Nat) (m : Mach) (j : Nat) :
    well (bumpBy r i e n m) j = well m j := by simp [well]

@[simp] theorem die_bumpBy (r : Reg) (i e n : Nat) (m : Mach) (j : Nat) :
    die (bumpBy r i e n m) j = die m j := by simp [die]

@[simp] theorem part_bumpBy (r : Reg) (i e n : Nat) (m : Mach) (j : Nat) :
    part (bumpBy r i e n m) j = part m j := by simp [part]

@[simp] theorem bump_mem (r : Reg) (i : Nat) (m : Mach) :
    (bump r i m).mem = m.mem := (same_bump r i m).mem

@[simp] theorem bump_dies (r : Reg) (i : Nat) (m : Mach) :
    (bump r i m).dies = m.dies := (same_bump r i m).dies

@[simp] theorem bump_stations (r : Reg) (i : Nat) (m : Mach) :
    (bump r i m).stations = m.stations := (same_bump r i m).stations

@[simp] theorem bump_wells (r : Reg) (i : Nat) (m : Mach) :
    (bump r i m).wells = m.wells := (same_bump r i m).wells

@[simp] theorem bump_parts (r : Reg) (i : Nat) (m : Mach) :
    (bump r i m).parts = m.parts := (same_bump r i m).parts

@[simp] theorem bump_mesh (r : Reg) (i : Nat) (m : Mach) :
    (bump r i m).mesh = m.mesh := (same_bump r i m).mesh

@[simp] theorem bump_history (r : Reg) (i : Nat) (m : Mach) :
    (bump r i m).history = m.history := (same_bump r i m).history

@[simp] theorem bump_hosts (r : Reg) (i : Nat) (m : Mach) :
    (bump r i m).hosts = m.hosts := (same_bump r i m).hosts

@[simp] theorem bump_links (r : Reg) (i : Nat) (m : Mach) :
    (bump r i m).links = m.links := (same_bump r i m).links

@[simp] theorem bump_ports (r : Reg) (i : Nat) (m : Mach) :
    (bump r i m).ports = m.ports := (same_bump r i m).ports

@[simp] theorem bump_rte (r : Reg) (i : Nat) (m : Mach) :
    (bump r i m).rte = m.rte := (same_bump r i m).rte

@[simp] theorem bump_aborts (r : Reg) (i : Nat) (m : Mach) :
    (bump r i m).aborts = m.aborts := (same_bump r i m).aborts

@[simp] theorem bump_evtCfg (r : Reg) (i : Nat) (m : Mach) :
    (bump r i m).evtCfg = m.evtCfg := (same_bump r i m).evtCfg

@[simp] theorem bump_clk (r : Reg) (i : Nat) (m : Mach) :
    (bump r i m).clk = m.clk := (same_bump r i m).clk

@[simp] theorem bump_moduleId (r : Reg) (i : Nat) (m : Mach) :
    (bump r i m).moduleId = m.moduleId := (same_bump r i m).moduleId

@[simp] theorem bump_located (r : Reg) (i : Nat) (m : Mach) :
    (bump r i m).located = m.located := (same_bump r i m).located

@[simp] theorem bump_boot (r : Reg) (i : Nat) (m : Mach) :
    (bump r i m).boot = m.boot := (same_bump r i m).boot

@[simp] theorem bump_change (r : Reg) (i : Nat) (m : Mach) :
    (bump r i m).change = m.change := (same_bump r i m).change

@[simp] theorem bump_operatorKey (r : Reg) (i : Nat) (m : Mach) :
    (bump r i m).operatorKey = m.operatorKey := (same_bump r i m).operatorKey

@[simp] theorem bump_custodianKey (r : Reg) (i : Nat) (m : Mach) :
    (bump r i m).custodianKey = m.custodianKey := (same_bump r i m).custodianKey

@[simp] theorem bump_mgmtTag (r : Reg) (i : Nat) (m : Mach) :
    (bump r i m).mgmtTag = m.mgmtTag := (same_bump r i m).mgmtTag

@[simp] theorem bump_fw (r : Reg) (i : Nat) (m : Mach) :
    (bump r i m).fw = m.fw := (same_bump r i m).fw

@[simp] theorem bump_wch (r : Reg) (i : Nat) (m : Mach) :
    (bump r i m).wch = m.wch := (same_bump r i m).wch

@[simp] theorem bump_pwr (r : Reg) (i : Nat) (m : Mach) :
    (bump r i m).pwr = m.pwr := (same_bump r i m).pwr

@[simp] theorem bump_eccFill (r : Reg) (i : Nat) (m : Mach) :
    (bump r i m).eccFill = m.eccFill := (same_bump r i m).eccFill

@[simp] theorem bump_hostErr (r : Reg) (i : Nat) (m : Mach) :
    (bump r i m).hostErr = m.hostErr := (same_bump r i m).hostErr

@[simp] theorem bump_cistErr (r : Reg) (i : Nat) (m : Mach) :
    (bump r i m).cistErr = m.cistErr := (same_bump r i m).cistErr

@[simp] theorem bump_cistCrc (r : Reg) (i : Nat) (m : Mach) :
    (bump r i m).cistCrc = m.cistCrc := (same_bump r i m).cistCrc

@[simp] theorem bump_cistTurn (r : Reg) (i : Nat) (m : Mach) :
    (bump r i m).cistTurn = m.cistTurn := (same_bump r i m).cistTurn

@[simp] theorem bump_freeCtr (r : Reg) (i : Nat) (m : Mach) :
    (bump r i m).freeCtr = m.freeCtr := (same_bump r i m).freeCtr

@[simp] theorem stn_bump (r : Reg) (i : Nat) (m : Mach) (j : Nat) :
    stn (bump r i m) j = stn m j := by simp [stn]

@[simp] theorem well_bump (r : Reg) (i : Nat) (m : Mach) (j : Nat) :
    well (bump r i m) j = well m j := by simp [well]

@[simp] theorem die_bump (r : Reg) (i : Nat) (m : Mach) (j : Nat) :
    die (bump r i m) j = die m j := by simp [die]

@[simp] theorem part_bump (r : Reg) (i : Nat) (m : Mach) (j : Nat) :
    part (bump r i m) j = part m j := by simp [part]

end Sys2Proof.Machine
end

