-- ==== Sys2Proof/Laws/KeepsOps.lean ====
section
/-! SUPPORT. Every operation of these modules keeps the canonical form of every memory: Ops, Mesh, Packets, Outside, Journal,
Halts, Routes, Mailbox, Scratch, Recall, Release, Issue, Sequence, Holds, Mover, Memory. -/

namespace Sys2Proof.Machine

theorem wf_foldl_fst {α β : Type} {f : Mach × β → α → Mach × β} {l : List α} {y : Mach × β}
    (hf : ∀ y x, y.1.mem.wf = true → (f y x).1.mem.wf = true) (h : y.1.mem.wf = true) :
    (l.foldl f y).1.mem.wf = true := by
  induction l generalizing y with
  | nil => exact h
  | cons x r ih => exact ih (hf y x h)

theorem wf_foldl {α : Type} {f : Mach → α → Mach} {l : List α} {m : Mach}
    (hf : ∀ m x, m.mem.wf = true → (f m x).mem.wf = true) (h : m.mem.wf = true) : (l.foldl f m).mem.wf = true := by
  induction l generalizing m with
  | nil => exact h
  | cons x r ih => exact ih (hf m x h)

/-! ### Ops -/

theorem wf_onPart (p : Nat) (f : Part → Part) (m : Mach) (hm : m.mem.wf = true) :
    (onPart p f m).mem.wf = true := by
  unfold onPart
  repeat' with_reducible first
    | assumption | (apply wf_foldl; intro _ _ _) | split | dsimp only

theorem wf_onWin (w : Nat) (f : Win → Win) (m : Mach) (hm : m.mem.wf = true) :
    (onWin w f m).mem.wf = true := by
  unfold onWin
  repeat' with_reducible first
    | assumption | (apply wf_foldl; intro _ _ _) | split | dsimp only

theorem wf_interrupt (w : Nat) (src : Nat) (m : Mach) (hm : m.mem.wf = true) :
    (interrupt w src m).mem.wf = true := by
  unfold interrupt
  repeat' with_reducible first
    | assumption | apply wf_onWin | (apply wf_foldl; intro _ _ _) | split | dsimp only

theorem wf_bumpQuiet (r : Reg) (inst : Nat) (elem : Nat) (n : Nat) (m : Mach) (hm : m.mem.wf = true) :
    (bumpQuiet r inst elem n m).mem.wf = true := by
  unfold bumpQuiet
  repeat' with_reducible first
    | assumption | (apply wf_foldl; intro _ _ _) | split | dsimp only

theorem wf_tellFull (fuel : Nat) (was m : Mach) (_ : was.mem.wf = true) (hm : m.mem.wf = true) :
    (tellFull fuel was m).mem.wf = true := by
  rw [(same_tellFull fuel was m).mem]
  exact hm

theorem wf_tellWindow (e : Evt) (m : Mach) (w : Nat) (hm : m.mem.wf = true) :
    (tellWindow e m w).mem.wf = true := by
  unfold tellWindow
  repeat' with_reducible first
    | assumption | apply wf_bumpQuiet | apply wf_interrupt | apply wf_onWin | (apply wf_foldl; intro _ _ _) | split
    | dsimp only

theorem wf_pushReport (code : Nat) (l : List Byte) (m : Mach) (hm : m.mem.wf = true) :
    (pushReport code l m).mem.wf = true := by
  unfold pushReport
  repeat' with_reducible first
    | assumption | (apply wf_foldl; intro _ _ _) | split | dsimp only

theorem wf_raiseOnce (code : Nat) (sev : Nat) (inst : Nat) (arg : Nat) (more : List Byte) (m : Mach)
    (hm : m.mem.wf = true) :
    (raiseOnce code sev inst arg more m).mem.wf = true := by
  unfold raiseOnce
  repeat' with_reducible first
    | assumption | apply wf_bumpQuiet | apply wf_tellWindow | apply wf_pushReport | (apply wf_foldl; intro _ _ _)
    | split | dsimp only

theorem wf_raiseWith (code : Nat) (sev : Nat) (inst : Nat) (arg : Nat) (more : List Byte) (m : Mach)
    (hm : m.mem.wf = true) :
    (raiseWith code sev inst arg more m).mem.wf = true := by
  unfold raiseWith
  repeat' with_reducible first
    | assumption | apply wf_tellFull | apply wf_raiseOnce | (apply wf_foldl; intro _ _ _) | split | dsimp only

theorem wf_raiseEvt (code : Nat) (sev : Nat) (inst : Nat) (arg : Nat) (m : Mach) (hm : m.mem.wf = true) :
    (raiseEvt code sev inst arg m).mem.wf = true := by
  unfold raiseEvt
  repeat' with_reducible first
    | assumption | apply wf_raiseWith | (apply wf_foldl; intro _ _ _) | split | dsimp only

theorem wf_bumpBy (r : Reg) (inst : Nat) (elem : Nat) (n : Nat) (m : Mach) (hm : m.mem.wf = true) :
    (bumpBy r inst elem n m).mem.wf = true := by
  unfold bumpBy
  repeat' with_reducible first
    | assumption | apply wf_bumpQuiet | apply wf_raiseEvt | (apply wf_foldl; intro _ _ _) | split | dsimp only

theorem wf_bump (r : Reg) (inst : Nat) (m : Mach) (hm : m.mem.wf = true) :
    (bump r inst m).mem.wf = true := by
  unfold bump
  repeat' with_reducible first
    | assumption | apply wf_bumpBy | (apply wf_foldl; intro _ _ _) | split | dsimp only

theorem wf_onDie (d : Nat) (f : Die → Die) (m : Mach) (hm : m.mem.wf = true) :
    (onDie d f m).mem.wf = true := by
  unfold onDie
  repeat' with_reducible first
    | assumption | (apply wf_foldl; intro _ _ _) | split | dsimp only

theorem wf_onWell (w : Nat) (f : Well → Well) (m : Mach) (hm : m.mem.wf = true) :
    (onWell w f m).mem.wf = true := by
  unfold onWell
  repeat' with_reducible first
    | assumption | (apply wf_foldl; intro _ _ _) | split | dsimp only

theorem wf_passNs (n : Nat) (m : Mach) (hm : m.mem.wf = true) :
    (passNs n m).mem.wf = true := by
  unfold passNs
  repeat' with_reducible first
    | assumption | (apply wf_foldl; intro _ _ _) | split | dsimp only

theorem wf_reachNs (t : Nat) (m : Mach) (hm : m.mem.wf = true) :
    (reachNs t m).mem.wf = true := by
  unfold reachNs
  repeat' with_reducible first
    | assumption | apply wf_passNs | (apply wf_foldl; intro _ _ _) | split | dsimp only

theorem wf_onStn (k : Nat) (f : Station → Station) (m : Mach) (hm : m.mem.wf = true) :
    (onStn k f m).mem.wf = true := by
  unfold onStn
  repeat' with_reducible first
    | assumption | (apply wf_foldl; intro _ _ _) | split | dsimp only

theorem wf_beginHold (p : Nat) (h0 : Hold) (m : Mach) (hm : m.mem.wf = true) :
    (beginHold p h0 m).mem.wf = true := by
  unfold beginHold
  repeat' with_reducible first
    | assumption | apply wf_onPart | (apply wf_foldl; intro _ _ _) | split | dsimp only

theorem wf_startHold (p : Nat) (x : Int) (c : CauseSt) (m : Mach) (hm : m.mem.wf = true) :
    (startHold p x c m).mem.wf = true := by
  unfold startHold
  repeat' with_reducible first
    | assumption | apply wf_beginHold | (apply wf_foldl; intro _ _ _) | split | dsimp only

theorem wf_flashed (m : Mach) (hm : m.mem.wf = true) :
    (flashed m).mem.wf = true := by
  unfold flashed
  repeat' with_reducible first
    | assumption | (apply wf_foldl; intro _ _ _) | split | dsimp only

theorem wf_clearCtr (r : Reg) (inst : Nat) (elem : Nat) (m : Mach) (hm : m.mem.wf = true) :
    (clearCtr r inst elem m).mem.wf = true := by
  unfold clearCtr
  repeat' with_reducible first
    | assumption | (apply wf_foldl; intro _ _ _) | split | dsimp only

theorem wf_reachWall (t : Nat) (m : Mach) (hm : m.mem.wf = true) :
    (reachWall t m).mem.wf = true := by
  unfold reachWall
  repeat' with_reducible first
    | assumption | apply wf_passNs | (apply wf_foldl; intro _ _ _) | split | dsimp only

theorem wf_clearCause (p : Nat) (r : Int) (f : CauseSt → Bool) (m : Mach) (hm : m.mem.wf = true) :
    (clearCause p r f m).mem.wf = true := by
  unfold clearCause
  repeat' with_reducible first
    | assumption | apply wf_onPart | (apply wf_foldl; intro _ _ _) | split | dsimp only

theorem wf_tick (m : Mach) (hm : m.mem.wf = true) :
    (tick m).mem.wf = true := by
  unfold tick
  repeat' with_reducible first
    | assumption | apply wf_passNs | (apply wf_foldl; intro _ _ _) | split | dsimp only

/-! ### Mesh -/

theorem wf_throughTap (b : Beat) (m : Mach) (hm : m.mem.wf = true) :
    (throughTap b m).mem.wf = true := by
  unfold throughTap
  repeat' with_reducible first
    | assumption | apply wf_onDie | (apply wf_foldl; intro _ _ _) | split | dsimp only

theorem wf_discard (lost : List Beat) (m : Mach) (hm : m.mem.wf = true) :
    (discard lost m).mem.wf = true := by
  unfold discard
  repeat' with_reducible first
    | assumption | apply wf_onStn | (apply wf_foldl; intro _ _ _) | split | dsimp only

theorem wf_collide (key : Nat) (step : Nat) (out : Nat) (c : Nat) (l : List (Nat × Beat)) (m : Mach)
    (hm : m.mem.wf = true) :
    (collide key step out c l m).mem.wf = true := by
  unfold collide
  repeat' with_reducible first
    | assumption | apply wf_onStn | apply wf_discard | apply wf_bumpBy | (apply wf_foldl; intro _ _ _) | split
    | dsimp only

theorem wf_routerForward (d : Nat) (unit : Nat) (out : Nat) (c : Nat) (m : Mach) (hm : m.mem.wf = true) :
    (routerForward d unit out c m).mem.wf = true := by
  unfold routerForward
  repeat' with_reducible first
    | assumption | apply wf_collide | (apply wf_foldl; intro _ _ _) | split | dsimp only

theorem wf_crossingAdmit (d : Nat) (east : Bool) (c : Nat) (slipped : List Nat) (m : Mach) (hm : m.mem.wf = true) :
    (crossingAdmit d east c slipped m).mem.wf = true := by
  unfold crossingAdmit
  repeat' with_reducible first
    | assumption | apply wf_onDie | apply wf_routerForward | apply wf_discard | apply wf_bumpBy
    | (apply wf_foldl; intro _ _ _) | split | dsimp only

/-! ### Packets -/

theorem wf_onPair (d : Nat) (mod : Nat) (peer : Nat) (f : Pair → Pair) (m : Mach) (hm : m.mem.wf = true) :
    (onPair d mod peer f m).mem.wf = true := by
  unfold onPair
  repeat' with_reducible first
    | assumption | apply wf_onDie | (apply wf_foldl; intro _ _ _) | split | dsimp only

theorem wf_enterPair (d : Nat) (mod : Nat) (peer : Nat) (f : Pair → Pair) (m : Mach) (hm : m.mem.wf = true) :
    (enterPair d mod peer f m).mem.wf = true := by
  unfold enterPair
  repeat' with_reducible first
    | assumption | apply wf_onPair | (apply wf_foldl; intro _ _ _) | split | dsimp only

theorem wf_onPort (k : Nat) (f : Port → Port) (m : Mach) (hm : m.mem.wf = true) :
    (onPort k f m).mem.wf = true := by
  unfold onPort
  repeat' with_reducible first
    | assumption | (apply wf_foldl; intro _ _ _) | split | dsimp only

theorem wf_freePool (i : InPkt) (m : Mach) (hm : m.mem.wf = true) :
    (freePool i m).mem.wf = true := by
  unfold freePool
  repeat' with_reducible first
    | assumption | apply wf_onPort | (apply wf_foldl; intro _ _ _) | split | dsimp only

theorem wf_OutPkt_freePool (o : OutPkt) (m : Mach) (hm : m.mem.wf = true) :
    (OutPkt.freePool o m).mem.wf = true := by
  unfold OutPkt.freePool
  repeat' with_reducible first
    | assumption | apply wf_onPort | (apply wf_foldl; intro _ _ _) | split | dsimp only

theorem wf_fillHeld (d fuel : Nat) (m : Mach) (hm : m.mem.wf = true) : (fillHeld d fuel m).mem.wf = true := by
  induction fuel generalizing m with
  | zero => exact hm
  | succ n ih =>
    unfold fillHeld
    split
    · exact hm
    · split
      · exact ih _ (wf_OutPkt_freePool _ _ (wf_onDie _ _ _ hm))
      · exact hm

theorem wf_refillHeld (d : Nat) (m : Mach) (hm : m.mem.wf = true) :
    (refillHeld d m).mem.wf = true := by
  unfold refillHeld
  repeat' with_reducible first
    | assumption | apply wf_fillHeld | (apply wf_foldl; intro _ _ _) | split | dsimp only

theorem wf_pump (k : Nat) (m : Mach) (hm : m.mem.wf = true) :
    (pump k m).mem.wf = true := by
  unfold pump
  repeat' with_reducible first
    | assumption | apply wf_OutPkt_freePool | apply wf_onPort | (apply wf_foldl; intro _ _ _) | split | dsimp only

theorem wf_putPort (k : Nat) (o : OutPkt) (m : Mach) (hm : m.mem.wf = true) :
    (putPort k o m).mem.wf = true := by
  unfold putPort
  repeat' with_reducible first
    | assumption | apply wf_bump | apply wf_onPort | apply wf_pump | (apply wf_foldl; intro _ _ _) | split
    | dsimp only

theorem wf_noteLate (d : Nat) (t : Option Nat) (h0 : Header) (m : Mach) (hm : m.mem.wf = true) :
    (noteLate d t h0 m).mem.wf = true := by
  unfold noteLate
  repeat' with_reducible first
    | assumption | apply wf_bump | (apply wf_foldl; intro _ _ _) | split | dsimp only

theorem wf_leave (d : Nat) (t : Option Nat) (o : OutPkt) (y : Nat × Bool) (m : Mach) (hm : m.mem.wf = true) :
    (leave d t o y m).mem.wf = true := by
  unfold leave
  repeat' with_reducible first
    | assumption | apply wf_putPort | apply wf_noteLate | (apply wf_foldl; intro _ _ _) | split | dsimp only

theorem wf_hold (d : Nat) (t : Option Nat) (o : OutPkt) (m : Mach) (hm : m.mem.wf = true) :
    (hold d t o m).mem.wf = true := by
  unfold hold
  repeat' with_reducible first
    | assumption | apply wf_OutPkt_freePool | apply wf_onDie | (apply wf_foldl; intro _ _ _) | split | dsimp only

theorem wf_releaseHeld (d : Nat) (m : Mach) (x : Held) (hm : m.mem.wf = true) :
    (releaseHeld d m x).mem.wf = true := by
  unfold releaseHeld
  repeat' with_reducible first
    | assumption | apply wf_leave | apply wf_hold | (apply wf_foldl; intro _ _ _) | split | dsimp only

theorem wf_rehold (d : Nat) (m : Mach) (hm : m.mem.wf = true) :
    (rehold d m).mem.wf = true := by
  unfold rehold
  repeat' with_reducible first
    | assumption | apply wf_releaseHeld | apply wf_onDie | apply wf_refillHeld | (apply wf_foldl; intro _ _ _)
    | split | dsimp only

theorem wf_reholdAll (m : Mach) (hm : m.mem.wf = true) :
    (reholdAll m).mem.wf = true := by
  unfold reholdAll
  repeat' with_reducible first
    | assumption | apply wf_rehold | (apply wf_foldl; intro _ _ _) | split | dsimp only

theorem wf_usePorts (p : Nat) (m : Mach) (hm : m.mem.wf = true) :
    (usePorts p m).mem.wf = true := by
  unfold usePorts
  repeat' with_reducible first
    | assumption | apply wf_onPort | apply wf_reholdAll | (apply wf_foldl; intro _ _ _) | split | dsimp only

theorem wf_onSlot (d : Nat) (k : Nat) (f : FSlot → FSlot) (m : Mach) (hm : m.mem.wf = true) :
    (onSlot d k f m).mem.wf = true := by
  unfold onSlot
  repeat' with_reducible first
    | assumption | apply wf_onDie | (apply wf_foldl; intro _ _ _) | split | dsimp only

theorem wf_sendLocal (k : Nat) (slot : Option (Nat × Nat)) (payload : List Byte) (m : Mach) (hm : m.mem.wf = true) :
    (sendLocal k slot payload m).mem.wf = true := by
  unfold sendLocal
  repeat' with_reducible first
    | assumption | apply wf_putPort | apply wf_onSlot | (apply wf_foldl; intro _ _ _) | split | dsimp only

theorem wf_sendAbort (p : Nat) (k : Nat) (a : Abort) (m : Mach) (hm : m.mem.wf = true) :
    (sendAbort p k a m).mem.wf = true := by
  unfold sendAbort
  repeat' with_reducible first
    | assumption | apply wf_sendLocal | (apply wf_foldl; intro _ _ _) | split | dsimp only

theorem wf_floodAbort (p : Nat) (a : Abort) (m : Mach) (hm : m.mem.wf = true) :
    (floodAbort p a m).mem.wf = true := by
  unfold floodAbort
  repeat' with_reducible first
    | assumption | apply wf_sendAbort | (apply wf_foldl; intro _ _ _) | split | dsimp only

theorem wf_floodHalt (p : Nat) (but : Option Nat) (m : Mach) (hm : m.mem.wf = true) :
    (floodHalt p but m).mem.wf = true := by
  unfold floodHalt
  repeat' with_reducible first
    | assumption | apply wf_floodAbort | (apply wf_foldl; intro _ _ _) | split | dsimp only

theorem wf_onRte (t : Option Nat) (f : Rte → Rte) (m : Mach) (hm : m.mem.wf = true) :
    (onRte t f m).mem.wf = true := by
  unfold onRte
  repeat' with_reducible first
    | assumption | apply wf_onPart | (apply wf_foldl; intro _ _ _) | split | dsimp only

/-! ### Outside -/

theorem wf_writeSealed (p : Nat) (b : Nat) (l : List Byte) (m : Mach) (hm : m.mem.wf = true) :
    (writeSealed p b l m).mem.wf = true := by
  unfold writeSealed
  repeat' with_reducible first
    | assumption | apply wf_onPart | apply wf_pokeHost | (apply wf_foldl; intro _ _ _) | split | dsimp only

theorem wf_storeSealed (p : Nat) (a : Nat) (l : List Byte) (m : Mach) (hm : m.mem.wf = true) :
    (storeSealed p a l m).mem.wf = true :=
  wf_foldl (fun _ _ h => wf_writeSealed _ _ _ _ h) hm

theorem wf_storeCist (p : Nat) (off : Nat) (l : List Byte) (m : Mach) (hm : m.mem.wf = true) :
    (storeCist p off l m).mem.wf = true := by
  unfold storeCist
  repeat' with_reducible first
    | assumption | apply wf_onPart | apply wf_pokeCist | (apply wf_foldl; intro _ _ _) | split | dsimp only

theorem wf_blockSealed (p : Nat) (b : Nat) (l : List Byte) (m : Mach) (hm : m.mem.wf = true) :
    (blockSealed p b l m).mem.wf = true := by
  unfold blockSealed
  repeat' with_reducible first
    | assumption | apply wf_pokeCist | (apply wf_foldl; intro _ _ _) | split | dsimp only

theorem wf_writeBlock (p : Nat) (b : Nat) (l : List Byte) (m : Mach) (hm : m.mem.wf = true) :
    (writeBlock p b l m).mem.wf = true := by
  unfold writeBlock
  repeat' with_reducible first
    | assumption | apply wf_onPart | apply wf_blockSealed | (apply wf_foldl; intro _ _ _) | split | dsimp only

/-! ### Journal -/

theorem wf_onDet (p : Nat) (f : Det → Det) (m : Mach) (hm : m.mem.wf = true) :
    (onDet p f m).mem.wf = true := by
  unfold onDet
  repeat' with_reducible first
    | assumption | apply wf_onPart | (apply wf_foldl; intro _ _ _) | split | dsimp only

theorem wf_writeEntry (p : Nat) (d : JDest) (e : JEntry) (m : Mach) (hm : m.mem.wf = true) :
    (writeEntry p d e m).mem.wf = true := by
  unfold writeEntry
  repeat' with_reducible first
    | assumption | apply wf_storeSealed | apply wf_onDet | apply wf_bump | apply wf_storeCist
    | (apply wf_foldl; intro _ _ _) | split | dsimp only

theorem wf_signature (m : Mach) (hm : m.mem.wf = true) :
    (signature m).2.mem.wf = true := by
  unfold signature
  repeat' with_reducible first
    | assumption | (apply wf_foldl; intro _ _ _) | split | dsimp only

theorem wf_signature_eq {m : Mach} {n_ : Mach} {x} (hm : m.mem.wf = true) (hx : signature m = (x, n_)) :
    n_.mem.wf = true := by
  have := wf_signature m hm
  rw [hx] at this
  exact this

theorem wf_onProv (p : Nat) (f : Prov → Prov) (m : Mach) (hm : m.mem.wf = true) :
    (onProv p f m).mem.wf = true := by
  unfold onProv
  repeat' with_reducible first
    | assumption | apply wf_onPart | (apply wf_foldl; intro _ _ _) | split | dsimp only

theorem wf_closeBatch (p : Nat) (m : Mach) (hm : m.mem.wf = true) :
    (closeBatch p m).1.mem.wf = true := by
  unfold closeBatch
  repeat' with_reducible first
    | assumption | apply wf_pokeHost | apply wf_bump | apply wf_onProv | apply wf_signature
    | refine wf_signature_eq ?_ (by assumption) | (apply wf_foldl; intro _ _ _) | split | dsimp only

theorem wf_closeBatch_eq {p : Nat} {m : Mach} {n_ : Mach} {x} (hm : m.mem.wf = true) (hx : closeBatch p m = (n_, x)) :
    n_.mem.wf = true := by
  have := wf_closeBatch p m hm
  rw [hx] at this
  exact this

theorem wf_stopPlan (p : Nat) (m : Mach) (hm : m.mem.wf = true) :
    (stopPlan p m).mem.wf = true := by
  unfold stopPlan
  repeat' with_reducible first
    | assumption | apply wf_onPart | apply wf_closeBatch | refine wf_closeBatch_eq ?_ (by assumption)
    | (apply wf_foldl; intro _ _ _) | split | dsimp only

theorem wf_journal (p : Nat) (e : JEntry) (m : Mach) (hm : m.mem.wf = true) :
    (journal p e m).mem.wf = true := by
  unfold journal
  repeat' with_reducible first
    | assumption | apply wf_onDet | apply wf_writeEntry | apply wf_raiseEvt | apply wf_stopPlan
    | (apply wf_foldl; intro _ _ _) | split | dsimp only

theorem wf_fetchRead (p : Nat) (kind : Nat) (addr : Nat) (len : Nat) (d : Digest) (m : Mach) (hm : m.mem.wf = true) :
    (fetchRead p kind addr len d m).mem.wf = true := by
  unfold fetchRead
  repeat' with_reducible first
    | assumption | apply wf_onDet | apply wf_bump | apply wf_raiseEvt | apply wf_journal
    | (apply wf_foldl; intro _ _ _) | split | dsimp only

theorem wf_createRecord (p : Nat) (index : Nat) (l : List Byte) (m : Mach) (hm : m.mem.wf = true) :
    (createRecord p index l m).mem.wf = true := by
  unfold createRecord
  repeat' with_reducible first
    | assumption | apply wf_pokeHost | apply wf_bump | apply wf_onProv | apply wf_closeBatch
    | refine wf_closeBatch_eq ?_ (by assumption) | (apply wf_foldl; intro _ _ _) | split | dsimp only

theorem wf_journalCommand (p : Nat) (code : Nat) (payload : List Byte) (step : Nat) (pos : Nat) (m : Mach)
    (hm : m.mem.wf = true) :
    (journalCommand p code payload step pos m).mem.wf = true := by
  unfold journalCommand
  repeat' with_reducible first
    | assumption | apply wf_journal | (apply wf_foldl; intro _ _ _) | split | dsimp only

theorem wf_takeIndex (p : Nat) (m : Mach) (hm : m.mem.wf = true) :
    (takeIndex p m).2.mem.wf = true := by
  unfold takeIndex
  repeat' with_reducible first
    | assumption | apply wf_onProv | (apply wf_foldl; intro _ _ _) | split | dsimp only

theorem wf_takeIndex_eq {p : Nat} {m : Mach} {n_ : Mach} {x} (hm : m.mem.wf = true) (hx : takeIndex p m = (x, n_)) :
    n_.mem.wf = true := by
  have := wf_takeIndex p m hm
  rw [hx] at this
  exact this

theorem wf_stepsRecord (fz : Fuses) (p : Nat) (n : Nat) (m : Mach) (hm : m.mem.wf = true) :
    (stepsRecord fz p n m).mem.wf = true := by
  unfold stepsRecord
  repeat' with_reducible first
    | assumption | apply wf_onProv | apply wf_createRecord | apply wf_takeIndex
    | refine wf_takeIndex_eq ?_ (by assumption) | (apply wf_foldl; intro _ _ _) | split | dsimp only

/-! ### Halts -/

theorem wf_haltEvent (p : Nat) (r : FaultRec) (m : Mach) (hm : m.mem.wf = true) :
    (haltEvent p r m).mem.wf = true := by
  unfold haltEvent
  repeat' with_reducible first
    | assumption | apply wf_raiseWith | (apply wf_foldl; intro _ _ _) | split | dsimp only

theorem wf_resettle (p : Nat) (old : List Byte) (new : List Byte) (m : Mach) (hm : m.mem.wf = true) :
    (resettle p old new m).mem.wf = true := by
  unfold resettle
  repeat' with_reducible first
    | assumption | (apply wf_foldl; intro _ _ _) | split | dsimp only

theorem wf_haltPart (fz : Fuses) (p : Nat) (h0 : HaltAt) (m : Mach) (hm : m.mem.wf = true) :
    (haltPart fz p h0 m).mem.wf = true := by
  unfold haltPart
  repeat' with_reducible first
    | assumption | apply wf_onPart | apply wf_onDet | apply wf_bump | apply wf_resettle | apply wf_usePorts
    | apply wf_closeBatch | refine wf_closeBatch_eq ?_ (by assumption) | apply wf_haltEvent | apply wf_floodHalt
    | (apply wf_foldl; intro _ _ _) | split | dsimp only

/-! ### Routes -/

theorem wf_draw (m : Mach) (hm : m.mem.wf = true) :
    (draw m).2.mem.wf = true := by
  unfold draw
  repeat' with_reducible first
    | assumption | (apply wf_foldl; intro _ _ _) | split | dsimp only

theorem wf_draw_eq {m : Mach} {n_ : Mach} {x} (hm : m.mem.wf = true) (hx : draw m = (x, n_)) :
    n_.mem.wf = true := by
  have := wf_draw m hm
  rw [hx] at this
  exact this

theorem wf_forceHalt (fz : Fuses) (p : Nat) (sub : Nat) (arg : Nat) (cycle : Int) (m : Mach) (hm : m.mem.wf = true) :
    (forceHalt fz p sub arg cycle m).mem.wf = true := by
  unfold forceHalt
  repeat' with_reducible first
    | assumption | apply wf_haltPart | (apply wf_foldl; intro _ _ _) | split | dsimp only

theorem wf_abortMember (fz : Fuses) (p : Nat) (a : Abort) (m : Mach) (hm : m.mem.wf = true) :
    (abortMember fz p a m).mem.wf = true := by
  unfold abortMember
  repeat' with_reducible first
    | assumption | apply wf_floodAbort | apply wf_onDet | apply wf_haltPart | (apply wf_foldl; intro _ _ _) | split
    | dsimp only

theorem wf_collNoRoute (fz : Fuses) (d : Nat) (t : Option Nat) (from_ : Option Nat) (h0 : Header) (m : Mach)
    (hm : m.mem.wf = true) :
    (collNoRoute fz d t from_ h0 m).mem.wf = true := by
  unfold collNoRoute
  repeat' with_reducible first
    | assumption | apply wf_abortMember | apply wf_draw | refine wf_draw_eq ?_ (by assumption) | apply wf_sendLocal
    | (apply wf_foldl; intro _ _ _) | split | dsimp only

theorem wf_place (fz : Fuses) (d : Nat) (t : Option Nat) (o : OutPkt) (m : Mach) (hm : m.mem.wf = true) :
    (place fz d t o m).mem.wf = true := by
  unfold place
  repeat' with_reducible first
    | assumption | apply wf_OutPkt_freePool | apply wf_collNoRoute | apply wf_leave | apply wf_hold
    | (apply wf_foldl; intro _ _ _) | split | dsimp only

theorem wf_forward (fz : Fuses) (i : InPkt) (m : Mach) (hm : m.mem.wf = true) :
    (forward fz i m).mem.wf = true := by
  unfold forward
  repeat' with_reducible first
    | assumption | apply wf_freePool | apply wf_collNoRoute | apply wf_onPort | apply wf_hold | apply wf_noteLate
    | (apply wf_foldl; intro _ _ _) | split | dsimp only

theorem wf_resend (fz : Fuses) (d : Nat) (r : Request) (m : Mach) (hm : m.mem.wf = true) :
    (resend fz d r m).mem.wf = true := by
  unfold resend
  repeat' with_reducible first
    | assumption | apply wf_onDie | apply wf_place | (apply wf_foldl; intro _ _ _) | split | dsimp only

theorem wf_memberLost (fz : Fuses) (p : Nat) (k : Nat) (mod : Nat) (m : Mach) (hm : m.mem.wf = true) :
    (memberLost fz p k mod m).mem.wf = true := by
  unfold memberLost
  repeat' with_reducible first
    | assumption | apply wf_abortMember | (apply wf_foldl; intro _ _ _) | split | dsimp only

theorem wf_downPort (fz : Fuses) (k : Nat) (cause : Nat) (fromEq : Bool) (m : Mach) (hm : m.mem.wf = true) :
    (downPort fz k cause fromEq m).mem.wf = true := by
  unfold downPort
  repeat' with_reducible first
    | assumption | apply wf_bump | apply wf_resend | apply wf_onPort | apply wf_raiseEvt | apply wf_forward
    | apply wf_place | apply wf_memberLost | (apply wf_foldl; intro _ _ _) | split | dsimp only

theorem wf_markC0 (d : Nat) (slot : Nat) (e : Nat) (m : Mach) (hm : m.mem.wf = true) :
    (markC0 d slot e m).mem.wf = true := by
  unfold markC0
  repeat' with_reducible first
    | assumption | apply wf_onSlot | (apply wf_foldl; intro _ _ _) | split | dsimp only

theorem wf_sendPair (fz : Fuses) (d : Nat) (cls : Nat) (h0 : Header) (payload : List Byte) (src : Option
    (Nat × Nat)) (m : Mach) (hm : m.mem.wf = true) :
    (sendPair fz d cls h0 payload src m).mem.wf = true := by
  unfold sendPair
  repeat' with_reducible first
    | assumption | apply wf_markC0 | apply wf_onPair | apply wf_bump | apply wf_place | (apply wf_foldl; intro _ _ _)
    | split | dsimp only

theorem wf_issueAsk (fz : Fuses) (d : Nat) (a : Ask) (m : Mach) (hm : m.mem.wf = true) :
    (issueAsk fz d a m).mem.wf = true := by
  unfold issueAsk
  repeat' with_reducible first
    | assumption | apply wf_onDie | apply wf_sendPair | apply wf_draw | refine wf_draw_eq ?_ (by assumption)
    | (apply wf_foldl; intro _ _ _) | split | dsimp only

theorem wf_issueFrom (fz : Fuses) (d fuel : Nat) (m : Mach) (hm : m.mem.wf = true) :
    (issueFrom fz d fuel m).mem.wf = true := by
  induction fuel generalizing m with
  | zero => exact hm
  | succ n ih =>
    unfold issueFrom
    split
    · exact hm
    · split
      · exact hm
      · exact ih _ (wf_issueAsk _ _ _ _ (wf_onDie _ _ _ hm))

theorem wf_issueAsks (fz : Fuses) (d : Nat) (m : Mach) (hm : m.mem.wf = true) :
    (issueAsks fz d m).mem.wf = true := by
  unfold issueAsks
  repeat' with_reducible first
    | assumption | apply wf_issueFrom | (apply wf_foldl; intro _ _ _) | split | dsimp only

theorem wf_askAll (fz : Fuses) (d : Nat) (l : List Ask) (m : Mach) (hm : m.mem.wf = true) :
    (askAll fz d l m).mem.wf = true := by
  unfold askAll
  repeat' with_reducible first
    | assumption | apply wf_onDie | apply wf_issueAsks | (apply wf_foldl; intro _ _ _) | split | dsimp only

/-! ### Mailbox -/

theorem wf_respLen (r : Resp) (m : Mach) (hm : m.mem.wf = true) :
    (respLen r m).2.mem.wf = true := by
  unfold respLen
  repeat' with_reducible first
    | assumption | apply wf_draw | refine wf_draw_eq ?_ (by assumption) | (apply wf_foldl; intro _ _ _) | split
    | dsimp only

theorem wf_respLen_eq {r : Resp} {m : Mach} {n_ : Mach} {x} (hm : m.mem.wf = true) (hx : respLen r m = (x, n_)) :
    n_.mem.wf = true := by
  have := wf_respLen r m hm
  rw [hx] at this
  exact this

theorem wf_completeSlot (w : Nat) (i : Nat) (st : Status) (detail : Nat) (r : Resp) (m : Mach)
    (hm : m.mem.wf = true) :
    (completeSlot w i st detail r m).mem.wf = true := by
  unfold completeSlot
  repeat' with_reducible first
    | assumption | apply wf_respLen | refine wf_respLen_eq ?_ (by assumption) | apply wf_interrupt | apply wf_onWin
    | (apply wf_foldl; intro _ _ _) | split | dsimp only

theorem wf_complete (v : Via) (st : Status) (detail : Nat) (r : Resp) (m : Mach) (hm : m.mem.wf = true) :
    (complete v st detail r m).mem.wf = true := by
  unfold complete
  repeat' with_reducible first
    | assumption | apply wf_completeSlot | (apply wf_foldl; intro _ _ _) | split | dsimp only

theorem wf_statusBlock (w : Nat) (m : Mach) (hm : m.mem.wf = true) :
    (statusBlock w m).mem.wf = true := by
  unfold statusBlock
  repeat' with_reducible first
    | assumption | apply wf_onWin | (apply wf_foldl; intro _ _ _) | split | dsimp only

theorem wf_answer (v : Via) (st : Status) (m : Mach) (hm : m.mem.wf = true) :
    (answer v st m).mem.wf = true := by
  unfold answer
  repeat' with_reducible first
    | assumption | apply wf_complete | (apply wf_foldl; intro _ _ _) | split | dsimp only

theorem wf_command (v : Via) (p : Option Nat) (code : Nat) (body : Mach → Mach) (m : Mach) (hm : m.mem.wf = true)
    (hbody : ∀ m, m.mem.wf = true → (body m).mem.wf = true) : (command v p code body m).mem.wf = true := by
  unfold command
  repeat' with_reducible first
    | assumption | apply wf_answer | apply hbody | split

theorem wf_refuseJournalled (p : Nat) (v : Via) (m : Mach) (hm : m.mem.wf = true) :
    (refuseJournalled p v m).mem.wf = true := by
  unfold refuseJournalled
  repeat' with_reducible first
    | assumption | apply wf_answer | apply wf_bump | (apply wf_foldl; intro _ _ _) | split | dsimp only

theorem wf_mgmtCommand (clientOk : Bool) (p : SlotPost) (m : Mach) (hm : m.mem.wf = true) :
    (mgmtCommand clientOk p m).mem.wf = true := by
  unfold mgmtCommand
  repeat' with_reducible first
    | assumption | apply wf_answer | (apply wf_foldl; intro _ _ _) | split | dsimp only

theorem wf_postSlot (w : Nat) (m : Mach) (p : SlotPost) (hm : m.mem.wf = true) :
    (postSlot w m p).mem.wf = true := by
  unfold postSlot
  repeat' with_reducible first
    | assumption | apply wf_onWin | (apply wf_foldl; intro _ _ _) | split | dsimp only

theorem wf_hostStore (m : Mach) (h0 : HostStore) (hm : m.mem.wf = true) :
    (hostStore m h0).mem.wf = true := by
  unfold hostStore
  repeat' with_reducible first
    | assumption | apply wf_pokeHost | (apply wf_foldl; intro _ _ _) | split | dsimp only

theorem wf_stampTaken (w i : Nat) (m : Mach) (hm : m.mem.wf = true) : (stampTaken w i m).mem.wf = true :=
  wf_onWin _ _ _ hm

theorem wf_takeSlot (w : Nat) (m : Mach) (i : Nat) (hm : m.mem.wf = true) :
    (takeSlot w m i).mem.wf = true := by
  unfold takeSlot
  repeat' with_reducible first
    | assumption | apply wf_completeSlot | apply wf_stampTaken | (apply wf_foldl; intro _ _ _) | split | dsimp only

theorem wf_mailboxScan (w : Nat) (posts : List SlotPost) (stores : List HostStore) (m : Mach) (hm : m.mem.wf = true) :
    (mailboxScan w posts stores m).mem.wf = true := by
  unfold mailboxScan
  repeat' with_reducible first
    | assumption | apply wf_statusBlock | apply wf_takeSlot | apply wf_hostStore | apply wf_postSlot
    | (apply wf_foldl; intro _ _ _) | split | dsimp only

/-! ### Scratch -/

theorem wf_settleC1 (key : Nat) (m : Mach) (w : LateWrite) (hm : m.mem.wf = true) :
    (settleC1 key m w).mem.wf = true := by
  unfold settleC1
  repeat' with_reducible first
    | assumption | apply wf_onStn | apply wf_pokeCache | (apply wf_foldl; intro _ _ _) | split | dsimp only

theorem wf_settleCIf (key : Nat) (f : LateWrite → Bool) (m : Mach) (hm : m.mem.wf = true) :
    (settleCIf key f m).mem.wf = true := by
  unfold settleCIf
  repeat' with_reducible first
    | assumption | apply wf_onStn | apply wf_settleC1 | (apply wf_foldl; intro _ _ _) | split | dsimp only

theorem wf_settle1 (key : Nat) (m : Mach) (w : LateWrite) (hm : m.mem.wf = true) :
    (settle1 key m w).mem.wf = true := by
  unfold settle1
  repeat' with_reducible first
    | assumption | apply wf_onStn | apply wf_pokeScratch | (apply wf_foldl; intro _ _ _) | split | dsimp only

theorem wf_settleIf (key : Nat) (f : LateWrite → Bool) (m : Mach) (hm : m.mem.wf = true) :
    (settleIf key f m).mem.wf = true := by
  unfold settleIf
  repeat' with_reducible first
    | assumption | apply wf_onStn | apply wf_settle1 | (apply wf_foldl; intro _ _ _) | split | dsimp only

theorem wf_record (h0 : HistRec) (m : Mach) (hm : m.mem.wf = true) :
    (record h0 m).mem.wf = true := by
  unfold record
  repeat' with_reducible first
    | assumption | apply wf_flashed | (apply wf_foldl; intro _ _ _) | split | dsimp only

theorem wf_settleStn (key : Nat) (m : Mach) (hm : m.mem.wf = true) :
    (settleStn key m).mem.wf = true := by
  unfold settleStn
  repeat' with_reducible first
    | assumption | apply wf_settleIf | apply wf_settleCIf | (apply wf_foldl; intro _ _ _) | split | dsimp only

theorem wf_recordWords (key : Nat) (beat : Nat) (what : Nat) (cache : Bool) (l : List Nat) (m : Mach)
    (hm : m.mem.wf = true) :
    (recordWords key beat what cache l m).mem.wf = true := by
  unfold recordWords
  repeat' with_reducible first
    | assumption | apply wf_record | (apply wf_foldl; intro _ _ _) | split | dsimp only

theorem wf_noteCorrected (key : Nat) (src : Nat) (cache : Bool) (c : Option Nat) (beat : Nat) (l : List Nat)
    (m : Mach) (hm : m.mem.wf = true) :
    (noteCorrected key src cache c beat l m).mem.wf = true := by
  unfold noteCorrected
  repeat' with_reducible first
    | assumption | apply wf_onStn | apply wf_bumpBy | apply wf_recordWords | (apply wf_foldl; intro _ _ _) | split
    | dsimp only

theorem wf_noteBad (key : Nat) (cache : Bool) (beat : Nat) (l : List Nat) (m : Mach) (hm : m.mem.wf = true) :
    (noteBad key cache beat l m).mem.wf = true := by
  unfold noteBad
  repeat' with_reducible first
    | assumption | apply wf_bumpBy | apply wf_recordWords | (apply wf_foldl; intro _ _ _) | split | dsimp only

theorem wf_writeScratch (key : Nat) (w : LateWrite) (m : Mach) (hm : m.mem.wf = true) :
    (writeScratch key w m).mem.wf = true := by
  unfold writeScratch
  repeat' with_reducible first
    | assumption | apply wf_onStn | (apply wf_foldl; intro _ _ _) | split | dsimp only

theorem wf_writeAll (key : Nat) (l : List LateWrite) (m : Mach) (hm : m.mem.wf = true) :
    (writeAll key l m).mem.wf = true := by
  unfold writeAll
  repeat' with_reducible first
    | assumption | apply wf_writeScratch | (apply wf_foldl; intro _ _ _) | split | dsimp only

/-! ### Recall -/

theorem wf_redo (fz : Fuses) (key : Nat) (was : List Reader) (now : List Reader) (m : Mach) (hm : m.mem.wf = true) :
    (redo fz key was now m).mem.wf = true := by
  unfold redo
  repeat' with_reducible first
    | assumption | apply wf_onStn | (apply wf_foldl; intro _ _ _) | split | dsimp only

theorem wf_takeAgain (fz : Fuses) (key fuel : Nat) (ws wc : List LateWrite) (m : Mach) (hm : m.mem.wf = true) :
    (takeAgain fz key fuel ws wc m).mem.wf = true := by
  induction fuel generalizing ws wc m with
  | zero => exact hm
  | succ n ih =>
    unfold takeAgain
    dsimp only
    split
    · exact hm
    · split
      · exact hm
      · exact ih _ _ _ (wf_redo _ _ _ _ _ hm)

theorem wf_recallFor (fz : Fuses) (key : Nat) (ws : List LateWrite) (wc : List LateWrite) (m : Mach)
    (hm : m.mem.wf = true) :
    (recallFor fz key ws wc m).mem.wf = true := by
  unfold recallFor
  repeat' with_reducible first
    | assumption | apply wf_takeAgain | (apply wf_foldl; intro _ _ _) | split | dsimp only

theorem wf_loseAccs (fz : Fuses) (key : Nat) (hit : List Acc) (m : Mach) (hm : m.mem.wf = true) :
    (loseAccs fz key hit m).mem.wf = true := by
  unfold loseAccs
  repeat' with_reducible first
    | assumption | apply wf_onStn | apply wf_redo | apply wf_recallFor | (apply wf_foldl; intro _ _ _) | split
    | dsimp only

theorem wf_countReads (m0 : Mach) (key cut : Nat) (l : List Got) (m : Mach) (hm : m.mem.wf = true) :
    (countReads m0 key cut l m).mem.wf = true := by
  unfold countReads
  repeat' with_reducible first
    | assumption | apply wf_noteCorrected | apply wf_noteBad | (apply wf_foldl; intro _ _ _) | split | dsimp only

theorem wf_recallSince (fz : Fuses) (key : Nat) (was : Mach) (m : Mach) (_ : was.mem.wf = true)
    (hm : m.mem.wf = true) :
    (recallSince fz key was m).mem.wf = true := by
  unfold recallSince
  repeat' with_reducible first
    | assumption | apply wf_recallFor | (apply wf_foldl; intro _ _ _) | split | dsimp only

/-! ### Release -/

theorem wf_countHold (p : Nat) (h0 : Hold) (m : Mach) (hm : m.mem.wf = true) :
    (countHold p h0 m).mem.wf = true := by
  unfold countHold
  repeat' with_reducible first
    | assumption | apply wf_onPart | apply wf_bump | apply wf_bumpBy | (apply wf_foldl; intro _ _ _) | split
    | dsimp only

theorem wf_tellLate (p : Nat) (m : Mach) (hm : m.mem.wf = true) :
    (tellLate p m).mem.wf = true := by
  unfold tellLate
  repeat' with_reducible first
    | assumption | apply wf_onPart | apply wf_raiseEvt | (apply wf_foldl; intro _ _ _) | split | dsimp only

theorem wf_haltStation_go (fz : Fuses) (p : Nat) (d : Nat) (unit : Nat) (pidx : Nat) (q : Queue) (cycle : Nat)
    (reason : Nat) (sub : Nat) (arg : Nat) (iaddr : Option Nat) (m : Mach) (hm : m.mem.wf = true) :
    (haltStation.go fz p d unit pidx q cycle reason sub arg iaddr m).mem.wf = true := by
  unfold haltStation.go
  repeat' with_reducible first
    | assumption | apply wf_onStn | apply wf_haltPart | (apply wf_foldl; intro _ _ _) | split | dsimp only

theorem wf_haltStation (fz : Fuses) (p : Nat) (d : Nat) (unit : Nat) (pidx : Nat) (q : Queue) (cycle : Nat)
    (reason : Nat) (sub : Nat) (arg : Nat) (iaddr : Option Nat) (m : Mach) (hm : m.mem.wf = true) :
    (haltStation fz p d unit pidx q cycle reason sub arg iaddr m).mem.wf = true := by
  unfold haltStation
  repeat' with_reducible first
    | assumption | apply wf_haltStation_go | (apply wf_foldl; intro _ _ _) | split | dsimp only

theorem wf_checkBack (fz : Fuses) (d : Nat) (unit : Nat) (stop : Nat) (q : Queue) (was : List Acc) (m : Mach)
    (hm : m.mem.wf = true) :
    (checkBack fz d unit stop q was m).mem.wf = true := by
  unfold checkBack
  repeat' with_reducible first
    | assumption | apply wf_loseAccs | apply wf_haltStation | (apply wf_foldl; intro _ _ _) | split | dsimp only

theorem wf_recallAll (fz : Fuses) (key : Nat) (m : Mach) (hm : m.mem.wf = true) :
    (recallAll fz key m).mem.wf = true := by
  unfold recallAll
  repeat' with_reducible first
    | assumption | apply wf_recallFor | (apply wf_foldl; intro _ _ _) | split | dsimp only

theorem wf_backWrites (stop : Nat) (d : Nat) (key : Nat) (m : Mach) (hm : m.mem.wf = true) :
    (backWrites stop d key m).mem.wf = true := by
  unfold backWrites
  repeat' with_reducible first
    | assumption | apply wf_onStn | apply wf_settleIf | apply wf_settleCIf | (apply wf_foldl; intro _ _ _) | split
    | dsimp only

theorem wf_endOwn (fz : Fuses) (h0 : Hold) (d : Nat) (m : Mach) (hm : m.mem.wf = true) :
    (endOwn fz h0 d m).mem.wf = true := by
  unfold endOwn
  repeat' with_reducible first
    | assumption | apply wf_onStn | apply wf_checkBack | apply wf_recallAll | apply wf_backWrites
    | (apply wf_foldl; intro _ _ _) | split | dsimp only

theorem wf_resume (fz : Fuses) (p : Nat) (h0 : Hold) (m : Mach) (hm : m.mem.wf = true) :
    (resume fz p h0 m).mem.wf = true := by
  unfold resume
  repeat' with_reducible first
    | assumption | apply wf_onPart | apply wf_tellLate | apply wf_countHold | apply wf_endOwn | apply wf_reachNs
    | (apply wf_foldl; intro _ _ _) | split | dsimp only

theorem wf_assertCause (fz : Fuses) (p : Nat) (x : Int) (c : CauseSt) (m : Mach) (hm : m.mem.wf = true) :
    (assertCause fz p x c m).mem.wf = true := by
  unfold assertCause
  repeat' with_reducible first
    | assumption | apply wf_onPart | apply wf_resume | apply wf_startHold | (apply wf_foldl; intro _ _ _) | split
    | dsimp only

/-! ### Issue -/

theorem wf_assertOnce (fz : Fuses) (p : Nat) (cycle : Int) (c : CauseSt) (m : Mach) (hm : m.mem.wf = true) :
    (assertOnce fz p cycle c m).mem.wf = true := by
  unfold assertOnce
  repeat' with_reducible first
    | assumption | apply wf_assertCause | (apply wf_foldl; intro _ _ _) | split | dsimp only

theorem wf_markOwn (key : Nat) (q : Queue) (stop : Nat) (m : Mach) (hm : m.mem.wf = true) :
    (markOwn key q stop m).mem.wf = true := by
  unfold markOwn
  repeat' with_reducible first
    | assumption | apply wf_onStn | (apply wf_foldl; intro _ _ _) | split | dsimp only

theorem wf_assertGate (fz : Fuses) (p : Nat) (d : Nat) (unit : Nat) (key : Nat) (q : Queue) (g : Gate) (m : Mach)
    (hm : m.mem.wf = true) :
    (assertGate fz p d unit key q g m).mem.wf = true := by
  unfold assertGate
  repeat' with_reducible first
    | assumption | apply wf_assertOnce | apply wf_markOwn | (apply wf_foldl; intro _ _ _) | split | dsimp only

theorem wf_autoGate (x : Ctx) (m : Mach) (hm : m.mem.wf = true) :
    (autoGate x m).mem.wf = true := by
  unfold autoGate
  repeat' with_reducible first
    | assumption | apply wf_assertGate | (apply wf_foldl; intro _ _ _) | split | dsimp only

theorem wf_haltUnit (x : Ctx) (cycle : Nat) (reason : Nat) (sub : Nat) (arg : Nat) (iaddr : Option Nat) (m : Mach)
    (hm : m.mem.wf = true) :
    (haltUnit x cycle reason sub arg iaddr m).mem.wf = true := by
  unfold haltUnit
  repeat' with_reducible first
    | assumption | apply wf_haltStation | (apply wf_foldl; intro _ _ _) | split | dsimp only

theorem wf_onIssue (x : Ctx) (sp : Spec) (lost : List Acc) (cut : Cut) (got : List Got) (e : Eff) (m : Mach)
    (hm : m.mem.wf = true) :
    (onIssue x sp lost cut got e m).mem.wf = true := by
  unfold onIssue
  repeat' with_reducible first
    | assumption | apply wf_onStn | (apply wf_foldl; intro _ _ _) | split | dsimp only

theorem wf_cacheAll (key : Nat) (l : List LateWrite) (m : Mach) (hm : m.mem.wf = true) :
    (cacheAll key l m).mem.wf = true := by
  unfold cacheAll
  repeat' with_reducible first
    | assumption | apply wf_onStn | (apply wf_foldl; intro _ _ _) | split | dsimp only

theorem wf_writeOut (x : Ctx) (ws : List LateWrite) (wc : List LateWrite) (m : Mach) (hm : m.mem.wf = true) :
    (writeOut x ws wc m).mem.wf = true := by
  unfold writeOut
  repeat' with_reducible first
    | assumption | apply wf_writeAll | apply wf_recallFor | apply wf_cacheAll | (apply wf_foldl; intro _ _ _) | split
    | dsimp only

theorem wf_perform (x : Ctx) (sp : Spec) (eff : Ctx → Cut → Eff) (m : Mach) (hm : m.mem.wf = true)
    (heff : ∀ x c m, m.mem.wf = true → ((eff x c).next m).mem.wf = true) :
    (perform x sp eff m).mem.wf = true := by
  have halt : ∀ n : Mach, n.mem.wf = true → ∀ k r sub arg ia,
      (haltUnit x k r sub arg ia { n with freeCtr := n.freeCtr + 1 }).mem.wf = true :=
    fun n hn k r sub arg ia => wf_haltUnit x k r sub arg ia _ hn
  have lose : ∀ n : Mach, n.mem.wf = true → ∀ l,
      (loseAccs x.fz x.key l { n with freeCtr := n.freeCtr + 1 }).mem.wf = true :=
    fun n hn l => wf_loseAccs x.fz x.key l _ hn
  unfold perform
  repeat' with_reducible first
    | assumption | apply halt | apply wf_haltUnit | apply wf_noteBad | apply heff | apply wf_writeOut
    | apply wf_onIssue | apply lose | apply wf_countReads | split | dsimp only

theorem wf_haltChecked (x : Ctx) (sp : Spec) (cycle : Nat) (reason : Nat) (sub : Nat) (arg : Nat) (m : Mach)
    (hm : m.mem.wf = true) :
    (haltChecked x sp cycle reason sub arg m).mem.wf = true := by
  unfold haltChecked
  repeat' with_reducible first
    | assumption | apply wf_haltUnit | apply wf_loseAccs | (apply wf_foldl; intro _ _ _) | split | dsimp only

theorem wf_haltGate (x : Ctx) (g : Gate) (m : Mach) (hm : m.mem.wf = true) :
    (haltGate x g m).mem.wf = true := by
  unfold haltGate
  repeat' with_reducible first
    | assumption | apply wf_assertGate | apply wf_haltUnit | (apply wf_foldl; intro _ _ _) | split | dsimp only

theorem wf_assertWaits (x : Ctx) (l : List (Nat × Option Int)) (m : Mach) (hm : m.mem.wf = true) :
    (assertWaits x l m).mem.wf = true := by
  unfold assertWaits
  repeat' with_reducible first
    | assumption | apply wf_assertOnce | (apply wf_foldl; intro _ _ _) | split | dsimp only

theorem wf_issueAt (x : Ctx) (sp : Spec) (eff : Ctx → Cut → Eff) (m : Mach) (heff : ∀ x c m, m.mem.wf = true →
    ((eff x c).next m).mem.wf = true) (hm : m.mem.wf = true) :
    (issueAt x sp eff m).mem.wf = true := by
  unfold issueAt
  repeat' with_reducible first
    | assumption | apply wf_perform | apply wf_haltChecked | apply wf_assertWaits | apply heff
    | (apply wf_foldl; intro _ _ _) | intro _ _ _ _ | split | dsimp only

theorem wf_issue (a : At) (r : Row) (spec : Ctx → Spec) (eff : Ctx → Cut → Eff) (fz : Fuses) (m : Mach)
    (heff : ∀ x c m, m.mem.wf = true → ((eff x c).next m).mem.wf = true) (hm : m.mem.wf = true) :
    (issue a r spec eff fz m).mem.wf = true := by
  unfold issue
  repeat' with_reducible first
    | assumption | apply wf_autoGate | apply wf_haltGate | apply wf_issueAt | apply heff
    | (apply wf_foldl; intro _ _ _) | intro _ _ _ _ | split | dsimp only

/-! ### Sequence -/

theorem wf_idleHalt (x : Ctx) (cycle : Nat) (reason : Nat) (sub : Nat) (arg : Nat) (iaddr : Option Nat) (m : Mach)
    (hm : m.mem.wf = true) :
    (idleHalt x cycle reason sub arg iaddr m).mem.wf = true := by
  unfold idleHalt
  repeat' with_reducible first
    | assumption | apply wf_autoGate | apply wf_haltUnit | apply wf_Ctx_m | (apply wf_foldl; intro _ _ _) | split
    | dsimp only

theorem wf_queueUnderrun (a : At) (fz : Fuses) (m : Mach) (hm : m.mem.wf = true) :
    (queueUnderrun a fz m).mem.wf = true := by
  unfold queueUnderrun
  repeat' with_reducible first
    | assumption | apply wf_idleHalt | (apply wf_foldl; intro _ _ _) | split | dsimp only

theorem wf_illegalOpcode (a : At) (fz : Fuses) (m : Mach) (hm : m.mem.wf = true) :
    (illegalOpcode a fz m).mem.wf = true := by
  unfold illegalOpcode
  repeat' with_reducible first
    | assumption | apply wf_autoGate | apply wf_haltGate | apply wf_issueAt
    | (simp only [id_eq]; intro _ _ _ h; exact h) | split | dsimp only

theorem wf_stepOpen (a : At) (fz : Fuses) (m : Mach) (hm : m.mem.wf = true) :
    (stepOpen a fz m).mem.wf = true := by
  unfold stepOpen
  repeat' with_reducible first
    | assumption | apply wf_idleHalt | (apply wf_foldl; intro _ _ _) | split | dsimp only

/-! ### Holds -/

theorem wf_limitHalt (fz : Fuses) (p : Nat) (h0 : Hold) (c : CauseSt) (m : Mach) (hm : m.mem.wf = true) :
    (limitHalt fz p h0 c m).mem.wf = true := by
  unfold limitHalt
  repeat' with_reducible first
    | assumption | apply wf_haltPart | (apply wf_foldl; intro _ _ _) | split | dsimp only

theorem wf_holdLimit (p : Nat) (fz : Fuses) (m : Mach) (hm : m.mem.wf = true) :
    (holdLimit p fz m).mem.wf = true := by
  unfold holdLimit
  repeat' with_reducible first
    | assumption | apply wf_limitHalt | apply wf_reachNs | (apply wf_foldl; intro _ _ _) | split | dsimp only

theorem wf_holdCheck (a : At) (fz : Fuses) (m : Mach) (hm : m.mem.wf = true) :
    (holdCheck a fz m).mem.wf = true := by
  unfold holdCheck
  repeat' with_reducible first
    | assumption | apply wf_assertWaits | (apply wf_foldl; intro _ _ _) | split | dsimp only

theorem wf_holdRelease (p : Nat) (fz : Fuses) (m : Mach) (hm : m.mem.wf = true) :
    (holdRelease p fz m).mem.wf = true := by
  unfold holdRelease
  repeat' with_reducible first
    | assumption | apply wf_resume | (apply wf_foldl; intro _ _ _) | split | dsimp only

theorem wf_gateHold (a : At) (fz : Fuses) (m : Mach) (hm : m.mem.wf = true) :
    (gateHold a fz m).mem.wf = true := by
  unfold gateHold
  repeat' with_reducible first
    | assumption | apply wf_assertGate | (apply wf_foldl; intro _ _ _) | split | dsimp only

theorem wf_gateTimeout (a : At) (fz : Fuses) (m : Mach) (hm : m.mem.wf = true) :
    (gateTimeout a fz m).mem.wf = true := by
  unfold gateTimeout
  repeat' with_reducible first
    | assumption | apply wf_haltGate | (apply wf_foldl; intro _ _ _) | split | dsimp only

/-! ### Mover -/

theorem wf_closeRegion (d : Nat) (key : Nat) (desc : Nat) (m : Mach) (hm : m.mem.wf = true) :
    (closeRegion d key desc m).mem.wf = true := by
  unfold closeRegion
  repeat' with_reducible first
    | assumption | (apply wf_foldl; intro _ _ _) | split | dsimp only

theorem wf_haltSlot (fz : Fuses) (p : Nat) (d : Nat) (unit : Nat) (pidx : Nat) (c : Nat) (reason : Nat)
    (arg : Nat) (r : Option RecvSt) (m : Mach) (hm : m.mem.wf = true) :
    (haltSlot fz p d unit pidx c reason arg r m).mem.wf = true := by
  unfold haltSlot
  repeat' with_reducible first
    | assumption | apply wf_onStn | apply wf_haltPart | (apply wf_foldl; intro _ _ _) | split | dsimp only

theorem wf_insWrite (key : Nat) (wop : Nat) (port : Nat) (cycle : Nat) (quick : Bool) (off : Nat)
    (bytes : List Byte) (m : Mach) (hm : m.mem.wf = true) :
    (insWrite key wop port cycle quick off bytes m).1.mem.wf = true := by
  unfold insWrite
  repeat' with_reducible first
    | assumption | apply wf_onStn | apply wf_noteCorrected | apply wf_writeScratch | (apply wf_foldl; intro _ _ _)
    | split | dsimp only

theorem wf_insWrite_eq {key : Nat} {wop : Nat} {port : Nat} {cycle : Nat} {quick : Bool} {off : Nat} {bytes : List Byte} {m : Mach} {n_ : Mach} {x} (hm : m.mem.wf = true) (hx : insWrite key wop port cycle quick off bytes m = (n_, x)) :
    n_.mem.wf = true := by
  have := wf_insWrite key wop port cycle quick off bytes m hm
  rw [hx] at this
  exact this

theorem wf_takeBeat (fz : Fuses) (p : Nat) (d : Nat) (unit : Nat) (pidx : Nat) (c : Nat) (r : RecvSt) (i : Nat)
    (b : Beat) (m : Mach) (hm : m.mem.wf = true) :
    (takeBeat fz p d unit pidx c r i b m).mem.wf = true := by
  unfold takeBeat
  repeat' with_reducible first
    | assumption | apply wf_onStn | apply wf_bump | apply wf_insWrite | refine wf_insWrite_eq ?_ (by assumption)
    | apply wf_haltPart | apply wf_recallSince | apply wf_noteBad | (apply wf_foldl; intro _ _ _) | split
    | dsimp only

theorem wf_beatReceive (fz : Fuses) (d : Nat) (unit : Nat) (c : Nat) (m : Mach) (hm : m.mem.wf = true) :
    (beatReceive fz d unit c m).mem.wf = true := by
  unfold beatReceive
  repeat' with_reducible first
    | assumption | apply wf_onStn | apply wf_haltSlot | apply wf_takeBeat | apply wf_routerForward
    | (apply wf_foldl; intro _ _ _) | split | dsimp only

theorem wf_pushHost (d : Nat) (t : Xfer) (m : Mach) (hm : m.mem.wf = true) :
    (pushHost d t m).mem.wf = true := by
  unfold pushHost
  repeat' with_reducible first
    | assumption | (apply wf_foldl; intro _ _ _) | split | dsimp only

/-! ### Memory -/

theorem wf_endRotation (fz : Fuses) (p : Nat) (m : Mach) (hm : m.mem.wf = true) :
    (endRotation fz p m).mem.wf = true := by
  unfold endRotation
  repeat' with_reducible first
    | assumption | apply wf_onPart | apply wf_bump | (apply wf_foldl; intro _ _ _) | split | dsimp only

theorem wf_dropOld (w : Nat) (m : Mach) (hm : m.mem.wf = true) :
    (dropOld w m).mem.wf = true := by
  unfold dropOld
  repeat' with_reducible first
    | assumption | apply wf_onWell | (apply wf_foldl; intro _ _ _) | split | dsimp only

theorem wf_refreshCause (fz : Fuses) (w : Nat) (cycle : Int) (wall : Int) (m : Mach) (hm : m.mem.wf = true) :
    (refreshCause fz w cycle wall m).mem.wf = true := by
  unfold refreshCause
  repeat' with_reducible first
    | assumption | apply wf_assertCause | (apply wf_foldl; intro _ _ _) | split | dsimp only

theorem wf_keyHalt (fz : Fuses) (w : Nat) (e : HbmStop) (m : Mach) (hm : m.mem.wf = true) :
    (keyHalt fz w e m).mem.wf = true := by
  unfold keyHalt
  repeat' with_reducible first
    | assumption | apply wf_haltPart | (apply wf_foldl; intro _ _ _) | split | dsimp only

theorem wf_strikeHbm (w : Nat) (a : Nat) (m : Mach) (hm : m.mem.wf = true) :
    (strikeHbm w a m).mem.wf = true := by
  unfold strikeHbm
  repeat' with_reducible first
    | assumption | apply wf_onWell | (apply wf_foldl; intro _ _ _) | split | dsimp only

theorem wf_storeBeat (w : Nat) (a : Nat) (l : List Byte) (m : Mach) (hm : m.mem.wf = true) :
    (storeBeat w a l m).mem.wf = true := by
  unfold storeBeat
  repeat' with_reducible first
    | assumption | apply wf_onWell | apply wf_bump | apply wf_strikeHbm | apply wf_pokeHbm
    | (apply wf_foldl; intro _ _ _) | split | dsimp only

theorem wf_takeEpoch (w : Nat) (a : Nat) (m : Mach) (hm : m.mem.wf = true) :
    (takeEpoch w a m).mem.wf = true := by
  unfold takeEpoch
  repeat' with_reducible first
    | assumption | apply wf_onWell | (apply wf_foldl; intro _ _ _) | split | dsimp only

theorem wf_noteSoft (w : Nat) (a : Nat) (m : Mach) (hm : m.mem.wf = true) :
    (noteSoft w a m).mem.wf = true := by
  unfold noteSoft
  repeat' with_reducible first
    | assumption | apply wf_bumpBy | (apply wf_foldl; intro _ _ _) | split | dsimp only

theorem wf_rekey (w : Nat) (e : Page) (m : Mach) (a : Nat) (hm : m.mem.wf = true) :
    (rekey w e m a).mem.wf = true := by
  unfold rekey
  repeat' with_reducible first
    | assumption | apply wf_noteSoft | apply wf_pokeHbm | (apply wf_foldl; intro _ _ _) | split | dsimp only

theorem wf_noteSector (w : Nat) (a : Nat) (s : Nat) (src : Nat) (l : List (Nat × Nat)) (m : Mach)
    (hm : m.mem.wf = true) :
    (noteSector w a s src l m).mem.wf = true := by
  unfold noteSector
  repeat' with_reducible first
    | assumption | apply wf_onWell | apply wf_bump | apply wf_record | (apply wf_foldl; intro _ _ _) | split
    | dsimp only

theorem wf_noteBadSector (w : Nat) (a : Nat) (s : Nat) (m : Mach) (hm : m.mem.wf = true) :
    (noteBadSector w a s m).mem.wf = true := by
  unfold noteBadSector
  repeat' with_reducible first
    | assumption | apply wf_bump | apply wf_record | (apply wf_foldl; intro _ _ _) | split | dsimp only

theorem wf_resector (w : Nat) (m : Mach) (y : Nat × Nat) (hm : m.mem.wf = true) :
    (resector w m y).mem.wf = true := by
  unfold resector
  repeat' with_reducible first
    | assumption | apply wf_noteSector | apply wf_onWell | apply wf_raiseEvt | apply wf_pokeHbm
    | apply wf_noteBadSector | (apply wf_foldl; intro _ _ _) | split | dsimp only

theorem wf_reencrypt (w : Nat) (a : Nat) (m : Mach) (hm : m.mem.wf = true) :
    (reencrypt w a m).mem.wf = true := by
  unfold reencrypt
  repeat' with_reducible first
    | assumption | apply wf_takeEpoch | apply wf_strikeHbm | apply wf_rekey | apply wf_resector | apply wf_bumpBy
    | (apply wf_foldl; intro _ _ _) | split | dsimp only

theorem wf_writeHbm (w : Nat) (lo : Nat) (hi : Nat) (a : Nat) (l : List Byte) (m : Mach) (hm : m.mem.wf = true) :
    (writeHbm w lo hi a l m).1.mem.wf = true := by
  unfold writeHbm
  repeat' with_reducible first
    | assumption | apply wf_takeEpoch | apply wf_storeBeat | apply wf_reencrypt | (apply wf_foldl; intro _ _ _)
    | split | dsimp only

theorem wf_writeHbm_eq {w : Nat} {lo : Nat} {hi : Nat} {a : Nat} {l : List Byte} {m : Mach} {n_ : Mach} {x}
    (hm : m.mem.wf = true) (hx : writeHbm w lo hi a l m = (n_, x)) :
    n_.mem.wf = true := by
  have := wf_writeHbm w lo hi a l m hm
  rw [hx] at this
  exact this

theorem wf_onLane (l : Lane) (f : List Xfer → List Xfer) (m : Mach) (hm : m.mem.wf = true) :
    (onLane l f m).mem.wf = true := by
  unfold onLane
  repeat' with_reducible first
    | assumption | apply wf_onWell | (apply wf_foldl; intro _ _ _) | split | dsimp only

theorem wf_putXfer (l : Lane) (t : Xfer) (t_ : Xfer) (m : Mach) (hm : m.mem.wf = true) :
    (putXfer l t t_ m).mem.wf = true := by
  unfold putXfer
  repeat' with_reducible first
    | assumption | apply wf_onLane | (apply wf_foldl; intro _ _ _) | split | dsimp only

theorem wf_pageReencrypt (w : Nat) (fz : Fuses) (m : Mach) (hm : m.mem.wf = true) :
    (pageReencrypt w fz m).mem.wf = true := by
  unfold pageReencrypt
  repeat' with_reducible first
    | assumption | apply wf_endRotation | apply wf_dropOld | apply wf_reencrypt | (apply wf_foldl; intro _ _ _)
    | split | dsimp only

theorem wf_checkOne (w : Nat) (a : Nat) (m : Mach) (s : Nat) (hm : m.mem.wf = true) :
    (checkOne w a m s).mem.wf = true := by
  unfold checkOne
  repeat' with_reducible first
    | assumption | apply wf_noteSector | apply wf_noteBadSector | (apply wf_foldl; intro _ _ _) | split | dsimp only

theorem wf_checkBeat (w a : Nat) (m : Mach) (hm : m.mem.wf = true) : (checkBeat w a m).1.mem.wf = true :=
  wf_foldl (fun m s hm => wf_checkOne w a m s hm) (wf_noteSoft w a m hm)

theorem wf_checkBeat_eq {w a : Nat} {m n : Mach} {x} (hm : m.mem.wf = true) (h : checkBeat w a m = (n, x)) :
    n.mem.wf = true := by
  have := wf_checkBeat w a m hm
  rw [h] at this
  exact this

theorem wf_readHbm (w a : Nat) (m : Mach) (hm : m.mem.wf = true) : (readHbm w a m).1.mem.wf = true := by
  have h : ∀ {n : Mach} {x}, checkBeat w a (bump .wlhRdbeats (iWell w) m) = (n, x) → n.mem.wf = true :=
    fun e => wf_checkBeat_eq (wf_bump _ _ _ hm) e
  unfold readHbm
  dsimp only
  split
  · exact hm
  · split
    · exact h (by assumption)
    · split <;> exact h (by assumption)

theorem wf_readHbm_eq {w a : Nat} {m n : Mach} {x} (hm : m.mem.wf = true) (h : readHbm w a m = (n, x)) :
    n.mem.wf = true := by
  have := wf_readHbm w a m hm
  rw [h] at this
  exact this

theorem wf_gatherList (w desc count xlen fuel a i : Nat) (m : Mach) (hm : m.mem.wf = true) :
    (gatherList w desc count xlen fuel a i m).1.mem.wf = true := by
  induction fuel generalizing a i m with
  | zero => exact hm
  | succ fuel ih =>
    unfold gatherList
    split
    · exact hm
    · split
      · exact wf_readHbm_eq hm (by assumption)
      · rename_i n l e
        have hn : n.mem.wf = true := wf_readHbm_eq hm e
        dsimp only
        split
        · exact hn
        · have := fun b c => ih b c n hn
          split
          · rename_i e
            have h := this (a + 1) (i + (if count - i ≤ 32 then count - i else 32))
            rw [e] at h
            exact h
          · rename_i e
            have h := this (a + 1) (i + (if count - i ≤ 32 then count - i else 32))
            rw [e] at h
            exact h

theorem wf_gatherList_eq {w desc count xlen fuel a i : Nat} {m n : Mach} {x} (hm : m.mem.wf = true)
    (h : gatherList w desc count xlen fuel a i m = (n, x)) : n.mem.wf = true := by
  have := wf_gatherList w desc count xlen fuel a i m hm
  rw [h] at this
  exact this

theorem wf_startGather (w : Nat) (t : Xfer) (m : Mach) (hm : m.mem.wf = true) :
    (startGather w t m).1.mem.wf = true := by
  unfold startGather
  repeat' with_reducible first
    | assumption | apply wf_gatherList | refine wf_gatherList_eq ?_ (by assumption) | apply wf_readHbm
    | refine wf_readHbm_eq ?_ (by assumption) | (apply wf_foldl; intro _ _ _) | split | dsimp only

theorem wf_startGather_eq {w : Nat} {t : Xfer} {m : Mach} {n_ : Mach} {x} (hm : m.mem.wf = true)
    (hx : startGather w t m = (n_, x)) :
    n_.mem.wf = true := by
  have := wf_startGather w t m hm
  rw [hx] at this
  exact this

theorem wf_wellHalt (fz : Fuses) (w : Nat) (t : Xfer) (cycle : Nat) (reason : Nat) (sub : Nat) (arg : Nat)
    (m : Mach) (hm : m.mem.wf = true) :
    (wellHalt fz w t cycle reason sub arg m).mem.wf = true := by
  unfold wellHalt
  repeat' with_reducible first
    | assumption | apply wf_haltPart | (apply wf_foldl; intro _ _ _) | split | dsimp only

theorem wf_endXfer (l : Lane) (t : Xfer) (m : Mach) (hm : m.mem.wf = true) :
    (endXfer l t m).mem.wf = true := by
  unfold endXfer
  repeat' with_reducible first
    | assumption | apply wf_onLane | (apply wf_foldl; intro _ _ _) | split | dsimp only

theorem wf_stopXfer (fz : Fuses) (w : Nat) (t : Xfer) (cycle : Nat) (e : HbmStop) (m : Mach) (hm : m.mem.wf = true) :
    (stopXfer fz w t cycle e m).mem.wf = true := by
  unfold stopXfer
  repeat' with_reducible first
    | assumption | apply wf_wellHalt | apply wf_endXfer | (apply wf_foldl; intro _ _ _) | split | dsimp only

theorem wf_readRun (w a k : Nat) (m : Mach) (hm : m.mem.wf = true) : (readRun w a k m).1.mem.wf = true := by
  induction k generalizing a m with
  | zero => exact hm
  | succ k ih =>
    unfold readRun
    split
    · exact wf_readHbm_eq hm (by assumption)
    · rename_i n l e
      have h := ih (a + 1) n (wf_readHbm_eq hm e)
      split <;> (rename_i e; rw [e] at h; exact h)

theorem wf_readRun_eq {w a k : Nat} {m n : Mach} {x} (hm : m.mem.wf = true)
    (h : readRun w a k m = (n, x)) : n.mem.wf = true := by
  have := wf_readRun w a k m hm
  rw [h] at this
  exact this

theorem wf_startScore (w : Nat) (t : Xfer) (m : Mach) (hm : m.mem.wf = true) :
    (startScore w t m).1.mem.wf = true := by
  unfold startScore
  repeat' with_reducible first
    | assumption | apply wf_readRun | refine wf_readRun_eq ?_ (by assumption) | apply wf_readHbm
    | refine wf_readHbm_eq ?_ (by assumption) | apply wf_onWell | (apply wf_foldl; intro _ _ _) | split | dsimp only

theorem wf_startScore_eq {w : Nat} {t : Xfer} {m : Mach} {n_ : Mach} {x} (hm : m.mem.wf = true)
    (hx : startScore w t m = (n_, x)) :
    n_.mem.wf = true := by
  have := wf_startScore w t m hm
  rw [hx] at this
  exact this

theorem wf_startSgather (w : Nat) (t : Xfer) (m : Mach) (hm : m.mem.wf = true) :
    (startSgather w t m).1.mem.wf = true := by
  unfold startSgather
  repeat' with_reducible first
    | assumption | apply wf_readHbm | refine wf_readHbm_eq ?_ (by assumption) | (apply wf_foldl; intro _ _ _) | split
    | dsimp only

theorem wf_startSgather_eq {w : Nat} {t : Xfer} {m : Mach} {n_ : Mach} {x} (hm : m.mem.wf = true)
    (hx : startSgather w t m = (n_, x)) :
    n_.mem.wf = true := by
  have := wf_startSgather w t m hm
  rw [hx] at this
  exact this

theorem wf_startWell (fz : Fuses) (w : Nat) (cycle : Nat) (t : Xfer) (m : Mach) (hm : m.mem.wf = true) :
    (startWell fz w cycle t m).mem.wf = true := by
  unfold startWell
  repeat' with_reducible first
    | assumption | apply wf_startGather | refine wf_startGather_eq ?_ (by assumption) | apply wf_putXfer
    | apply wf_startScore | refine wf_startScore_eq ?_ (by assumption) | apply wf_stopXfer | apply wf_startSgather
    | refine wf_startSgather_eq ?_ (by assumption) | (apply wf_foldl; intro _ _ _) | split | dsimp only

theorem wf_hostHalt (fz : Fuses) (t : Xfer) (cycle : Nat) (sub : Nat) (arg : Nat) (m : Mach) (hm : m.mem.wf = true) :
    (hostHalt fz t cycle sub arg m).mem.wf = true := by
  unfold hostHalt
  repeat' with_reducible first
    | assumption | apply wf_haltPart | (apply wf_foldl; intro _ _ _) | split | dsimp only

theorem wf_laneHalt (fz : Fuses) (t : Xfer) (cycle : Nat) (beat : Nat) (words : List Nat) (m : Mach)
    (hm : m.mem.wf = true) :
    (laneHalt fz t cycle beat words m).mem.wf = true := by
  unfold laneHalt
  repeat' with_reducible first
    | assumption | apply wf_onStn | apply wf_haltPart | apply wf_noteBad | (apply wf_foldl; intro _ _ _) | split
    | dsimp only

theorem wf_refreshTick (w : Nat) (cycle : Int) (wall : Int) (fz : Fuses) (m : Mach) (hm : m.mem.wf = true) :
    (refreshTick w cycle wall fz m).mem.wf = true := by
  unfold refreshTick
  repeat' with_reducible first
    | assumption | apply wf_refreshCause | apply wf_onWell | (apply wf_foldl; intro _ _ _) | split | dsimp only

theorem wf_refreshUnit (w : Nat) (cycle : Nat) (wall : Int) (m : Mach) (hm : m.mem.wf = true) :
    (refreshUnit w cycle wall m).mem.wf = true := by
  unfold refreshUnit
  repeat' with_reducible first
    | assumption | apply wf_onWell | apply wf_bump | apply wf_clearCause | (apply wf_foldl; intro _ _ _) | split
    | dsimp only

end Sys2Proof.Machine
end

