-- ==== Sys2Proof/Laws/KeepsTiers.lean ====
section
/-! SUPPORT. Every operation of these modules keeps the canonical form of every memory: Lanes, Times, Link, Commits, Requests,
Reset, Plans, Fabric, Clocks. -/

namespace Sys2Proof.Machine

/-! ### Lanes -/

theorem wf_noteFetch (t : Xfer) (m : Mach) (hm : m.mem.wf = true) :
    (noteFetch t m).mem.wf = true := by
  unfold noteFetch
  repeat' with_reducible first
    | assumption | apply wf_fetchRead | (apply wf_foldl; intro _ _ _) | split | dsimp only

theorem wf_cistServed (p : Nat) (m : Mach) (hm : m.mem.wf = true) :
    (cistServed p m).mem.wf = true := by
  unfold cistServed
  repeat' with_reducible first
    | assumption | (apply wf_foldl; intro _ _ _) | split | dsimp only

theorem wf_sendLane (b : Beat) (n : Nat) (m : Mach) (hm : m.mem.wf = true) : (sendLane b n m).mem.wf = true := by
  induction n generalizing m with
  | zero => exact hm
  | succ n ih => exact ih _ (wf_throughTap _ _ hm)

theorem wf_feed (l : Lane) (key : Nat) (desc : Nat) (at_ : LaneAt) (m : Mach) (hm : m.mem.wf = true) :
    (feed l key desc at_ m).mem.wf = true := by
  unfold feed
  repeat' with_reducible first
    | assumption | apply wf_putXfer | apply wf_sendLane | (apply wf_foldl; intro _ _ _) | split | dsimp only

theorem wf_requestStart (e : Edge) (cycle : Nat) (fz : Fuses) (m : Mach) (hm : m.mem.wf = true) :
    (requestStart e cycle fz m).mem.wf = true := by
  unfold requestStart
  repeat' with_reducible first
    | assumption | apply wf_feed | apply wf_startWell | apply wf_putXfer | (apply wf_foldl; intro _ _ _) | split
    | dsimp only

theorem wf_laneRead (key : Nat) (beat : Nat) (at_ : LaneAt) (m : Mach) (hm : m.mem.wf = true) :
    (laneRead key beat at_ m).1.mem.wf = true := by
  unfold laneRead
  repeat' with_reducible first
    | assumption | apply wf_noteCorrected | (apply wf_foldl; intro _ _ _) | split | dsimp only

theorem wf_laneRead_eq {key : Nat} {beat : Nat} {at_ : LaneAt} {m : Mach} {n_ : Mach} {x} (hm : m.mem.wf = true)
    (hx : laneRead key beat at_ m = (n_, x)) :
    n_.mem.wf = true := by
  have := wf_laneRead key beat at_ m hm
  rw [hx] at this
  exact this

theorem wf_retire (l : Lane) (t : Xfer) (m : Mach) (hm : m.mem.wf = true) :
    (retire l t m).mem.wf = true := by
  unfold retire
  repeat' with_reducible first
    | assumption | apply wf_putXfer | apply wf_endXfer | (apply wf_foldl; intro _ _ _) | split | dsimp only

theorem wf_laneWrite (fz : Fuses) (key : Nat) (port : Nat) (off : Nat) (at_ : LaneAt) (l : List Byte) (m : Mach)
    (hm : m.mem.wf = true) :
    (laneWrite fz key port off at_ l m).mem.wf = true := by
  unfold laneWrite
  repeat' with_reducible first
    | assumption | apply wf_recallFor | apply wf_settleStn | apply wf_writeScratch | (apply wf_foldl; intro _ _ _)
    | split | dsimp only

theorem wf_recordLane (key : Nat) (write : Bool) (port : Nat) (beat : Nat) (hold : Nat) (iaddr : Nat)
    (at_ : LaneAt) (m : Mach) (hm : m.mem.wf = true) :
    (recordLane key write port beat hold iaddr at_ m).mem.wf = true := by
  unfold recordLane
  repeat' with_reducible first
    | assumption | apply wf_onStn | (apply wf_foldl; intro _ _ _) | split | dsimp only

theorem wf_wellOut (fz : Fuses) (w : Nat) (t : Xfer) (at_ : LaneAt) (cycle : Nat) (m : Mach) (hm : m.mem.wf = true) :
    (wellOut fz w t at_ cycle m).mem.wf = true := by
  unfold wellOut
  repeat' with_reducible first
    | assumption | apply wf_writeHbm | refine wf_writeHbm_eq ?_ (by assumption) | apply wf_onWell | apply wf_laneRead
    | refine wf_laneRead_eq ?_ (by assumption) | apply wf_putXfer | apply wf_endXfer | apply wf_laneHalt
    | apply wf_stopXfer | (apply wf_foldl; intro _ _ _) | split | dsimp only

theorem wf_nextIn (w : Nat) (t : Xfer) (m : Mach) (hm : m.mem.wf = true) :
    (nextIn w t m).1.mem.wf = true := by
  unfold nextIn
  repeat' with_reducible first
    | assumption | apply wf_readRun | refine wf_readRun_eq ?_ (by assumption) | apply wf_readHbm
    | refine wf_readHbm_eq ?_ (by assumption) | apply wf_onWell | (apply wf_foldl; intro _ _ _) | split | dsimp only

theorem wf_nextIn_eq {w : Nat} {t : Xfer} {m : Mach} {n_ : Mach} {x} (hm : m.mem.wf = true) (hx : nextIn w t m =
    (n_, x)) :
    n_.mem.wf = true := by
  have := wf_nextIn w t m hm
  rw [hx] at this
  exact this

theorem wf_wellIn (fz : Fuses) (w : Nat) (t : Xfer) (at_ : LaneAt) (cycle : Nat) (m : Mach) (hm : m.mem.wf = true) :
    (wellIn fz w t at_ cycle m).mem.wf = true := by
  unfold wellIn
  repeat' with_reducible first
    | assumption | apply wf_nextIn | refine wf_nextIn_eq ?_ (by assumption) | apply wf_laneWrite | apply wf_putXfer
    | apply wf_stopXfer | (apply wf_foldl; intro _ _ _) | split | dsimp only

theorem wf_gatherBeat (l : Lane) (t : Xfer) (bytes : List Byte) (store : List Byte → Mach → Mach) (m : Mach)
    (hm : m.mem.wf = true) (hstore : ∀ b m, m.mem.wf = true → (store b m).mem.wf = true) :
    (gatherBeat l t bytes store m).mem.wf = true := by
  unfold gatherBeat
  dsimp only
  split
  · exact wf_putXfer _ _ _ _ hm
  · exact wf_putXfer _ _ _ _ (hstore _ _ hm)

theorem wf_hostOut (fz : Fuses) (t : Xfer) (at_ : LaneAt) (cycle : Nat) (m : Mach) (hm : m.mem.wf = true) :
    (hostOut fz t at_ cycle m).mem.wf = true := by
  unfold hostOut
  repeat' with_reducible first
    | assumption | apply wf_writeSealed | apply wf_pokeHost | apply wf_writeBlock | apply wf_gatherBeat
    | apply wf_laneRead | refine wf_laneRead_eq ?_ (by assumption) | apply wf_putXfer | apply wf_endXfer
    | apply wf_laneHalt | (apply wf_foldl; intro _ _ _) | split | dsimp only

theorem wf_hostIn (fz : Fuses) (t : Xfer) (at_ : LaneAt) (cycle : Nat) (m : Mach) (hm : m.mem.wf = true) :
    (hostIn fz t at_ cycle m).mem.wf = true := by
  unfold hostIn
  repeat' with_reducible first
    | assumption | apply wf_hostHalt | apply wf_laneWrite | apply wf_putXfer | apply wf_endXfer
    | (apply wf_foldl; intro _ _ _) | split | dsimp only

theorem wf_cistIn (fz : Fuses) (t : Xfer) (at_ : LaneAt) (cycle : Nat) (m : Mach) (hm : m.mem.wf = true) :
    (cistIn fz t at_ cycle m).mem.wf = true := by
  unfold cistIn
  repeat' with_reducible first
    | assumption | apply wf_hostHalt | apply wf_laneWrite | apply wf_putXfer | apply wf_endXfer
    | (apply wf_foldl; intro _ _ _) | split | dsimp only

theorem wf_linkOut (fz : Fuses) (t : Xfer) (at_ : LaneAt) (cycle : Nat) (m : Mach) (hm : m.mem.wf = true) :
    (linkOut fz t at_ cycle m).mem.wf = true := by
  unfold linkOut
  repeat' with_reducible first
    | assumption | apply wf_sendPair | apply wf_laneRead | refine wf_laneRead_eq ?_ (by assumption)
    | apply wf_putXfer | apply wf_endXfer | apply wf_laneHalt | (apply wf_foldl; intro _ _ _) | split | dsimp only

theorem wf_moveBeat (fz : Fuses) (l : Lane) (t : Xfer) (at_ : LaneAt) (cycle : Nat) (m : Mach)
    (hm : m.mem.wf = true) :
    (moveBeat fz l t at_ cycle m).mem.wf = true := by
  unfold moveBeat
  repeat' with_reducible first
    | assumption | apply wf_hostIn | apply wf_linkOut | apply wf_hostOut | apply wf_cistIn | apply wf_wellOut
    | apply wf_wellIn | (apply wf_foldl; intro _ _ _) | split | dsimp only

theorem wf_becomeReady (d : Nat) (unit : Nat) (key : Nat) (desc : Nat) (wall : Int) (m : Mach)
    (hm : m.mem.wf = true) :
    (becomeReady d unit key desc wall m).mem.wf = true := by
  unfold becomeReady
  repeat' with_reducible first
    | assumption | apply wf_onStn | apply wf_clearCause | (apply wf_foldl; intro _ _ _) | split | dsimp only

theorem wf_laneMesh (l : Lane) (t : Xfer) (at_ : LaneAt) (m n : Mach) (hm : m.mem.wf = true)
    (h : laneMesh l t at_ m = some n) : n.mem.wf = true := by
  have h1 : ∀ c, atStation m t c = some n → n.mem.wf = true := fun c h => by
    unfold atStation at h
    split at h
    · cases h
      exact hm
    · simp only [Option.map_eq_some_iff] at h
      obtain ⟨b, _, rfl⟩ := h
      exact hm
  unfold laneMesh at h
  split at h
  · cases h; exact hm
  · cases h
    split <;> exact hm
  · split at h
    · cases h; exact wf_throughTap _ _ hm
    · exact h1 _ h
  · split at h
    · cases h
    · split at h
      · cases h; exact wf_throughTap _ _ hm
      · exact h1 _ h

theorem wf_stepLane (fz : Fuses) (l : Lane) (t : Xfer) (at_ : LaneAt) (cycle : Nat) (m : Mach) (hm : m.mem.wf = true) :
    (stepLane fz l t at_ cycle m).mem.wf = true := by
  unfold stepLane
  split
  · exact hm
  · rename_i n e
    have hn := wf_laneMesh l t at_ m n hm e
    dsimp only
    apply wf_feed
    apply wf_moveBeat
    apply wf_recordLane
    split
    · exact wf_cistServed _ _ hn
    · exact hn

theorem wf_descriptorReady (d : Nat) (unit : Nat) (desc : Nat) (wall : Int) (m : Mach) (hm : m.mem.wf = true) :
    (descriptorReady d unit desc wall m).mem.wf = true := by
  unfold descriptorReady
  repeat' with_reducible first
    | assumption | apply wf_noteFetch | apply wf_retire | apply wf_becomeReady | (apply wf_foldl; intro _ _ _)
    | split | dsimp only

theorem wf_laneBeat (d : Nat) (unit : Nat) (desc : Nat) (cycle : Nat) (fz : Fuses) (m : Mach) (hm : m.mem.wf = true) :
    (laneBeat d unit desc cycle fz m).mem.wf = true := by
  unfold laneBeat
  repeat' with_reducible first
    | assumption | apply wf_stepLane | (apply wf_foldl; intro _ _ _) | split | dsimp only

/-! ### Times -/

theorem wf_onMport (k : Nat) (f : MPort → MPort) (m : Mach) (hm : m.mem.wf = true) :
    (onMport k f m).mem.wf = true := by
  unfold onMport
  repeat' with_reducible first
    | assumption | (apply wf_foldl; intro _ _ _) | split | dsimp only

theorem wf_leaveMarker (k : Nat) (p : Packet) (m : Mach) (hm : m.mem.wf = true) :
    (leaveMarker k p m).2.mem.wf = true := by
  unfold leaveMarker
  repeat' with_reducible first
    | assumption | apply wf_onMport | (apply wf_foldl; intro _ _ _) | split | dsimp only

theorem wf_leaveMarker_eq {k : Nat} {p : Packet} {m : Mach} {n_ : Mach} {x} (hm : m.mem.wf = true)
    (hx : leaveMarker k p m = (x, n_)) :
    n_.mem.wf = true := by
  have := wf_leaveMarker k p m hm
  rw [hx] at this
  exact this

/-! ### Link -/

theorem wf_linkCounters (v : Via) (k : Nat) (m : Mach) (hm : m.mem.wf = true) :
    (linkCounters v k m).mem.wf = true := by
  unfold linkCounters
  repeat' with_reducible first
    | assumption | apply wf_complete | (apply wf_foldl; intro _ _ _) | split | dsimp only

theorem wf_noteSent (k : Nat) (l : Nat) (m : Mach) (hm : m.mem.wf = true) :
    (noteSent k l m).mem.wf = true := by
  unfold noteSent
  repeat' with_reducible first
    | assumption | apply wf_onPort | (apply wf_foldl; intro _ _ _) | split | dsimp only

theorem wf_sendUnit (k : Nat) (u : LinkUnit) (m : Mach) (hm : m.mem.wf = true) :
    (sendUnit k u m).mem.wf = true := by
  unfold sendUnit
  repeat' with_reducible first
    | assumption | apply wf_onPort | (apply wf_foldl; intro _ _ _) | split | dsimp only

theorem wf_sendPkt (k : Nat) (lseq : Nat) (o : OutPkt) (m : Mach) (hm : m.mem.wf = true) :
    (sendPkt k lseq o m).mem.wf = true := by
  unfold sendPkt
  repeat' with_reducible first
    | assumption | apply wf_leaveMarker | refine wf_leaveMarker_eq ?_ (by assumption) | apply wf_sendUnit
    | (apply wf_foldl; intro _ _ _) | split | dsimp only

theorem wf_startTimer (k : Nat) (m : Mach) (hm : m.mem.wf = true) :
    (startTimer k m).mem.wf = true := by
  unfold startTimer
  repeat' with_reducible first
    | assumption | apply wf_onPort | (apply wf_foldl; intro _ _ _) | split | dsimp only

theorem wf_sendAgain (k : Nat) (o : OutPkt) (m : Mach) (hm : m.mem.wf = true) :
    (sendAgain k o m).mem.wf = true := by
  unfold sendAgain
  repeat' with_reducible first
    | assumption | apply wf_onPort | apply wf_noteSent | apply wf_sendPkt | apply wf_startTimer
    | (apply wf_foldl; intro _ _ _) | split | dsimp only

theorem wf_takeAck (k a : Nat) (m : Mach) (hm : m.mem.wf = true) : (takeAck k a m).mem.wf = true := by
  rw [takeAck]
  split
  · exact hm
  · split
    · split
      · exact wf_bump _ _ _ hm
      · exact hm
    · exact wf_pump _ _ (wf_onPort _ _ _ hm)

theorem wf_takePrefix (k : Nat) (u : LinkUnit) (m : Mach) (hm : m.mem.wf = true) :
    (takePrefix k u m).mem.wf = true := by
  unfold takePrefix
  repeat' with_reducible first
    | assumption | apply wf_onPort | apply wf_takeAck | (apply wf_foldl; intro _ _ _) | split | dsimp only

theorem wf_lockLoss (k : Nat) (lane : Nat) (fz : Fuses) (m : Mach) (hm : m.mem.wf = true) :
    (lockLoss k lane fz m).mem.wf = true := by
  unfold lockLoss
  repeat' with_reducible first
    | assumption | apply wf_downPort | (apply wf_foldl; intro _ _ _) | split | dsimp only

theorem wf_queueCtl (k : Nat) (u : LinkUnit) (m : Mach) (hm : m.mem.wf = true) :
    (queueCtl k u m).mem.wf = true := by
  unfold queueCtl
  repeat' with_reducible first
    | assumption | apply wf_onPort | (apply wf_foldl; intro _ _ _) | split | dsimp only

theorem wf_dozePorts (enter : Bool) (m : Mach) (hm : m.mem.wf = true) :
    (dozePorts enter m).mem.wf = true := by
  unfold dozePorts
  repeat' with_reducible first
    | assumption | apply wf_onPort | apply wf_queueCtl | (apply wf_foldl; intro _ _ _) | split | dsimp only

theorem wf_linkPrime (v : Via) (k : Nat) (fz : Fuses) (m : Mach) (hm : m.mem.wf = true) :
    (linkPrime v k fz m).mem.wf = true := by
  unfold linkPrime
  repeat' with_reducible first
    | assumption | apply wf_downPort | apply wf_answer | apply wf_onPort | (apply wf_foldl; intro _ _ _) | split
    | dsimp only

theorem wf_hear (k : Nat) (u : LinkUnit) (m : Mach) (hm : m.mem.wf = true) :
    (hear k u m).1.mem.wf = true := by
  unfold hear
  repeat' with_reducible first
    | assumption | apply wf_takePrefix | apply wf_bump | apply wf_onPort | (apply wf_foldl; intro _ _ _) | split
    | dsimp only

theorem wf_hear_eq {k : Nat} {u : LinkUnit} {m : Mach} {n_ : Mach} {x} (hm : m.mem.wf = true) (hx : hear k u m =
    (n_, x)) :
    n_.mem.wf = true := by
  have := wf_hear k u m hm
  rw [hx] at this
  exact this

theorem wf_askPeer (k : Nat) (kind : Nat) (mask : Nat) (m : Mach) (hm : m.mem.wf = true) :
    (askPeer k kind mask m).mem.wf = true := by
  unfold askPeer
  repeat' with_reducible first
    | assumption | apply wf_onPort | apply wf_queueCtl | (apply wf_foldl; intro _ _ _) | split | dsimp only

theorem wf_evalLanes (k : Nat) (m : Mach) (hm : m.mem.wf = true) :
    (evalLanes k m).mem.wf = true := by
  unfold evalLanes
  repeat' with_reducible first
    | assumption | apply wf_askPeer | (apply wf_foldl; intro _ _ _) | split | dsimp only

theorem wf_dropReq (k : Nat) (m : Mach) (hm : m.mem.wf = true) :
    (dropReq k m).mem.wf = true := by
  unfold dropReq
  repeat' with_reducible first
    | assumption | apply wf_onPort | (apply wf_foldl; intro _ _ _) | split | dsimp only

theorem wf_reqTimeout (k : Nat) (m : Mach) (hm : m.mem.wf = true) :
    (reqTimeout k m).mem.wf = true := by
  unfold reqTimeout
  repeat' with_reducible first
    | assumption | apply wf_reachWall | apply wf_dropReq | apply wf_evalLanes | (apply wf_foldl; intro _ _ _) | split
    | dsimp only

theorem wf_startPriming (k : Nat) (m : Mach) (hm : m.mem.wf = true) :
    (startPriming k m).mem.wf = true := by
  unfold startPriming
  repeat' with_reducible first
    | assumption | apply wf_onPort | (apply wf_foldl; intro _ _ _) | split | dsimp only

theorem wf_wakePort (k : Nat) (m : Mach) (hm : m.mem.wf = true) :
    (wakePort k m).mem.wf = true := by
  unfold wakePort
  repeat' with_reducible first
    | assumption | apply wf_onPort | apply wf_startPriming | (apply wf_foldl; intro _ _ _) | split | dsimp only

theorem wf_linkEnable (v : Via) (k : Nat) (m : Mach) (hm : m.mem.wf = true) :
    (linkEnable v k m).mem.wf = true := by
  unfold linkEnable
  repeat' with_reducible first
    | assumption | apply wf_answer | apply wf_onPort | apply wf_wakePort | (apply wf_foldl; intro _ _ _) | split
    | dsimp only

theorem wf_linkCommand (v : Via) (k : Nat) (code : Nat) (body : Mach → Mach) (m : Mach)
    (hbody : ∀ m, m.mem.wf = true → (body m).mem.wf = true) (hm : m.mem.wf = true) :
    (linkCommand v k code body m).mem.wf = true := by
  unfold linkCommand
  repeat' with_reducible first
    | assumption | apply wf_command | apply hbody | (apply wf_foldl; intro _ _ _) | intro _ _ | split | dsimp only

theorem wf_noteCtl (k : Nat) (m : Mach) (hm : m.mem.wf = true) :
    (noteCtl k m).mem.wf = true := by
  unfold noteCtl
  repeat' with_reducible first
    | assumption | apply wf_onPort | (apply wf_foldl; intro _ _ _) | split | dsimp only

theorem wf_identOut (k : Nat) (own : Nat) (m : Mach) (hm : m.mem.wf = true) :
    (identOut k own m).mem.wf = true := by
  unfold identOut
  repeat' with_reducible first
    | assumption | (apply wf_foldl; intro _ _ _) | split | dsimp only

theorem wf_failPriming (fz : Fuses) (k : Nat) (m : Mach) (hm : m.mem.wf = true) :
    (failPriming fz k m).mem.wf = true := by
  unfold failPriming
  repeat' with_reducible first
    | assumption | apply wf_downPort | apply wf_bump | apply wf_onPort | (apply wf_foldl; intro _ _ _) | split
    | dsimp only

theorem wf_lockAlign (k : Nat) (y : PeerIdent) (fz : Fuses) (m : Mach) (hm : m.mem.wf = true) :
    (lockAlign k y fz m).mem.wf = true := by
  unfold lockAlign
  repeat' with_reducible first
    | assumption | apply wf_identOut | apply wf_onPort | apply wf_raiseEvt | apply wf_failPriming
    | (apply wf_foldl; intro _ _ _) | split | dsimp only

theorem wf_sendCtl (fz : Fuses) (k : Nat) (u : LinkUnit) (m : Mach) (hm : m.mem.wf = true) :
    (sendCtl fz k u m).mem.wf = true := by
  unfold sendCtl
  repeat' with_reducible first
    | assumption | apply wf_downPort | apply wf_noteCtl | apply wf_sendUnit | apply wf_onPort
    | (apply wf_foldl; intro _ _ _) | split | dsimp only

theorem wf_sendFresh (k : Nat) (o : OutPkt) (m : Mach) (hm : m.mem.wf = true) :
    (sendFresh k o m).mem.wf = true := by
  unfold sendFresh
  repeat' with_reducible first
    | assumption | apply wf_onPort | apply wf_noteSent | apply wf_sendPkt | apply wf_startTimer
    | (apply wf_foldl; intro _ _ _) | split | dsimp only

theorem wf_transmit (k : Nat) (fz : Fuses) (m : Mach) (hm : m.mem.wf = true) :
    (transmit k fz m).mem.wf = true := by
  unfold transmit
  repeat' with_reducible first
    | assumption | apply wf_sendAgain | apply wf_reachWall | apply wf_noteCtl | apply wf_sendUnit
    | apply wf_sendFresh | apply wf_pump | apply wf_sendCtl | (apply wf_foldl; intro _ _ _) | split | dsimp only

theorem wf_enterActive (k : Nat) (m : Mach) (hm : m.mem.wf = true) :
    (enterActive k m).mem.wf = true := by
  unfold enterActive
  repeat' with_reducible first
    | assumption | apply wf_onPort | (apply wf_foldl; intro _ _ _) | split | dsimp only

theorem wf_authPhase (k : Nat) (ok : Bool) (fz : Fuses) (m : Mach) (hm : m.mem.wf = true) :
    (authPhase k ok fz m).mem.wf = true := by
  unfold authPhase
  repeat' with_reducible first
    | assumption | apply wf_enterActive | apply wf_reholdAll | apply wf_failPriming | (apply wf_foldl; intro _ _ _)
    | split | dsimp only

theorem wf_silence (k : Nat) (fz : Fuses) (m : Mach) (hm : m.mem.wf = true) :
    (silence k fz m).mem.wf = true := by
  unfold silence
  repeat' with_reducible first
    | assumption | apply wf_downPort | apply wf_reachWall | (apply wf_foldl; intro _ _ _) | split | dsimp only

theorem wf_timePhase (k : Nat) (markers : List (Nat × Nat)) (offset : Int) (m : Mach) (hm : m.mem.wf = true) :
    (timePhase k markers offset m).mem.wf = true := by
  unfold timePhase
  repeat' with_reducible first
    | assumption | apply wf_onPort | apply wf_onMport | (apply wf_foldl; intro _ _ _) | split | dsimp only

theorem wf_laneWindow (k : Nat) (w : LaneWindow) (m : Mach) (hm : m.mem.wf = true) :
    (laneWindow k w m).mem.wf = true := by
  unfold laneWindow
  repeat' with_reducible first
    | assumption | apply wf_onPort | apply wf_evalLanes | apply wf_bumpBy | (apply wf_foldl; intro _ _ _) | split
    | dsimp only

theorem wf_startWidth (k : Nat) (g : Nat × Nat) (t : Nat) (m : Mach) (hm : m.mem.wf = true) :
    (startWidth k g t m).mem.wf = true := by
  unfold startWidth
  repeat' with_reducible first
    | assumption | apply wf_onPort | apply wf_queueCtl | (apply wf_foldl; intro _ _ _) | split | dsimp only

theorem wf_recvReqAck (k : Nat) (u : LinkUnit) (fz : Fuses) (m : Mach) (hm : m.mem.wf = true) :
    (recvReqAck k u fz m).mem.wf = true := by
  unfold recvReqAck
  repeat' with_reducible first
    | assumption | apply wf_downPort | apply wf_hear | refine wf_hear_eq ?_ (by assumption) | apply wf_onPort
    | apply wf_startWidth | (apply wf_foldl; intro _ _ _) | split | dsimp only

theorem wf_linkDisable (v : Via) (k : Nat) (fz : Fuses) (m : Mach) (hm : m.mem.wf = true) :
    (linkDisable v k fz m).mem.wf = true := by
  unfold linkDisable
  repeat' with_reducible first
    | assumption | apply wf_downPort | apply wf_answer | apply wf_onPort | (apply wf_foldl; intro _ _ _) | split
    | dsimp only

theorem wf_widthTimeout (k : Nat) (fz : Fuses) (m : Mach) (hm : m.mem.wf = true) :
    (widthTimeout k fz m).mem.wf = true := by
  unfold widthTimeout
  repeat' with_reducible first
    | assumption | apply wf_downPort | apply wf_reachWall | (apply wf_foldl; intro _ _ _) | split | dsimp only

theorem wf_recvDozeAck (k : Nat) (u : LinkUnit) (m : Mach) (hm : m.mem.wf = true) :
    (recvDozeAck k u m).mem.wf = true := by
  unfold recvDozeAck
  repeat' with_reducible first
    | assumption | apply wf_hear | refine wf_hear_eq ?_ (by assumption) | apply wf_onPort
    | (apply wf_foldl; intro _ _ _) | split | dsimp only

theorem wf_realign (k : Nat) (m : Mach) (hm : m.mem.wf = true) :
    (realign k m).mem.wf = true := by
  unfold realign
  repeat' with_reducible first
    | assumption | apply wf_bump | apply wf_onPort | apply wf_raiseEvt | apply wf_evalLanes
    | (apply wf_foldl; intro _ _ _) | split | dsimp only

theorem wf_recvWidthReq (k : Nat) (u : LinkUnit) (m : Mach) (hm : m.mem.wf = true) :
    (recvWidthReq k u m).mem.wf = true := by
  unfold recvWidthReq
  repeat' with_reducible first
    | assumption | apply wf_hear | refine wf_hear_eq ?_ (by assumption) | apply wf_dropReq | apply wf_startWidth
    | apply wf_queueCtl | (apply wf_foldl; intro _ _ _) | split | dsimp only

theorem wf_primeRetry (k : Nat) (m : Mach) (hm : m.mem.wf = true) :
    (primeRetry k m).mem.wf = true := by
  unfold primeRetry
  repeat' with_reducible first
    | assumption | apply wf_reachWall | apply wf_startPriming | (apply wf_foldl; intro _ _ _) | split | dsimp only

theorem wf_acceptPkt (k : Nat) (u : LinkUnit) (pkt : Packet) (m : Mach) (hm : m.mem.wf = true) :
    (acceptPkt k u pkt m).mem.wf = true := by
  unfold acceptPkt
  repeat' with_reducible first
    | assumption | apply wf_bump | apply wf_onPort | (apply wf_foldl; intro _ _ _) | split | dsimp only

theorem wf_recvPkt (k : Nat) (u : LinkUnit) (m : Mach) (hm : m.mem.wf = true) :
    (recvPkt k u m).mem.wf = true := by
  unfold recvPkt
  repeat' with_reducible first
    | assumption | apply wf_hear | refine wf_hear_eq ?_ (by assumption) | apply wf_acceptPkt
    | (apply wf_foldl; intro _ _ _) | split | dsimp only

theorem wf_keepAlive (k : Nat) (m : Mach) (hm : m.mem.wf = true) :
    (keepAlive k m).mem.wf = true := by
  unfold keepAlive
  repeat' with_reducible first
    | assumption | apply wf_reachWall | apply wf_sendUnit | (apply wf_foldl; intro _ _ _) | split | dsimp only

theorem wf_recvRetrainReq (k : Nat) (u : LinkUnit) (m : Mach) (hm : m.mem.wf = true) :
    (recvRetrainReq k u m).mem.wf = true := by
  unfold recvRetrainReq
  repeat' with_reducible first
    | assumption | apply wf_hear | refine wf_hear_eq ?_ (by assumption) | apply wf_onPort | apply wf_dropReq
    | apply wf_queueCtl | (apply wf_foldl; intro _ _ _) | split | dsimp only

theorem wf_lossOfSignal (k : Nat) (fz : Fuses) (m : Mach) (hm : m.mem.wf = true) :
    (lossOfSignal k fz m).mem.wf = true := by
  unfold lossOfSignal
  repeat' with_reducible first
    | assumption | apply wf_downPort | apply wf_onPort | apply wf_startPriming | (apply wf_foldl; intro _ _ _)
    | split | dsimp only

theorem wf_primeFail (k : Nat) (fz : Fuses) (m : Mach) (hm : m.mem.wf = true) :
    (primeFail k fz m).mem.wf = true := by
  unfold primeFail
  repeat' with_reducible first
    | assumption | apply wf_failPriming | (apply wf_foldl; intro _ _ _) | split | dsimp only

theorem wf_recvWidthMark (k : Nat) (u : LinkUnit) (m : Mach) (hm : m.mem.wf = true) :
    (recvWidthMark k u m).mem.wf = true := by
  unfold recvWidthMark
  repeat' with_reducible first
    | assumption | apply wf_hear | refine wf_hear_eq ?_ (by assumption) | apply wf_onPort
    | (apply wf_foldl; intro _ _ _) | split | dsimp only

theorem wf_linkWidth (v : Via) (k : Nat) (mask : Nat) (m : Mach) (hm : m.mem.wf = true) :
    (linkWidth v k mask m).mem.wf = true := by
  unfold linkWidth
  repeat' with_reducible first
    | assumption | apply wf_answer | apply wf_askPeer | apply wf_dropReq | (apply wf_foldl; intro _ _ _) | split
    | dsimp only

theorem wf_recvDoze (k : Nat) (u : LinkUnit) (m : Mach) (hm : m.mem.wf = true) :
    (recvDoze k u m).mem.wf = true := by
  unfold recvDoze
  repeat' with_reducible first
    | assumption | apply wf_hear | refine wf_hear_eq ?_ (by assumption) | apply wf_onPort | apply wf_queueCtl
    | (apply wf_foldl; intro _ _ _) | split | dsimp only

theorem wf_replayTimeout (k : Nat) (fz : Fuses) (m : Mach) (hm : m.mem.wf = true) :
    (replayTimeout k fz m).mem.wf = true := by
  unfold replayTimeout
  repeat' with_reducible first
    | assumption | apply wf_downPort | apply wf_reachWall | apply wf_bump | apply wf_onPort | apply wf_bumpBy
    | (apply wf_foldl; intro _ _ _) | split | dsimp only

theorem wf_linkStatus (v : Via) (k : Nat) (m : Mach) (hm : m.mem.wf = true) :
    (linkStatus v k m).mem.wf = true := by
  unfold linkStatus
  repeat' with_reducible first
    | assumption | apply wf_complete | (apply wf_foldl; intro _ _ _) | split | dsimp only

/-! ### Commits -/

theorem wf_startTest (m : Mach) (hm : m.mem.wf = true) :
    (startTest m).mem.wf = true := by
  unfold startTest
  repeat' with_reducible first
    | assumption | (apply wf_foldl; intro _ _ _) | split | dsimp only

theorem wf_askCommit (c : Commit) (m : Mach) (hm : m.mem.wf = true) :
    (askCommit c m).mem.wf = true := by
  unfold askCommit
  repeat' with_reducible first
    | assumption | apply wf_startTest | (apply wf_foldl; intro _ _ _) | split | dsimp only

theorem wf_endFailing (m : Mach) (hm : m.mem.wf = true) :
    (endFailing m).mem.wf = true := by
  unfold endFailing
  repeat' with_reducible first
    | assumption | (apply wf_foldl; intro _ _ _) | split | dsimp only

theorem wf_endCommit (m : Mach) (hm : m.mem.wf = true) :
    (endCommit m).mem.wf = true := by
  unfold endCommit
  repeat' with_reducible first
    | assumption | apply wf_startTest | apply wf_endFailing | (apply wf_foldl; intro _ _ _) | split | dsimp only

/-! ### Requests -/

theorem wf_onWgt (p : Nat) (f : Wgt → Wgt) (m : Mach) (hm : m.mem.wf = true) :
    (onWgt p f m).mem.wf = true := by
  unfold onWgt
  repeat' with_reducible first
    | assumption | apply wf_onPart | (apply wf_foldl; intro _ _ _) | split | dsimp only

theorem wf_putRecord (p : Nat) (i : Nat) (o : OutRec) (m : Mach) (hm : m.mem.wf = true) :
    (putRecord p i o m).mem.wf = true := by
  unfold putRecord
  repeat' with_reducible first
    | assumption | apply wf_onPart | apply wf_pokeHost | (apply wf_foldl; intro _ _ _) | split | dsimp only

theorem wf_onSrv (p : Nat) (f : Srv → Srv) (m : Mach) (hm : m.mem.wf = true) :
    (onSrv p f m).mem.wf = true := by
  unfold onSrv
  repeat' with_reducible first
    | assumption | apply wf_onPart | (apply wf_foldl; intro _ _ _) | split | dsimp only

theorem wf_onReq (p : Nat) (i : Nat) (f : Req → Req) (m : Mach) (hm : m.mem.wf = true) :
    (onReq p i f m).mem.wf = true := by
  unfold onReq
  repeat' with_reducible first
    | assumption | apply wf_onSrv | (apply wf_foldl; intro _ _ _) | split | dsimp only

theorem wf_onSess (p : Nat) (i : Nat) (f : Session → Session) (m : Mach) (hm : m.mem.wf = true) :
    (onSess p i f m).mem.wf = true := by
  unfold onSess
  repeat' with_reducible first
    | assumption | apply wf_onSrv | (apply wf_foldl; intro _ _ _) | split | dsimp only

theorem wf_afterLast (fz : Fuses) (p : Nat) (i : Nat) (o : OutRec) (m : Mach) (hm : m.mem.wf = true) :
    (afterLast fz p i o m).mem.wf = true := by
  unfold afterLast
  repeat' with_reducible first
    | assumption | apply wf_bump | apply wf_onSess | apply wf_createRecord | apply wf_onReq
    | (apply wf_foldl; intro _ _ _) | split | dsimp only

theorem wf_writeRecord (fz : Fuses) (p : Nat) (i : Nat) (m : Mach) (hm : m.mem.wf = true) :
    (writeRecord fz p i m).mem.wf = true := by
  unfold writeRecord
  repeat' with_reducible first
    | assumption | apply wf_interrupt | apply wf_putRecord | apply wf_afterLast | apply wf_onReq
    | (apply wf_foldl; intro _ _ _) | split | dsimp only

theorem wf_prefillAgain (p : Nat) (m : Mach) (hm : m.mem.wf = true) :
    (prefillAgain p m).mem.wf = true := by
  unfold prefillAgain
  repeat' with_reducible first
    | assumption | apply wf_onSrv | apply wf_onSess | apply wf_onReq | (apply wf_foldl; intro _ _ _) | split
    | dsimp only

theorem wf_resumeSwap (p : Nat) (n : Nat) (m : Mach) (hm : m.mem.wf = true) :
    (resumeSwap p n m).mem.wf = true := by
  unfold resumeSwap
  repeat' with_reducible first
    | assumption | apply wf_onWgt | apply wf_answer | apply wf_bump | apply wf_prefillAgain | apply wf_journal
    | (apply wf_foldl; intro _ _ _) | split | dsimp only

theorem wf_queueRecord (p : Nat) (i : Nat) (token : Option (Nat × Nat)) (kind : Nat) (index : Nat) (status : Nat)
    (last : Bool) (m : Mach) (hm : m.mem.wf = true) :
    (queueRecord p i token kind index status last m).mem.wf = true := by
  unfold queueRecord
  repeat' with_reducible first
    | assumption | apply wf_bump | apply wf_onReq | (apply wf_foldl; intro _ _ _) | split | dsimp only

theorem wf_foldEnd (p : Nat) (i : Nat) (m : Mach) (hm : m.mem.wf = true) :
    (foldEnd p i m).mem.wf = true := by
  unfold foldEnd
  repeat' with_reducible first
    | assumption | apply wf_onSess | (apply wf_foldl; intro _ _ _) | split | dsimp only

theorem wf_endRequest (p : Nat) (i : Nat) (token : Option (Nat × Nat)) (kind : Nat) (index : Nat) (status : Nat)
    (m : Mach) (hm : m.mem.wf = true) :
    (endRequest p i token kind index status m).mem.wf = true := by
  unfold endRequest
  repeat' with_reducible first
    | assumption | apply wf_queueRecord | apply wf_onSrv | apply wf_foldEnd | (apply wf_foldl; intro _ _ _) | split
    | dsimp only

theorem wf_writeWaiting (fz : Fuses) (p i n : Nat) (m : Mach) (hm : m.mem.wf = true) :
    (writeWaiting fz p i n m).mem.wf = true := by
  induction n generalizing m with
  | zero => exact hm
  | succ n ih =>
    unfold writeWaiting
    split
    · exact ih _ (wf_writeRecord _ _ _ _ hm)
    · exact hm

theorem wf_writeDue (fz : Fuses) (p : Nat) (m : Mach) (hm : m.mem.wf = true) : (writeDue fz p m).mem.wf = true := by
  unfold writeDue
  exact wf_foldl (fun _ _ h => wf_writeWaiting _ _ _ _ _ h) hm

theorem wf_flushRecords (fz : Fuses) (p i n : Nat) (m : Mach) (hm : m.mem.wf = true) :
    (flushRecords fz p i n m).mem.wf = true := by
  induction n generalizing m with
  | zero => exact hm
  | succ n ih => exact ih _ (wf_writeRecord _ _ _ _ hm)

theorem wf_failAll (fz : Fuses) (p : Nat) (m : Mach) (hm : m.mem.wf = true) :
    (failAll fz p m).mem.wf = true := by
  unfold failAll
  repeat' with_reducible first
    | assumption | apply wf_endRequest | apply wf_flushRecords | apply wf_onSrv | (apply wf_foldl; intro _ _ _)
    | split | dsimp only

theorem wf_takeRange (p : Nat) (n : Nat) (m : Mach) (y : Nat × Nat) (hm : m.mem.wf = true) :
    (takeRange p n m y).mem.wf = true := by
  unfold takeRange
  repeat' with_reducible first
    | assumption | apply wf_onReq | (apply wf_foldl; intro _ _ _) | split | dsimp only

theorem wf_freeBlob (m : Mach) (hm : m.mem.wf = true) :
    (freeBlob m).2.mem.wf = true := by
  unfold freeBlob
  repeat' with_reducible first
    | assumption | apply wf_draw | refine wf_draw_eq ?_ (by assumption) | (apply wf_foldl; intro _ _ _) | split
    | dsimp only

theorem wf_freeBlob_eq {m : Mach} {n_ : Mach} {x} (hm : m.mem.wf = true) (hx : freeBlob m = (x, n_)) :
    n_.mem.wf = true := by
  have := wf_freeBlob m hm
  rw [hx] at this
  exact this

theorem wf_sealManifest (p : Nat) (f : Manifest) (m : Mach) (hm : m.mem.wf = true) :
    (sealManifest p f m).mem.wf = true := by
  unfold sealManifest
  repeat' with_reducible first
    | assumption | apply wf_freeBlob | refine wf_freeBlob_eq ?_ (by assumption) | apply wf_journal | apply wf_onSrv
    | (apply wf_foldl; intro _ _ _) | split | dsimp only

theorem wf_replayManifest (p : Nat) (f : Manifest) (m : Mach) (hm : m.mem.wf = true) :
    (replayManifest p f m).mem.wf = true := by
  unfold replayManifest
  repeat' with_reducible first
    | assumption | apply wf_resumeSwap | apply wf_takeRange | apply wf_sealManifest | apply wf_onSrv
    | (apply wf_foldl; intro _ _ _) | split | dsimp only

theorem wf_fullManifest (p : Nat) (n : Nat) (s : Serve) (m : Mach) (hm : m.mem.wf = true) :
    (fullManifest p n s m).2.mem.wf = true := by
  unfold fullManifest
  repeat' with_reducible first
    | assumption | apply wf_takeRange | apply wf_onSrv | (apply wf_foldl; intro _ _ _) | split | dsimp only

theorem wf_fullManifest_eq {p : Nat} {n : Nat} {s : Serve} {m : Mach} {n_ : Mach} {x} (hm : m.mem.wf = true)
    (hx : fullManifest p n s m = (x, n_)) :
    n_.mem.wf = true := by
  have := wf_fullManifest p n s m hm
  rw [hx] at this
  exact this

theorem wf_groupsDone (m : Mach) (p : Nat) (hm : m.mem.wf = true) :
    (groupsDone m p).2.mem.wf = true := by
  unfold groupsDone
  repeat' with_reducible first
    | assumption | apply wf_draw | refine wf_draw_eq ?_ (by assumption) | (apply wf_foldl; intro _ _ _) | split
    | dsimp only

theorem wf_groupsDone_eq {m : Mach} {p : Nat} {n_ : Mach} {x} (hm : m.mem.wf = true) (hx : groupsDone m p = (x, n_)) :
    n_.mem.wf = true := by
  have := wf_groupsDone m p hm
  rw [hx] at this
  exact this

theorem wf_sealAt (p : Nat) (n : Nat) (s : Serve) (m : Mach) (hm : m.mem.wf = true) :
    (sealAt p n s m).mem.wf = true := by
  unfold sealAt
  repeat' with_reducible first
    | assumption | apply wf_resumeSwap | apply wf_groupsDone | refine wf_groupsDone_eq ?_ (by assumption)
    | apply wf_replayManifest | apply wf_fullManifest | refine wf_fullManifest_eq ?_ (by assumption)
    | apply wf_sealManifest | (apply wf_foldl; intro _ _ _) | split | dsimp only

/-! ### Reset -/

theorem wf_cutOff (p : Nat) (m : Mach) (hm : m.mem.wf = true) :
    (cutOff p m).mem.wf = true := by
  unfold cutOff
  repeat' with_reducible first
    | assumption | apply wf_answer | apply wf_onSess | (apply wf_foldl; intro _ _ _) | split | dsimp only

theorem wf_dropCommits (p : Nat) (m : Mach) (hm : m.mem.wf = true) :
    (dropCommits p m).mem.wf = true := by
  unfold dropCommits
  repeat' with_reducible first
    | assumption | apply wf_endCommit | (apply wf_foldl; intro _ _ _) | split | dsimp only

theorem wf_resetDie (d : Nat) (m : Mach) (hm : m.mem.wf = true) : (resetDie d m).mem.wf = true := by
  have wipeCache : ∀ n : Mach, n.mem.wf = true → ∀ a b,
      ({ n.mem with cache := wipe n.mem.cache a b } : Mems).wf = true := by
    intro n hn a b
    rw [Mems.wf_iff] at hn ⊢
    exact ⟨hn.1, wipe_wf _ _ _ hn.2.1, hn.2.2⟩
  unfold resetDie
  apply wipeCache
  repeat' with_reducible first
    | assumption | apply wf_onDie | apply wf_freePool | apply wf_settleStn | (apply wf_foldl; intro _ _ _)
    | dsimp only

theorem wf_partitionReset (p : Nat) (m : Mach) (hm : m.mem.wf = true) :
    (partitionReset p m).mem.wf = true := by
  unfold partitionReset
  repeat' with_reducible first
    | assumption | apply wf_onPart | apply wf_cutOff | apply wf_resetDie | apply wf_dropCommits
    | (apply wf_foldl; intro _ _ _) | split | dsimp only

/-! ### Plans -/

theorem wf_planStatus (v : Via) (p : Nat) (m : Mach) (hm : m.mem.wf = true) :
    (planStatus v p m).mem.wf = true := by
  unfold planStatus
  repeat' with_reducible first
    | assumption | apply wf_complete | (apply wf_foldl; intro _ _ _) | split | dsimp only

theorem wf_makePairs (peers : List (Nat × Nat)) (m : Mach) (d : Nat) (hm : m.mem.wf = true) :
    (makePairs peers m d).mem.wf = true := by
  unfold makePairs
  repeat' with_reducible first
    | assumption | apply wf_enterPair | (apply wf_foldl; intro _ _ _) | split | dsimp only

theorem wf_fillQueue (k : Nat) (m : Mach) (q : Queue) (hm : m.mem.wf = true) :
    (fillQueue k m q).mem.wf = true := by
  unfold fillQueue
  repeat' with_reducible first
    | assumption | apply wf_onStn | (apply wf_foldl; intro _ _ _) | split | dsimp only

theorem wf_fillQueues (dies : List Nat) (m : Mach) (hm : m.mem.wf = true) :
    (fillQueues dies m).mem.wf = true := by
  unfold fillQueues
  repeat' with_reducible first
    | assumption | apply wf_fillQueue | (apply wf_foldl; intro _ _ _) | split | dsimp only

theorem wf_setTmpls (dies : List Nat) (v : VariantImage) (m : Mach) (hm : m.mem.wf = true) :
    (setTmpls dies v m).mem.wf = true := by
  unfold setTmpls
  repeat' with_reducible first
    | assumption | apply wf_onDie | (apply wf_foldl; intro _ _ _) | split | dsimp only

theorem wf_setBufs (dies : List Nat) (v : VariantImage) (m : Mach) (hm : m.mem.wf = true) :
    (setBufs dies v m).mem.wf = true := by
  unfold setBufs
  repeat' with_reducible first
    | assumption | apply wf_onStn | (apply wf_foldl; intro _ _ _) | split | dsimp only

theorem wf_arm (p : Nat) (a : Armed) (m : Mach) (hm : m.mem.wf = true) :
    (arm p a m).mem.wf = true := by
  unfold arm
  repeat' with_reducible first
    | assumption | apply wf_onPart | (apply wf_foldl; intro _ _ _) | split | dsimp only

theorem wf_spendSlots (m : Mach) (d : Nat) (hm : m.mem.wf = true) :
    (spendSlots m d).mem.wf = true := by
  unfold spendSlots
  repeat' with_reducible first
    | assumption | apply wf_onDie | (apply wf_foldl; intro _ _ _) | split | dsimp only

theorem wf_journalStart (fz : Fuses) (p : Nat) (anchor : Nat) (pl : PlanImage) (m : Mach) (hm : m.mem.wf = true) :
    (journalStart fz p anchor pl m).mem.wf = true := by
  unfold journalStart
  repeat' with_reducible first
    | assumption | apply wf_journal | (apply wf_foldl; intro _ _ _) | split | dsimp only

theorem wf_flushJournal (p : Nat) (m : Mach) (hm : m.mem.wf = true) :
    (flushJournal p m).mem.wf = true := by
  unfold flushJournal
  repeat' with_reducible first
    | assumption | apply wf_onDet | apply wf_journal | (apply wf_foldl; intro _ _ _) | split | dsimp only

theorem wf_planStart (v : Via) (p : Nat) (anchor : Nat) (fz : Fuses) (m : Mach) (hm : m.mem.wf = true) :
    (planStart v p anchor fz m).mem.wf = true := by
  unfold planStart
  repeat' with_reducible first
    | assumption | apply wf_onPart | apply wf_answer | apply wf_fillQueues | apply wf_journalStart
    | apply wf_flushJournal | (apply wf_foldl; intro _ _ _) | split | dsimp only

theorem wf_fitDie (fz : Fuses) (g : GridClass) (m : Mach) (d : Nat) (hm : m.mem.wf = true) :
    (fitDie fz g m d).mem.wf = true := by
  unfold fitDie
  repeat' with_reducible first
    | assumption | apply wf_onDie | (apply wf_foldl; intro _ _ _) | split | dsimp only

theorem wf_placeData (m : Mach) (y : StationData) (hm : m.mem.wf = true) :
    (placeData m y).mem.wf = true := by
  unfold placeData
  repeat' with_reducible first
    | assumption | apply wf_settle1 | (apply wf_foldl; intro _ _ _) | split | dsimp only

theorem wf_setSeed (dies : List Nat) (seed : BitVec 64) (m : Mach) (hm : m.mem.wf = true) :
    (setSeed dies seed m).mem.wf = true := by
  unfold setSeed
  repeat' with_reducible first
    | assumption | apply wf_onStn | (apply wf_foldl; intro _ _ _) | split | dsimp only

theorem wf_selfRefresh (fz : Fuses) (g : GridClass) (dies : List Nat) (m : Mach) (hm : m.mem.wf = true) :
    (selfRefresh fz g dies m).mem.wf = true := by
  unfold selfRefresh
  repeat' with_reducible first
    | assumption | apply wf_onWell | (apply wf_foldl; intro _ _ _) | split | dsimp only

theorem wf_loadPlan (fz : Fuses) (p : Nat) (pl : PlanImage) (m : Mach) (hm : m.mem.wf = true) :
    (loadPlan fz p pl m).mem.wf = true := by
  unfold loadPlan
  repeat' with_reducible first
    | assumption | apply wf_makePairs | apply wf_onPart | apply wf_spendSlots | apply wf_fitDie | apply wf_setSeed
    | apply wf_placeData | apply wf_selfRefresh | apply wf_setTmpls | apply wf_setBufs
    | (apply wf_foldl; intro _ _ _) | split | dsimp only

theorem wf_sendVariant (fz : Fuses) (p : Nat) (a : Armed) (m : Mach) (y : Nat × Nat) (hm : m.mem.wf = true) :
    (sendVariant fz p a m y).mem.wf = true := by
  unfold sendVariant
  repeat' with_reducible first
    | assumption | apply wf_sendPair | (apply wf_foldl; intro _ _ _) | split | dsimp only

theorem wf_rejectFit (fz : Fuses) (p : Nat) (st : Nat) (g : GridClass) (m : Mach) (hm : m.mem.wf = true) :
    (rejectFit fz p st g m).mem.wf = true := by
  unfold rejectFit
  repeat' with_reducible first
    | assumption | apply wf_onDie | (apply wf_foldl; intro _ _ _) | split | dsimp only

theorem wf_planLoad (v : Via) (p : Nat) (pl : PlanImage) (fz : Fuses) (m : Mach) (hm : m.mem.wf = true) :
    (planLoad v p pl fz m).mem.wf = true := by
  unfold planLoad
  repeat' with_reducible first
    | assumption | apply wf_loadPlan | apply wf_answer | apply wf_complete | apply wf_rejectFit
    | (apply wf_foldl; intro _ _ _) | split | dsimp only

theorem wf_planVariant (v : Via) (p : Nat) (n : Nat) (step : Nat) (fz : Fuses) (m : Mach) (hm : m.mem.wf = true) :
    (planVariant v p n step fz m).mem.wf = true := by
  unfold planVariant
  repeat' with_reducible first
    | assumption | apply wf_arm | apply wf_answer | apply wf_sendVariant | apply wf_refuseJournalled
    | (apply wf_foldl; intro _ _ _) | split | dsimp only

theorem wf_planUnload (v : Via) (p : Nat) (fz : Fuses) (m : Mach) (hm : m.mem.wf = true) :
    (planUnload v p fz m).mem.wf = true := by
  unfold planUnload
  repeat' with_reducible first
    | assumption | apply wf_cutOff | apply wf_failAll | apply wf_answer | apply wf_partitionReset
    | (apply wf_foldl; intro _ _ _) | split | dsimp only

theorem wf_planStop (v : Via) (p : Nat) (m : Mach) (hm : m.mem.wf = true) :
    (planStop v p m).mem.wf = true := by
  unfold planStop
  repeat' with_reducible first
    | assumption | apply wf_answer | apply wf_stopPlan | (apply wf_foldl; intro _ _ _) | split | dsimp only

/-! ### Fabric -/

theorem wf_pumpAll (m : Mach) (hm : m.mem.wf = true) :
    (pumpAll m).mem.wf = true := by
  unfold pumpAll
  repeat' with_reducible first
    | assumption | apply wf_pump | (apply wf_foldl; intro _ _ _) | split | dsimp only

theorem wf_sendResp (fz : Fuses) (d : Nat) (r : Packet) (m : Mach) (hm : m.mem.wf = true) :
    (sendResp fz d r m).mem.wf = true := by
  unfold sendResp
  repeat' with_reducible first
    | assumption | apply wf_sendPair | (apply wf_foldl; intro _ _ _) | split | dsimp only

theorem wf_pseqGap (d : Nat) (m : Mach) (hm : m.mem.wf = true) :
    (pseqGap d m).mem.wf = true := by
  unfold pseqGap
  repeat' with_reducible first
    | assumption | apply wf_reachWall | apply wf_onPair | apply wf_bump | apply wf_raiseEvt
    | (apply wf_foldl; intro _ _ _) | split | dsimp only

theorem wf_executed (d : Nat) (i : InPkt) (m : Mach) (hm : m.mem.wf = true) :
    (executed d i m).mem.wf = true := by
  unfold executed
  repeat' with_reducible first
    | assumption | apply wf_freePool | apply wf_onDie | (apply wf_foldl; intro _ _ _) | split | dsimp only

theorem wf_recvVariant (d : Nat) (fz : Fuses) (m : Mach) (hm : m.mem.wf = true) :
    (recvVariant d fz m).mem.wf = true := by
  unfold recvVariant
  repeat' with_reducible first
    | assumption | apply wf_forceHalt | apply wf_arm | apply wf_executed | (apply wf_foldl; intro _ _ _) | split
    | dsimp only

theorem wf_dropPkt (i : InPkt) (r : Reg) (d : Nat) (m : Mach) (hm : m.mem.wf = true) :
    (dropPkt i r d m).mem.wf = true := by
  unfold dropPkt
  repeat' with_reducible first
    | assumption | apply wf_freePool | apply wf_bump | (apply wf_foldl; intro _ _ _) | split | dsimp only

theorem wf_failTarget (fz : Fuses) (i : InPkt) (sub : Nat) (m : Mach) (hm : m.mem.wf = true) :
    (failTarget fz i sub m).mem.wf = true := by
  unfold failTarget
  repeat' with_reducible first
    | assumption | apply wf_freePool | apply wf_bump | apply wf_raiseEvt | apply wf_haltPart
    | (apply wf_foldl; intro _ _ _) | split | dsimp only

theorem wf_deliver (fz : Fuses) (i : InPkt) (m : Mach) (hm : m.mem.wf = true) :
    (deliver fz i m).mem.wf = true := by
  unfold deliver
  repeat' with_reducible first
    | assumption | apply wf_onDie | apply wf_dropPkt | apply wf_failTarget | (apply wf_foldl; intro _ _ _) | split
    | dsimp only

theorem wf_drainOrder (fz : Fuses) (d mod peer cls fuel : Nat) (m : Mach) (hm : m.mem.wf = true) :
    (drainOrder fz d mod peer cls fuel m).mem.wf = true := by
  induction fuel generalizing m with
  | zero => exact hm
  | succ n ih =>
    unfold drainOrder
    dsimp only
    split
    · exact hm
    · exact ih _ (wf_deliver _ _ _ (wf_onPair _ _ _ _ _ (wf_onDie _ _ _ hm)))

theorem wf_noRouteDrop (d : Nat) (m : Mach) (hm : m.mem.wf = true) :
    (noRouteDrop d m).mem.wf = true := by
  unfold noRouteDrop
  repeat' with_reducible first
    | assumption | apply wf_reachWall | apply wf_OutPkt_freePool | apply wf_onDie | apply wf_bump | apply wf_raiseEvt
    | apply wf_rehold | apply wf_refillHeld | (apply wf_foldl; intro _ _ _) | split | dsimp only

theorem wf_storePieces (fz : Fuses) (key : Nat) (port : Nat) (l : List ((Nat × List Byte) × LaneAt)) (m : Mach)
    (hm : m.mem.wf = true) :
    (storePieces fz key port l m).mem.wf = true := by
  unfold storePieces
  repeat' with_reducible first
    | assumption | apply wf_laneWrite | apply wf_recordLane | (apply wf_foldl; intro _ _ _) | split | dsimp only

theorem wf_addPiece (fz : Fuses) (p : Nat) (d : Nat) (unit : Nat) (key : Nat) (port : Nat) (m : Mach) (y :
    (Nat × List Byte) × LaneAt) (hm : m.mem.wf = true) :
    (addPiece fz p d unit key port m y).mem.wf = true := by
  unfold addPiece
  repeat' with_reducible first
    | assumption | apply wf_insWrite | refine wf_insWrite_eq ?_ (by assumption) | apply wf_haltPart
    | apply wf_recordLane | apply wf_recallSince | apply wf_noteBad | (apply wf_foldl; intro _ _ _) | split
    | dsimp only

theorem wf_awaitOrder (d : Nat) (i : InPkt) (ext : Nat) (m : Mach) (hm : m.mem.wf = true) :
    (awaitOrder d i ext m).mem.wf = true := by
  unfold awaitOrder
  repeat' with_reducible first
    | assumption | apply wf_freePool | apply wf_onDie | (apply wf_foldl; intro _ _ _) | split | dsimp only

theorem wf_duplicate (fz : Fuses) (i : InPkt) (m : Mach) (hm : m.mem.wf = true) :
    (duplicate fz i m).mem.wf = true := by
  unfold duplicate
  repeat' with_reducible first
    | assumption | apply wf_sendResp | apply wf_freePool | apply wf_bump | apply wf_dropPkt
    | (apply wf_foldl; intro _ _ _) | split | dsimp only

theorem wf_order (fz : Fuses) (i : InPkt) (m : Mach) (hm : m.mem.wf = true) :
    (order fz i m).mem.wf = true := by
  unfold order
  repeat' with_reducible first
    | assumption | apply wf_drainOrder | apply wf_onPair | apply wf_dropPkt | apply wf_deliver | apply wf_awaitOrder
    | apply wf_duplicate | (apply wf_foldl; intro _ _ _) | split | dsimp only

theorem wf_writeWindow (p : Nat) (a : Nat) (l : List Byte) (m : Mach) (hm : m.mem.wf = true) :
    (writeWindow p a l m).mem.wf = true := by
  unfold writeWindow
  repeat' with_reducible first
    | assumption | apply wf_onPart | apply wf_pokeHost | (apply wf_foldl; intro _ _ _) | split | dsimp only

theorem wf_checkPacket (fz : Fuses) (k : Nat) (d : Nat) (i : InPkt) (m : Mach) (hm : m.mem.wf = true) :
    (checkPacket fz k d i m).mem.wf = true := by
  unfold checkPacket
  repeat' with_reducible first
    | assumption | apply wf_order | apply wf_raiseEvt | apply wf_dropPkt | apply wf_forward | apply wf_deliver
    | (apply wf_foldl; intro _ _ _) | split | dsimp only

theorem wf_packetReceive (k : Nat) (fz : Fuses) (m : Mach) (hm : m.mem.wf = true) :
    (packetReceive k fz m).mem.wf = true := by
  unfold packetReceive
  repeat' with_reducible first
    | assumption | apply wf_onPort | apply wf_checkPacket | (apply wf_foldl; intro _ _ _) | split | dsimp only

theorem wf_recvAbort (d : Nat) (fz : Fuses) (m : Mach) (hm : m.mem.wf = true) :
    (recvAbort d fz m).mem.wf = true := by
  unfold recvAbort
  repeat' with_reducible first
    | assumption | apply wf_bump | apply wf_abortMember | apply wf_executed | (apply wf_foldl; intro _ _ _) | split
    | dsimp only

theorem wf_countRegion (d : Nat) (t : Xfer) (n : Nat) (m : Mach) (hm : m.mem.wf = true) :
    (countRegion d t n m).mem.wf = true := by
  unfold countRegion
  repeat' with_reducible first
    | assumption | apply wf_putXfer | (apply wf_foldl; intro _ _ _) | split | dsimp only

theorem wf_respond (fz : Fuses) (p : Packet) (addr : Nat) (l : List Byte) (m : Mach) (hm : m.mem.wf = true) :
    (respond fz p addr l m).mem.wf = true := by
  unfold respond
  repeat' with_reducible first
    | assumption | apply wf_sendResp | apply wf_onDie | (apply wf_foldl; intro _ _ _) | split | dsimp only

theorem wf_readBeats (fz : Fuses) (w a k : Nat) (m : Mach) (hm : m.mem.wf = true) :
    (readBeats fz w a k m).1.mem.wf = true := by
  induction k generalizing a m with
  | zero => exact hm
  | succ k ih =>
    unfold readBeats
    split
    · exact wf_keyHalt _ _ _ _ (wf_readHbm_eq hm (by assumption))
    · rename_i n l e
      have h := ih (a + 1) n (wf_readHbm_eq hm e)
      split <;> (rename_i e; rw [e] at h; exact h)

theorem wf_readBeats_eq {fz : Fuses} {w a k : Nat} {m n : Mach} {x} (hm : m.mem.wf = true)
    (h : readBeats fz w a k m = (n, x)) : n.mem.wf = true := by
  have := wf_readBeats fz w a k m hm
  rw [h] at this
  exact this

theorem wf_recvReadReq (d : Nat) (fz : Fuses) (m : Mach) (hm : m.mem.wf = true) :
    (recvReadReq d fz m).mem.wf = true := by
  unfold recvReadReq
  dsimp only
  repeat' with_reducible first
    | assumption | apply wf_executed | apply wf_respond | apply wf_failTarget | apply wf_onDie
    | refine wf_readBeats_eq ?_ (by assumption) | split

theorem wf_pushLink (d : Nat) (t : Xfer) (m : Mach) (hm : m.mem.wf = true) :
    (pushLink d t m).mem.wf = true := by
  unfold pushLink
  repeat' with_reducible first
    | assumption | (apply wf_foldl; intro _ _ _) | split | dsimp only

theorem wf_writeBeats (fz : Fuses) (w lo hi a : Nat) (l : List (List Byte)) (m : Mach) (hm : m.mem.wf = true) :
    (writeBeats fz w lo hi a l m).1.mem.wf = true := by
  induction l generalizing a m with
  | nil => exact hm
  | cons b r ih =>
    unfold writeBeats
    split
    · exact wf_keyHalt _ _ _ _ (wf_writeHbm_eq hm (by assumption))
    · rename_i e
      exact ih _ _ (wf_writeHbm_eq hm e)

theorem wf_writeBeats_eq {fz : Fuses} {w lo hi a : Nat} {l : List (List Byte)} {m n : Mach} {x} (hm : m.mem.wf = true)
    (h : writeBeats fz w lo hi a l m = (n, x)) : n.mem.wf = true := by
  have := wf_writeBeats fz w lo hi a l m hm
  rw [h] at this
  exact this

theorem wf_putRemote (fz : Fuses) (h : Header) (a : Nat) (l : List Byte) (m : Mach) (hm : m.mem.wf = true) :
    (putRemote fz h a l m).1.mem.wf = true := by
  unfold putRemote
  dsimp only
  split
  · exact wf_writeBeats _ _ _ _ _ _ _ hm
  · split
    · exact hm
    · exact wf_writeWindow _ _ _ _ hm
  · exact wf_onDie _ _ _ hm
  · exact hm

theorem wf_putRemote_eq {fz : Fuses} {h : Header} {a : Nat} {l : List Byte} {m n : Mach} {x} (hm : m.mem.wf = true)
    (e : putRemote fz h a l m = (n, x)) : n.mem.wf = true := by
  have := wf_putRemote fz h a l m hm
  rw [e] at this
  exact this

theorem wf_recvReadResp (d : Nat) (fz : Fuses) (m : Mach) (hm : m.mem.wf = true) :
    (recvReadResp d fz m).mem.wf = true := by
  unfold recvReadResp
  repeat' with_reducible first
    | assumption | apply wf_onDie | apply wf_bump | apply wf_issueAsks | apply wf_putRemote
    | refine wf_putRemote_eq ?_ (by assumption) | apply wf_executed | (apply wf_foldl; intro _ _ _) | split
    | dsimp only

theorem wf_recvDelivered (d : Nat) (m : Mach) (hm : m.mem.wf = true) :
    (recvDelivered d m).mem.wf = true := by
  unfold recvDelivered
  repeat' with_reducible first
    | assumption | apply wf_pumpAll | apply wf_onPair | apply wf_executed | (apply wf_foldl; intro _ _ _) | split
    | dsimp only

theorem wf_workFails (d : Nat) (v : Via) (m : Mach) (hm : m.mem.wf = true) :
    (workFails d v m).mem.wf = true := by
  unfold workFails
  repeat' with_reducible first
    | assumption | apply wf_onPart | (apply wf_foldl; intro _ _ _) | split | dsimp only

theorem wf_recvLaAdd (d : Nat) (cycle : Nat) (fz : Fuses) (m : Mach) (hm : m.mem.wf = true) :
    (recvLaAdd d cycle fz m).mem.wf = true := by
  unfold recvLaAdd
  repeat' with_reducible first
    | assumption | apply wf_onDie | apply wf_addPiece | apply wf_countRegion | apply wf_settleStn
    | apply wf_failTarget | apply wf_executed | (apply wf_foldl; intro _ _ _) | split | dsimp only

theorem wf_requestReplay (d : Nat) (tag : Nat) (fz : Fuses) (m : Mach) (hm : m.mem.wf = true) :
    (requestReplay d tag fz m).mem.wf = true := by
  unfold requestReplay
  repeat' with_reducible first
    | assumption | apply wf_reachWall | apply wf_onDie | apply wf_bump | apply wf_resend | apply wf_issueAsks
    | apply wf_workFails | (apply wf_foldl; intro _ _ _) | split | dsimp only

theorem wf_deliveredSend (d : Nat) (mod : Nat) (peer : Nat) (fz : Fuses) (m : Mach) (hm : m.mem.wf = true) :
    (deliveredSend d mod peer fz m).mem.wf = true := by
  unfold deliveredSend
  repeat' with_reducible first
    | assumption | apply wf_reachWall | apply wf_onPair | apply wf_onSlot | apply wf_place
    | (apply wf_foldl; intro _ _ _) | split | dsimp only

theorem wf_recvWrite (d : Nat) (fz : Fuses) (m : Mach) (hm : m.mem.wf = true) :
    (recvWrite d fz m).mem.wf = true := by
  unfold recvWrite
  repeat' with_reducible first
    | assumption | apply wf_storePieces | apply wf_onDie | apply wf_countRegion | apply wf_respond
    | apply wf_putRemote | refine wf_putRemote_eq ?_ (by assumption) | apply wf_failTarget | apply wf_executed
    | (apply wf_foldl; intro _ _ _) | split | dsimp only

theorem wf_forwardStart (k : Nat) (m : Mach) (hm : m.mem.wf = true) :
    (forwardStart k m).mem.wf = true := by
  unfold forwardStart
  repeat' with_reducible first
    | assumption | apply wf_reachWall | apply wf_bump | apply wf_onPort | apply wf_putPort
    | (apply wf_foldl; intro _ _ _) | split | dsimp only

theorem wf_cacheExpire (d : Nat) (m : Mach) (hm : m.mem.wf = true) :
    (cacheExpire d m).mem.wf = true := by
  unfold cacheExpire
  repeat' with_reducible first
    | assumption | apply wf_reachWall | apply wf_onDie | (apply wf_foldl; intro _ _ _) | split | dsimp only

theorem wf_escape (k : Nat) (fz : Fuses) (m : Mach) (hm : m.mem.wf = true) :
    (escape k fz m).mem.wf = true := by
  unfold escape
  repeat' with_reducible first
    | assumption | apply wf_reachWall | apply wf_bump | apply wf_onPort | apply wf_pump | apply wf_place
    | (apply wf_foldl; intro _ _ _) | split | dsimp only

/-! ### Clocks -/

theorem wf_retarget (p : Nat) (was : Nat) (m : Mach) (hm : m.mem.wf = true) :
    (retarget p was m).mem.wf = true := by
  unfold retarget
  repeat' with_reducible first
    | assumption | apply wf_onPart | (apply wf_foldl; intro _ _ _) | split | dsimp only

theorem wf_setTarget (p : Nat) (t : Nat) (m : Mach) (hm : m.mem.wf = true) :
    (setTarget p t m).mem.wf = true := by
  unfold setTarget
  repeat' with_reducible first
    | assumption | apply wf_onPart | apply wf_retarget | (apply wf_foldl; intro _ _ _) | split | dsimp only

theorem wf_changeClock (p : Nat) (m : Mach) (hm : m.mem.wf = true) :
    (changeClock p m).mem.wf = true := by
  unfold changeClock
  repeat' with_reducible first
    | assumption | apply wf_onPart | (apply wf_foldl; intro _ _ _) | split | dsimp only

theorem wf_moveState (src : Bool) (ok : Bool) (m : Mach) (hm : m.mem.wf = true) :
    (moveState src ok m).mem.wf = true := by
  unfold moveState
  repeat' with_reducible first
    | assumption | (apply wf_foldl; intro _ _ _) | split | dsimp only

theorem wf_servoRate (m : Mach) (hm : m.mem.wf = true) :
    (servoRate m).mem.wf = true := by
  unfold servoRate
  repeat' with_reducible first
    | assumption | (apply wf_foldl; intro _ _ _) | split | dsimp only

theorem wf_stepTime (ofs : Int) (src : Nat) (m : Mach) (hm : m.mem.wf = true) :
    (stepTime ofs src m).mem.wf = true := by
  unfold stepTime
  repeat' with_reducible first
    | assumption | (apply wf_foldl; intro _ _ _) | split | dsimp only

theorem wf_servoUpdate (m : Mach) (hm : m.mem.wf = true) :
    (servoUpdate m).mem.wf = true := by
  unfold servoUpdate
  repeat' with_reducible first
    | assumption | apply wf_servoRate | apply wf_raiseEvt | apply wf_moveState | apply wf_onMport | apply wf_stepTime
    | (apply wf_foldl; intro _ _ _) | split | dsimp only

theorem wf_addStretch (d : Nat) (n : Nat) (m : Mach) (hm : m.mem.wf = true) :
    (addStretch d n m).mem.wf = true := by
  unfold addStretch
  repeat' with_reducible first
    | assumption | apply wf_onDie | (apply wf_foldl; intro _ _ _) | split | dsimp only

theorem wf_ptpSync (offset : Int) (m : Mach) (hm : m.mem.wf = true) :
    (ptpSync offset m).mem.wf = true := by
  unfold ptpSync
  repeat' with_reducible first
    | assumption | (apply wf_foldl; intro _ _ _) | split | dsimp only

theorem wf_refLoss (m : Mach) (hm : m.mem.wf = true) :
    (refLoss m).mem.wf = true := by
  unfold refLoss
  repeat' with_reducible first
    | assumption | apply wf_bump | apply wf_raiseEvt | (apply wf_foldl; intro _ _ _) | split | dsimp only

theorem wf_droop (d : Nat) (l : List Nat) (m : Mach) (hm : m.mem.wf = true) :
    (droop d l m).mem.wf = true := by
  unfold droop
  repeat' with_reducible first
    | assumption | apply wf_addStretch | apply wf_bumpBy | (apply wf_foldl; intro _ _ _) | split | dsimp only

theorem wf_pllLock (p : Nat) (m : Mach) (hm : m.mem.wf = true) :
    (pllLock p m).mem.wf = true := by
  unfold pllLock
  repeat' with_reducible first
    | assumption | apply wf_onPart | apply wf_changeClock | (apply wf_foldl; intro _ _ _) | split | dsimp only

theorem wf_markerSend (k : Nat) (m : Mach) (hm : m.mem.wf = true) :
    (markerSend k m).mem.wf = true := by
  unfold markerSend
  repeat' with_reducible first
    | assumption | apply wf_onMport | apply wf_sendLocal | (apply wf_foldl; intro _ _ _) | split | dsimp only

theorem wf_sympathetic (d : Nat) (periods : Nat) (m : Mach) (hm : m.mem.wf = true) :
    (sympathetic d periods m).mem.wf = true := by
  unfold sympathetic
  repeat' with_reducible first
    | assumption | apply wf_addStretch | apply wf_bumpBy | (apply wf_foldl; intro _ _ _) | split | dsimp only

theorem wf_monitorWindow (d : Nat) (r : Nat) (hist : List Nat) (duty : Nat) (m : Mach) (hm : m.mem.wf = true) :
    (monitorWindow d r hist duty m).mem.wf = true := by
  unfold monitorWindow
  repeat' with_reducible first
    | assumption | apply wf_raiseEvt | apply wf_bumpBy | (apply wf_foldl; intro _ _ _) | split | dsimp only

theorem wf_recvMarker (d : Nat) (m : Mach) (hm : m.mem.wf = true) :
    (recvMarker d m).mem.wf = true := by
  unfold recvMarker
  repeat' with_reducible first
    | assumption | apply wf_bump | apply wf_onMport | apply wf_executed | (apply wf_foldl; intro _ _ _) | split
    | dsimp only

end Sys2Proof.Machine
end

