-- ==== Sys2Proof/Laws/KeepsModule.lean ====
section
/-! SUPPORT. Every operation of these modules keeps the canonical form of every memory: Security, Serving, Boot, Collect,
Weights, Integrity, Determinism, Registers, Power, Control, Chain, Steps. -/

namespace Sys2Proof.Machine

/-! ### Security -/

theorem wf_dropWaiting (d : Nat) (m : Mach) (hm : m.mem.wf = true) :
    (dropWaiting d m).mem.wf = true := by
  unfold dropWaiting
  repeat' with_reducible first
    | assumption | apply wf_freePool | apply wf_onDie | (apply wf_foldl; intro _ _ _) | split | dsimp only

theorem wf_destroyKeys (fz : Fuses) (p : Nat) (m : Mach) (hm : m.mem.wf = true) :
    (destroyKeys fz p m).mem.wf = true := by
  unfold destroyKeys
  repeat' with_reducible first
    | assumption | apply wf_onPart | apply wf_onDie | apply wf_onWell | apply wf_onPort | apply wf_dropWaiting
    | (apply wf_foldl; intro _ _ _) | split | dsimp only

theorem wf_startReencrypt (fz : Fuses) (p : Nat) (m : Mach) (hm : m.mem.wf = true) :
    (startReencrypt fz p m).mem.wf = true := by
  unfold startReencrypt
  repeat' with_reducible first
    | assumption | apply wf_onPart | apply wf_onWell | apply wf_endRotation | apply wf_dropOld
    | (apply wf_foldl; intro _ _ _) | split | dsimp only

theorem wf_switchDue (n : Nat) (m : Mach) (d : Nat) (hm : m.mem.wf = true) :
    (switchDue n m d).mem.wf = true := by
  unfold switchDue
  repeat' with_reducible first
    | assumption | apply wf_onDie | (apply wf_foldl; intro _ _ _) | split | dsimp only

theorem wf_withStatement (v : Via) (st : Statement) (op p : Nat) (body : Mach → Mach) (m : Mach)
    (hm : m.mem.wf = true) (hbody : ∀ m, m.mem.wf = true → (body m).mem.wf = true) :
    (withStatement v st op p body m).mem.wf = true := by
  unfold withStatement
  repeat' with_reducible first
    | assumption | apply wf_answer | apply wf_bump | apply hbody | split

theorem wf_beginTeardown (p : Nat) (mode : Nat) (m : Mach) (hm : m.mem.wf = true) :
    (beginTeardown p mode m).mem.wf = true := by
  unfold beginTeardown
  repeat' with_reducible first
    | assumption | apply wf_onPart | (apply wf_foldl; intro _ _ _) | split | dsimp only

theorem wf_secTeardown (v : Via) (p : Nat) (st : Statement) (mode : Nat) (m : Mach) (hm : m.mem.wf = true) :
    (secTeardown v p st mode m).mem.wf = true := by
  unfold secTeardown
  repeat' with_reducible first
    | assumption | apply wf_answer | apply wf_withStatement | apply wf_beginTeardown | (apply wf_foldl; intro _ _ _)
    | intro _ _ | split | dsimp only

theorem wf_keySwitch (v : Via) (p : Nat) (slot : Nat) (step : Nat) (m : Mach) (hm : m.mem.wf = true) :
    (keySwitch v p slot step m).mem.wf = true := by
  unfold keySwitch
  repeat' with_reducible first
    | assumption | apply wf_answer | apply wf_onSlot | (apply wf_foldl; intro _ _ _) | split | dsimp only

theorem wf_readBack (fz : Fuses) (d : Nat) (m : Mach) (hm : m.mem.wf = true) :
    (readBack fz d m).mem.wf = true := by
  unfold readBack
  repeat' with_reducible first
    | assumption | apply wf_flashed | (apply wf_foldl; intro _ _ _) | split | dsimp only

theorem wf_fillDie (fz : Fuses) (d : Nat) (m : Mach) (hm : m.mem.wf = true) : (fillDie fz d m).mem.wf = true := by
  refine wf_readBack fz d _ ?_
  rw [Mems.wf_iff] at hm ⊢
  exact ⟨wipe_wf _ _ _ hm.1, wipe_wf _ _ _ hm.2.1, hm.2.2⟩

theorem wf_resetPages (w : Nat) (m : Mach) (hm : m.mem.wf = true) :
    (resetPages w m).mem.wf = true := by
  unfold resetPages
  repeat' with_reducible first
    | assumption | apply wf_onWell | (apply wf_foldl; intro _ _ _) | split | dsimp only

theorem wf_assign (b : PartBody) (m : Mach) (hm : m.mem.wf = true) :
    (assign b m).mem.wf = true := by
  unfold assign
  repeat' with_reducible first
    | assumption | apply wf_onPart | apply wf_flashed | (apply wf_foldl; intro _ _ _) | split | dsimp only

theorem wf_leaveTeardown (p : Nat) (l : List Byte) (m : Mach) (hm : m.mem.wf = true) :
    (leaveTeardown p l m).mem.wf = true := by
  unfold leaveTeardown
  repeat' with_reducible first
    | assumption | apply wf_onPart | apply wf_onDie | apply wf_flashed | (apply wf_foldl; intro _ _ _) | split
    | dsimp only

theorem wf_scrubDone (p : Nat) (m : Mach) (hm : m.mem.wf = true) :
    (scrubDone p m).mem.wf = true := by
  unfold scrubDone
  repeat' with_reducible first
    | assumption | apply wf_bump | apply wf_leaveTeardown | apply wf_signature
    | refine wf_signature_eq ?_ (by assumption) | apply wf_draw | refine wf_draw_eq ?_ (by assumption)
    | apply wf_pushReport | (apply wf_foldl; intro _ _ _) | split | dsimp only

theorem wf_loadSlot (slot : Nat) (w : Nat) (m : Mach) (hm : m.mem.wf = true) :
    (loadSlot slot w m).mem.wf = true := by
  unfold loadSlot
  repeat' with_reducible first
    | assumption | apply wf_onWell | (apply wf_foldl; intro _ _ _) | split | dsimp only

theorem wf_sessionKeys (fz : Fuses) (p : Nat) (m : Mach) (hm : m.mem.wf = true) :
    (sessionKeys fz p m).mem.wf = true := by
  unfold sessionKeys
  repeat' with_reducible first
    | assumption | apply wf_onWell | apply wf_loadSlot | (apply wf_foldl; intro _ _ _) | split | dsimp only

theorem wf_resetPairs (d : Nat) (l : List (Nat × Nat)) (m : Mach) (hm : m.mem.wf = true) :
    (resetPairs d l m).mem.wf = true := by
  unfold resetPairs
  repeat' with_reducible first
    | assumption | apply wf_enterPair | (apply wf_foldl; intro _ _ _) | split | dsimp only

theorem wf_loadFabric (k : KeyBlob) (m : Mach) (d : Nat) (hm : m.mem.wf = true) :
    (loadFabric k m d).mem.wf = true := by
  unfold loadFabric
  repeat' with_reducible first
    | assumption | apply wf_resetPairs | apply wf_onSlot | (apply wf_foldl; intro _ _ _) | split | dsimp only

theorem wf_loadKey (p : Nat) (k : KeyBlob) (m : Mach) (hm : m.mem.wf = true) :
    (loadKey p k m).mem.wf = true := by
  unfold loadKey
  repeat' with_reducible first
    | assumption | apply wf_onPart | apply wf_loadFabric | (apply wf_foldl; intro _ _ _) | split | dsimp only

theorem wf_fillWell (w : Nat) (m : Mach) (hm : m.mem.wf = true) : (fillWell w m).mem.wf = true := by
  rw [Mems.wf_iff] at hm
  apply wf_onWell
  rw [Mems.wf_iff]
  exact ⟨hm.1, hm.2.1, wipe_wf _ _ _ hm.2.2.1, hm.2.2.2⟩

theorem wf_scrub (fz : Fuses) (p : Nat) (m : Mach) (hm : m.mem.wf = true) : (scrub fz p m).mem.wf = true := by
  have wipeCist : ∀ n : Mach, n.mem.wf = true → ∀ a b e c,
      ({ n with mem := { n.mem with cist := wipe n.mem.cist a b }, cistErr := e, cistCrc := c } : Mach).mem.wf = true := by
    intro n hn a b _ _
    rw [Mems.wf_iff] at hn ⊢
    exact ⟨hn.1, hn.2.1, hn.2.2.1, hn.2.2.2.1, wipe_wf _ _ _ hn.2.2.2.2⟩
  unfold scrub
  repeat' with_reducible first
    | assumption | apply wf_onPart | apply wipeCist | apply wf_onDie | apply wf_fillWell | apply wf_fillDie
    | apply wf_partitionReset | (apply wf_foldl; intro _ _ _) | split | dsimp only

theorem wf_policySet (v : Via) (p : Nat) (st : Statement) (y : Policy) (m : Mach) (hm : m.mem.wf = true) :
    (policySet v p st y m).mem.wf = true := by
  unfold policySet
  repeat' with_reducible first
    | assumption | apply wf_onPart | apply wf_answer | apply wf_withStatement | (apply wf_foldl; intro _ _ _)
    | intro _ _ | split | dsimp only

theorem wf_keyDestroy (v : Via) (p : Nat) (k : KeyName) (m : Mach) (hm : m.mem.wf = true) :
    (keyDestroy v p k m).mem.wf = true := by
  unfold keyDestroy
  repeat' with_reducible first
    | assumption | apply wf_onPart | apply wf_answer | apply wf_onSlot | (apply wf_foldl; intro _ _ _) | split
    | dsimp only

theorem wf_attest (v : Via) (p : Nat) (nonce : BitVec 256) (fz : Fuses) (m : Mach) (hm : m.mem.wf = true) :
    (attest v p nonce fz m).mem.wf = true := by
  unfold attest
  repeat' with_reducible first
    | assumption | apply wf_answer | apply wf_complete | apply wf_signature
    | refine wf_signature_eq ?_ (by assumption) | (apply wf_foldl; intro _ _ _) | split | dsimp only

theorem wf_sessionOpen (v : Via) (p : Nat) (y : Policy) (sigOk : Bool) (fz : Fuses) (m : Mach)
    (hm : m.mem.wf = true) :
    (sessionOpen v p y sigOk fz m).mem.wf = true := by
  unfold sessionOpen
  repeat' with_reducible first
    | assumption | apply wf_onPart | apply wf_sessionKeys | apply wf_answer | (apply wf_foldl; intro _ _ _) | split
    | dsimp only

theorem wf_partitionAssign (v : Via) (st : Statement) (b : PartBody) (fz : Fuses) (m : Mach) (hm : m.mem.wf = true) :
    (partitionAssign v st b fz m).mem.wf = true := by
  unfold partitionAssign
  repeat' with_reducible first
    | assumption | apply wf_assign | apply wf_answer | apply wf_withStatement | (apply wf_foldl; intro _ _ _)
    | intro _ _ | split | dsimp only

theorem wf_partitionRelease (v : Via) (st : Statement) (b : PartBody) (m : Mach) (hm : m.mem.wf = true) :
    (partitionRelease v st b m).mem.wf = true := by
  unfold partitionRelease
  repeat' with_reducible first
    | assumption | apply wf_answer | apply wf_withStatement | apply wf_beginTeardown | (apply wf_foldl; intro _ _ _)
    | intro _ _ | split | dsimp only

theorem wf_drainEnd (p : Nat) (fz : Fuses) (m : Mach) (hm : m.mem.wf = true) :
    (drainEnd p fz m).mem.wf = true := by
  unfold drainEnd
  repeat' with_reducible first
    | assumption | apply wf_destroyKeys | apply wf_reachWall | apply wf_failAll | apply wf_scrub
    | (apply wf_foldl; intro _ _ _) | split | dsimp only

theorem wf_keyLoad (v : Via) (p : Nat) (k : KeyBlob) (m : Mach) (hm : m.mem.wf = true) :
    (keyLoad v p k m).mem.wf = true := by
  unfold keyLoad
  repeat' with_reducible first
    | assumption | apply wf_loadKey | apply wf_answer | apply wf_bump | (apply wf_foldl; intro _ _ _) | split
    | dsimp only

theorem wf_memkeyLoaded (p : Nat) (fz : Fuses) (m : Mach) (hm : m.mem.wf = true) :
    (memkeyLoaded p fz m).mem.wf = true := by
  unfold memkeyLoaded
  repeat' with_reducible first
    | assumption | apply wf_onPart | apply wf_startReencrypt | apply wf_loadSlot | (apply wf_foldl; intro _ _ _)
    | split | dsimp only

theorem wf_secStatus (v : Via) (p : Nat) (m : Mach) (hm : m.mem.wf = true) :
    (secStatus v p m).mem.wf = true := by
  unfold secStatus
  repeat' with_reducible first
    | assumption | apply wf_complete | (apply wf_foldl; intro _ _ _) | split | dsimp only

theorem wf_memkeyRotate (v : Via) (p : Nat) (fz : Fuses) (m : Mach) (hm : m.mem.wf = true) :
    (memkeyRotate v p fz m).mem.wf = true := by
  unfold memkeyRotate
  repeat' with_reducible first
    | assumption | apply wf_onPart | apply wf_answer | (apply wf_foldl; intro _ _ _) | split | dsimp only

theorem wf_identity (v : Via) (m : Mach) (hm : m.mem.wf = true) :
    (identity v m).mem.wf = true := by
  unfold identity
  repeat' with_reducible first
    | assumption | apply wf_complete | (apply wf_foldl; intro _ _ _) | split | dsimp only

/-! ### Serving -/

theorem wf_noteCommand (v : Via) (p : Nat) (code : Nat) (m : Mach) (hm : m.mem.wf = true) :
    (noteCommand v p code m).mem.wf = true := by
  unfold noteCommand
  repeat' with_reducible first
    | assumption | apply wf_journalCommand | (apply wf_foldl; intro _ _ _) | split | dsimp only

theorem wf_servingCmd (v : Via) (p code : Nat) (journalled : Bool) (stopped : Mach → Bool) (body : Mach → Mach)
    (m : Mach) (hm : m.mem.wf = true) (hbody : ∀ m, m.mem.wf = true → (body m).mem.wf = true) :
    (servingCmd v p code journalled stopped body m).mem.wf = true := by
  unfold servingCmd
  apply wf_command v (some p) code _ m hm
  intro m hm
  dsimp only
  repeat' with_reducible first
    | assumption | apply wf_answer | apply wf_refuseJournalled | apply hbody | apply wf_noteCommand | split

theorem wf_answerSess (p : Nat) (i : Nat) (st : Status) (r : Resp) (m : Mach) (hm : m.mem.wf = true) :
    (answerSess p i st r m).mem.wf = true := by
  unfold answerSess
  repeat' with_reducible first
    | assumption | apply wf_complete | apply wf_onSess | (apply wf_foldl; intro _ _ _) | split | dsimp only

theorem wf_parkFails (p : Nat) (i : Nat) (st : Status) (m : Mach) (hm : m.mem.wf = true) :
    (parkFails p i st m).mem.wf = true := by
  unfold parkFails
  repeat' with_reducible first
    | assumption | apply wf_answerSess | apply wf_onSess | (apply wf_foldl; intro _ _ _) | split | dsimp only

theorem wf_toDecode (p : Nat) (i : Nat) (m : Mach) (hm : m.mem.wf = true) :
    (toDecode p i m).mem.wf = true := by
  unfold toDecode
  repeat' with_reducible first
    | assumption | apply wf_onReq | (apply wf_foldl; intro _ _ _) | split | dsimp only

theorem wf_commitChunk (p : Nat) (i : Nat) (n : Nat) (m : Mach) (hm : m.mem.wf = true) :
    (commitChunk p i n m).mem.wf = true := by
  unfold commitChunk
  repeat' with_reducible first
    | assumption | apply wf_onSess | apply wf_onReq | (apply wf_foldl; intro _ _ _) | split | dsimp only

theorem wf_commitToken (p : Nat) (i : Nat) (maxCtx : Nat) (m : Mach) (t : Nat × Nat × Bool) (hm : m.mem.wf = true) :
    (commitToken p i maxCtx m t).mem.wf = true := by
  unfold commitToken
  repeat' with_reducible first
    | assumption | apply wf_endRequest | apply wf_bump | apply wf_queueRecord | apply wf_onSess | apply wf_onReq
    | (apply wf_foldl; intro _ _ _) | split | dsimp only

theorem wf_commitOne (p : Nat) (step : Nat) (maxCtx : Nat) (draftK : Nat) (m : Mach) (c : Candidate)
    (hm : m.mem.wf = true) :
    (commitOne p step maxCtx draftK m c).mem.wf = true := by
  unfold commitOne
  repeat' with_reducible first
    | assumption | apply wf_endRequest | apply wf_commitToken | apply wf_bumpBy | apply wf_toDecode | apply wf_onReq
    | apply wf_commitChunk | (apply wf_foldl; intro _ _ _) | split | dsimp only

theorem wf_commitPoint (p : Nat) (block : List Candidate) (fz : Fuses) (m : Mach) (hm : m.mem.wf = true) :
    (commitPoint p block fz m).mem.wf = true := by
  unfold commitPoint
  repeat' with_reducible first
    | assumption | apply wf_sealAt | apply wf_writeDue | apply wf_commitOne | apply wf_onSrv | apply wf_toDecode
    | (apply wf_foldl; intro _ _ _) | split | dsimp only

theorem wf_sessTruncate (v : Via) (p : Nat) (sid : Nat) (newL : Nat) (m : Mach) (hm : m.mem.wf = true) :
    (sessTruncate v p sid newL m).mem.wf = true := by
  unfold sessTruncate
  repeat' with_reducible first
    | assumption | apply wf_answer | apply wf_complete | apply wf_onSess | (apply wf_foldl; intro _ _ _) | split
    | dsimp only

theorem wf_reqStatus (v : Via) (p : Nat) (rid : Nat) (m : Mach) (hm : m.mem.wf = true) :
    (reqStatus v p rid m).mem.wf = true := by
  unfold reqStatus
  repeat' with_reducible first
    | assumption | apply wf_answer | apply wf_complete | (apply wf_foldl; intro _ _ _) | split | dsimp only

theorem wf_loseSess (p : Nat) (i : Nat) (st : SessSt) (m : Mach) (hm : m.mem.wf = true) :
    (loseSess p i st m).mem.wf = true := by
  unfold loseSess
  repeat' with_reducible first
    | assumption | apply wf_complete | apply wf_onSess | (apply wf_foldl; intro _ _ _) | split | dsimp only

theorem wf_manifestReceive (p : Nat) (f : Manifest) (wall : Nat) (m : Mach) (hm : m.mem.wf = true) :
    (manifestReceive p f wall m).mem.wf = true := by
  unfold manifestReceive
  repeat' with_reducible first
    | assumption | apply wf_clearCause | apply wf_onSrv | (apply wf_foldl; intro _ _ _) | split | dsimp only

theorem wf_openRequest (v : Via) (p : Nat) (i : Nat) (j : Nat) (r : ReqParams) (l : List Nat) (m : Mach) (hm : m.mem.wf = true) :
    (openRequest v p i j r l m).mem.wf = true := by
  unfold openRequest
  repeat' with_reducible first
    | assumption | apply wf_complete | apply wf_journal | apply wf_onSrv | apply wf_onSess | apply wf_takeIndex
    | refine wf_takeIndex_eq ?_ (by assumption) | apply wf_onReq | (apply wf_foldl; intro _ _ _) | split | dsimp only

theorem wf_enterRequest (v : Via) (p i : Nat) (r : ReqParams) (l : List Nat) (m : Mach) (hm : m.mem.wf = true) :
    (enterRequest v p i r l m).mem.wf = true := by
  unfold enterRequest
  repeat' with_reducible first
    | assumption | apply wf_answer | apply wf_openRequest | split | dsimp only

theorem wf_acceptCounter (p c n : Nat) (m : Mach) (hm : m.mem.wf = true) : (acceptCounter p c n m).mem.wf = true :=
  wf_onPart _ _ _ hm

theorem wf_reqSubmit (v : Via) (p : Nat) (r : ReqParams) (tokens : List Nat) (m : Mach) (hm : m.mem.wf = true) :
    (reqSubmit v p r tokens m).mem.wf = true := by
  unfold reqSubmit
  repeat' with_reducible first
    | assumption | apply wf_answer | apply wf_bump | apply wf_enterRequest | apply wf_acceptCounter | split | dsimp only

theorem wf_askMembers (fz : Fuses) (p : Nat) (v : Via) (m : Mach) (hm : m.mem.wf = true) :
    (askMembers fz p v m).mem.wf = true := by
  unfold askMembers
  repeat' with_reducible first
    | assumption | apply wf_askAll | (apply wf_foldl; intro _ _ _) | split | dsimp only

theorem wf_outputRecordWrite (p : Nat) (rid : Nat) (fz : Fuses) (m : Mach) (hm : m.mem.wf = true) :
    (outputRecordWrite p rid fz m).mem.wf = true := by
  unfold outputRecordWrite
  repeat' with_reducible first
    | assumption | apply wf_writeWaiting | (apply wf_foldl; intro _ _ _) | split | dsimp only

theorem wf_park (v : Via) (p : Nat) (sid : Nat) (dest : Nat) (blocks : List Nat) (fz : Fuses) (m : Mach)
    (hm : m.mem.wf = true) :
    (park v p sid dest blocks fz m).mem.wf = true := by
  unfold park
  repeat' with_reducible first
    | assumption | apply wf_askCommit | apply wf_answer | apply wf_bump | apply wf_askMembers | apply wf_onSess
    | (apply wf_foldl; intro _ _ _) | split | dsimp only

theorem wf_layerBoundary (p : Nat) (cycle : Nat) (m : Mach) (hm : m.mem.wf = true) :
    (layerBoundary p cycle m).mem.wf = true := by
  unfold layerBoundary
  repeat' with_reducible first
    | assumption | apply wf_onSrv | (apply wf_foldl; intro _ _ _) | split | dsimp only

theorem wf_parkCommit (p : Nat) (sid : Nat) (members : List Digest) (m : Mach) (hm : m.mem.wf = true) :
    (parkCommit p sid members m).mem.wf = true := by
  unfold parkCommit
  repeat' with_reducible first
    | assumption | apply wf_onPart | apply wf_bump | apply wf_loseSess | apply wf_answerSess | apply wf_onSess
    | apply wf_endCommit | (apply wf_foldl; intro _ _ _) | split | dsimp only

theorem wf_reqCancel (v : Via) (p : Nat) (rid : Nat) (m : Mach) (hm : m.mem.wf = true) :
    (reqCancel v p rid m).mem.wf = true := by
  unfold reqCancel
  repeat' with_reducible first
    | assumption | apply wf_endRequest | apply wf_answer | apply wf_onSrv | apply wf_onSess | apply wf_onReq
    | (apply wf_foldl; intro _ _ _) | split | dsimp only

theorem wf_sessClose (v : Via) (p : Nat) (sid : Nat) (m : Mach) (hm : m.mem.wf = true) :
    (sessClose v p sid m).mem.wf = true := by
  unfold sessClose
  repeat' with_reducible first
    | assumption | apply wf_answer | apply wf_onSess | (apply wf_foldl; intro _ _ _) | split | dsimp only

theorem wf_unparkCheck (p : Nat) (sid : Nat) (readable : Bool) (members : List Digest) (m : Mach)
    (hm : m.mem.wf = true) :
    (unparkCheck p sid readable members m).mem.wf = true := by
  unfold unparkCheck
  repeat' with_reducible first
    | assumption | apply wf_bump | apply wf_loseSess | apply wf_answerSess | apply wf_onSess | apply wf_draw
    | refine wf_draw_eq ?_ (by assumption) | apply wf_fetchRead | (apply wf_foldl; intro _ _ _) | split | dsimp only

theorem wf_sessOpen (v : Via) (p : Nat) (chan : Option Nat) (m : Mach) (hm : m.mem.wf = true) :
    (sessOpen v p chan m).mem.wf = true := by
  unfold sessOpen
  repeat' with_reducible first
    | assumption | apply wf_answer | apply wf_complete | apply wf_onSess | (apply wf_foldl; intro _ _ _) | split
    | dsimp only

theorem wf_sessStatus (v : Via) (p : Nat) (sid : Nat) (m : Mach) (hm : m.mem.wf = true) :
    (sessStatus v p sid m).mem.wf = true := by
  unfold sessStatus
  repeat' with_reducible first
    | assumption | apply wf_answer | apply wf_complete | (apply wf_foldl; intro _ _ _) | split | dsimp only

theorem wf_unpark (v : Via) (p : Nat) (sid : Nat) (program : Digest) (wset : Digest) (fz : Fuses) (m : Mach)
    (hm : m.mem.wf = true) :
    (unpark v p sid program wset fz m).mem.wf = true := by
  unfold unpark
  repeat' with_reducible first
    | assumption | apply wf_answer | apply wf_askMembers | apply wf_onSess | (apply wf_foldl; intro _ _ _) | split
    | dsimp only

/-! ### Boot -/

theorem wf_revertBlock (p : Nat) (m : Mach) (y : Nat × List Byte) (hm : m.mem.wf = true) :
    (revertBlock p m y).mem.wf = true := by
  unfold revertBlock
  repeat' with_reducible first
    | assumption | apply wf_blockSealed | (apply wf_foldl; intro _ _ _) | split | dsimp only

theorem wf_revertBlocks (m : Mach) (p : Nat) (hm : m.mem.wf = true) :
    (revertBlocks m p).mem.wf = true := by
  unfold revertBlocks
  repeat' with_reducible first
    | assumption | apply wf_onPart | apply wf_revertBlock | (apply wf_foldl; intro _ _ _) | split | dsimp only

theorem wf_losePower (going : Option Nat) (m : Mach) (hm : m.mem.wf = true) :
    (losePower going m).mem.wf = true := by
  have h : ∀ l : List Nat, (l.foldl revertBlocks m).mem.wf = true :=
    fun l => wf_foldl (fun n p hn => wf_revertBlocks n p hn) hm
  unfold losePower
  have := h ((m.parts.map (fun y => y.1)).filter (fun p => going != some p))
  simp only [Mems.wf, Bool.and_eq_true] at this ⊢
  exact ⟨⟨⟨⟨rfl, rfl⟩, rfl⟩, rfl⟩, this.2⟩

theorem wf_endRecord (i : FwImage) (m : Mach) (hm : m.mem.wf = true) :
    (endRecord i m).mem.wf = true := by
  unfold endRecord
  repeat' with_reducible first
    | assumption | (apply wf_foldl; intro _ _ _) | split | dsimp only

theorem wf_repeatCommit (i : FwImage) (m : Mach) (hm : m.mem.wf = true) :
    (repeatCommit i m).1.mem.wf = true := by
  unfold repeatCommit
  repeat' with_reducible first
    | assumption | apply wf_endRecord | (apply wf_foldl; intro _ _ _) | split | dsimp only

theorem wf_repeatCommit_eq {i : FwImage} {m : Mach} {n_ : Mach} {x} (hm : m.mem.wf = true)
    (hx : repeatCommit i m = (n_, x)) :
    n_.mem.wf = true := by
  have := wf_repeatCommit i m hm
  rw [hx] at this
  exact this

theorem wf_logicUp (m : Mach) (hm : m.mem.wf = true) :
    (logicUp m).mem.wf = true := by
  unfold logicUp
  repeat' with_reducible first
    | assumption | apply wf_losePower | (apply wf_foldl; intro _ _ _) | split | dsimp only

theorem wf_alignFails (m : Mach) (y : Nat × Nat) (hm : m.mem.wf = true) :
    (alignFails m y).mem.wf = true := by
  unfold alignFails
  repeat' with_reducible first
    | assumption | apply wf_onDie | apply wf_raiseEvt | (apply wf_foldl; intro _ _ _) | split | dsimp only

theorem wf_loadWell (m : Mach) (w : Nat) (hm : m.mem.wf = true) :
    (loadWell m w).mem.wf = true := by
  unfold loadWell
  repeat' with_reducible first
    | assumption | apply wf_onWell | apply wf_raiseEvt | (apply wf_foldl; intro _ _ _) | split | dsimp only

theorem wf_loadSlice (m : Mach) (k : Nat) (hm : m.mem.wf = true) :
    (loadSlice m k).mem.wf = true := by
  unfold loadSlice
  repeat' with_reducible first
    | assumption | apply wf_onStn | apply wf_raiseEvt | (apply wf_foldl; intro _ _ _) | split | dsimp only

theorem wf_tellBroken (l : List HistRec) (i : Nat) (m : Mach) (hm : m.mem.wf = true) :
    (tellBroken l i m).mem.wf = true := by
  induction l generalizing i m with
  | nil => exact hm
  | cons h r ih =>
    unfold tellBroken
    apply ih
    split
    · exact hm
    · exact wf_raiseEvt _ _ _ _ _ hm

theorem wf_loadRemaps (m : Mach) (hm : m.mem.wf = true) :
    (loadRemaps m).mem.wf = true := by
  unfold loadRemaps
  repeat' with_reducible first
    | assumption | apply wf_tellBroken | apply wf_loadWell | apply wf_loadSlice | (apply wf_foldl; intro _ _ _)
    | split | dsimp only

theorem wf_tellFailure (m : Mach) (hm : m.mem.wf = true) :
    (tellFailure m).mem.wf = true := by
  unfold tellFailure
  repeat' with_reducible first
    | assumption | apply wf_raiseEvt | (apply wf_foldl; intro _ _ _) | split | dsimp only

theorem wf_bootLogic (i : FwImage) (align : List (Nat × Nat)) (m : Mach) (hm : m.mem.wf = true) :
    (bootLogic i align m).mem.wf = true := by
  unfold bootLogic
  repeat' with_reducible first
    | assumption | apply wf_repeatCommit | refine wf_repeatCommit_eq ?_ (by assumption) | apply wf_loadRemaps
    | apply wf_alignFails | apply wf_logicUp | apply wf_tellFailure | (apply wf_foldl; intro _ _ _) | split
    | dsimp only

theorem wf_loseAlwaysOn (m : Mach) (hm : m.mem.wf = true) :
    (loseAlwaysOn m).mem.wf = true := by
  unfold loseAlwaysOn
  repeat' with_reducible first
    | assumption | (apply wf_foldl; intro _ _ _) | split | dsimp only

theorem wf_powerOn (i : FwImage) (align : List (Fin 4 × Fin 4)) (m : Mach) (hm : m.mem.wf = true) :
    (powerOn i align m).mem.wf = true := by
  unfold powerOn
  repeat' with_reducible first
    | assumption | apply wf_loseAlwaysOn | apply wf_bootLogic | (apply wf_foldl; intro _ _ _) | split | dsimp only

theorem wf_beginRecord (i : FwImage) (m : Mach) (hm : m.mem.wf = true) :
    (beginRecord i m).mem.wf = true := by
  unfold beginRecord
  repeat' with_reducible first
    | assumption | (apply wf_foldl; intro _ _ _) | split | dsimp only

theorem wf_recover (i : FwImage) (m : Mach) (hm : m.mem.wf = true) :
    (recover i m).mem.wf = true := by
  unfold recover
  repeat' with_reducible first
    | assumption | apply wf_endRecord | apply wf_beginRecord | apply wf_bootLogic | (apply wf_foldl; intro _ _ _)
    | split | dsimp only

theorem wf_recoveryStart (i : FwImage) (m : Mach) (hm : m.mem.wf = true) :
    (recoveryStart i m).mem.wf = true := by
  unfold recoveryStart
  repeat' with_reducible first
    | assumption | apply wf_recover | (apply wf_foldl; intro _ _ _) | split | dsimp only

theorem wf_recordFail (kind : Nat) (m : Mach) (hm : m.mem.wf = true) :
    (recordFail kind m).mem.wf = true := by
  unfold recordFail
  repeat' with_reducible first
    | assumption | apply wf_record | apply wf_draw | refine wf_draw_eq ?_ (by assumption)
    | (apply wf_foldl; intro _ _ _) | split | dsimp only

theorem wf_fillComplete (spFail : Nat) (whFail : Nat) (m : Mach) (hm : m.mem.wf = true) :
    (fillComplete spFail whFail m).mem.wf = true := by
  unfold fillComplete
  repeat' with_reducible first
    | assumption | apply wf_wakePort | apply wf_recordFail | (apply wf_foldl; intro _ _ _) | split | dsimp only

/-! ### Collect -/

theorem wf_flipTable (t : Option Nat) (m : Mach) (hm : m.mem.wf = true) :
    (flipTable t m).mem.wf = true := by
  unfold flipTable
  repeat' with_reducible first
    | assumption | apply wf_onRte | apply wf_reholdAll | (apply wf_foldl; intro _ _ _) | split | dsimp only

theorem wf_rwinSet (v : Via) (d : Nat) (idx : Nat) (w : RWin) (m : Mach) (hm : m.mem.wf = true) :
    (rwinSet v d idx w m).mem.wf = true := by
  unfold rwinSet
  repeat' with_reducible first
    | assumption | apply wf_onDie | apply wf_answer | (apply wf_foldl; intro _ _ _) | split | dsimp only

theorem wf_collAbort (v : Via) (p : Nat) (coll : Nat) (fz : Fuses) (m : Mach) (hm : m.mem.wf = true) :
    (collAbort v p coll fz m).mem.wf = true := by
  unfold collAbort
  repeat' with_reducible first
    | assumption | apply wf_answer | apply wf_abortMember | (apply wf_foldl; intro _ _ _) | split | dsimp only

theorem wf_epochRelease (t : Option Nat) (m : Mach) (hm : m.mem.wf = true) :
    (epochRelease t m).mem.wf = true := by
  unfold epochRelease
  repeat' with_reducible first
    | assumption | apply wf_reachWall | apply wf_onRte | (apply wf_foldl; intro _ _ _) | split | dsimp only

theorem wf_tryRelease (t : Option Nat) (m : Mach) (hm : m.mem.wf = true) :
    (tryRelease t m).mem.wf = true := by
  unfold tryRelease
  repeat' with_reducible first
    | assumption | apply wf_onRte | (apply wf_foldl; intro _ _ _) | split | dsimp only

theorem wf_recvDrain (d : Nat) (m : Mach) (hm : m.mem.wf = true) :
    (recvDrain d m).mem.wf = true := by
  unfold recvDrain
  repeat' with_reducible first
    | assumption | apply wf_onRte | apply wf_executed | apply wf_tryRelease | (apply wf_foldl; intro _ _ _) | split
    | dsimp only

theorem wf_routeWrite (v : Via) (t : Option Nat) (e : Bool) (l : List (Nat × RouteEntry)) (commit : Bool)
    (m : Mach) (hm : m.mem.wf = true) :
    (routeWrite v t e l commit m).mem.wf = true := by
  unfold routeWrite
  repeat' with_reducible first
    | assumption | apply wf_answer | apply wf_onRte | (apply wf_foldl; intro _ _ _) | split | dsimp only

theorem wf_drainSend (k : Nat) (m : Mach) (hm : m.mem.wf = true) :
    (drainSend k m).mem.wf = true := by
  unfold drainSend
  repeat' with_reducible first
    | assumption | apply wf_onRte | apply wf_sendLocal | apply wf_tryRelease | (apply wf_foldl; intro _ _ _) | split
    | dsimp only

theorem wf_tableCommand (v : Via) (t : Option Nat) (code : Nat) (body : Mach → Mach) (m : Mach)
    (hbody : ∀ m, m.mem.wf = true → (body m).mem.wf = true) (hm : m.mem.wf = true) :
    (tableCommand v t code body m).mem.wf = true := by
  unfold tableCommand
  repeat' with_reducible first
    | assumption | apply wf_answer | apply wf_command | apply hbody | (apply wf_foldl; intro _ _ _) | intro _ _
    | split | dsimp only

theorem wf_routeFlip (v : Via) (t : Option Nat) (step : Nat) (m : Mach) (hm : m.mem.wf = true) :
    (routeFlip v t step m).mem.wf = true := by
  unfold routeFlip
  repeat' with_reducible first
    | assumption | apply wf_answer | apply wf_onRte | apply wf_flipTable | (apply wf_foldl; intro _ _ _) | split
    | dsimp only

/-! ### Weights -/

theorem wf_againGroups (m : Mach) (p : Nat) (hm : m.mem.wf = true) :
    (againGroups m p).mem.wf = true := by
  unfold againGroups
  repeat' with_reducible first
    | assumption | apply wf_onWgt | (apply wf_foldl; intro _ _ _) | split | dsimp only

theorem wf_weightsStatus (v : Via) (p : Nat) (m : Mach) (hm : m.mem.wf = true) :
    (weightsStatus v p m).mem.wf = true := by
  unfold weightsStatus
  repeat' with_reducible first
    | assumption | apply wf_complete | (apply wf_foldl; intro _ _ _) | split | dsimp only

theorem wf_layerGroupDone (p : Nat) (m : Mach) (hm : m.mem.wf = true) :
    (layerGroupDone p m).mem.wf = true := by
  unfold layerGroupDone
  repeat' with_reducible first
    | assumption | apply wf_onWgt | (apply wf_foldl; intro _ _ _) | split | dsimp only

theorem wf_countFails (p : Nat) (e : WEntry) (tagOk : Bool) (plain : List Byte) (m : Mach) (hm : m.mem.wf = true) :
    (countFails p e tagOk plain m).mem.wf = true := by
  have h : (if tagOk then m else bump .wgtAuthFail (iPart p) m).mem.wf = true := by
    split
    · exact hm
    · exact wf_bump _ _ _ hm
  rw [countFails]
  split
  · exact wf_bump _ _ _ h
  · exact h

theorem wf_weightsPace (v : Via) (p : Nat) (maxOut : Nat) (rateCap : Nat) (m : Mach) (hm : m.mem.wf = true) :
    (weightsPace v p maxOut rateCap m).mem.wf = true := by
  unfold weightsPace
  repeat' with_reducible first
    | assumption | apply wf_onWgt | apply wf_answer | (apply wf_foldl; intro _ _ _) | split | dsimp only

theorem wf_weightsStage (v : Via) (p : Nat) (w : WPayload) (x : WManifest) (m : Mach) (hm : m.mem.wf = true) :
    (weightsStage v p w x m).mem.wf = true := by
  unfold weightsStage
  repeat' with_reducible first
    | assumption | apply wf_onWgt | apply wf_answer | (apply wf_foldl; intro _ _ _) | split | dsimp only

theorem wf_stageChunk (p : Nat) (j : Job) (i : Nat) (cipher : List Byte) (m : Mach) (hm : m.mem.wf = true) :
    (stageChunk p j i cipher m).mem.wf = true := by
  unfold stageChunk
  repeat' with_reducible first
    | assumption | apply wf_pokeHost | apply wf_storeCist | (apply wf_foldl; intro _ _ _) | split | dsimp only

theorem wf_jobDone (p : Nat) (j : Job) (m : Mach) (hm : m.mem.wf = true) :
    (jobDone p j m).mem.wf = true := by
  unfold jobDone
  repeat' with_reducible first
    | assumption | apply wf_onWgt | apply wf_answer | (apply wf_foldl; intro _ _ _) | split | dsimp only

theorem wf_maybeDone (p : Nat) (m : Mach) (hm : m.mem.wf = true) :
    (maybeDone p m).mem.wf = true := by
  unfold maybeDone
  repeat' with_reducible first
    | assumption | apply wf_jobDone | (apply wf_foldl; intro _ _ _) | split | dsimp only

theorem wf_weightsFetch (v : Via) (p : Nat) (w : WPayload) (x : WManifest) (m : Mach) (hm : m.mem.wf = true) :
    (weightsFetch v p w x m).mem.wf = true := by
  unfold weightsFetch
  repeat' with_reducible first
    | assumption | apply wf_onWgt | apply wf_answer | apply wf_maybeDone | (apply wf_foldl; intro _ _ _) | split
    | dsimp only

theorem wf_weightsTarget (v : Via) (p : Nat) (target : Nat) (addr : Nat) (service : Nat) (nqn : List Byte)
    (m : Mach) (hm : m.mem.wf = true) :
    (weightsTarget v p target addr service nqn m).mem.wf = true := by
  unfold weightsTarget
  repeat' with_reducible first
    | assumption | apply wf_onWgt | apply wf_answer | (apply wf_foldl; intro _ _ _) | split | dsimp only

theorem wf_weightsSwap (v : Via) (p : Nat) (barrier : Nat) (ctx : Nat) (m : Mach) (hm : m.mem.wf = true) :
    (weightsSwap v p barrier ctx m).mem.wf = true := by
  unfold weightsSwap
  repeat' with_reducible first
    | assumption | apply wf_againGroups | apply wf_onWgt | apply wf_answer | apply wf_journalCommand
    | apply wf_refuseJournalled | (apply wf_foldl; intro _ _ _) | split | dsimp only

theorem wf_endJob (p : Nat) (j : Job) (fail : Option Nat) (st : Status) (m : Mach) (hm : m.mem.wf = true) :
    (endJob p j fail st m).mem.wf = true := by
  unfold endJob
  repeat' with_reducible first
    | assumption | apply wf_onWgt | apply wf_answer | (apply wf_foldl; intro _ _ _) | split | dsimp only

theorem wf_weightsAbort (v : Via) (p : Nat) (m : Mach) (hm : m.mem.wf = true) :
    (weightsAbort v p m).mem.wf = true := by
  unfold weightsAbort
  repeat' with_reducible first
    | assumption | apply wf_answer | apply wf_endJob | (apply wf_foldl; intro _ _ _) | split | dsimp only

theorem wf_sendReads (e : WEntry) (m : Mach) (hm : m.mem.wf = true) :
    (sendReads e m).mem.wf = true := by
  unfold sendReads
  repeat' with_reducible first
    | assumption | (apply wf_foldl; intro _ _ _) | split | dsimp only

theorem wf_writeRun (fz : Fuses) (w lo hi a : Nat) (l : List (List Byte)) (m : Mach) (hm : m.mem.wf = true) :
    (writeRun fz w lo hi a l m).1.mem.wf = true := by
  induction l generalizing a m with
  | nil => exact hm
  | cons b r ih =>
    unfold writeRun
    split
    · exact wf_keyHalt _ _ _ _ (wf_writeHbm_eq hm (by assumption))
    · rename_i e
      exact ih _ _ (wf_writeHbm_eq hm e)

theorem wf_writeRun_eq {fz : Fuses} {w lo hi a : Nat} {l : List (List Byte)} {m n : Mach} {x} (hm : m.mem.wf = true)
    (h : writeRun fz w lo hi a l m = (n, x)) : n.mem.wf = true := by
  have := wf_writeRun fz w lo hi a l m hm
  rw [h] at this
  exact this

theorem wf_placeChunk (fz : Fuses) (p : Nat) (e : WEntry) (plain : List Byte) (m : Mach) (hm : m.mem.wf = true) :
    (placeChunk fz p e plain m).1.mem.wf = true := by
  unfold placeChunk
  dsimp only
  split
  · exact hm
  · split
    · exact wf_writeRun _ _ _ _ _ _ _ hm
    · exact wf_storeCist _ _ _ _ hm
    · exact wf_storeSealed _ _ _ _ hm

theorem wf_placeChunk_eq {fz : Fuses} {p : Nat} {e : WEntry} {plain : List Byte} {m n : Mach} {x} (hm : m.mem.wf = true)
    (h : placeChunk fz p e plain m = (n, x)) : n.mem.wf = true := by
  have := wf_placeChunk fz p e plain m hm
  rw [h] at this
  exact this

theorem wf_onChunk (p : Nat) (i : Nat) (f : Chunk → Chunk) (m : Mach) (hm : m.mem.wf = true) :
    (onChunk p i f m).mem.wf = true := by
  unfold onChunk
  repeat' with_reducible first
    | assumption | apply wf_onWgt | (apply wf_foldl; intro _ _ _) | split | dsimp only

theorem wf_verifyJob (fz : Fuses) (p : Nat) (i : Nat) (j : Job) (e : WEntry) (cipher : List Byte) (m : Mach)
    (hm : m.mem.wf = true) : (verifyJob fz p i j e cipher m).mem.wf = true := by
  unfold verifyJob
  repeat' with_reducible first
    | assumption | apply wf_onWgt | apply wf_countFails | apply wf_stageChunk | apply wf_bump | apply wf_placeChunk
    | refine wf_placeChunk_eq ?_ (by assumption) | apply wf_endJob | apply wf_maybeDone | apply wf_onChunk
    | (apply wf_foldl; intro _ _ _) | split | dsimp only

theorem wf_swapFails (p : Nat) (i : Nat) (st : Status) (m : Mach) (hm : m.mem.wf = true) :
    (swapFails p i st m).mem.wf = true := by
  unfold swapFails
  repeat' with_reducible first
    | assumption | apply wf_onWgt | apply wf_answer | (apply wf_foldl; intro _ _ _) | split | dsimp only

theorem wf_verifySwap (fz : Fuses) (p i : Nat) (x : WManifest) (w : WPayload) (e : WEntry) (m : Mach)
    (hm : m.mem.wf = true) : (verifySwap fz p i x w e m).mem.wf = true := by
  have h (a : Bool) (l : List Byte) := wf_countFails p e a l _ (wf_placeChunk fz p e l m hm)
  rw [verifySwap]
  dsimp only
  split
  · exact wf_swapFails _ _ _ _ (h _ _)
  · exact wf_bump _ _ _ (wf_onWgt _ _ _ (h _ _))

theorem wf_chunkArrives (p i : Nat) (cipher : List Byte) (fz : Fuses) (m : Mach) (hm : m.mem.wf = true) :
    (chunkArrives p i cipher fz m).mem.wf = true := by
  unfold chunkArrives
  dsimp only
  repeat' with_reducible first
    | assumption | apply wf_verifyJob | apply wf_verifySwap | split

theorem wf_readTimeout (p : Nat) (i : Nat) (m : Mach) (hm : m.mem.wf = true) :
    (readTimeout p i m).mem.wf = true := by
  unfold readTimeout
  repeat' with_reducible first
    | assumption | apply wf_bump | apply wf_sendReads | apply wf_endJob | apply wf_onChunk | apply wf_swapFails
    | (apply wf_foldl; intro _ _ _) | split | dsimp only

theorem wf_chunkVerify (p i : Nat) (readOk : Bool) (cipher : List Byte) (fz : Fuses) (m : Mach) (hm : m.mem.wf = true) :
    (chunkVerify p i readOk cipher fz m).mem.wf = true := by
  unfold chunkVerify
  split
  · exact wf_chunkArrives p i cipher fz m hm
  · exact wf_readTimeout p i m hm

theorem wf_chunkIssue (p : Nat) (m : Mach) (hm : m.mem.wf = true) :
    (chunkIssue p m).mem.wf = true := by
  unfold chunkIssue
  repeat' with_reducible first
    | assumption | apply wf_onWgt | apply wf_sendReads | (apply wf_foldl; intro _ _ _) | split | dsimp only

/-! ### Integrity -/

theorem wf_scrubWord (k : Nat) (y : Mach × Scrub) (at_ : Nat × Nat) (hm : y.1.mem.wf = true) :
    (scrubWord k y at_).1.mem.wf = true := by
  obtain ⟨m, r⟩ := y
  unfold scrubWord
  dsimp only
  split
  · exact hm
  · exact wf_noteCorrected _ _ _ _ _ _ _ (wf_onStn _ _ _ (wf_pokeScratch _ _ _ _ hm))
  · exact wf_raiseEvt _ _ _ _ _ (wf_noteBad _ _ _ _ _ hm)

theorem wf_scrubSector (w : Nat) (y : Mach × Scrub) (at_ : Nat × Nat) (hm : y.1.mem.wf = true) :
    (scrubSector w y at_).1.mem.wf = true := by
  obtain ⟨m, r⟩ := y
  unfold scrubSector
  dsimp only
  split
  · exact hm
  · exact wf_noteSector _ _ _ _ _ _ (wf_onWell _ _ _ (wf_pokeHbm _ _ _ hm))
  · exact wf_raiseEvt _ _ _ _ _ (wf_noteBadSector _ _ _ _ hm)

theorem wf_scrubBlock (p : Nat) (y : Mach × Scrub) (b : Nat) (hm : y.1.mem.wf = true) :
    (scrubBlock p y b).1.mem.wf = true := by
  obtain ⟨m, r⟩ := y
  unfold scrubBlock
  dsimp only
  split
  · exact wf_raiseEvt _ _ _ _ _ hm
  · exact hm

theorem wf_scrubPlace (p : Nat) (t : Place) (start n : Nat) (m : Mach) (hm : m.mem.wf = true) :
    (scrubPlace p t start n m).1.mem.wf = true := by
  cases t with
  | slice k => exact wf_foldl_fst (fun y x hy => wf_scrubWord k y x hy) (wf_settleStn k m hm)
  | well w =>
    exact wf_foldl_fst (fun y x hy => wf_scrubSector w y x hy)
      (wf_bumpBy _ _ _ _ _ (wf_bumpBy _ _ _ _ _ (wf_bumpBy _ _ _ _ _ hm)))
  | cistern => exact wf_foldl_fst (fun y x hy => wf_scrubBlock p y x hy) hm

theorem wf_scrubPlace_eq {p : Nat} {t : Place} {start n : Nat} {m o : Mach} {x} (hm : m.mem.wf = true)
    (h : scrubPlace p t start n m = (o, x)) : o.mem.wf = true := by
  have := wf_scrubPlace p t start n m hm
  rw [h] at this
  exact this

theorem wf_eccRemapAdd (v : Via) (p : Nat) (t : Target) (loc : Nat) (fz : Fuses) (m : Mach) (hm : m.mem.wf = true) :
    (eccRemapAdd v p t loc fz m).mem.wf = true := by
  unfold eccRemapAdd
  repeat' with_reducible first
    | assumption | apply wf_answer | apply wf_record | (apply wf_foldl; intro _ _ _) | split | dsimp only

theorem wf_eccCounts (v : Via) (p : Nat) (fz : Fuses) (m : Mach) (hm : m.mem.wf = true) :
    (eccCounts v p fz m).mem.wf = true := by
  unfold eccCounts
  repeat' with_reducible first
    | assumption | apply wf_complete | (apply wf_foldl; intro _ _ _) | split | dsimp only

theorem wf_noScrub (v : Via) (st : Status) (m : Mach) (hm : m.mem.wf = true) :
    (noScrub v st m).mem.wf = true := by
  unfold noScrub
  repeat' with_reducible first
    | assumption | apply wf_complete | (apply wf_foldl; intro _ _ _) | split | dsimp only

theorem wf_scrubRange (v : Via) (p : Nat) (t : Target) (start : Nat) (n : Nat) (fz : Fuses) (m : Mach)
    (hm : m.mem.wf = true) :
    (scrubRange v p t start n fz m).mem.wf = true := by
  unfold scrubRange
  repeat' with_reducible first
    | assumption | apply wf_scrubPlace | refine wf_scrubPlace_eq ?_ (by assumption) | apply wf_complete
    | apply wf_noScrub | (apply wf_foldl; intro _ _ _) | split | dsimp only

theorem wf_eccFlipArm (v : Via) (p : Nat) (t : Target) (mask : BitVec 72) (fz : Fuses) (m : Mach)
    (hm : m.mem.wf = true) :
    (eccFlipArm v p t mask fz m).mem.wf = true := by
  unfold eccFlipArm
  repeat' with_reducible first
    | assumption | apply wf_onStn | apply wf_answer | apply wf_onWell | (apply wf_foldl; intro _ _ _) | split
    | dsimp only

/-! ### Determinism -/

theorem wf_provConfig (v : Via) (p : Nat) (c : ProvCfg) (m : Mach) (hm : m.mem.wf = true) :
    (provConfig v p c m).mem.wf = true := by
  unfold provConfig
  repeat' with_reducible first
    | assumption | apply wf_answer | apply wf_onProv | (apply wf_foldl; intro _ _ _) | split | dsimp only

theorem wf_provSeal (v : Via) (p : Nat) (m : Mach) (hm : m.mem.wf = true) :
    (provSeal v p m).mem.wf = true := by
  unfold provSeal
  repeat' with_reducible first
    | assumption | apply wf_complete | apply wf_closeBatch | refine wf_closeBatch_eq ?_ (by assumption)
    | (apply wf_foldl; intro _ _ _) | split | dsimp only

theorem wf_dumpBeats (a : DumpAt) (start k : Nat) (m : Mach) (hm : m.mem.wf = true) :
    (dumpBeats a start k m).1.mem.wf = true := by
  unfold dumpBeats
  refine wf_foldl_fst ?_ hm
  intro y i hy
  obtain ⟨n, l⟩ := y
  cases a with
  | slice k => exact wf_laneRead k (start + i) .idle n hy
  | well w =>
    dsimp only
    split
    · rename_i e
      exact wf_readHbm_eq hy e
    · rename_i e
      have h := wf_readHbm_eq hy e
      exact h

theorem wf_dumpBeats_eq {a : DumpAt} {start k : Nat} {m n : Mach} {x} (hm : m.mem.wf = true)
    (h : dumpBeats a start k m = (n, x)) : n.mem.wf = true := by
  have := wf_dumpBeats a start k m hm
  rw [h] at this
  exact this

theorem wf_dumpAll (fz : Fuses) (p : Nat) (l : List DumpRegion) (m : Mach) (hm : m.mem.wf = true) :
    (dumpAll fz p l m).1.mem.wf = true := by
  unfold dumpAll
  refine wf_foldl_fst ?_ hm
  intro y r hy
  dsimp only
  split
  · exact wf_dumpBeats _ _ _ _ hy
  · exact hy

theorem wf_dumpAll_eq {fz : Fuses} {p : Nat} {l : List DumpRegion} {m n : Mach} {x} (hm : m.mem.wf = true)
    (h : dumpAll fz p l m = (n, x)) : n.mem.wf = true := by
  have := wf_dumpAll fz p l m hm
  rw [h] at this
  exact this

theorem wf_writeDump (t : TruncPayload) (m : Mach) (hm : m.mem.wf = true) :
    (writeDump t m).mem.wf = true := by
  unfold writeDump
  repeat' with_reducible first
    | assumption | apply wf_pokeHost | (apply wf_foldl; intro _ _ _) | split | dsimp only

theorem wf_truncateSettle (p : Nat) (fz : Fuses) (m : Mach) (hm : m.mem.wf = true) :
    (truncateSettle p fz m).mem.wf = true := by
  unfold truncateSettle
  repeat' with_reducible first
    | assumption | apply wf_reachWall | apply wf_onDet | apply wf_dumpAll | refine wf_dumpAll_eq ?_ (by assumption)
    | apply wf_writeDump | apply wf_haltPart | (apply wf_foldl; intro _ _ _) | split | dsimp only

theorem wf_detTruncate (v : Via) (p : Nat) (t : TruncPayload) (fz : Fuses) (m : Mach) (hm : m.mem.wf = true) :
    (detTruncate v p t fz m).mem.wf = true := by
  unfold detTruncate
  repeat' with_reducible first
    | assumption | apply wf_onDet | apply wf_answer | (apply wf_foldl; intro _ _ _) | split | dsimp only

theorem wf_detDisarm (v : Via) (p : Nat) (m : Mach) (hm : m.mem.wf = true) :
    (detDisarm v p m).mem.wf = true := by
  unfold detDisarm
  repeat' with_reducible first
    | assumption | apply wf_onDet | apply wf_answer | (apply wf_foldl; intro _ _ _) | split | dsimp only

theorem wf_detReplay (v : Via) (p : Nat) (j : JHead) (fz : Fuses) (m : Mach) (hm : m.mem.wf = true) :
    (detReplay v p j fz m).mem.wf = true := by
  unfold detReplay
  repeat' with_reducible first
    | assumption | apply wf_onDet | apply wf_answer | apply wf_setSeed | (apply wf_foldl; intro _ _ _) | split
    | dsimp only

theorem wf_detStatus (v : Via) (p : Nat) (m : Mach) (hm : m.mem.wf = true) :
    (detStatus v p m).mem.wf = true := by
  unfold detStatus
  repeat' with_reducible first
    | assumption | apply wf_complete | (apply wf_foldl; intro _ _ _) | split | dsimp only

theorem wf_detJournal (v : Via) (p : Nat) (dest : Option JDest) (m : Mach) (hm : m.mem.wf = true) :
    (detJournal v p dest m).mem.wf = true := by
  unfold detJournal
  repeat' with_reducible first
    | assumption | apply wf_onDet | apply wf_answer | (apply wf_foldl; intro _ _ _) | split | dsimp only

theorem wf_truncatePoint (p : Nat) (m : Mach) (hm : m.mem.wf = true) :
    (truncatePoint p m).mem.wf = true := by
  unfold truncatePoint
  repeat' with_reducible first
    | assumption | apply wf_onPart | apply wf_onDet | apply wf_bump | (apply wf_foldl; intro _ _ _) | split
    | dsimp only

/-! ### Registers -/

theorem wf_regRead (v : Via) (num : Nat) (elem : Nat) (count : Nat) (inst : Nat) (bank : Nat) (fz : Fuses)
    (m : Mach) (hm : m.mem.wf = true) :
    (regRead v num elem count inst bank fz m).mem.wf = true := by
  unfold regRead
  repeat' with_reducible first
    | assumption | apply wf_answer | apply wf_complete | (apply wf_foldl; intro _ _ _) | split | dsimp only

theorem wf_writeLrkCfg (fz : Fuses) (k : Nat) (x : Nat) (m : Mach) (hm : m.mem.wf = true) :
    (writeLrkCfg fz k x m).mem.wf = true := by
  unfold writeLrkCfg
  repeat' with_reducible first
    | assumption | apply wf_downPort | apply wf_onPort | apply wf_wakePort | (apply wf_foldl; intro _ _ _) | split
    | dsimp only

theorem wf_regStore (fz : Fuses) (r : Reg) (a : RegAt) (x : Nat) (m : Mach) (hm : m.mem.wf = true) :
    (regStore fz r a x m).mem.wf = true := by
  unfold regStore
  repeat' with_reducible first
    | assumption | apply wf_setTarget | apply wf_onStn | apply wf_onPart | apply wf_onWell | apply wf_onPort
    | apply wf_onMport | apply wf_onWin | apply wf_writeLrkCfg | (apply wf_foldl; intro _ _ _) | split | dsimp only

theorem wf_regWrite (v : Via) (num : Nat) (elem : Nat) (inst : Nat) (value : Nat) (fz : Fuses) (m : Mach)
    (hm : m.mem.wf = true) :
    (regWrite v num elem inst value fz m).mem.wf = true := by
  unfold regWrite
  repeat' with_reducible first
    | assumption | apply wf_answer | apply wf_regStore | (apply wf_foldl; intro _ _ _) | split | dsimp only

theorem wf_regDir (v : Via) (first : Nat) (m : Mach) (hm : m.mem.wf = true) :
    (regDir v first m).mem.wf = true := by
  unfold regDir
  repeat' with_reducible first
    | assumption | apply wf_complete | (apply wf_foldl; intro _ _ _) | split | dsimp only

/-! ### Power -/

theorem wf_updateStretch (p : Nat) (m : Mach) (hm : m.mem.wf = true) :
    (updateStretch p m).mem.wf = true := by
  unfold updateStretch
  repeat' with_reducible first
    | assumption | apply wf_onPart | (apply wf_foldl; intro _ _ _) | split | dsimp only

theorem wf_setTemp (kind : Nat) (index : Nat) (t : Int) (m : Mach) (hm : m.mem.wf = true) :
    (setTemp kind index t m).mem.wf = true := by
  unfold setTemp
  repeat' with_reducible first
    | assumption | (apply wf_foldl; intro _ _ _) | split | dsimp only

theorem wf_portOff (fz : Fuses) (cause : Nat) (m : Mach) (k : Nat) (hm : m.mem.wf = true) :
    (portOff fz cause m k).mem.wf = true := by
  unfold portOff
  repeat' with_reducible first
    | assumption | apply wf_downPort | apply wf_onPort | (apply wf_foldl; intro _ _ _) | split | dsimp only

theorem wf_dieOff (fz : Fuses) (d : Nat) (m : Mach) (hm : m.mem.wf = true) :
    (dieOff fz d m).mem.wf = true := by
  unfold dieOff
  repeat' with_reducible first
    | assumption | apply wf_portOff | (apply wf_foldl; intro _ _ _) | split | dsimp only

theorem wf_dieTrip (fz : Fuses) (d : Nat) (s : Sensor) (t : Int) (m : Mach) (hm : m.mem.wf = true) :
    (dieTrip fz d s t m).mem.wf = true := by
  unfold dieTrip
  repeat' with_reducible first
    | assumption | apply wf_forceHalt | apply wf_dieOff | (apply wf_foldl; intro _ _ _) | split | dsimp only

theorem wf_logicOff (m : Mach) (hm : m.mem.wf = true) :
    (logicOff m).mem.wf = true := by
  unfold logicOff
  repeat' with_reducible first
    | assumption | apply wf_losePower | (apply wf_foldl; intro _ _ _) | split | dsimp only

theorem wf_thmTrip (s : Sensor) (t : Int) (fz : Fuses) (m : Mach) (hm : m.mem.wf = true) :
    (thmTrip s t fz m).mem.wf = true := by
  unfold thmTrip
  repeat' with_reducible first
    | assumption | apply wf_bump | apply wf_logicOff | apply wf_raiseEvt | apply wf_setTemp | apply wf_dieTrip
    | (apply wf_foldl; intro _ _ _) | split | dsimp only

theorem wf_pwrLimit (v : Via) (watts : Nat) (fz : Fuses) (m : Mach) (hm : m.mem.wf = true) :
    (pwrLimit v watts fz m).mem.wf = true := by
  unfold pwrLimit
  repeat' with_reducible first
    | assumption | apply wf_answer | (apply wf_foldl; intro _ _ _) | split | dsimp only

theorem wf_answerOpt (o : Option Via) (st : Status) (m : Mach) (hm : m.mem.wf = true) :
    (answerOpt o st m).mem.wf = true := by
  unfold answerOpt
  repeat' with_reducible first
    | assumption | apply wf_answer | (apply wf_foldl; intro _ _ _) | split | dsimp only

theorem wf_takePower (t : Nat) (o : Option Via) (m : Mach) (hm : m.mem.wf = true) :
    (takePower t o m).mem.wf = true := by
  unfold takePower
  repeat' with_reducible first
    | assumption | apply wf_answerOpt | apply wf_dozePorts | apply wf_bootLogic | (apply wf_foldl; intro _ _ _)
    | split | dsimp only

theorem wf_pwrSet (v : Via) (t : Nat) (m : Mach) (hm : m.mem.wf = true) :
    (pwrSet v t m).mem.wf = true := by
  unfold pwrSet
  repeat' with_reducible first
    | assumption | apply wf_answer | apply wf_takePower | (apply wf_foldl; intro _ _ _) | split | dsimp only

theorem wf_refill (fz : Fuses) (m : Mach) (d : Nat) (hm : m.mem.wf = true) : (refill fz m d).mem.wf = true :=
  wf_foldl (fun m w hm => wf_resetPages w m hm) (wf_fillDie fz d m hm)

theorem wf_refuseCommit (c : Commit) (m : Mach) (hm : m.mem.wf = true) :
    (refuseCommit c m).mem.wf = true := by
  unfold refuseCommit
  repeat' with_reducible first
    | assumption | apply wf_answer | apply wf_bump | apply wf_parkFails | (apply wf_foldl; intro _ _ _) | split
    | dsimp only

theorem wf_stopCommit (m : Mach) (hm : m.mem.wf = true) :
    (stopCommit m).mem.wf = true := by
  unfold stopCommit
  repeat' with_reducible first
    | assumption | apply wf_draw | refine wf_draw_eq ?_ (by assumption) | (apply wf_foldl; intro _ _ _) | split
    | dsimp only

theorem wf_wakePorts (m : Mach) (l : List Nat) (hm : m.mem.wf = true) :
    (wakePorts m l).mem.wf = true := by
  unfold wakePorts
  repeat' with_reducible first
    | assumption | apply wf_wakePort | (apply wf_foldl; intro _ _ _) | split | dsimp only

theorem wf_restoreDies (fz : Fuses) (m : Mach) (hm : m.mem.wf = true) :
    (restoreDies fz m).mem.wf = true := by
  unfold restoreDies
  repeat' with_reducible first
    | assumption | apply wf_refill | apply wf_wakePorts | (apply wf_foldl; intro _ _ _) | split | dsimp only

theorem wf_stretchAll (n : Nat) (m : Mach) (hm : m.mem.wf = true) :
    (stretchAll n m).mem.wf = true := by
  unfold stretchAll
  repeat' with_reducible first
    | assumption | apply wf_addStretch | (apply wf_foldl; intro _ _ _) | split | dsimp only

theorem wf_holdupTest (v : Via) (m : Mach) (hm : m.mem.wf = true) :
    (holdupTest v m).mem.wf = true := by
  unfold holdupTest
  repeat' with_reducible first
    | assumption | apply wf_startTest | (apply wf_foldl; intro _ _ _) | split | dsimp only

theorem wf_powerSample (vin : Nat) (iin : Nat) (pin : Nat) (pavg : Nat) (fz : Fuses) (m : Mach)
    (hm : m.mem.wf = true) :
    (powerSample vin iin pin pavg fz m).mem.wf = true := by
  unfold powerSample
  repeat' with_reducible first
    | assumption | apply wf_stretchAll | apply wf_bump | (apply wf_foldl; intro _ _ _) | split | dsimp only

theorem wf_holdupDaily (m : Mach) (hm : m.mem.wf = true) :
    (holdupDaily m).mem.wf = true := by
  unfold holdupDaily
  repeat' with_reducible first
    | assumption | apply wf_startTest | (apply wf_foldl; intro _ _ _) | split | dsimp only

theorem wf_coolFlow (flow : Nat) (m : Mach) (hm : m.mem.wf = true) :
    (coolFlow flow m).mem.wf = true := by
  unfold coolFlow
  repeat' with_reducible first
    | assumption | apply wf_raiseEvt | apply wf_setTemp | (apply wf_foldl; intro _ _ _) | split | dsimp only

theorem wf_thmWarn (s : Sensor) (t : Int) (fz : Fuses) (m : Mach) (hm : m.mem.wf = true) :
    (thmWarn s t fz m).mem.wf = true := by
  unfold thmWarn
  repeat' with_reducible first
    | assumption | apply wf_onWell | apply wf_raiseEvt | apply wf_setTemp | (apply wf_foldl; intro _ _ _) | split
    | dsimp only

theorem wf_decideCommit (m : Mach) (hm : m.mem.wf = true) :
    (decideCommit m).mem.wf = true := by
  unfold decideCommit
  repeat' with_reducible first
    | assumption | apply wf_refuseCommit | apply wf_beginRecord | apply wf_endCommit | (apply wf_foldl; intro _ _ _)
    | split | dsimp only

theorem wf_startCommit (m : Mach) (hm : m.mem.wf = true) : (startCommit m).mem.wf = true := by
  unfold startCommit
  repeat' with_reducible first
    | assumption | apply wf_refuseCommit | apply wf_beginRecord | apply wf_endCommit | split | dsimp only

theorem wf_tankReady (m : Mach) (hm : m.mem.wf = true) :
    (tankReady m).mem.wf = true := by
  unfold tankReady
  repeat' with_reducible first
    | assumption | apply wf_startTest | apply wf_startCommit | (apply wf_foldl; intro _ _ _) | split | dsimp only

theorem wf_measureTank (dv v0 : Nat) (m : Mach) (hm : m.mem.wf = true) :
    (measureTank dv v0 m).2.2.mem.wf = true := by
  unfold measureTank
  split
  · exact wf_draw _ (wf_draw _ hm)
  · exact hm

theorem wf_testDone (dv v0 : Nat) (m : Mach) (hm : m.mem.wf = true) : (testDone dv v0 m).mem.wf = true := by
  unfold testDone
  split
  · exact hm
  · dsimp only
    apply wf_decideCommit
    apply wf_foldl (fun m v hm => wf_complete _ _ _ _ _ hm)
    have h := wf_measureTank dv v0 m hm
    split
    · exact wf_raiseEvt _ _ _ _ _ (wf_bump _ _ _ h)
    · exact wf_bump _ _ _ h

theorem wf_tankExhausted (m : Mach) (hm : m.mem.wf = true) :
    (tankExhausted m).mem.wf = true := by
  unfold tankExhausted
  repeat' with_reducible first
    | assumption | apply wf_losePower | apply wf_loseAlwaysOn | (apply wf_foldl; intro _ _ _) | split | dsimp only

theorem wf_setThermal (p : Nat) (n : Nat) (m : Mach) (hm : m.mem.wf = true) :
    (setThermal p n m).mem.wf = true := by
  unfold setThermal
  repeat' with_reducible first
    | assumption | apply wf_onPart | apply wf_retarget | (apply wf_foldl; intro _ _ _) | split | dsimp only

theorem wf_thermalUpdate (p : Nat) (m : Mach) (hm : m.mem.wf = true) :
    (thermalUpdate p m).mem.wf = true := by
  unfold thermalUpdate
  repeat' with_reducible first
    | assumption | apply wf_updateStretch | apply wf_addStretch | apply wf_bump | apply wf_setThermal
    | (apply wf_foldl; intro _ _ _) | split | dsimp only

theorem wf_sleepWells (fz : Fuses) (enter : Bool) (m : Mach) (hm : m.mem.wf = true) :
    (sleepWells fz enter m).mem.wf = true := by
  unfold sleepWells
  repeat' with_reducible first
    | assumption | apply wf_onWell | (apply wf_foldl; intro _ _ _) | split | dsimp only

theorem wf_edgeCheck (d : Nat) (failed : Option (Fin 256)) (fz : Fuses) (m : Mach) (hm : m.mem.wf = true) :
    (edgeCheck d failed fz m).mem.wf = true := by
  unfold edgeCheck
  repeat' with_reducible first
    | assumption | apply wf_forceHalt | apply wf_onDie | apply wf_raiseEvt | (apply wf_foldl; intro _ _ _) | split
    | dsimp only

theorem wf_holdover (m : Mach) (hm : m.mem.wf = true) :
    (holdover m).mem.wf = true := by
  unfold holdover
  repeat' with_reducible first
    | assumption | (apply wf_foldl; intro _ _ _) | split | dsimp only

theorem wf_wakeDoze (fz : Fuses) (m : Mach) (hm : m.mem.wf = true) :
    (wakeDoze fz m).mem.wf = true := by
  unfold wakeDoze
  repeat' with_reducible first
    | assumption | apply wf_dozePorts | apply wf_sleepWells | apply wf_holdover | (apply wf_foldl; intro _ _ _)
    | split | dsimp only

theorem wf_wakeSleep (fz : Fuses) (m : Mach) (hm : m.mem.wf = true) :
    (wakeSleep fz m).mem.wf = true := by
  unfold wakeSleep
  repeat' with_reducible first
    | assumption | apply wf_refill | apply wf_loadRemaps | apply wf_sleepWells | apply wf_wakePorts
    | apply wf_holdover | (apply wf_foldl; intro _ _ _) | split | dsimp only

theorem wf_reach (fz : Fuses) (t : Nat) (m : Mach) (hm : m.mem.wf = true) :
    (reach fz t m).mem.wf = true := by
  unfold reach
  repeat' with_reducible first
    | assumption | apply wf_restoreDies | apply wf_losePower | apply wf_sleepWells | apply wf_portOff
    | apply wf_wakeSleep | apply wf_wakeDoze | (apply wf_foldl; intro _ _ _) | split | dsimp only

theorem wf_setPowerStep (n : Nat) (m : Mach) (hm : m.mem.wf = true) :
    (setPowerStep n m).mem.wf = true := by
  unfold setPowerStep
  repeat' with_reducible first
    | assumption | apply wf_retarget | (apply wf_foldl; intro _ _ _) | split | dsimp only

theorem wf_inputReturn (m : Mach) (hm : m.mem.wf = true) :
    (inputReturn m).mem.wf = true := by
  unfold inputReturn
  repeat' with_reducible first
    | assumption | apply wf_bootLogic | (apply wf_foldl; intro _ _ _) | split | dsimp only

theorem wf_inputFail (m : Mach) (hm : m.mem.wf = true) :
    (inputFail m).mem.wf = true := by
  unfold inputFail
  repeat' with_reducible first
    | assumption | apply wf_stopCommit | apply wf_losePower | apply wf_bump | apply wf_onSess
    | (apply wf_foldl; intro _ _ _) | split | dsimp only

theorem wf_takeQueue (l : List (Nat × Option Via)) (m : Mach) (hm : m.mem.wf = true) :
    (takeQueue l m).mem.wf = true := by
  induction l generalizing m with
  | nil => exact hm
  | cons y r ih =>
    obtain ⟨t, o⟩ := y
    unfold takeQueue
    dsimp only
    split
    · exact wf_takePower _ _ _ hm
    · exact ih _ (wf_takePower _ _ _ hm)

theorem wf_transitionDone (fz : Fuses) (m : Mach) (hm : m.mem.wf = true) :
    (transitionDone fz m).mem.wf = true := by
  unfold transitionDone
  repeat' with_reducible first
    | assumption | apply wf_answerOpt | apply wf_reach | apply wf_takeQueue | (apply wf_foldl; intro _ _ _) | split
    | dsimp only

theorem wf_railFault (r : Rail) (fz : Fuses) (m : Mach) (hm : m.mem.wf = true) :
    (railFault r fz m).mem.wf = true := by
  unfold railFault
  repeat' with_reducible first
    | assumption | apply wf_forceHalt | apply wf_onDie | apply wf_logicOff | apply wf_raiseEvt | apply wf_portOff
    | (apply wf_foldl; intro _ _ _) | split | dsimp only

theorem wf_machineError (addr : Nat) (m : Mach) (hm : m.mem.wf = true) :
    (machineError addr m).mem.wf = true := by
  unfold machineError
  repeat' with_reducible first
    | assumption | apply wf_interrupt | apply wf_raiseEvt | (apply wf_foldl; intro _ _ _) | split | dsimp only

theorem wf_coolInlet (t : Int) (m : Mach) (hm : m.mem.wf = true) :
    (coolInlet t m).mem.wf = true := by
  unfold coolInlet
  repeat' with_reducible first
    | assumption | apply wf_raiseEvt | apply wf_setTemp | (apply wf_foldl; intro _ _ _) | split | dsimp only

theorem wf_pwrStatus (v : Via) (m : Mach) (hm : m.mem.wf = true) :
    (pwrStatus v m).mem.wf = true := by
  unfold pwrStatus
  repeat' with_reducible first
    | assumption | apply wf_complete | (apply wf_foldl; intro _ _ _) | split | dsimp only

theorem wf_powerStepUpdate (avg100 : Nat) (avg1s : Nat) (fz : Fuses) (m : Mach) (hm : m.mem.wf = true) :
    (powerStepUpdate avg100 avg1s fz m).mem.wf = true := by
  unfold powerStepUpdate
  repeat' with_reducible first
    | assumption | apply wf_setPowerStep | (apply wf_foldl; intro _ _ _) | split | dsimp only

/-! ### Control -/

theorem wf_fwSvnAdvance (v : Via) (m : Mach) (hm : m.mem.wf = true) :
    (fwSvnAdvance v m).mem.wf = true := by
  unfold fwSvnAdvance
  repeat' with_reducible first
    | assumption | apply wf_answer | (apply wf_foldl; intro _ _ _) | split | dsimp only

theorem wf_evtRead (v : Via) (max : Nat) (m : Mach) (hm : m.mem.wf = true) :
    (evtRead v max m).mem.wf = true := by
  unfold evtRead
  repeat' with_reducible first
    | assumption | apply wf_answer | apply wf_complete | apply wf_onWin | (apply wf_foldl; intro _ _ _) | split
    | dsimp only

theorem wf_fwStatus (v : Via) (m : Mach) (hm : m.mem.wf = true) :
    (fwStatus v m).mem.wf = true := by
  unfold fwStatus
  repeat' with_reducible first
    | assumption | apply wf_complete | (apply wf_foldl; intro _ _ _) | split | dsimp only

theorem wf_telemConfig (v : Via) (p : Nat) (addr : Nat) (entries : Nat) (every : Nat) (m : Mach)
    (hm : m.mem.wf = true) :
    (telemConfig v p addr entries every m).mem.wf = true := by
  unfold telemConfig
  repeat' with_reducible first
    | assumption | apply wf_onPart | apply wf_answer | (apply wf_foldl; intro _ _ _) | split | dsimp only

theorem wf_fwCommit (v : Via) (m : Mach) (hm : m.mem.wf = true) :
    (fwCommit v m).mem.wf = true := by
  unfold fwCommit
  repeat' with_reducible first
    | assumption | apply wf_askCommit | apply wf_answer | (apply wf_foldl; intro _ _ _) | split | dsimp only

theorem wf_copyImage (addr len : Nat) (m : Mach) (hm : m.mem.wf = true) : (copyImage addr len m).mem.wf = true :=
  wf_pokeHost _ _ _ hm

theorem wf_fwStage (v : Via) (addr : Nat) (len : Nat) (i : FwImage) (m : Mach) (hm : m.mem.wf = true) :
    (fwStage v addr len i m).mem.wf = true := by
  unfold fwStage
  repeat' with_reducible first
    | assumption | apply wf_answer | apply wf_copyImage | (apply wf_foldl; intro _ _ _) | split | dsimp only

theorem wf_fwActivate (v : Via) (m : Mach) (hm : m.mem.wf = true) :
    (fwActivate v m).mem.wf = true := by
  unfold fwActivate
  repeat' with_reducible first
    | assumption | apply wf_answer | apply wf_bootLogic | (apply wf_foldl; intro _ _ _) | split | dsimp only

theorem wf_finishFw (m : Mach) (hm : m.mem.wf = true) :
    (finishFw m).mem.wf = true := by
  unfold finishFw
  repeat' with_reducible first
    | assumption | apply wf_answer | apply wf_endRecord | apply wf_endCommit | (apply wf_foldl; intro _ _ _) | split
    | dsimp only

theorem wf_wdogControl (p : Nat) (fz : Fuses) (m : Mach) (hm : m.mem.wf = true) :
    (wdogControl p fz m).mem.wf = true := by
  unfold wdogControl
  repeat' with_reducible first
    | assumption | apply wf_forceHalt | apply wf_raiseEvt | (apply wf_foldl; intro _ _ _) | split | dsimp only

theorem wf_idle (m : Mach) (hm : m.mem.wf = true) :
    (idle m).mem.wf = true := by
  unfold idle
  repeat' with_reducible first
    | assumption | apply wf_tick | apply wf_finishFw | (apply wf_foldl; intro _ _ _) | split | dsimp only

/-! ### Chain -/

theorem wf_sendOut (y : Bool) (f : Frame) (ready : Nat) (m : Mach) (hm : m.mem.wf = true) :
    (sendOut y f ready m).mem.wf = true := hm

theorem wf_sendFrame (f : Frame) (ready : Nat) (m : Mach) (hm : m.mem.wf = true) :
    (sendFrame f ready m).mem.wf = true := wf_sendOut _ _ _ _ hm

theorem wf_forwardFrame (f : Frame) (m : Mach) (hm : m.mem.wf = true) :
    (forwardFrame f m).mem.wf = true := by
  unfold forwardFrame
  repeat' with_reducible first
    | assumption | apply wf_bump | apply wf_sendOut | (apply wf_foldl; intro _ _ _) | split | dsimp only

theorem wf_arrive (m : Mach) (hm : m.mem.wf = true) :
    (arrive m).mem.wf = true := by
  unfold arrive
  repeat' with_reducible first
    | assumption | apply wf_reachWall | (apply wf_foldl; intro _ _ _) | split | dsimp only

theorem wf_answerFrame (f : Frame) (act : Mach → Nat × List Byte × Mach) (m : Mach) (hm : m.mem.wf = true)
    (hact : ∀ m, m.mem.wf = true → (act m).2.2.mem.wf = true) : (answerFrame f act m).mem.wf = true := by
  have h : (if f.resv ≠ 0 ∨ 52 < f.len then ((2, [], m) : Nat × List Byte × Mach) else act m).2.2.mem.wf = true := by
    split
    · exact hm
    · exact hact m hm
  unfold answerFrame
  dsimp only
  split
  · exact wf_bump _ _ _ (wf_sendFrame _ _ _ hm)
  · exact wf_sendFrame _ _ _ h

theorem wf_recvFrame (f : Frame) (act : Mach → Nat × List Byte × Mach) (m : Mach) (hact : ∀ m, m.mem.wf = true →
    (act m).2.2.mem.wf = true) (hm : m.mem.wf = true) :
    (recvFrame f act m).mem.wf = true := by
  unfold recvFrame
  repeat' with_reducible first
    | assumption | apply wf_forwardFrame | apply wf_bump | apply wf_answerFrame | apply wf_arrive | apply hact
    | (apply wf_foldl; intro _ _ _) | intro _ _ | split | dsimp only

theorem wf_locate (pod : Nat) (shelf : Nat) (m : Mach) (hm : m.mem.wf = true) :
    (locate pod shelf m).mem.wf = true := by
  unfold locate
  repeat' with_reducible first
    | assumption | apply wf_wakePorts | (apply wf_foldl; intro _ _ _) | split | dsimp only

theorem wf_wilucForward (f : Frame) (m : Mach) (hm : m.mem.wf = true) :
    (wilucForward f m).mem.wf = true := by
  unfold wilucForward
  repeat' with_reducible first
    | assumption | apply wf_recvFrame | (apply wf_foldl; intro _ _ _) | intro _ _ | split | dsimp only

theorem wf_takeSlotAddr (f : Frame) (m : Mach) (hm : m.mem.wf = true) :
    (takeSlotAddr f m).mem.wf = true := by
  unfold takeSlotAddr
  repeat' with_reducible first
    | assumption | apply wf_forwardFrame | apply wf_raiseEvt | (apply wf_foldl; intro _ _ _) | split | dsimp only

theorem wf_enum (f : Frame) (m : Mach) (hm : m.mem.wf = true) :
    (enum f m).mem.wf = true := by
  unfold enum
  repeat' with_reducible first
    | assumption | apply wf_forwardFrame | apply wf_bump | apply wf_recvFrame | apply wf_takeSlotAddr
    | apply wf_arrive | (apply wf_foldl; intro _ _ _) | intro _ _ | split | dsimp only

/-! ### Steps -/

theorem wf_endPlan (p : Nat) (last : Bool) (m : Mach) (hm : m.mem.wf = true) :
    (endPlan p last m).mem.wf = true := by
  unfold endPlan
  repeat' with_reducible first
    | assumption | apply wf_onPart | apply wf_closeBatch | refine wf_closeBatch_eq ?_ (by assumption)
    | (apply wf_foldl; intro _ _ _) | split | dsimp only

theorem wf_boundary (fz : Fuses) (p : Nat) (m : Mach) (hm : m.mem.wf = true) :
    (boundary fz p m).mem.wf = true := by
  unfold boundary
  repeat' with_reducible first
    | assumption | apply wf_startReencrypt | apply wf_usePorts | apply wf_changeClock | (apply wf_foldl; intro _ _ _)
    | split | dsimp only

theorem wf_beginStep (p : Nat) (m : Mach) (hm : m.mem.wf = true) :
    (beginStep p m).mem.wf = true := by
  unfold beginStep
  repeat' with_reducible first
    | assumption | apply wf_onPart | (apply wf_foldl; intro _ _ _) | split | dsimp only

theorem wf_dropManifests (p : Nat) (m : Mach) (hm : m.mem.wf = true) :
    (dropManifests p m).mem.wf = true := by
  unfold dropManifests
  repeat' with_reducible first
    | assumption | apply wf_onSrv | (apply wf_foldl; intro _ _ _) | split | dsimp only

theorem wf_routeSwitch (p : Nat) (m : Mach) (hm : m.mem.wf = true) :
    (routeSwitch p m).mem.wf = true := by
  unfold routeSwitch
  repeat' with_reducible first
    | assumption | apply wf_flipTable | (apply wf_foldl; intro _ _ _) | split | dsimp only

theorem wf_timeRecord (p : Nat) (m : Mach) (hm : m.mem.wf = true) :
    (timeRecord p m).mem.wf = true := by
  unfold timeRecord
  repeat' with_reducible first
    | assumption | apply wf_pokeHost | apply wf_journal | (apply wf_foldl; intro _ _ _) | split | dsimp only

theorem wf_beginDrain (p : Nat) (m : Mach) (hm : m.mem.wf = true) :
    (beginDrain p m).mem.wf = true := by
  unfold beginDrain
  repeat' with_reducible first
    | assumption | apply wf_onWgt | apply wf_journalCommand | (apply wf_foldl; intro _ _ _) | split | dsimp only

theorem wf_beginOverwrite (p : Nat) (m : Mach) (hm : m.mem.wf = true) :
    (beginOverwrite p m).mem.wf = true := by
  unfold beginOverwrite
  repeat' with_reducible first
    | assumption | apply wf_onWgt | (apply wf_foldl; intro _ _ _) | split | dsimp only

theorem wf_swapPhase (p : Nat) (m : Mach) (hm : m.mem.wf = true) :
    (swapPhase p m).mem.wf = true := by
  unfold swapPhase
  repeat' with_reducible first
    | assumption | apply wf_resumeSwap | apply wf_beginOverwrite | apply wf_beginDrain
    | (apply wf_foldl; intro _ _ _) | split | dsimp only

theorem wf_stepMask (p : Nat) (m : Mach) (hm : m.mem.wf = true) :
    (stepMask p m).mem.wf = true := by
  unfold stepMask
  repeat' with_reducible first
    | assumption | apply wf_onSrv | (apply wf_foldl; intro _ _ _) | split | dsimp only

theorem wf_refreshSets (fz : Fuses) (p : Nat) (m : Mach) (hm : m.mem.wf = true) :
    (refreshSets fz p m).mem.wf = true := by
  unfold refreshSets
  repeat' with_reducible first
    | assumption | apply wf_onWell | (apply wf_foldl; intro _ _ _) | split | dsimp only

theorem wf_checkProfile (fz : Fuses) (p : Nat) (v : VariantImage) (m : Mach) (hm : m.mem.wf = true) :
    (checkProfile fz p v m).mem.wf = true := by
  unfold checkProfile
  repeat' with_reducible first
    | assumption | apply wf_onPart | apply wf_haltPart | (apply wf_foldl; intro _ _ _) | split | dsimp only

theorem wf_takeVariant (fz : Fuses) (p : Nat) (v : Nat) (m : Mach) (hm : m.mem.wf = true) :
    (takeVariant fz p v m).mem.wf = true := by
  unfold takeVariant
  repeat' with_reducible first
    | assumption | apply wf_onPart | apply wf_bump | apply wf_fillQueues | apply wf_raiseEvt | apply wf_setTmpls
    | apply wf_setBufs | apply wf_checkProfile | (apply wf_foldl; intro _ _ _) | split | dsimp only

theorem wf_armedSwitch (fz : Fuses) (p : Nat) (m : Mach) (hm : m.mem.wf = true) :
    (armedSwitch fz p m).mem.wf = true := by
  unfold armedSwitch
  repeat' with_reducible first
    | assumption | apply wf_onPart | apply wf_journalCommand | apply wf_takeVariant | (apply wf_foldl; intro _ _ _)
    | split | dsimp only

theorem wf_rungSwitch (fz : Fuses) (p : Nat) (m : Mach) (hm : m.mem.wf = true) :
    (rungSwitch fz p m).mem.wf = true := by
  unfold rungSwitch
  repeat' with_reducible first
    | assumption | apply wf_bump | apply wf_takeVariant | (apply wf_foldl; intro _ _ _) | split | dsimp only

theorem wf_fence (fz : Fuses) (p : Nat) (m : Mach) (hm : m.mem.wf = true) :
    (fence fz p m).mem.wf = true := by
  unfold fence
  repeat' with_reducible first
    | assumption | apply wf_forceHalt | apply wf_onPart | (apply wf_foldl; intro _ _ _) | split | dsimp only

theorem wf_awaitManifest (fz : Fuses) (p : Nat) (m : Mach) (hm : m.mem.wf = true) :
    (awaitManifest fz p m).mem.wf = true := by
  unfold awaitManifest
  repeat' with_reducible first
    | assumption | apply wf_assertCause | (apply wf_foldl; intro _ _ _) | split | dsimp only

theorem wf_oweRefresh (fz : Fuses) (p : Nat) (m : Mach) (hm : m.mem.wf = true) :
    (oweRefresh fz p m).mem.wf = true := by
  unfold oweRefresh
  repeat' with_reducible first
    | assumption | apply wf_refreshCause | (apply wf_foldl; intro _ _ _) | split | dsimp only

theorem wf_stepStart (p : Nat) (fz : Fuses) (m : Mach) (hm : m.mem.wf = true) :
    (stepStart p fz m).mem.wf = true := by
  unfold stepStart
  repeat' with_reducible first
    | assumption | apply wf_tellLate | apply wf_swapPhase | apply wf_rungSwitch | apply wf_awaitManifest
    | apply wf_oweRefresh | apply wf_stepMask | apply wf_routeSwitch | apply wf_fence | apply wf_armedSwitch
    | apply wf_dropManifests | apply wf_switchDue | apply wf_timeRecord | apply wf_beginStep | apply wf_reachNs
    | apply wf_boundary | apply wf_refreshSets | (apply wf_foldl; intro _ _ _) | split | dsimp only

theorem wf_restAll (p : Nat) (m : Mach) (hm : m.mem.wf = true) :
    (restAll p m).mem.wf = true := by
  unfold restAll
  repeat' with_reducible first
    | assumption | apply wf_onDie | apply wf_settleStn | (apply wf_foldl; intro _ _ _) | split | dsimp only

theorem wf_telemLoses (p : Nat) (m : Mach) (hm : m.mem.wf = true) :
    (telemLoses p m).mem.wf = true := by
  unfold telemLoses
  repeat' with_reducible first
    | assumption | apply wf_onPart | apply wf_bump | apply wf_raiseEvt | (apply wf_foldl; intro _ _ _) | split
    | dsimp only

theorem wf_telemRecord (p : Nat) (m : Mach) (hm : m.mem.wf = true) :
    (telemRecord p m).mem.wf = true := by
  unfold telemRecord
  repeat' with_reducible first
    | assumption | apply wf_onPart | apply wf_telemLoses | apply wf_pokeHost | apply wf_pushReport
    | (apply wf_foldl; intro _ _ _) | split | dsimp only

theorem wf_nextStep (p : Nat) (m : Mach) (hm : m.mem.wf = true) :
    (nextStep p m).mem.wf = true := by
  unfold nextStep
  repeat' with_reducible first
    | assumption | apply wf_onPart | (apply wf_foldl; intro _ _ _) | split | dsimp only

theorem wf_endReplay (p : Nat) (m : Mach) (hm : m.mem.wf = true) :
    (endReplay p m).mem.wf = true := by
  unfold endReplay
  repeat' with_reducible first
    | assumption | apply wf_onDet | (apply wf_foldl; intro _ _ _) | split | dsimp only

theorem wf_stepEnd (p : Nat) (fz : Fuses) (m : Mach) (hm : m.mem.wf = true) :
    (stepEnd p fz m).mem.wf = true := by
  unfold stepEnd
  repeat' with_reducible first
    | assumption | apply wf_endPlan | apply wf_onPart | apply wf_restAll | apply wf_endReplay | apply wf_telemRecord
    | apply wf_reachNs | apply wf_stepsRecord | apply wf_nextStep | apply wf_boundary | (apply wf_foldl; intro _ _ _)
    | split | dsimp only

end Sys2Proof.Machine
end

