-- ==== Sys2Proof/Laws/KeepsCommands.lean ====
section
/-! SUPPORT. The meaning of each command keeps the canonical form of every memory. -/

namespace Sys2Proof.Machine

/-- A meaning that keeps the canonical form of every memory. -/
def Keeps (e : State → Host.Outcome State Fault Refusal) : Prop :=
  ∀ s t : State, MemInv s → e s = .next t → MemInv t

theorem keeps_run (f : Fuses → Mach → Mach) (h : ∀ fz m, m.mem.wf = true → (f fz m).mem.wf = true) :
    Keeps (fun s => run s f) := by
  intro s t hs ht
  simp only [run, Host.Outcome.next.injEq] at ht
  subst ht
  exact h _ _ hs

theorem wf_setLocation (f : Frame) (m : Mach) (hm : m.mem.wf = true) : (setLocation f m).2.2.mem.wf = true := by
  have h : ∀ a b, (locate a b m).mem.wf = true := fun a b => wf_locate a b m hm
  unfold setLocation
  dsimp only
  repeat' with_reducible first
    | assumption | apply h | split

theorem wf_powerFrame (f : Frame) (m : Mach) (hm : m.mem.wf = true) : (powerFrame f m).2.2.mem.wf = true := by
  have h : ∀ t, (takePower t none m).mem.wf = true := fun t => wf_takePower t none m hm
  unfold powerFrame
  dsimp only
  repeat' with_reducible first
    | assumption | apply h | split

theorem wf_rcvBegin (f : Frame) (m : Mach) (hm : m.mem.wf = true) : (rcvBegin f m).2.2.mem.wf = true := by
  unfold rcvBegin
  dsimp only
  split <;> exact hm

theorem wf_rcvData (f : Frame) (m : Mach) (hm : m.mem.wf = true) : (rcvData f m).2.2.mem.wf = true := by
  have h : ∀ a l, (pokeHost a l m).mem.wf = true := fun a l => wf_pokeHost a l m hm
  unfold rcvData
  dsimp only
  split
  · exact hm
  · split
    · exact hm
    · exact h _ _

theorem wf_rcvEnd (f : Frame) (i : FwImage) (m : Mach) (hm : m.mem.wf = true) :
    (rcvEnd f i m).2.2.mem.wf = true := by
  have h := wf_recover i m hm
  unfold rcvEnd
  split
  · exact h
  · exact hm

theorem next_effLoadw (x : Ctx) (c : Cut) : (effLoadw x c).next = id := by
  unfold effLoadw
  dsimp only
  split <;> rfl

theorem next_effMma (x : Ctx) (c : Cut) : (effMma x c).next = id := by
  unfold effMma
  dsimp only
  split <;> rfl

theorem next_effFetch (x : Ctx) (c : Cut) : (effFetch x c).next = id := by
  unfold effFetch
  dsimp only
  split <;> rfl

theorem keeps_mxLoadw (a : At) : Keeps (execMxLoadw a) := by
  refine keeps_run _ ?_
  intro fz m hm
  refine wf_issue _ _ _ _ fz m (fun _ _ _ h => ?_) hm
  rw [next_effLoadw]
  exact h

theorem keeps_mxMma (a : At) : Keeps (execMxMma a) := by
  refine keeps_run _ ?_
  intro fz m hm
  refine wf_issue _ _ _ _ fz m (fun _ _ _ h => ?_) hm
  rw [next_effMma]
  exact h

theorem keeps_mxDrain (a : At) : Keeps (execMxDrain a) := by
  refine keeps_run _ ?_
  intro fz m hm
  refine wf_issue _ _ _ _ fz m (fun _ _ _ h => ?_) hm
  exact h

theorem keeps_vxOp (a : At) : Keeps (execVxOp a) := by
  refine keeps_run _ ?_
  intro fz m hm
  refine wf_issue _ _ _ _ fz m (fun _ _ _ h => ?_) hm
  exact h

theorem keeps_vxCvtConv (a : At) : Keeps (execVxCvtConv a) := by
  refine keeps_run _ ?_
  intro fz m hm
  refine wf_issue _ _ _ _ fz m (fun _ _ _ h => ?_) hm
  exact h

theorem keeps_vxCvtBfsplit (a : At) : Keeps (execVxCvtBfsplit a) := by
  refine keeps_run _ ?_
  intro fz m hm
  refine wf_issue _ _ _ _ fz m (fun _ _ _ h => ?_) hm
  exact h

theorem keeps_vxCvtExpscan (a : At) : Keeps (execVxCvtExpscan a) := by
  refine keeps_run _ ?_
  intro fz m hm
  refine wf_issue _ _ _ _ fz m (fun _ _ _ h => ?_) hm
  exact h

theorem keeps_vxCvtSplit (a : At) : Keeps (execVxCvtSplit a) := by
  refine keeps_run _ ?_
  intro fz m hm
  refine wf_issue _ _ _ _ fz m (fun _ _ _ h => ?_) hm
  exact h

theorem keeps_vxFunc (a : At) : Keeps (execVxFunc a) := by
  refine keeps_run _ ?_
  intro fz m hm
  refine wf_issue _ _ _ _ fz m (fun _ _ _ h => ?_) hm
  exact h

theorem keeps_vxRedSumall (a : At) : Keeps (execVxRedSumall a) := by
  refine keeps_run _ ?_
  intro fz m hm
  refine wf_issue _ _ _ _ fz m (fun _ _ _ h => ?_) hm
  exact h

theorem keeps_vxRedRowsum (a : At) : Keeps (execVxRedRowsum a) := by
  refine keeps_run _ ?_
  intro fz m hm
  refine wf_issue _ _ _ _ fz m (fun _ _ _ h => ?_) hm
  exact h

theorem keeps_vxTopkSelect (a : At) : Keeps (execVxTopkSelect a) := by
  refine keeps_run _ ?_
  intro fz m hm
  refine wf_issue _ _ _ _ fz m (fun _ _ _ h => ?_) hm
  exact h

theorem keeps_vxTopkMerge (a : At) : Keeps (execVxTopkMerge a) := by
  refine keeps_run _ ?_
  intro fz m hm
  refine wf_issue _ _ _ _ fz m (fun _ _ _ h => ?_) hm
  exact h

theorem keeps_vxStop (a : At) : Keeps (execVxStop a) := by
  refine keeps_run _ ?_
  intro fz m hm
  refine wf_issue _ _ _ _ fz m (fun _ _ _ h => ?_) hm
  exact h

theorem keeps_vxOcldLoad (a : At) : Keeps (execVxOcldLoad a) := by
  refine keeps_run _ ?_
  intro fz m hm
  refine wf_issue _ _ _ _ fz m (fun _ _ _ h => ?_) hm
  exact h

theorem keeps_vxOcldKey (a : At) : Keeps (execVxOcldKey a) := by
  refine keeps_run _ ?_
  intro fz m hm
  refine wf_issue _ _ _ _ fz m (fun _ _ _ h => ?_) hm
  exact h

theorem keeps_vxCntld (a : At) : Keeps (execVxCntld a) := by
  refine keeps_run _ ?_
  intro fz m hm
  refine wf_issue _ _ _ _ fz m (fun _ _ _ h => ?_) hm
  exact h

theorem keeps_vxAmaxScan (a : At) : Keeps (execVxAmaxScan a) := by
  refine keeps_run _ ?_
  intro fz m hm
  refine wf_issue _ _ _ _ fz m (fun _ _ _ h => ?_) hm
  exact h

theorem keeps_vxAmaxLoad (a : At) : Keeps (execVxAmaxLoad a) := by
  refine keeps_run _ ?_
  intro fz m hm
  refine wf_issue _ _ _ _ fz m (fun _ _ _ h => ?_) hm
  exact h

theorem keeps_mvSend (a : At) : Keeps (execMvSend a) := by
  refine keeps_run _ ?_
  intro fz m hm
  refine wf_issue _ _ _ _ fz m (fun _ _ _ h => ?_) hm
  exact h

theorem keeps_mvRecv (a : At) : Keeps (execMvRecv a) := by
  refine keeps_run _ ?_
  intro fz m hm
  refine wf_issue _ _ _ _ fz m (fun _ _ _ h => ?_) hm
  exact h

theorem keeps_mvDmaCopy (a : At) : Keeps (execMvDmaCopy a) := by
  refine keeps_run _ ?_
  intro fz m hm
  refine wf_issue _ _ _ _ fz m (fun _ _ _ h => ?_) hm
  exact wf_onWell _ _ _ h

theorem keeps_mvDmaDecode (a : At) : Keeps (execMvDmaDecode a) := by
  refine keeps_run _ ?_
  intro fz m hm
  refine wf_issue _ _ _ _ fz m (fun _ _ _ h => ?_) hm
  exact wf_onWell _ _ _ h

theorem keeps_mvDmaGather (a : At) : Keeps (execMvDmaGather a) := by
  refine keeps_run _ ?_
  intro fz m hm
  refine wf_issue _ _ _ _ fz m (fun _ _ _ h => ?_) hm
  exact wf_onWell _ _ _ h

theorem keeps_mvDmaScore (a : At) : Keeps (execMvDmaScore a) := by
  refine keeps_run _ ?_
  intro fz m hm
  refine wf_issue _ _ _ _ fz m (fun _ _ _ h => ?_) hm
  exact wf_onWell _ _ _ h

theorem keeps_mvDmaQload (a : At) : Keeps (execMvDmaQload a) := by
  refine keeps_run _ ?_
  intro fz m hm
  refine wf_issue _ _ _ _ fz m (fun _ _ _ h => ?_) hm
  exact wf_onWell _ _ _ h

theorem keeps_mvDmaSgather (a : At) : Keeps (execMvDmaSgather a) := by
  refine keeps_run _ ?_
  intro fz m hm
  refine wf_issue _ _ _ _ fz m (fun _ _ _ h => ?_) hm
  exact wf_onWell _ _ _ h

theorem keeps_mvHost (a : At) : Keeps (execMvHost a) := by
  refine keeps_run _ ?_
  intro fz m hm
  refine wf_issue _ _ _ _ fz m (fun _ _ _ h => ?_) hm
  exact wf_pushHost _ _ _ h

theorem keeps_mvCist (a : At) : Keeps (execMvCist a) := by
  refine keeps_run _ ?_
  intro fz m hm
  refine wf_issue _ _ _ _ fz m (fun _ _ _ h => ?_) hm
  exact wf_pushHost _ _ _ h

theorem keeps_sbClose (a : At) : Keeps (execSbClose a) := by
  refine keeps_run _ ?_
  intro fz m hm
  refine wf_issue _ _ _ _ fz m (fun _ _ _ h => ?_) hm
  exact h

theorem keeps_ctWait (a : At) : Keeps (execCtWait a) := by
  refine keeps_run _ ?_
  intro fz m hm
  refine wf_issue _ _ _ _ fz m (fun _ _ _ h => ?_) hm
  exact h

theorem keeps_ctLoop (a : At) : Keeps (execCtLoop a) := by
  refine keeps_run _ ?_
  intro fz m hm
  refine wf_issue _ _ _ _ fz m (fun _ _ _ h => ?_) hm
  exact h

theorem keeps_ctLoopr (a : At) : Keeps (execCtLoopr a) := by
  refine keeps_run _ ?_
  intro fz m hm
  refine wf_issue _ _ _ _ fz m (fun _ _ _ h => ?_) hm
  exact h

theorem keeps_ctEndloop (a : At) : Keeps (execCtEndloop a) := by
  refine keeps_run _ ?_
  intro fz m hm
  refine wf_issue _ _ _ _ fz m (fun _ _ _ h => ?_) hm
  exact h

theorem keeps_ctGateOpen (a : At) : Keeps (execCtGateOpen a) := by
  refine keeps_run _ ?_
  intro fz m hm
  refine wf_issue _ _ _ _ fz m (fun _ _ _ h => ?_) hm
  exact h

theorem keeps_ctGateClose (a : At) : Keeps (execCtGateClose a) := by
  refine keeps_run _ ?_
  intro fz m hm
  refine wf_issue _ _ _ _ fz m (fun _ _ _ h => ?_) hm
  exact h

theorem keeps_ctStamp (a : At) : Keeps (execCtStamp a) := by
  refine keeps_run _ ?_
  intro fz m hm
  refine wf_issue _ _ _ _ fz m (fun _ _ _ h => ?_) hm
  exact h

theorem keeps_ctSetcnt (a : At) : Keeps (execCtSetcnt a) := by
  refine keeps_run _ ?_
  intro fz m hm
  refine wf_issue _ _ _ _ fz m (fun _ _ _ h => ?_) hm
  exact h

theorem keeps_ctFetch (a : At) : Keeps (execCtFetch a) := by
  refine keeps_run _ ?_
  intro fz m hm
  refine wf_issue _ _ _ _ fz m (fun _ _ _ h => ?_) hm
  rw [next_effFetch]
  exact h

theorem keeps_ctStepend (a : At) : Keeps (execCtStepend a) := by
  refine keeps_run _ ?_
  intro fz m hm
  refine wf_issue _ _ _ _ fz m (fun _ _ _ h => ?_) hm
  exact h

theorem keeps_lkInject (a : At) : Keeps (execLkInject a) := by
  refine keeps_run _ ?_
  intro fz m hm
  refine wf_issue _ _ _ _ fz m (fun _ _ _ h => ?_) hm
  exact wf_pushLink _ _ _ h

theorem keeps_lkExpect (a : At) : Keeps (execLkExpect a) := by
  refine keeps_run _ ?_
  intro fz m hm
  refine wf_issue _ _ _ _ fz m (fun _ _ _ h => ?_) hm
  exact wf_pushLink _ _ _ h

theorem keeps_queueUnderrun (a : At) : Keeps (execQueueUnderrun a) := by
  refine keeps_run _ ?_
  intro fz m hm
  repeat' with_reducible first
    | assumption | apply wf_queueUnderrun | (apply wf_foldl; intro _ _ _) | intro _ _ | split | dsimp only

theorem keeps_stepOpen (a : At) : Keeps (execStepOpen a) := by
  refine keeps_run _ ?_
  intro fz m hm
  repeat' with_reducible first
    | assumption | apply wf_stepOpen | (apply wf_foldl; intro _ _ _) | intro _ _ | split | dsimp only

theorem keeps_holdCheck (a : At) : Keeps (execHoldCheck a) := by
  refine keeps_run _ ?_
  intro fz m hm
  repeat' with_reducible first
    | assumption | apply wf_holdCheck | (apply wf_foldl; intro _ _ _) | intro _ _ | split | dsimp only

theorem keeps_holdRelease (p : Fin 4) : Keeps (execHoldRelease p) := by
  refine keeps_run _ ?_
  intro fz m hm
  repeat' with_reducible first
    | assumption | apply wf_holdRelease | (apply wf_foldl; intro _ _ _) | intro _ _ | split | dsimp only

theorem keeps_holdLimit (p : Fin 4) : Keeps (execHoldLimit p) := by
  refine keeps_run _ ?_
  intro fz m hm
  repeat' with_reducible first
    | assumption | apply wf_holdLimit | (apply wf_foldl; intro _ _ _) | intro _ _ | split | dsimp only

theorem keeps_gateHold (a : At) : Keeps (execGateHold a) := by
  refine keeps_run _ ?_
  intro fz m hm
  repeat' with_reducible first
    | assumption | apply wf_gateHold | (apply wf_foldl; intro _ _ _) | intro _ _ | split | dsimp only

theorem keeps_gateTimeout (a : At) : Keeps (execGateTimeout a) := by
  refine keeps_run _ ?_
  intro fz m hm
  repeat' with_reducible first
    | assumption | apply wf_gateTimeout | (apply wf_foldl; intro _ _ _) | intro _ _ | split | dsimp only

theorem keeps_stepStart (p : Fin 4) : Keeps (execStepStart p) := by
  refine keeps_run _ ?_
  intro fz m hm
  repeat' with_reducible first
    | assumption | apply wf_stepStart | (apply wf_foldl; intro _ _ _) | intro _ _ | split | dsimp only

theorem keeps_stepEnd (p : Fin 4) : Keeps (execStepEnd p) := by
  refine keeps_run _ ?_
  intro fz m hm
  repeat' with_reducible first
    | assumption | apply wf_stepEnd | (apply wf_foldl; intro _ _ _) | intro _ _ | split | dsimp only

theorem keeps_beatReceive (die : Fin 4) (unit : Fin 128) (cycle : Nat) : Keeps (execBeatReceive die unit cycle) := by
  refine keeps_run _ ?_
  intro fz m hm
  repeat' with_reducible first
    | assumption | apply wf_beatReceive | (apply wf_foldl; intro _ _ _) | intro _ _ | split | dsimp only

theorem keeps_routerForward (die : Fin 4) (unit : Fin 128) (port : Fin 5) (cycle : Nat) : Keeps
    (execRouterForward die unit port cycle) := by
  refine keeps_run _ ?_
  intro fz m hm
  repeat' with_reducible first
    | assumption | apply wf_routerForward | (apply wf_foldl; intro _ _ _) | intro _ _ | split | dsimp only

theorem keeps_crossingAdmit (die : Fin 4) (side : Side) (cycle : Nat) (slipped : List Nat) : Keeps
    (execCrossingAdmit die side cycle slipped) := by
  refine keeps_run _ ?_
  intro fz m hm
  repeat' with_reducible first
    | assumption | apply wf_crossingAdmit | (apply wf_foldl; intro _ _ _) | intro _ _ | split | dsimp only

theorem keeps_descriptorReady (die : Fin 4) (unit : Fin 128) (desc : Fin 64) (wall : Int) : Keeps
    (execDescriptorReady die unit desc wall) := by
  refine keeps_run _ ?_
  intro fz m hm
  repeat' with_reducible first
    | assumption | apply wf_descriptorReady | (apply wf_foldl; intro _ _ _) | intro _ _ | split | dsimp only

theorem keeps_laneBeatAccess (die : Fin 4) (unit : Fin 128) (desc : Fin 64) (cycle : Nat) : Keeps
    (execLaneBeatAccess die unit desc cycle) := by
  refine keeps_run _ ?_
  intro fz m hm
  repeat' with_reducible first
    | assumption | apply wf_laneBeat | (apply wf_foldl; intro _ _ _) | intro _ _ | split | dsimp only

theorem keeps_wellheadRequestStart (e : Edge) (cycle : Nat) : Keeps (execWellheadRequestStart e cycle) := by
  refine keeps_run _ ?_
  intro fz m hm
  repeat' with_reducible first
    | assumption | apply wf_requestStart | (apply wf_foldl; intro _ _ _) | intro _ _ | split | dsimp only

theorem keeps_refreshTick (w : Fin 16) (cycle wall : Int) : Keeps (execRefreshTick w cycle wall) := by
  refine keeps_run _ ?_
  intro fz m hm
  repeat' with_reducible first
    | assumption | apply wf_refreshTick | (apply wf_foldl; intro _ _ _) | intro _ _ | split | dsimp only

theorem keeps_refreshUnit (w : Fin 16) (cycle : Nat) (wall : Int) : Keeps (execRefreshUnit w cycle wall) := by
  refine keeps_run _ ?_
  intro fz m hm
  repeat' with_reducible first
    | assumption | apply wf_refreshUnit | (apply wf_foldl; intro _ _ _) | intro _ _ | split | dsimp only

theorem keeps_pageReencrypt (w : Fin 16) : Keeps (execPageReencrypt w) := by
  refine keeps_run _ ?_
  intro fz m hm
  repeat' with_reducible first
    | assumption | apply wf_pageReencrypt | (apply wf_foldl; intro _ _ _) | intro _ _ | split | dsimp only

theorem keeps_planLoad (v : Via) (p : Fin 4) (image : PlanImage) : Keeps (execPlanLoad v p image) := by
  refine keeps_run _ ?_
  intro fz m hm
  repeat' with_reducible first
    | assumption | apply wf_command | apply wf_planLoad | (apply wf_foldl; intro _ _ _) | intro _ _ | split
    | dsimp only

theorem keeps_planStart (v : Via) (p : Fin 4) (anchor : Nat) : Keeps (execPlanStart v p anchor) := by
  refine keeps_run _ ?_
  intro fz m hm
  repeat' with_reducible first
    | assumption | apply wf_command | apply wf_planStart | (apply wf_foldl; intro _ _ _) | intro _ _ | split
    | dsimp only

theorem keeps_planStop (v : Via) (p : Fin 4) : Keeps (execPlanStop v p) := by
  refine keeps_run _ ?_
  intro fz m hm
  repeat' with_reducible first
    | assumption | apply wf_command | apply wf_planStop | (apply wf_foldl; intro _ _ _) | intro _ _ | split
    | dsimp only

theorem keeps_planStatus (v : Via) (p : Fin 4) : Keeps (execPlanStatus v p) := by
  refine keeps_run _ ?_
  intro fz m hm
  repeat' with_reducible first
    | assumption | apply wf_command | apply wf_planStatus | (apply wf_foldl; intro _ _ _) | intro _ _ | split
    | dsimp only

theorem keeps_planUnload (v : Via) (p : Fin 4) : Keeps (execPlanUnload v p) := by
  refine keeps_run _ ?_
  intro fz m hm
  repeat' with_reducible first
    | assumption | apply wf_command | apply wf_planUnload | (apply wf_foldl; intro _ _ _) | intro _ _ | split
    | dsimp only

theorem keeps_faultRead (v : Via) (p : Fin 4) : Keeps (execFaultRead v p) := by
  refine keeps_run _ ?_
  intro fz m hm
  repeat' with_reducible first
    | assumption | apply wf_command | apply wf_complete | (apply wf_foldl; intro _ _ _) | intro _ _ | split
    | dsimp only

theorem keeps_planVariant (v : Via) (p : Fin 4) (variant step : Nat) : Keeps (execPlanVariant v p variant step) := by
  refine keeps_run _ ?_
  intro fz m hm
  repeat' with_reducible first
    | assumption | apply wf_command | apply wf_planVariant | (apply wf_foldl; intro _ _ _) | intro _ _ | split
    | dsimp only

theorem keeps_scrubRange (v : Via) (p : Fin 4) (t : Target) (start length : Nat) : Keeps
    (execScrubRange v p t start length) := by
  refine keeps_run _ ?_
  intro fz m hm
  repeat' with_reducible first
    | assumption | apply wf_command | apply wf_scrubRange | (apply wf_foldl; intro _ _ _) | intro _ _ | split
    | dsimp only

theorem keeps_eccFlipArm (v : Via) (p : Fin 4) (t : Target) (mask : BitVec 72) : Keeps
    (execEccFlipArm v p t mask) := by
  refine keeps_run _ ?_
  intro fz m hm
  repeat' with_reducible first
    | assumption | apply wf_command | apply wf_eccFlipArm | (apply wf_foldl; intro _ _ _) | intro _ _ | split
    | dsimp only

theorem keeps_eccRemapAdd (v : Via) (p : Fin 4) (t : Target) (loc : Nat) : Keeps (execEccRemapAdd v p t loc) := by
  refine keeps_run _ ?_
  intro fz m hm
  repeat' with_reducible first
    | assumption | apply wf_command | apply wf_eccRemapAdd | (apply wf_foldl; intro _ _ _) | intro _ _ | split
    | dsimp only

theorem keeps_eccCounts (v : Via) (p : Fin 4) : Keeps (execEccCounts v p) := by
  refine keeps_run _ ?_
  intro fz m hm
  repeat' with_reducible first
    | assumption | apply wf_command | apply wf_eccCounts | (apply wf_foldl; intro _ _ _) | intro _ _ | split
    | dsimp only

theorem keeps_pkt (port : Fin 16) (u : LinkUnit) : Keeps (execPkt port u) := by
  refine keeps_run _ ?_
  intro fz m hm
  repeat' with_reducible first
    | assumption | apply wf_recvPkt | (apply wf_foldl; intro _ _ _) | intro _ _ | split | dsimp only

theorem keeps_link (port : Fin 16) (u : LinkUnit) : Keeps (execLink port u) := by
  refine keeps_run _ ?_
  intro fz m hm
  repeat' with_reducible first
    | assumption | apply wf_hear | (apply wf_foldl; intro _ _ _) | intro _ _ | split | dsimp only

theorem keeps_keepalive (port : Fin 16) : Keeps (execKeepalive port) := by
  refine keeps_run _ ?_
  intro fz m hm
  repeat' with_reducible first
    | assumption | apply wf_keepAlive | (apply wf_foldl; intro _ _ _) | intro _ _ | split | dsimp only

theorem keeps_unitTransmit (port : Fin 16) : Keeps (execUnitTransmit port) := by
  refine keeps_run _ ?_
  intro fz m hm
  repeat' with_reducible first
    | assumption | apply wf_transmit | (apply wf_foldl; intro _ _ _) | intro _ _ | split | dsimp only

theorem keeps_widthReq (port : Fin 16) (u : LinkUnit) : Keeps (execWidthReq port u) := by
  refine keeps_run _ ?_
  intro fz m hm
  repeat' with_reducible first
    | assumption | apply wf_recvWidthReq | (apply wf_foldl; intro _ _ _) | intro _ _ | split | dsimp only

theorem keeps_retrainReq (port : Fin 16) (u : LinkUnit) : Keeps (execRetrainReq port u) := by
  refine keeps_run _ ?_
  intro fz m hm
  repeat' with_reducible first
    | assumption | apply wf_recvRetrainReq | (apply wf_foldl; intro _ _ _) | intro _ _ | split | dsimp only

theorem keeps_reqAck (port : Fin 16) (u : LinkUnit) : Keeps (execReqAck port u) := by
  refine keeps_run _ ?_
  intro fz m hm
  repeat' with_reducible first
    | assumption | apply wf_recvReqAck | (apply wf_foldl; intro _ _ _) | intro _ _ | split | dsimp only

theorem keeps_widthMark (port : Fin 16) (u : LinkUnit) : Keeps (execWidthMark port u) := by
  refine keeps_run _ ?_
  intro fz m hm
  repeat' with_reducible first
    | assumption | apply wf_recvWidthMark | (apply wf_foldl; intro _ _ _) | intro _ _ | split | dsimp only

theorem keeps_laneRealign (port : Fin 16) : Keeps (execLaneRealign port) := by
  refine keeps_run _ ?_
  intro fz m hm
  repeat' with_reducible first
    | assumption | apply wf_realign | (apply wf_foldl; intro _ _ _) | intro _ _ | split | dsimp only

theorem keeps_doze (port : Fin 16) (u : LinkUnit) : Keeps (execDoze port u) := by
  refine keeps_run _ ?_
  intro fz m hm
  repeat' with_reducible first
    | assumption | apply wf_recvDoze | (apply wf_foldl; intro _ _ _) | intro _ _ | split | dsimp only

theorem keeps_dozeAck (port : Fin 16) (u : LinkUnit) : Keeps (execDozeAck port u) := by
  refine keeps_run _ ?_
  intro fz m hm
  repeat' with_reducible first
    | assumption | apply wf_recvDozeAck | (apply wf_foldl; intro _ _ _) | intro _ _ | split | dsimp only

theorem keeps_replayTimeout (port : Fin 16) : Keeps (execReplayTimeout port) := by
  refine keeps_run _ ?_
  intro fz m hm
  repeat' with_reducible first
    | assumption | apply wf_replayTimeout | (apply wf_foldl; intro _ _ _) | intro _ _ | split | dsimp only

theorem keeps_silence (port : Fin 16) : Keeps (execSilence port) := by
  refine keeps_run _ ?_
  intro fz m hm
  repeat' with_reducible first
    | assumption | apply wf_silence | (apply wf_foldl; intro _ _ _) | intro _ _ | split | dsimp only

theorem keeps_lockLoss (port : Fin 16) (lane : Fin 8) : Keeps (execLockLoss port lane) := by
  refine keeps_run _ ?_
  intro fz m hm
  repeat' with_reducible first
    | assumption | apply wf_lockLoss | (apply wf_foldl; intro _ _ _) | intro _ _ | split | dsimp only

theorem keeps_primeRetry (port : Fin 16) : Keeps (execPrimeRetry port) := by
  refine keeps_run _ ?_
  intro fz m hm
  repeat' with_reducible first
    | assumption | apply wf_primeRetry | (apply wf_foldl; intro _ _ _) | intro _ _ | split | dsimp only

theorem keeps_primeFail (port : Fin 16) : Keeps (execPrimeFail port) := by
  refine keeps_run _ ?_
  intro fz m hm
  repeat' with_reducible first
    | assumption | apply wf_primeFail | (apply wf_foldl; intro _ _ _) | intro _ _ | split | dsimp only

theorem keeps_detect (port : Fin 16) : Keeps (execDetect port) := by
  refine keeps_run _ ?_
  intro fz m hm
  repeat' with_reducible first
    | assumption | apply wf_onPort | (apply wf_foldl; intro _ _ _) | intro _ _ | split | dsimp only

theorem keeps_equalise (port : Fin 16) : Keeps (execEqualise port) := by
  refine keeps_run _ ?_
  intro fz m hm
  repeat' with_reducible first
    | assumption | apply wf_onPort | (apply wf_foldl; intro _ _ _) | intro _ _ | split | dsimp only

theorem keeps_lockAlign (port : Fin 16) (peer : PeerIdent) : Keeps (execLockAlign port peer) := by
  refine keeps_run _ ?_
  intro fz m hm
  repeat' with_reducible first
    | assumption | apply wf_lockAlign | (apply wf_foldl; intro _ _ _) | intro _ _ | split | dsimp only

theorem keeps_time (port : Fin 16) (markers : List (Nat × Nat)) (offset : Int) : Keeps
    (execTime port markers offset) := by
  refine keeps_run _ ?_
  intro fz m hm
  repeat' with_reducible first
    | assumption | apply wf_timePhase | (apply wf_foldl; intro _ _ _) | intro _ _ | split | dsimp only

theorem keeps_auth (port : Fin 16) (peerOk : Bool) : Keeps (execAuth port peerOk) := by
  refine keeps_run _ ?_
  intro fz m hm
  repeat' with_reducible first
    | assumption | apply wf_authPhase | (apply wf_foldl; intro _ _ _) | intro _ _ | split | dsimp only

theorem keeps_laneWindow (port : Fin 16) (w : LaneWindow) : Keeps (execLaneWindow port w) := by
  refine keeps_run _ ?_
  intro fz m hm
  repeat' with_reducible first
    | assumption | apply wf_laneWindow | (apply wf_foldl; intro _ _ _) | intro _ _ | split | dsimp only

theorem keeps_reqTimeout (port : Fin 16) : Keeps (execReqTimeout port) := by
  refine keeps_run _ ?_
  intro fz m hm
  repeat' with_reducible first
    | assumption | apply wf_reqTimeout | (apply wf_foldl; intro _ _ _) | intro _ _ | split | dsimp only

theorem keeps_widthChangeTimeout (port : Fin 16) : Keeps (execWidthChangeTimeout port) := by
  refine keeps_run _ ?_
  intro fz m hm
  repeat' with_reducible first
    | assumption | apply wf_widthTimeout | (apply wf_foldl; intro _ _ _) | intro _ _ | split | dsimp only

theorem keeps_linkStatus (v : Via) (port : Fin 16) : Keeps (execLinkStatus v port) := by
  refine keeps_run _ ?_
  intro fz m hm
  repeat' with_reducible first
    | assumption | apply wf_linkCommand | apply wf_linkStatus | (apply wf_foldl; intro _ _ _) | intro _ _ | split
    | dsimp only

theorem keeps_linkPrime (v : Via) (port : Fin 16) : Keeps (execLinkPrime v port) := by
  refine keeps_run _ ?_
  intro fz m hm
  repeat' with_reducible first
    | assumption | apply wf_linkCommand | apply wf_linkPrime | (apply wf_foldl; intro _ _ _) | intro _ _ | split
    | dsimp only

theorem keeps_linkDisable (v : Via) (port : Fin 16) : Keeps (execLinkDisable v port) := by
  refine keeps_run _ ?_
  intro fz m hm
  repeat' with_reducible first
    | assumption | apply wf_linkCommand | apply wf_linkDisable | (apply wf_foldl; intro _ _ _) | intro _ _ | split
    | dsimp only

theorem keeps_linkEnable (v : Via) (port : Fin 16) : Keeps (execLinkEnable v port) := by
  refine keeps_run _ ?_
  intro fz m hm
  repeat' with_reducible first
    | assumption | apply wf_linkCommand | apply wf_linkEnable | (apply wf_foldl; intro _ _ _) | intro _ _ | split
    | dsimp only

theorem keeps_linkWidth (v : Via) (port : Fin 16) (mask : BitVec 8) : Keeps (execLinkWidth v port mask) := by
  refine keeps_run _ ?_
  intro fz m hm
  repeat' with_reducible first
    | assumption | apply wf_linkCommand | apply wf_linkWidth | (apply wf_foldl; intro _ _ _) | intro _ _ | split
    | dsimp only

theorem keeps_linkCounters (v : Via) (port : Fin 16) : Keeps (execLinkCounters v port) := by
  refine keeps_run _ ?_
  intro fz m hm
  repeat' with_reducible first
    | assumption | apply wf_linkCommand | apply wf_linkCounters | (apply wf_foldl; intro _ _ _) | intro _ _ | split
    | dsimp only

theorem keeps_packetReceive (port : Fin 16) : Keeps (execPacketReceive port) := by
  refine keeps_run _ ?_
  intro fz m hm
  repeat' with_reducible first
    | assumption | apply wf_packetReceive | (apply wf_foldl; intro _ _ _) | intro _ _ | split | dsimp only

theorem keeps_write (die : Fin 4) : Keeps (execWrite die) := by
  refine keeps_run _ ?_
  intro fz m hm
  repeat' with_reducible first
    | assumption | apply wf_recvWrite | (apply wf_foldl; intro _ _ _) | intro _ _ | split | dsimp only

theorem keeps_readReq (die : Fin 4) : Keeps (execReadReq die) := by
  refine keeps_run _ ?_
  intro fz m hm
  repeat' with_reducible first
    | assumption | apply wf_recvReadReq | (apply wf_foldl; intro _ _ _) | intro _ _ | split | dsimp only

theorem keeps_readResp (die : Fin 4) : Keeps (execReadResp die) := by
  refine keeps_run _ ?_
  intro fz m hm
  repeat' with_reducible first
    | assumption | apply wf_recvReadResp | (apply wf_foldl; intro _ _ _) | intro _ _ | split | dsimp only

theorem keeps_laAdd (die : Fin 4) (cycle : Nat) : Keeps (execLaAdd die cycle) := by
  refine keeps_run _ ?_
  intro fz m hm
  repeat' with_reducible first
    | assumption | apply wf_recvLaAdd | (apply wf_foldl; intro _ _ _) | intro _ _ | split | dsimp only

theorem keeps_timeMarker (die : Fin 4) : Keeps (execTimeMarker die) := by
  refine keeps_run _ ?_
  intro fz m hm
  repeat' with_reducible first
    | assumption | apply wf_recvMarker | (apply wf_foldl; intro _ _ _) | intro _ _ | split | dsimp only

theorem keeps_drain (die : Fin 4) : Keeps (execDrain die) := by
  refine keeps_run _ ?_
  intro fz m hm
  repeat' with_reducible first
    | assumption | apply wf_recvDrain | (apply wf_foldl; intro _ _ _) | intro _ _ | split | dsimp only

theorem keeps_collAbortPacket (die : Fin 4) : Keeps (execCollAbortPacket die) := by
  refine keeps_run _ ?_
  intro fz m hm
  repeat' with_reducible first
    | assumption | apply wf_recvAbort | (apply wf_foldl; intro _ _ _) | intro _ _ | split | dsimp only

theorem keeps_variant (die : Fin 4) : Keeps (execVariant die) := by
  refine keeps_run _ ?_
  intro fz m hm
  repeat' with_reducible first
    | assumption | apply wf_recvVariant | (apply wf_foldl; intro _ _ _) | intro _ _ | split | dsimp only

theorem keeps_delivered (die : Fin 4) : Keeps (execDelivered die) := by
  refine keeps_run _ ?_
  intro fz m hm
  repeat' with_reducible first
    | assumption | apply wf_recvDelivered | (apply wf_foldl; intro _ _ _) | intro _ _ | split | dsimp only

theorem keeps_forwardStart (port : Fin 16) : Keeps (execForwardStart port) := by
  refine keeps_run _ ?_
  intro fz m hm
  repeat' with_reducible first
    | assumption | apply wf_forwardStart | (apply wf_foldl; intro _ _ _) | intro _ _ | split | dsimp only

theorem keeps_escape (port : Fin 16) : Keeps (execEscape port) := by
  refine keeps_run _ ?_
  intro fz m hm
  repeat' with_reducible first
    | assumption | apply wf_escape | (apply wf_foldl; intro _ _ _) | intro _ _ | split | dsimp only

theorem keeps_noRoute (die : Fin 4) : Keeps (execNoRoute die) := by
  refine keeps_run _ ?_
  intro fz m hm
  repeat' with_reducible first
    | assumption | apply wf_noRouteDrop | (apply wf_foldl; intro _ _ _) | intro _ _ | split | dsimp only

theorem keeps_pseqGap (die : Fin 4) : Keeps (execPseqGap die) := by
  refine keeps_run _ ?_
  intro fz m hm
  repeat' with_reducible first
    | assumption | apply wf_pseqGap | (apply wf_foldl; intro _ _ _) | intro _ _ | split | dsimp only

theorem keeps_deliveredSend (die : Fin 4) (peerMod : Nat) (peerDie : Fin 4) : Keeps
    (execDeliveredSend die peerMod peerDie) := by
  refine keeps_run _ ?_
  intro fz m hm
  repeat' with_reducible first
    | assumption | apply wf_deliveredSend | (apply wf_foldl; intro _ _ _) | intro _ _ | split | dsimp only

theorem keeps_requestReplay (die : Fin 4) (tag : Nat) : Keeps (execRequestReplay die tag) := by
  refine keeps_run _ ?_
  intro fz m hm
  repeat' with_reducible first
    | assumption | apply wf_requestReplay | (apply wf_foldl; intro _ _ _) | intro _ _ | split | dsimp only

theorem keeps_responseCacheExpire (die : Fin 4) : Keeps (execResponseCacheExpire die) := by
  refine keeps_run _ ?_
  intro fz m hm
  repeat' with_reducible first
    | assumption | apply wf_cacheExpire | (apply wf_foldl; intro _ _ _) | intro _ _ | split | dsimp only

theorem keeps_drainSend (port : Fin 16) : Keeps (execDrainSend port) := by
  refine keeps_run _ ?_
  intro fz m hm
  repeat' with_reducible first
    | assumption | apply wf_drainSend | (apply wf_foldl; intro _ _ _) | intro _ _ | split | dsimp only

theorem keeps_epochRelease (t : TableId) : Keeps (execEpochRelease t) := by
  refine keeps_run _ ?_
  intro fz m hm
  repeat' with_reducible first
    | assumption | apply wf_epochRelease | (apply wf_foldl; intro _ _ _) | intro _ _ | split | dsimp only

theorem keeps_routeWrite (v : Via) (t : TableId) (bank : Fin 2) (entries : List (Nat × RouteEntry))
    (commit : Bool) : Keeps (execRouteWrite v t bank entries commit) := by
  refine keeps_run _ ?_
  intro fz m hm
  repeat' with_reducible first
    | assumption | apply wf_tableCommand | apply wf_routeWrite | (apply wf_foldl; intro _ _ _) | intro _ _ | split
    | dsimp only

theorem keeps_routeFlip (v : Via) (t : TableId) (step : Nat) : Keeps (execRouteFlip v t step) := by
  refine keeps_run _ ?_
  intro fz m hm
  repeat' with_reducible first
    | assumption | apply wf_tableCommand | apply wf_routeFlip | (apply wf_foldl; intro _ _ _) | intro _ _ | split
    | dsimp only

theorem keeps_routeStatus (v : Via) (t : TableId) : Keeps (execRouteStatus v t) := by
  refine keeps_run _ ?_
  intro fz m hm
  repeat' with_reducible first
    | assumption | apply wf_tableCommand | apply wf_complete | (apply wf_foldl; intro _ _ _) | intro _ _ | split
    | dsimp only

theorem keeps_rwinSet (v : Via) (die : Fin 4) (idx : Fin 8) (win : RWin) : Keeps (execRwinSet v die idx win) := by
  refine keeps_run _ ?_
  intro fz m hm
  repeat' with_reducible first
    | assumption | apply wf_command | apply wf_rwinSet | (apply wf_foldl; intro _ _ _) | intro _ _ | split
    | dsimp only

theorem keeps_collAbort (v : Via) (p : Fin 4) (coll : Nat) : Keeps (execCollAbort v p coll) := by
  refine keeps_run _ ?_
  intro fz m hm
  repeat' with_reducible first
    | assumption | apply wf_command | apply wf_collAbort | (apply wf_foldl; intro _ _ _) | intro _ _ | split
    | dsimp only

theorem keeps_refLoss  : Keeps (execRefLoss) := by
  refine keeps_run _ ?_
  intro fz m hm
  repeat' with_reducible first
    | assumption | apply wf_refLoss | (apply wf_foldl; intro _ _ _) | intro _ _ | split | dsimp only

theorem keeps_refValid  : Keeps (execRefValid) := by
  refine keeps_run _ ?_
  intro fz m hm
  repeat' with_reducible first
    | assumption | (apply wf_foldl; intro _ _ _) | intro _ _ | split | dsimp only

theorem keeps_clkTargetWrite (p target : Fin 4) : Keeps (execClkTargetWrite p target) := by
  refine keeps_run _ ?_
  intro fz m hm
  repeat' with_reducible first
    | assumption | apply wf_setTarget | (apply wf_foldl; intro _ _ _) | intro _ _ | split | dsimp only

theorem keeps_pllLock (p : Fin 4) : Keeps (execPllLock p) := by
  refine keeps_run _ ?_
  intro fz m hm
  repeat' with_reducible first
    | assumption | apply wf_pllLock | (apply wf_foldl; intro _ _ _) | intro _ _ | split | dsimp only

theorem keeps_droop (die : Fin 4) (stretches : List Nat) : Keeps (execDroop die stretches) := by
  refine keeps_run _ ?_
  intro fz m hm
  repeat' with_reducible first
    | assumption | apply wf_droop | (apply wf_foldl; intro _ _ _) | intro _ _ | split | dsimp only

theorem keeps_sympatheticStretch (die : Fin 4) (periods : Nat) : Keeps (execSympatheticStretch die periods) := by
  refine keeps_run _ ?_
  intro fz m hm
  repeat' with_reducible first
    | assumption | apply wf_sympathetic | (apply wf_foldl; intro _ _ _) | intro _ _ | split | dsimp only

theorem keeps_clkMonitorWindow (die : Fin 4) (region : Fin 13) (hist : List Nat) (duty : Nat) : Keeps
    (execClkMonitorWindow die region hist duty) := by
  refine keeps_run _ ?_
  intro fz m hm
  repeat' with_reducible first
    | assumption | apply wf_monitorWindow | (apply wf_foldl; intro _ _ _) | intro _ _ | split | dsimp only

theorem keeps_servoUpdate  : Keeps (execServoUpdate) := by
  refine keeps_run _ ?_
  intro fz m hm
  repeat' with_reducible first
    | assumption | apply wf_servoUpdate | (apply wf_foldl; intro _ _ _) | intro _ _ | split | dsimp only

theorem keeps_timeMarkerSend (port : Fin 16) : Keeps (execTimeMarkerSend port) := by
  refine keeps_run _ ?_
  intro fz m hm
  repeat' with_reducible first
    | assumption | apply wf_markerSend | (apply wf_foldl; intro _ _ _) | intro _ _ | split | dsimp only

theorem keeps_ptpSync (offset : Int) : Keeps (execPtpSync offset) := by
  refine keeps_run _ ?_
  intro fz m hm
  repeat' with_reducible first
    | assumption | apply wf_ptpSync | (apply wf_foldl; intro _ _ _) | intro _ _ | split | dsimp only

theorem keeps_sessOpen (v : Via) (p : Fin 4) (channel : Option Nat) : Keeps (execSessOpen v p channel) := by
  refine keeps_run _ ?_
  intro fz m hm
  repeat' with_reducible first
    | assumption | apply wf_servingCmd | apply wf_sessOpen | (apply wf_foldl; intro _ _ _) | intro _ _ | split
    | dsimp only

theorem keeps_sessClose (v : Via) (p : Fin 4) (sid : Nat) : Keeps (execSessClose v p sid) := by
  refine keeps_run _ ?_
  intro fz m hm
  repeat' with_reducible first
    | assumption | apply wf_servingCmd | apply wf_sessClose | (apply wf_foldl; intro _ _ _) | intro _ _ | split
    | dsimp only

theorem keeps_reqSubmit (v : Via) (p : Fin 4) (r : ReqParams) (tokens : List Nat) : Keeps (execReqSubmit v p r tokens) := by
  refine keeps_run _ ?_
  intro fz m hm
  repeat' with_reducible first
    | assumption | apply wf_servingCmd | apply wf_reqSubmit | (apply wf_foldl; intro _ _ _) | intro _ _ | split
    | dsimp only

theorem keeps_reqCancel (v : Via) (p : Fin 4) (rid : Nat) : Keeps (execReqCancel v p rid) := by
  refine keeps_run _ ?_
  intro fz m hm
  repeat' with_reducible first
    | assumption | apply wf_servingCmd | apply wf_reqCancel | (apply wf_foldl; intro _ _ _) | intro _ _ | split
    | dsimp only

theorem keeps_reqStatus (v : Via) (p : Fin 4) (rid : Nat) : Keeps (execReqStatus v p rid) := by
  refine keeps_run _ ?_
  intro fz m hm
  repeat' with_reducible first
    | assumption | apply wf_servingCmd | apply wf_reqStatus | (apply wf_foldl; intro _ _ _) | intro _ _ | split
    | dsimp only

theorem keeps_sessTruncate (v : Via) (p : Fin 4) (sid newL : Nat) : Keeps (execSessTruncate v p sid newL) := by
  refine keeps_run _ ?_
  intro fz m hm
  repeat' with_reducible first
    | assumption | apply wf_servingCmd | apply wf_sessTruncate | (apply wf_foldl; intro _ _ _) | intro _ _ | split
    | dsimp only

theorem keeps_park (v : Via) (p : Fin 4) (sid : Nat) (dest : Fin 2) (blocks : List Nat) : Keeps
    (execPark v p sid dest blocks) := by
  refine keeps_run _ ?_
  intro fz m hm
  repeat' with_reducible first
    | assumption | apply wf_servingCmd | apply wf_park | (apply wf_foldl; intro _ _ _) | intro _ _ | split
    | dsimp only

theorem keeps_parkCommit (p : Fin 4) (sid : Nat) (members : List Digest) : Keeps (execParkCommit p sid members) := by
  refine keeps_run _ ?_
  intro fz m hm
  repeat' with_reducible first
    | assumption | apply wf_parkCommit | (apply wf_foldl; intro _ _ _) | intro _ _ | split | dsimp only

theorem keeps_unpark (v : Via) (p : Fin 4) (sid : Nat) (program wset : Digest) : Keeps
    (execUnpark v p sid program wset) := by
  refine keeps_run _ ?_
  intro fz m hm
  repeat' with_reducible first
    | assumption | apply wf_servingCmd | apply wf_unpark | (apply wf_foldl; intro _ _ _) | intro _ _ | split
    | dsimp only

theorem keeps_unparkCheck (p : Fin 4) (sid : Nat) (readable : Bool) (members : List Digest) : Keeps
    (execUnparkCheck p sid readable members) := by
  refine keeps_run _ ?_
  intro fz m hm
  repeat' with_reducible first
    | assumption | apply wf_unparkCheck | (apply wf_foldl; intro _ _ _) | intro _ _ | split | dsimp only

theorem keeps_sessStatus (v : Via) (p : Fin 4) (sid : Nat) : Keeps (execSessStatus v p sid) := by
  refine keeps_run _ ?_
  intro fz m hm
  repeat' with_reducible first
    | assumption | apply wf_servingCmd | apply wf_sessStatus | (apply wf_foldl; intro _ _ _) | intro _ _ | split
    | dsimp only

theorem keeps_commitPoint (p : Fin 4) (block : List Candidate) : Keeps (execCommitPoint p block) := by
  refine keeps_run _ ?_
  intro fz m hm
  repeat' with_reducible first
    | assumption | apply wf_commitPoint | (apply wf_foldl; intro _ _ _) | intro _ _ | split | dsimp only

theorem keeps_manifestReceive (p : Fin 4) (m : Manifest) (wall : Nat) : Keeps (execManifestReceive p m wall) := by
  refine keeps_run _ ?_
  intro fz m hm
  repeat' with_reducible first
    | assumption | apply wf_manifestReceive | (apply wf_foldl; intro _ _ _) | intro _ _ | split | dsimp only

theorem keeps_layerBoundary (p : Fin 4) (cycle : Nat) : Keeps (execLayerBoundary p cycle) := by
  refine keeps_run _ ?_
  intro fz m hm
  repeat' with_reducible first
    | assumption | apply wf_layerBoundary | (apply wf_foldl; intro _ _ _) | intro _ _ | split | dsimp only

theorem keeps_outputRecordWrite (p : Fin 4) (rid : Nat) : Keeps (execOutputRecordWrite p rid) := by
  refine keeps_run _ ?_
  intro fz m hm
  repeat' with_reducible first
    | assumption | apply wf_outputRecordWrite | (apply wf_foldl; intro _ _ _) | intro _ _ | split | dsimp only

theorem keeps_weightsFetch (v : Via) (p : Fin 4) (w : WPayload) (m : WManifest) : Keeps
    (execWeightsFetch v p w m) := by
  refine keeps_run _ ?_
  intro fz m hm
  repeat' with_reducible first
    | assumption | apply wf_command | apply wf_weightsFetch | (apply wf_foldl; intro _ _ _) | intro _ _ | split
    | dsimp only

theorem keeps_weightsStage (v : Via) (p : Fin 4) (w : WPayload) (m : WManifest) : Keeps
    (execWeightsStage v p w m) := by
  refine keeps_run _ ?_
  intro fz m hm
  repeat' with_reducible first
    | assumption | apply wf_command | apply wf_weightsStage | (apply wf_foldl; intro _ _ _) | intro _ _ | split
    | dsimp only

theorem keeps_weightsSwap (v : Via) (p : Fin 4) (barrier ctx : Nat) : Keeps (execWeightsSwap v p barrier ctx) := by
  refine keeps_run _ ?_
  intro fz m hm
  repeat' with_reducible first
    | assumption | apply wf_command | apply wf_weightsSwap | (apply wf_foldl; intro _ _ _) | intro _ _ | split
    | dsimp only

theorem keeps_weightsPace (v : Via) (p : Fin 4) (maxOut rateCap : Nat) : Keeps
    (execWeightsPace v p maxOut rateCap) := by
  refine keeps_run _ ?_
  intro fz m hm
  repeat' with_reducible first
    | assumption | apply wf_command | apply wf_weightsPace | (apply wf_foldl; intro _ _ _) | intro _ _ | split
    | dsimp only

theorem keeps_weightsAbort (v : Via) (p : Fin 4) : Keeps (execWeightsAbort v p) := by
  refine keeps_run _ ?_
  intro fz m hm
  repeat' with_reducible first
    | assumption | apply wf_command | apply wf_weightsAbort | (apply wf_foldl; intro _ _ _) | intro _ _ | split
    | dsimp only

theorem keeps_weightsStatus (v : Via) (p : Fin 4) : Keeps (execWeightsStatus v p) := by
  refine keeps_run _ ?_
  intro fz m hm
  repeat' with_reducible first
    | assumption | apply wf_command | apply wf_weightsStatus | (apply wf_foldl; intro _ _ _) | intro _ _ | split
    | dsimp only

theorem keeps_weightsTarget (v : Via) (p : Fin 4) (target : Fin 16) (addr service : Nat) (nqn : List Byte) : Keeps
    (execWeightsTarget v p target addr service nqn) := by
  refine keeps_run _ ?_
  intro fz m hm
  repeat' with_reducible first
    | assumption | apply wf_command | apply wf_weightsTarget | (apply wf_foldl; intro _ _ _) | intro _ _ | split
    | dsimp only

theorem keeps_chunkIssue (p : Fin 4) : Keeps (execChunkIssue p) := by
  refine keeps_run _ ?_
  intro fz m hm
  repeat' with_reducible first
    | assumption | apply wf_chunkIssue | (apply wf_foldl; intro _ _ _) | intro _ _ | split | dsimp only

theorem keeps_chunkVerify (p : Fin 4) (entry : Nat) (readOk : Bool) (cipher : List Byte) :
    Keeps (execChunkVerify p entry readOk cipher) := by
  refine keeps_run _ ?_
  intro fz m hm
  repeat' with_reducible first
    | assumption | apply wf_chunkVerify | (apply wf_foldl; intro _ _ _) | intro _ _ | split | dsimp only

theorem keeps_readTimeout (p : Fin 4) (entry : Nat) : Keeps (execReadTimeout p entry) := by
  refine keeps_run _ ?_
  intro fz m hm
  repeat' with_reducible first
    | assumption | apply wf_readTimeout | (apply wf_foldl; intro _ _ _) | intro _ _ | split | dsimp only

theorem keeps_layerGroupDone (p : Fin 4) : Keeps (execLayerGroupDone p) := by
  refine keeps_run _ ?_
  intro fz m hm
  repeat' with_reducible first
    | assumption | apply wf_layerGroupDone | (apply wf_foldl; intro _ _ _) | intro _ _ | split | dsimp only

theorem keeps_detJournal (v : Via) (p : Fin 4) (dest : Option JDest) : Keeps (execDetJournal v p dest) := by
  refine keeps_run _ ?_
  intro fz m hm
  repeat' with_reducible first
    | assumption | apply wf_command | apply wf_detJournal | (apply wf_foldl; intro _ _ _) | intro _ _ | split
    | dsimp only

theorem keeps_detReplay (v : Via) (p : Fin 4) (j : JHead) : Keeps (execDetReplay v p j) := by
  refine keeps_run _ ?_
  intro fz m hm
  repeat' with_reducible first
    | assumption | apply wf_command | apply wf_detReplay | (apply wf_foldl; intro _ _ _) | intro _ _ | split
    | dsimp only

theorem keeps_provConfig (v : Via) (p : Fin 4) (c : ProvCfg) : Keeps (execProvConfig v p c) := by
  refine keeps_run _ ?_
  intro fz m hm
  repeat' with_reducible first
    | assumption | apply wf_command | apply wf_provConfig | (apply wf_foldl; intro _ _ _) | intro _ _ | split
    | dsimp only

theorem keeps_provSeal (v : Via) (p : Fin 4) : Keeps (execProvSeal v p) := by
  refine keeps_run _ ?_
  intro fz m hm
  repeat' with_reducible first
    | assumption | apply wf_command | apply wf_provSeal | (apply wf_foldl; intro _ _ _) | intro _ _ | split
    | dsimp only

theorem keeps_detTruncate (v : Via) (p : Fin 4) (t : TruncPayload) : Keeps (execDetTruncate v p t) := by
  refine keeps_run _ ?_
  intro fz m hm
  repeat' with_reducible first
    | assumption | apply wf_command | apply wf_detTruncate | (apply wf_foldl; intro _ _ _) | intro _ _ | split
    | dsimp only

theorem keeps_detStatus (v : Via) (p : Fin 4) : Keeps (execDetStatus v p) := by
  refine keeps_run _ ?_
  intro fz m hm
  repeat' with_reducible first
    | assumption | apply wf_command | apply wf_detStatus | (apply wf_foldl; intro _ _ _) | intro _ _ | split
    | dsimp only

theorem keeps_detDisarm (v : Via) (p : Fin 4) : Keeps (execDetDisarm v p) := by
  refine keeps_run _ ?_
  intro fz m hm
  repeat' with_reducible first
    | assumption | apply wf_command | apply wf_detDisarm | (apply wf_foldl; intro _ _ _) | intro _ _ | split
    | dsimp only

theorem keeps_truncatePoint (p : Fin 4) : Keeps (execTruncatePoint p) := by
  refine keeps_run _ ?_
  intro fz m hm
  repeat' with_reducible first
    | assumption | apply wf_truncatePoint | (apply wf_foldl; intro _ _ _) | intro _ _ | split | dsimp only

theorem keeps_truncateSettle (p : Fin 4) : Keeps (execTruncateSettle p) := by
  refine keeps_run _ ?_
  intro fz m hm
  repeat' with_reducible first
    | assumption | apply wf_truncateSettle | (apply wf_foldl; intro _ _ _) | intro _ _ | split | dsimp only

theorem keeps_secIdentity (v : Via) : Keeps (execSecIdentity v) := by
  refine keeps_run _ ?_
  intro fz m hm
  repeat' with_reducible first
    | assumption | apply wf_command | apply wf_identity | (apply wf_foldl; intro _ _ _) | intro _ _ | split
    | dsimp only

theorem keeps_secAttest (v : Via) (p : Fin 4) (nonce : BitVec 256) : Keeps (execSecAttest v p nonce) := by
  refine keeps_run _ ?_
  intro fz m hm
  repeat' with_reducible first
    | assumption | apply wf_command | apply wf_attest | (apply wf_foldl; intro _ _ _) | intro _ _ | split
    | dsimp only

theorem keeps_partitionSetAssign (v : Via) (st : Statement) (b : PartBody) : Keeps
    (execPartitionSetAssign v st b) := by
  refine keeps_run _ ?_
  intro fz m hm
  repeat' with_reducible first
    | assumption | apply wf_command | apply wf_partitionAssign | (apply wf_foldl; intro _ _ _) | intro _ _ | split
    | dsimp only

theorem keeps_partitionSetRelease (v : Via) (st : Statement) (b : PartBody) : Keeps
    (execPartitionSetRelease v st b) := by
  refine keeps_run _ ?_
  intro fz m hm
  repeat' with_reducible first
    | assumption | apply wf_command | apply wf_partitionRelease | (apply wf_foldl; intro _ _ _) | intro _ _ | split
    | dsimp only

theorem keeps_secEnroll (v : Via) (st : Statement) (operatorKey custodianKey : Nat) : Keeps
    (execSecEnroll v st operatorKey custodianKey) := by
  refine keeps_run _ ?_
  intro fz m hm
  repeat' with_reducible first
    | assumption | apply wf_command | apply wf_withStatement | apply wf_answer | (apply wf_foldl; intro _ _ _)
    | intro _ _ | split | dsimp only

theorem keeps_secSessionOpen (v : Via) (p : Fin 4) (policy : Policy) (sigOk : Bool) : Keeps
    (execSecSessionOpen v p policy sigOk) := by
  refine keeps_run _ ?_
  intro fz m hm
  repeat' with_reducible first
    | assumption | apply wf_command | apply wf_sessionOpen | (apply wf_foldl; intro _ _ _) | intro _ _ | split
    | dsimp only

theorem keeps_secPolicySet (v : Via) (p : Fin 4) (st : Statement) (policy : Policy) : Keeps
    (execSecPolicySet v p st policy) := by
  refine keeps_run _ ?_
  intro fz m hm
  repeat' with_reducible first
    | assumption | apply wf_command | apply wf_policySet | (apply wf_foldl; intro _ _ _) | intro _ _ | split
    | dsimp only

theorem keeps_secKeyLoad (v : Via) (p : Fin 4) (k : KeyBlob) : Keeps (execSecKeyLoad v p k) := by
  refine keeps_run _ ?_
  intro fz m hm
  repeat' with_reducible first
    | assumption | apply wf_command | apply wf_keyLoad | (apply wf_foldl; intro _ _ _) | intro _ _ | split
    | dsimp only

theorem keeps_secKeyDestroy (v : Via) (p : Fin 4) (k : KeyName) : Keeps (execSecKeyDestroy v p k) := by
  refine keeps_run _ ?_
  intro fz m hm
  repeat' with_reducible first
    | assumption | apply wf_command | apply wf_keyDestroy | (apply wf_foldl; intro _ _ _) | intro _ _ | split
    | dsimp only

theorem keeps_secKeySwitch (v : Via) (p : Fin 4) (slot : Fin 256) (step : Nat) : Keeps
    (execSecKeySwitch v p slot step) := by
  refine keeps_run _ ?_
  intro fz m hm
  repeat' with_reducible first
    | assumption | apply wf_command | apply wf_keySwitch | (apply wf_foldl; intro _ _ _) | intro _ _ | split
    | dsimp only

theorem keeps_secMemkeyRotate (v : Via) (p : Fin 4) : Keeps (execSecMemkeyRotate v p) := by
  refine keeps_run _ ?_
  intro fz m hm
  repeat' with_reducible first
    | assumption | apply wf_command | apply wf_memkeyRotate | (apply wf_foldl; intro _ _ _) | intro _ _ | split
    | dsimp only

theorem keeps_memkeyLoaded (p : Fin 4) : Keeps (execMemkeyLoaded p) := by
  refine keeps_run _ ?_
  intro fz m hm
  repeat' with_reducible first
    | assumption | apply wf_memkeyLoaded | (apply wf_foldl; intro _ _ _) | intro _ _ | split | dsimp only

theorem keeps_secTeardown (v : Via) (p : Fin 4) (st : Statement) (mode : Fin 2) : Keeps
    (execSecTeardown v p st mode) := by
  refine keeps_run _ ?_
  intro fz m hm
  repeat' with_reducible first
    | assumption | apply wf_command | apply wf_secTeardown | (apply wf_foldl; intro _ _ _) | intro _ _ | split
    | dsimp only

theorem keeps_teardownDrainEnd (p : Fin 4) : Keeps (execTeardownDrainEnd p) := by
  refine keeps_run _ ?_
  intro fz m hm
  repeat' with_reducible first
    | assumption | apply wf_drainEnd | (apply wf_foldl; intro _ _ _) | intro _ _ | split | dsimp only

theorem keeps_teardownScrubDone (p : Fin 4) : Keeps (execTeardownScrubDone p) := by
  refine keeps_run _ ?_
  intro fz m hm
  repeat' with_reducible first
    | assumption | apply wf_scrubDone | (apply wf_foldl; intro _ _ _) | intro _ _ | split | dsimp only

theorem keeps_secStatus (v : Via) (p : Fin 4) : Keeps (execSecStatus v p) := by
  refine keeps_run _ ?_
  intro fz m hm
  repeat' with_reducible first
    | assumption | apply wf_command | apply wf_secStatus | (apply wf_foldl; intro _ _ _) | intro _ _ | split
    | dsimp only

theorem keeps_mailboxScan (w : Fin 5) (posts : List SlotPost) (stores : List HostStore) : Keeps
    (execMailboxScan w posts stores) := by
  refine keeps_run _ ?_
  intro fz m hm
  repeat' with_reducible first
    | assumption | apply wf_mailboxScan | (apply wf_foldl; intro _ _ _) | intro _ _ | split | dsimp only

theorem keeps_mgmtCommand (clientOk : Bool) (post : SlotPost) : Keeps (execMgmtCommand clientOk post) := by
  refine keeps_run _ ?_
  intro fz m hm
  repeat' with_reducible first
    | assumption | apply wf_mgmtCommand | (apply wf_foldl; intro _ _ _) | intro _ _ | split | dsimp only

theorem keeps_regDir (v : Via) (first : Nat) : Keeps (execRegDir v first) := by
  refine keeps_run _ ?_
  intro fz m hm
  repeat' with_reducible first
    | assumption | apply wf_command | apply wf_regDir | (apply wf_foldl; intro _ _ _) | intro _ _ | split
    | dsimp only

theorem keeps_regRead (v : Via) (num elem count : Nat) (inst : BitVec 32) (bank : Nat) : Keeps
    (execRegRead v num elem count inst bank) := by
  refine keeps_run _ ?_
  intro fz m hm
  repeat' with_reducible first
    | assumption | apply wf_command | apply wf_regRead | (apply wf_foldl; intro _ _ _) | intro _ _ | split
    | dsimp only

theorem keeps_regWrite (v : Via) (num elem : Nat) (inst : BitVec 32) (value : BitVec 256) : Keeps
    (execRegWrite v num elem inst value) := by
  refine keeps_run _ ?_
  intro fz m hm
  repeat' with_reducible first
    | assumption | apply wf_command | apply wf_regWrite | (apply wf_foldl; intro _ _ _) | intro _ _ | split
    | dsimp only

theorem keeps_evtRead (v : Via) (max : Nat) : Keeps (execEvtRead v max) := by
  refine keeps_run _ ?_
  intro fz m hm
  repeat' with_reducible first
    | assumption | apply wf_command | apply wf_evtRead | (apply wf_foldl; intro _ _ _) | intro _ _ | split
    | dsimp only

theorem keeps_telemConfig (v : Via) (p : Fin 4) (addr entries pushEvery : Nat) : Keeps
    (execTelemConfig v p addr entries pushEvery) := by
  refine keeps_run _ ?_
  intro fz m hm
  repeat' with_reducible first
    | assumption | apply wf_command | apply wf_telemConfig | (apply wf_foldl; intro _ _ _) | intro _ _ | split
    | dsimp only

theorem keeps_health (v : Via) : Keeps (execHealth v) := by
  refine keeps_run _ ?_
  intro fz m hm
  repeat' with_reducible first
    | assumption | apply wf_command | apply wf_complete | (apply wf_foldl; intro _ _ _) | intro _ _ | split
    | dsimp only

theorem keeps_fwStage (v : Via) (addr len : Nat) (image : FwImage) : Keeps (execFwStage v addr len image) := by
  refine keeps_run _ ?_
  intro fz m hm
  repeat' with_reducible first
    | assumption | apply wf_command | apply wf_fwStage | (apply wf_foldl; intro _ _ _) | intro _ _ | split
    | dsimp only

theorem keeps_fwCommit (v : Via) : Keeps (execFwCommit v) := by
  refine keeps_run _ ?_
  intro fz m hm
  repeat' with_reducible first
    | assumption | apply wf_command | apply wf_fwCommit | (apply wf_foldl; intro _ _ _) | intro _ _ | split
    | dsimp only

theorem keeps_fwActivate (v : Via) : Keeps (execFwActivate v) := by
  refine keeps_run _ ?_
  intro fz m hm
  repeat' with_reducible first
    | assumption | apply wf_command | apply wf_fwActivate | (apply wf_foldl; intro _ _ _) | intro _ _ | split
    | dsimp only

theorem keeps_fwStatus (v : Via) : Keeps (execFwStatus v) := by
  refine keeps_run _ ?_
  intro fz m hm
  repeat' with_reducible first
    | assumption | apply wf_command | apply wf_fwStatus | (apply wf_foldl; intro _ _ _) | intro _ _ | split
    | dsimp only

theorem keeps_fwSvnAdvance (v : Via) : Keeps (execFwSvnAdvance v) := by
  refine keeps_run _ ?_
  intro fz m hm
  repeat' with_reducible first
    | assumption | apply wf_command | apply wf_fwSvnAdvance | (apply wf_foldl; intro _ _ _) | intro _ _ | split
    | dsimp only

theorem keeps_wdogControl (p : Fin 4) : Keeps (execWdogControl p) := by
  refine keeps_run _ ?_
  intro fz m hm
  repeat' with_reducible first
    | assumption | apply wf_wdogControl | (apply wf_foldl; intro _ _ _) | intro _ _ | split | dsimp only

theorem keeps_wdogMgmt  : Keeps (execWdogMgmt) := by
  refine keeps_run _ ?_
  intro fz m hm
  repeat' with_reducible first
    | assumption | apply wf_raiseEvt | (apply wf_foldl; intro _ _ _) | intro _ _ | split | dsimp only

theorem keeps_wdogSecurity  : Keeps (execWdogSecurity) := by
  refine keeps_run _ ?_
  intro fz m hm
  repeat' with_reducible first
    | assumption | apply wf_raiseEvt | apply wf_bootLogic | (apply wf_foldl; intro _ _ _) | intro _ _ | split
    | dsimp only

theorem keeps_powerOn (image : FwImage) (alignFail : List (Fin 4 × Fin 4)) : Keeps (execPowerOn image alignFail) := by
  refine keeps_run _ ?_
  intro fz m hm
  repeat' with_reducible first
    | assumption | apply wf_powerOn | (apply wf_foldl; intro _ _ _) | intro _ _ | split | dsimp only

theorem keeps_fillComplete (spFail whFail : Nat) : Keeps (execFillComplete spFail whFail) := by
  refine keeps_run _ ?_
  intro fz m hm
  repeat' with_reducible first
    | assumption | apply wf_fillComplete | (apply wf_foldl; intro _ _ _) | intro _ _ | split | dsimp only

theorem keeps_recoveryStart (image : FwImage) : Keeps (execRecoveryStart image) := by
  refine keeps_run _ ?_
  intro fz m hm
  repeat' with_reducible first
    | assumption | apply wf_recoveryStart | (apply wf_foldl; intro _ _ _) | intro _ _ | split | dsimp only

theorem keeps_wilucForward (f : Frame) : Keeps (execWilucForward f) := by
  refine keeps_run _ ?_
  intro fz m hm
  repeat' with_reducible first
    | assumption | apply wf_wilucForward | (apply wf_foldl; intro _ _ _) | intro _ _ | split | dsimp only

theorem keeps_chainTakeover  : Keeps (execChainTakeover) := by
  refine keeps_run _ ?_
  intro fz m hm
  repeat' with_reducible first
    | assumption | (apply wf_foldl; intro _ _ _) | intro _ _ | split | dsimp only

theorem keeps_enum (f : Frame) : Keeps (execEnum f) := by
  refine keeps_run _ ?_
  intro fz m hm
  repeat' with_reducible first
    | assumption | apply wf_enum | (apply wf_foldl; intro _ _ _) | intro _ _ | split | dsimp only

theorem keeps_setLocation (f : Frame) : Keeps (execSetLocation f) := by
  refine keeps_run _ ?_
  intro fz m hm
  repeat' with_reducible first
    | assumption | apply wf_recvFrame | apply wf_setLocation | (apply wf_foldl; intro _ _ _) | intro _ _ | split
    | dsimp only

theorem keeps_power (f : Frame) : Keeps (execPower f) := by
  refine keeps_run _ ?_
  intro fz m hm
  repeat' with_reducible first
    | assumption | apply wf_recvFrame | apply wf_powerFrame | (apply wf_foldl; intro _ _ _) | intro _ _ | split
    | dsimp only

theorem keeps_healthFrame (f : Frame) : Keeps (execHealthFrame f) := by
  refine keeps_run _ ?_
  intro fz m hm
  repeat' with_reducible first
    | assumption | apply wf_recvFrame | (apply wf_foldl; intro _ _ _) | intro _ _ | split | dsimp only

theorem keeps_holdup (f : Frame) : Keeps (execHoldup f) := by
  refine keeps_run _ ?_
  intro fz m hm
  repeat' with_reducible first
    | assumption | apply wf_recvFrame | (apply wf_foldl; intro _ _ _) | intro _ _ | split | dsimp only

theorem keeps_rcvBegin (f : Frame) : Keeps (execRcvBegin f) := by
  refine keeps_run _ ?_
  intro fz m hm
  repeat' with_reducible first
    | assumption | apply wf_recvFrame | apply wf_rcvBegin | (apply wf_foldl; intro _ _ _) | intro _ _ | split
    | dsimp only

theorem keeps_rcvData (f : Frame) : Keeps (execRcvData f) := by
  refine keeps_run _ ?_
  intro fz m hm
  repeat' with_reducible first
    | assumption | apply wf_recvFrame | apply wf_rcvData | (apply wf_foldl; intro _ _ _) | intro _ _ | split
    | dsimp only

theorem keeps_rcvEnd (f : Frame) (image : FwImage) : Keeps (execRcvEnd f image) := by
  refine keeps_run _ ?_
  intro fz m hm
  repeat' with_reducible first
    | assumption | apply wf_recvFrame | apply wf_rcvEnd | (apply wf_foldl; intro _ _ _) | intro _ _ | split
    | dsimp only

theorem keeps_pwrSet (v : Via) (target : Nat) : Keeps (execPwrSet v target) := by
  refine keeps_run _ ?_
  intro fz m hm
  repeat' with_reducible first
    | assumption | apply wf_command | apply wf_pwrSet | (apply wf_foldl; intro _ _ _) | intro _ _ | split
    | dsimp only

theorem keeps_powerTransitionDone  : Keeps (execPowerTransitionDone) := by
  refine keeps_run _ ?_
  intro fz m hm
  repeat' with_reducible first
    | assumption | apply wf_transitionDone | (apply wf_foldl; intro _ _ _) | intro _ _ | split | dsimp only

theorem keeps_pwrStatus (v : Via) : Keeps (execPwrStatus v) := by
  refine keeps_run _ ?_
  intro fz m hm
  repeat' with_reducible first
    | assumption | apply wf_command | apply wf_pwrStatus | (apply wf_foldl; intro _ _ _) | intro _ _ | split
    | dsimp only

theorem keeps_holdupTest (v : Via) : Keeps (execHoldupTest v) := by
  refine keeps_run _ ?_
  intro fz m hm
  repeat' with_reducible first
    | assumption | apply wf_command | apply wf_holdupTest | (apply wf_foldl; intro _ _ _) | intro _ _ | split
    | dsimp only

theorem keeps_holdupTestDaily  : Keeps (execHoldupTestDaily) := by
  refine keeps_run _ ?_
  intro fz m hm
  repeat' with_reducible first
    | assumption | apply wf_holdupDaily | (apply wf_foldl; intro _ _ _) | intro _ _ | split | dsimp only

theorem keeps_holdupTestDone (deltaMv v0Mv : Nat) : Keeps (execHoldupTestDone deltaMv v0Mv) := by
  refine keeps_run _ ?_
  intro fz m hm
  repeat' with_reducible first
    | assumption | apply wf_testDone | (apply wf_foldl; intro _ _ _) | intro _ _ | split | dsimp only

theorem keeps_pwrLimit (v : Via) (watts : Nat) : Keeps (execPwrLimit v watts) := by
  refine keeps_run _ ?_
  intro fz m hm
  repeat' with_reducible first
    | assumption | apply wf_command | apply wf_pwrLimit | (apply wf_foldl; intro _ _ _) | intro _ _ | split
    | dsimp only

theorem keeps_inputFail  : Keeps (execInputFail) := by
  refine keeps_run _ ?_
  intro fz m hm
  repeat' with_reducible first
    | assumption | apply wf_inputFail | (apply wf_foldl; intro _ _ _) | intro _ _ | split | dsimp only

theorem keeps_inputOvervoltage  : Keeps (execInputOvervoltage) := by
  refine keeps_run _ ?_
  intro fz m hm
  repeat' with_reducible first
    | assumption | (apply wf_foldl; intro _ _ _) | intro _ _ | split | dsimp only

theorem keeps_inputReturn  : Keeps (execInputReturn) := by
  refine keeps_run _ ?_
  intro fz m hm
  repeat' with_reducible first
    | assumption | apply wf_inputReturn | (apply wf_foldl; intro _ _ _) | intro _ _ | split | dsimp only

theorem keeps_tankExhausted  : Keeps (execTankExhausted) := by
  refine keeps_run _ ?_
  intro fz m hm
  repeat' with_reducible first
    | assumption | apply wf_tankExhausted | (apply wf_foldl; intro _ _ _) | intro _ _ | split | dsimp only

theorem keeps_powerSample (vinMv iinMa pinDw pavgDw : Nat) : Keeps (execPowerSample vinMv iinMa pinDw pavgDw) := by
  refine keeps_run _ ?_
  intro fz m hm
  repeat' with_reducible first
    | assumption | apply wf_powerSample | (apply wf_foldl; intro _ _ _) | intro _ _ | split | dsimp only

theorem keeps_powerStepUpdate (avg100Dw avg1sMaxDw : Nat) : Keeps (execPowerStepUpdate avg100Dw avg1sMaxDw) := by
  refine keeps_run _ ?_
  intro fz m hm
  repeat' with_reducible first
    | assumption | apply wf_powerStepUpdate | (apply wf_foldl; intro _ _ _) | intro _ _ | split | dsimp only

theorem keeps_thermalStepUpdate (p : Fin 4) : Keeps (execThermalStepUpdate p) := by
  refine keeps_run _ ?_
  intro fz m hm
  repeat' with_reducible first
    | assumption | apply wf_thermalUpdate | (apply wf_foldl; intro _ _ _) | intro _ _ | split | dsimp only

theorem keeps_thmTrip (sensor : Sensor) (temp : Int) : Keeps (execThmTrip sensor temp) := by
  refine keeps_run _ ?_
  intro fz m hm
  repeat' with_reducible first
    | assumption | apply wf_thmTrip | (apply wf_foldl; intro _ _ _) | intro _ _ | split | dsimp only

theorem keeps_railFault (r : Rail) : Keeps (execRailFault r) := by
  refine keeps_run _ ?_
  intro fz m hm
  repeat' with_reducible first
    | assumption | apply wf_railFault | (apply wf_foldl; intro _ _ _) | intro _ _ | split | dsimp only

theorem keeps_coolFlow (flow : Nat) : Keeps (execCoolFlow flow) := by
  refine keeps_run _ ?_
  intro fz m hm
  repeat' with_reducible first
    | assumption | apply wf_coolFlow | (apply wf_foldl; intro _ _ _) | intro _ _ | split | dsimp only

theorem keeps_coolInlet (temp : Int) : Keeps (execCoolInlet temp) := by
  refine keeps_run _ ?_
  intro fz m hm
  repeat' with_reducible first
    | assumption | apply wf_coolInlet | (apply wf_foldl; intro _ _ _) | intro _ _ | split | dsimp only

theorem keeps_machineError (addr : Nat) : Keeps (execMachineError addr) := by
  refine keeps_run _ ?_
  intro fz m hm
  repeat' with_reducible first
    | assumption | apply wf_machineError | (apply wf_foldl; intro _ _ _) | intro _ _ | split | dsimp only

theorem keeps_edgeCheck (die : Fin 4) (failed : Option (Fin 256)) : Keeps (execEdgeCheck die failed) := by
  refine keeps_run _ ?_
  intro fz m hm
  repeat' with_reducible first
    | assumption | apply wf_edgeCheck | (apply wf_foldl; intro _ _ _) | intro _ _ | split | dsimp only

theorem keeps_illegalOpcode (a : At) : Keeps (execIllegalOpcode a) := by
  refine keeps_run _ ?_
  intro fz m hm
  repeat' with_reducible first
    | assumption | apply wf_illegalOpcode | (apply wf_foldl; intro _ _ _) | intro _ _ | split | dsimp only

theorem keeps_lossOfSignal (port : Fin 16) : Keeps (execLossOfSignal port) := by
  refine keeps_run _ ?_
  intro fz m hm
  repeat' with_reducible first
    | assumption | apply wf_lossOfSignal | (apply wf_foldl; intro _ _ _) | intro _ _ | split | dsimp only

theorem keeps_thmWarn (sensor : Sensor) (temp : Int) : Keeps (execThmWarn sensor temp) := by
  refine keeps_run _ ?_
  intro fz m hm
  repeat' with_reducible first
    | assumption | apply wf_thmWarn | (apply wf_foldl; intro _ _ _) | intro _ _ | split | dsimp only

theorem keeps_tankReady  : Keeps (execTankReady) := by
  refine keeps_run _ ?_
  intro fz m hm
  repeat' with_reducible first
    | assumption | apply wf_tankReady | (apply wf_foldl; intro _ _ _) | intro _ _ | split | dsimp only

end Sys2Proof.Machine
end

