-- ==== Sys2Proof/Laws/Places.lean ====
section
/-! SUPPORT. What reading a place of the machine gives after a change of it: the change at the place itself, what was there before
at any other; and what completing a command leaves as it was. -/

namespace Sys2Proof.Machine

@[simp] theorem port_onPort (k : Nat) (f : Port → Port) (m : Mach) : port (onPort k f m) k = f (port m k) :=
  tget_tmod_same _ _ _ _

theorem port_onPort_other (k i : Nat) (f : Port → Port) (m : Mach) (h : i ≠ k) : port (onPort k f m) i = port m i :=
  tget_tmod_other _ _ f h

@[simp] theorem mport_onMport (k : Nat) (f : MPort → MPort) (m : Mach) : mport (onMport k f m) k = f (mport m k) :=
  tget_tmod_same _ _ _ _

theorem mport_onMport_other (k i : Nat) (f : MPort → MPort) (m : Mach) (h : i ≠ k) : mport (onMport k f m) i = mport m i :=
  tget_tmod_other _ _ f h

@[simp] theorem pairOf_onPair (d mod peer : Nat) (f : Pair → Pair) (m : Mach) :
    pairOf (onPair d mod peer f m) d mod peer = f (pairOf m d mod peer) := by
  simp [pairOf, onPair]

@[simp] theorem fslot_onSlot (d k : Nat) (f : FSlot → FSlot) (m : Mach) :
    fslot (onSlot d k f m) d k = f (fslot m d k) := by
  simp [fslot, onSlot]

@[simp] theorem rteOf_onRte (t : Option Nat) (f : Rte → Rte) (m : Mach) : rteOf (onRte t f m) t = f (rteOf m t) := by
  cases t <;> simp [rteOf, onRte]

@[simp] theorem sess_onSess (p i : Nat) (f : Session → Session) (m : Mach) : sess (onSess p i f m) p i = f (sess m p i) := by
  simp [sess, onSess, onSrv]

@[simp] theorem req_onReq (p i : Nat) (f : Req → Req) (m : Mach) : req (onReq p i f m) p i = f (req m p i) := by
  simp [req, onReq, onSrv]

/-! ### What completing a command leaves -/

/-- Completing a command changes a window, what the module sends and the free values drawn, and nothing else. -/
theorem complete_frame (v : Via) (st : Status) (n : Nat) (r : Resp) (m : Mach) :
    { complete v st n r m with wins := m.wins, out := m.out, freeCtr := m.freeCtr } = m := by
  unfold complete
  split
  · rfl
  · rfl
  · unfold completeSlot interrupt
    cases r <;> dsimp only [respLen, draw] <;> split <;> (try split) <;> (try split) <;> rfl

@[simp] theorem complete_mem (v : Via) (st : Status) (n : Nat) (r : Resp) (m : Mach) : (complete v st n r m).mem = m.mem :=
  (congrArg Mach.mem (complete_frame v st n r m) :)

@[simp] theorem complete_dies (v : Via) (st : Status) (n : Nat) (r : Resp) (m : Mach) : (complete v st n r m).dies = m.dies :=
  (congrArg Mach.dies (complete_frame v st n r m) :)

@[simp] theorem complete_stations (v : Via) (st : Status) (n : Nat) (r : Resp) (m : Mach) : (complete v st n r m).stations = m.stations :=
  (congrArg Mach.stations (complete_frame v st n r m) :)

@[simp] theorem complete_wells (v : Via) (st : Status) (n : Nat) (r : Resp) (m : Mach) : (complete v st n r m).wells = m.wells :=
  (congrArg Mach.wells (complete_frame v st n r m) :)

@[simp] theorem complete_parts (v : Via) (st : Status) (n : Nat) (r : Resp) (m : Mach) : (complete v st n r m).parts = m.parts :=
  (congrArg Mach.parts (complete_frame v st n r m) :)

@[simp] theorem complete_hosts (v : Via) (st : Status) (n : Nat) (r : Resp) (m : Mach) : (complete v st n r m).hosts = m.hosts :=
  (congrArg Mach.hosts (complete_frame v st n r m) :)

@[simp] theorem complete_links (v : Via) (st : Status) (n : Nat) (r : Resp) (m : Mach) : (complete v st n r m).links = m.links :=
  (congrArg Mach.links (complete_frame v st n r m) :)

@[simp] theorem complete_ports (v : Via) (st : Status) (n : Nat) (r : Resp) (m : Mach) : (complete v st n r m).ports = m.ports :=
  (congrArg Mach.ports (complete_frame v st n r m) :)

@[simp] theorem complete_rte (v : Via) (st : Status) (n : Nat) (r : Resp) (m : Mach) : (complete v st n r m).rte = m.rte :=
  (congrArg Mach.rte (complete_frame v st n r m) :)

@[simp] theorem complete_clk (v : Via) (st : Status) (n : Nat) (r : Resp) (m : Mach) : (complete v st n r m).clk = m.clk :=
  (congrArg Mach.clk (complete_frame v st n r m) :)

@[simp] theorem complete_fw (v : Via) (st : Status) (n : Nat) (r : Resp) (m : Mach) : (complete v st n r m).fw = m.fw :=
  (congrArg Mach.fw (complete_frame v st n r m) :)

@[simp] theorem complete_pwr (v : Via) (st : Status) (n : Nat) (r : Resp) (m : Mach) : (complete v st n r m).pwr = m.pwr :=
  (congrArg Mach.pwr (complete_frame v st n r m) :)

@[simp] theorem complete_boot (v : Via) (st : Status) (n : Nat) (r : Resp) (m : Mach) : (complete v st n r m).boot = m.boot :=
  (congrArg Mach.boot (complete_frame v st n r m) :)

end Sys2Proof.Machine
end

