-- ==== Sys2Proof/WellFormed.lean ====
section
/-! DEFINITION. Well-formed commands: every operand fits the field that the manual gives it. A command that is not
well formed is not one the module can receive. -/

namespace Sys2Proof

/-- A number fits a field of some bits. -/
def fits (bits n : Nat) : Bool := decide (n < 2 ^ bits)

/-- A step number (07 R278). -/
def stepWf (n : Nat) : Bool := fits 48 n

/-- A packet header (11 Table 11-1). -/
def Header.wf (h : Header) : Bool :=
  fits 28 h.resv && fits 32 h.hcrc && fits 4 h.hops && fits 16 h.xfer && fits 16 h.step && fits 1 h.keyEpoch
  && fits 8 h.keyslot && fits 16 h.pseq && fits 16 h.tag && fits 8 h.len && fits 48 h.addr && fits 8 h.srcUnit
  && fits 2 h.srcDie && fits 14 h.srcMod && fits 8 h.dstUnit && fits 2 h.dstDie && fits 14 h.dstMod && fits 8 h.flags
  && fits 1 h.epoch && fits 2 h.cls && fits 4 h.op

/-- A link unit (10 Table 10-2); the packet of one is as long as LEN16 says (R416). -/
def LinkUnit.wf (u : LinkUnit) : Bool :=
  fits 4 u.kind && fits 2 u.cls && fits 24 u.arg && fits 24 u.ack && fits 2 u.crCls && fits 16 u.cr && fits 9 u.len16
  && fits 4 u.want && fits 11 u.resv && u.pkt.all (fun p => p.hdr.wf && decide (
    p.payload.length + (if p.hdr.keyslot = 0 then 32 else 48) = 16 * u.len16))

/-- A Wiluc frame (17 Table 17-16). -/
def Frame.wf (f : Frame) : Bool :=
  fits 8 f.dst && fits 8 f.src && fits 8 f.typ && fits 8 f.seq && fits 8 f.len && fits 24 f.resv && fits 32 f.crc
  && decide (f.payload.length = 52)

/-- A slot as host software posts it (17 Table 17-3). -/
def SlotPost.wf (y : SlotPost) : Bool :=
  fits 32 y.own && fits 16 y.code && fits 8 y.flags && fits 32 y.plen && fits 64 y.tag && decide (y.payload.length ≤ 4096)

/-- A store to host memory lies in its 256 GB (01, 08). -/
def HostStore.wf (y : HostStore) : Bool := decide (y.addr + y.bytes.length ≤ 2 ^ 38)

/-- An entry of a route table (11 Table 11-14). -/
def RouteEntry.wf (e : RouteEntry) : Bool := fits 2 e.secondKind && fits 4 e.secondPort && fits 4 e.escPort && fits 4 e.firstPort

/-- A remote window (11 Table 11-15). -/
def RWin.wf (w : RWin) : Bool :=
  fits 3 w.ops && fits 8 w.unit && fits 8 w.keyslot && fits 14 w.srcMod && fits 48 w.base && fits 40 w.len

/-- Parameters of REQ_SUBMIT (13 Table 13-9). -/
def ReqParams.wf (r : ReqParams) : Bool :=
  fits 32 r.session && fits 32 r.promptLen && fits 64 r.promptAddr && fits 64 r.ringAddr && fits 32 r.ringEntries
  && fits 32 r.maxNew && fits 64 r.seed && fits 16 r.temp && fits 16 r.topK && fits 8 r.nStopId && fits 8 r.nStopSeq
  && fits 8 r.pred && fits 8 r.rflags && decide (r.stopIds.length = 32) && decide (r.stopSeqs.length = 8)
  && decide (r.stopLens.length = 8) && r.stopIds.all (fits 32) && r.stopSeqs.all (fun l => decide (l.length = 16))
  && r.stopLens.all (fits 8)

/-- An entry of a shard manifest (14 Table 14-2). -/
def WEntry.wf (e : WEntry) : Bool :=
  fits 32 e.tensor && fits 32 e.chunk && fits 32 e.length && fits 8 e.srcKind && fits 8 e.target && fits 32 e.nsid
  && fits 64 e.saddr

/-- A header template (11 Table 11-4). -/
def Template.wf (t : Template) : Bool :=
  fits 14 t.dstMod && fits 2 t.dstDie && fits 8 t.dstUnit && fits 4 t.op && fits 2 t.cls && fits 8 t.keyslot
  && fits 8 t.flags && fits 48 t.addr

/-- A variant of a plan image (19 R828): every place it names is a die, a station or a template. -/
def VariantImage.wf (v : VariantImage) : Bool :=
  v.bufs.all (fun b => decide (b.die < 4) && decide (b.unit < 128))
  && v.tmpls.all (fun t => decide (t.die < 4) && fits 8 t.idx && t.tmpl.wf)

/-- A plan image (07 Table 7-1): every place it names is a die, a station or a wellhead. -/
def PlanImage.wf (pl : PlanImage) : Bool :=
  pl.dies.all (fun d => decide (d < 4)) && pl.data.all (fun y => decide (y.die < 4) && decide (y.unit < 128))
  && pl.variants.all (fun v => v.wf) && pl.members.all (fun y => fits 14 y.1 && fits 2 y.2)

/-- A truncation payload (15 Table 15-8). -/
def TruncPayload.wf (t : TruncPayload) : Bool :=
  stepWf t.step && fits 32 t.cycle && fits 32 t.settleUs && fits 64 t.dumpAddr && fits 64 t.dumpLen
  && t.regions.all (fun r => fits 8 r.kind && fits 8 r.die && fits 8 r.unit && fits 32 r.start && fits 32 r.len)

/-- A PARTITION_SET body (16 Table 16-3). -/
def PartBody.wf (b : PartBody) : Bool := b.dies.all (fun d => decide (d < 4))

/-- A journal that DET_REPLAY names (15 Table 15-5). -/
def JHead.wf (j : JHead) : Bool := stepWf j.endStep && j.times.all (fun t => stepWf t.1)

/-- A temperature sensor (18 Table 18-11). -/
def Sensor.wf (s : Sensor) : Bool := fits 4 s.kind && fits 4 s.index

/-- Error counts of a window of a port (10 R453). -/
def LaneWindow.wf (w : LaneWindow) : Bool := decide (w.sym.length = 8)

/-- A rail (18 Table 18-2). -/
def Rail.wf (r : Rail) : Bool :=
  match r with
  | .vcore _ => true
  | .other n => decide (n < 16)

/-- Every operand of a command fits its field. -/
def Instr.wf (i : Instr) : Bool :=
  match i with
  | .planLoad _ _ image => image.wf
  | .planStart _ _ anchor => fits 64 anchor
  | .planVariant _ _ n step => fits 8 n && stepWf step
  | .pkt _ u | .link _ u | .widthReq _ u | .retrainReq _ u | .reqAck _ u | .widthMark _ u | .doze _ u | .dozeAck _ u =>
    u.wf
  | .laneWindow _ w => w.wf
  | .routeWrite _ _ _ entries _ => entries.all (fun y => y.2.wf)
  | .routeFlip _ _ step => stepWf step
  | .rwinSet _ _ _ w => w.wf
  | .collAbort _ _ coll => fits 8 coll
  | .clkMonitorWindow _ _ hist _ => decide (hist.length = 16)
  | .reqSubmit _ _ r _ => r.wf
  | .sessClose _ _ sid | .sessTruncate _ _ sid _ | .park _ _ sid _ _ | .unpark _ _ sid _ _ | .sessStatus _ _ sid =>
    fits 32 sid
  | .reqCancel _ _ rid | .reqStatus _ _ rid => fits 32 rid
  | .weightsFetch _ _ _ m | .weightsStage _ _ _ m => m.entries.all (fun e => e.wf)
  | .weightsSwap _ _ barrier ctx => fits 64 barrier && fits 8 ctx
  | .detReplay _ _ j => j.wf
  | .detTruncate _ _ t => t.wf
  | .partitionSetAssign _ _ b | .partitionSetRelease _ _ b => b.wf
  | .secKeySwitch _ _ _ step => stepWf step
  | .mailboxScan _ posts stores => posts.all (fun y => y.wf) && stores.all (fun y => y.wf)
  | .mgmtCommand _ post => post.wf
  | .wilucForward f | .enum f | .setLocation f | .power f | .healthFrame f | .holdup f | .rcvBegin f | .rcvData f
  | .rcvEnd f _ => f.wf
  | .thmTrip s _ | .thmWarn s _ => s.wf
  | .railFault r => r.wf
  | .mxLoadw _ | .mxMma _ | .mxDrain _ | .vxOp _ | .vxCvtConv _ | .vxCvtBfsplit _ | .vxCvtExpscan _ | .vxCvtSplit _
  | .vxFunc _ | .vxRedSumall _ | .vxRedRowsum _ | .vxTopkSelect _ | .vxTopkMerge _ | .vxStop _ | .vxOcldLoad _
  | .vxOcldKey _ | .vxCntld _ | .vxAmaxScan _ | .vxAmaxLoad _ | .mvSend _ | .mvRecv _ | .mvDmaCopy _ | .mvDmaDecode _
  | .mvDmaGather _ | .mvDmaScore _ | .mvDmaQload _ | .mvDmaSgather _ | .mvHost _ | .mvCist _ | .sbClose _ | .ctWait _
  | .ctLoop _ | .ctLoopr _ | .ctEndloop _ | .ctGateOpen _ | .ctGateClose _ | .ctStamp _ | .ctSetcnt _ | .ctFetch _
  | .ctStepend _ | .lkInject _ | .lkExpect _ | .queueUnderrun _ | .stepOpen _ | .holdCheck _ | .holdRelease _
  | .holdLimit _ | .gateHold _ | .gateTimeout _ | .stepStart _ | .stepEnd _ | .beatReceive _ _ _
  | .routerForward _ _ _ _ | .crossingAdmit _ _ _ _ | .descriptorReady _ _ _ _ | .laneBeatAccess _ _ _ _
  | .wellheadRequestStart _ _ | .refreshTick _ _ _ | .refreshUnit _ _ _ | .pageReencrypt _ | .planStop _ _
  | .planStatus _ _ | .planUnload _ _ | .faultRead _ _ | .scrubRange _ _ _ _ _ | .eccFlipArm _ _ _ _
  | .eccRemapAdd _ _ _ _ | .eccCounts _ _ | .keepalive _ | .unitTransmit _ | .laneRealign _ | .replayTimeout _
  | .silence _ | .lockLoss _ _ | .primeRetry _ | .primeFail _ | .detect _ | .equalise _ | .lockAlign _ _ | .time _ _ _
  | .auth _ _ | .reqTimeout _ | .widthChangeTimeout _ | .linkStatus _ _ | .linkPrime _ _ | .linkDisable _ _
  | .linkEnable _ _ | .linkWidth _ _ _ | .linkCounters _ _ | .packetReceive _ | .write _ | .readReq _ | .readResp _
  | .laAdd _ _ | .timeMarker _ | .drain _ | .collAbortPacket _ | .variant _ | .delivered _ | .forwardStart _ | .escape _
  | .noRoute _ | .pseqGap _ | .deliveredSend _ _ _ | .requestReplay _ _ | .responseCacheExpire _ | .drainSend _
  | .epochRelease _ | .routeStatus _ _ | .refLoss | .refValid | .clkTargetWrite _ _ | .pllLock _ | .droop _ _
  | .sympatheticStretch _ _ | .servoUpdate | .timeMarkerSend _ | .ptpSync _ | .sessOpen _ _ _ | .parkCommit _ _ _
  | .unparkCheck _ _ _ _ | .commitPoint _ _ | .manifestReceive _ _ _ | .layerBoundary _ _ | .outputRecordWrite _ _
  | .weightsPace _ _ _ _ | .weightsAbort _ _ | .weightsStatus _ _ | .weightsTarget _ _ _ _ _ _ | .chunkIssue _
  | .chunkVerify _ _ _ _ | .readTimeout _ _ | .layerGroupDone _ | .detJournal _ _ _ | .provConfig _ _ _ | .provSeal _ _
  | .detStatus _ _ | .detDisarm _ _ | .truncatePoint _ | .truncateSettle _ | .secIdentity _ | .secAttest _ _ _
  | .secEnroll _ _ _ _ | .secSessionOpen _ _ _ _ | .secPolicySet _ _ _ _ | .secKeyLoad _ _ _ | .secKeyDestroy _ _ _
  | .secMemkeyRotate _ _ | .memkeyLoaded _ | .secTeardown _ _ _ _ | .teardownDrainEnd _ | .teardownScrubDone _
  | .secStatus _ _ | .regDir _ _ | .regRead _ _ _ _ _ _ | .regWrite _ _ _ _ _ | .evtRead _ _ | .telemConfig _ _ _ _ _
  | .health _ | .fwStage _ _ _ _ | .fwCommit _ | .fwActivate _ | .fwStatus _ | .fwSvnAdvance _ | .wdogControl _
  | .wdogMgmt | .wdogSecurity | .powerOn _ _ | .fillComplete _ _ | .recoveryStart _ | .chainTakeover | .pwrSet _ _
  | .powerTransitionDone | .pwrStatus _ | .holdupTest _ | .holdupTestDaily | .holdupTestDone _ _ | .pwrLimit _ _
  | .inputFail | .inputOvervoltage | .inputReturn | .tankExhausted | .powerSample _ _ _ _ | .powerStepUpdate _ _
  | .thermalStepUpdate _ | .coolFlow _ | .coolInlet _ | .machineError _ | .edgeCheck _ _ | .illegalOpcode _
  | .lossOfSignal _ | .tankReady => true

end Sys2Proof
end

