-- ==== Sys2Proof/Tests/Slice0.lean ====
section
/-! SUPPORT. Tests of the model: ill-formed commands that the check refuses, witnesses that the hypotheses of each
statement can be met, and single steps on small states. -/

namespace Sys2Proof.Tests

open Sys2Proof Sys2Proof.Machine

set_option Elab.async false

/-! ### A small machine -/

/-- Refresh windows that leave the wellheads of die 0 unused. -/
def unusedWins : List WellWindows := (List.range 4).map (fun w => { wh := w, normal := .unused, hot := .unused })

/-- A plan of one die and one class of 4,096 cycles. -/
def image : PlanImage :=
  { valid := true, digest := 2 ^ 255 + 1, dies := [0], grid := .g512, sprof := .standard
    variants := [{ lprof := .lpC, classes := [{ w := 4096, t := 2000, wins := unusedWins }], pattern := [0], bufs := [], tmpls := [] }]
    vlead := 3, rtt := [], weights := false, seed := 0, tierMap := [], data := [], collectives := [], peers := []
    members := [(0, 0)], serve := none, wswap := none, timeAddr := none, inputs := [] }

/-- The partition of die 0 with that plan, running, its step 7 in progress. -/
def running : Part := { dies := [0], st := .running, plan := some image, step := 7, inStep := true, hwLen := 1024, nsBlocks := 64 }

/-- Firmware is ready, and partition 0 runs. -/
def ready : Mach :=
  { Mach.reset with
    boot := 3
    dies := [(0, { fit := 1, grid := 1, enabled := 0xFF, slots := [(1, { ep0 := { st := 1 } })]
                   tmpls := [(255, { dstMod := 5, dstDie := 0, dstUnit := 0, op := 1, cls := 0, keyslot := 1
                                     flags := 0, addr := 0 })] })]
    parts := [(0, running), (1, { dies := [1] }), (2, { dies := [2] }), (3, { dies := [3] })] }

/-- A state with a machine. -/
def at_ (m : Mach) : State := { pending := [], fuses := Fuses.reset, mach := m }

/-- Station 17 of die 0. -/
def here (q : Queue) : At := { die := 0, unit := 17, q := q }

/-- An instruction word from its fields: lowest bit and value. -/
def word (l : List (Nat × Nat)) : Word128 := BitVec.ofNat 128 (l.foldl (fun n y => n + y.2 * 2 ^ y.1) 0)

/-- The word stands next in a queue of station 17, with a buffer for the queue. -/
def queued (q : Queue) (w : Word128) (f : Station → Station) : State :=
  let b : IBuf := { base := 0, len := 8 }
  let s : Station := { ibufMx := b, ibufVx := b, ibufMv := b }
  at_ { ready with stations := [(17, f (s.onQueue q (fun y => { y with entries := [{ word := w, off := 32 }] })))] }

/-! ### A quick check that accesses do not meet -/

/-- No number occurs twice; `s` has a bit set for each one met. -/
def distinct : List Nat → Nat → Bool
  | [], _ => true
  | k :: r, s => !s.testBit k && distinct r (s ||| 1 <<< k)

theorem distinct_sound (l : List Nat) (s : Nat) (h : distinct l s = true) : l.Nodup ∧ ∀ k ∈ l, s.testBit k = false := by
  induction l generalizing s with
  | nil => simp
  | cons k r ih =>
    simp only [distinct, Bool.and_eq_true, Bool.not_eq_true'] at h
    obtain ⟨h1, h2⟩ := h
    obtain ⟨n, f⟩ := ih _ h2
    have g (j : Nat) (hj : j ∈ r) : s.testBit j = false ∧ j ≠ k := by
      have := f j hj
      rw [Nat.testBit_or, Bool.or_eq_false_iff] at this
      refine ⟨this.1, fun e => ?_⟩
      subst e
      simp [Nat.testBit_shiftLeft] at this
    refine ⟨List.nodup_cons.2 ⟨fun m => (g k m).2 rfl, n⟩, fun j hj => ?_⟩
    rcases List.mem_cons.1 hj with rfl | hj
    · exact h1
    · exact (g j hj).1

/-- Every access is in a cycle in which no other takes its bank or its port. -/
def spread (l : List Acc) : Bool :=
  l.all (fun a => a.hold == 0) && distinct (l.map (fun a => a.cycle * 16 + a.bank)) 0
    && distinct (l.map (fun a => a.cycle * 8 + 4 * b2n a.write + a.port)) 0

theorem clashesOf_nil (l : List Acc) (h : l.Pairwise (fun a b => bankClash a b = false ∧ portClash a b = false)) :
    clashesOf [] l = [] := by
  induction h with
  | nil => rfl
  | @cons a r h q ih =>
    clear q
    have e (acc : List (Nat × Nat × Nat)) : r.foldl (fun l b =>
        let l := if bankClash a b then (clashCycle a b, 2, a.bank) :: l else l
        if portClash a b then (clashCycle a b, 3, a.port) :: l else l) acc = acc := by
      clear ih
      induction r with
      | nil => rfl
      | cons b r ih =>
        have := h b (List.mem_cons_self ..)
        simp only [List.foldl_cons, this.1, this.2, Bool.false_eq_true, if_false]
        exact ih (fun c hc => h c (List.mem_cons_of_mem _ hc))
    simp only [clashesOf, List.nil_append, e, ih]

theorem clashes_spread (l : List Acc) (h : spread l = true) : clashesOf [] l = [] := by
  simp only [spread, Bool.and_eq_true, List.all_eq_true, beq_iff_eq] at h
  obtain ⟨⟨h0, hb⟩, hp⟩ := h
  have pb := List.pairwise_map.1 (distinct_sound _ _ hb).1
  have pp := List.pairwise_map.1 (distinct_sound _ _ hp).1
  refine clashesOf_nil _ ((pb.and pp).imp_of_mem (fun {a b} ha hb h => ⟨?_, ?_⟩))
  · refine Bool.eq_false_iff.2 (fun c => ?_)
    simp only [bankClash, Bool.and_eq_true, beq_iff_eq, decide_eq_true_eq, h0 a ha, h0 b hb] at c
    exact h.1 (by omega)
  · refine Bool.eq_false_iff.2 (fun c => ?_)
    simp only [portClash, Bool.and_eq_true, beq_iff_eq] at c
    exact h.2 (by rw [c.1.1.2, c.1.2, c.2])

/-- A slice and an operand cache without errors. -/
def clean (x : Ctx) : Bool :=
  (stn x.m x.key).late.isEmpty && (stn x.m x.key).spErr.isEmpty && x.st.lateC.isEmpty && x.st.ocErr.isEmpty

theorem reads_clean (x : Ctx) (sp : Spec) (h : clean x = true) : readsSound x sp = true := by
  simp only [clean, Ctx.st, Bool.and_eq_true, List.isEmpty_iff] at h
  obtain ⟨⟨⟨h1, h2⟩, h3⟩, h4⟩ := h
  have z1 : (List.range 16).filter (fun _ => checkMask 0 == .corrected) = [] := by decide
  have z2 : (List.range 16).filter (fun _ => checkMask 0 == .bad) = [] := by decide
  have z (g : Got) (w : Nat) : g.err x.m x.key w = 0 := by
    unfold Got.err
    split <;> simp [cacheErr, wordErr, h1, h2, h3, h4, tget]
  simp only [readsSound, Got.words, wordsThat, z, z1, z2, List.isEmpty_nil, Bool.and_self, List.all_eq_true, implies_true]

/-- The checks of an issue, for an instruction whose station does nothing else. -/
def alone (r : Row) (x : Ctx) : Bool :=
  decide (rowOf x.w = some r) && active x.st x.q && inBudget x && acts x.m x.p x.key x.own x.c
  && decide (verdictWith x (specRow r x) [] [] = .pass) && (peers x).isEmpty && !idleStop x && !(x.own.isNone && slotStop x)
  && (nearAccs x).isEmpty && x.st.halted.isNone && clean x

theorem alone_issues {r : Row} {x : Ctx} (h : alone r x = true)
    (c : (clashesOf [] (newAccs x (specRow r x))).filter (fun y => y.1 == x.c) = []) :
    issuesAt r x = true ∧ clashes x (specRow r x) = clashesOf [] (newAccs x (specRow r x)) := by
  simp only [alone, Bool.and_eq_true, List.isEmpty_iff, Option.isNone_iff_eq_none, Bool.not_eq_true'] at h
  obtain ⟨⟨⟨⟨⟨⟨⟨⟨⟨⟨a, b⟩, i⟩, d⟩, e⟩, f⟩, o⟩, t⟩, g⟩, j⟩, k⟩ := h
  have l : goodPeers x = [] := by simp only [goodPeers, f, List.filter_nil]
  have p : clashWith x (specRow r x) [] = [] := by simp only [clashWith, c, List.map_nil]
  have v : verdict x (specRow r x) = verdictWith x (specRow r x) [] [] := by
    simp only [verdict, l, g, List.filter_nil, List.filterMap_nil, accsOf, List.flatMap_nil, List.append_nil, p]
  have w : clashAhead x (specRow r x) = false := by
    simp only [clashAhead, l, List.filter_nil, accsOf, List.flatMap_nil, p, bne_self_eq_false]
  have s : othersStop x = false := by simp only [othersStop, f, List.any_nil, o, t, Bool.or_self]
  refine ⟨?_, by simp only [clashes, g]⟩
  simp only [decide_eq_true_eq] at e
  simp only [issuesAt, a, b, i, d, v, e, s, w, j, reads_clean _ _ k, reduceCtorEq, not_false_eq_true, ne_eq, decide_true,
    Bool.and_self, Bool.not_false]

/-- The word issues as an instruction of the row, and its accesses meet none, by the quick check or by all pairs. -/
def runsHere (r : Row) (q : Queue) (w : Word128) (f : Station → Station) : Bool :=
  match ctxOf (queued q w f).fuses (queued q w f).mach (here q) with
  | some x => alone r x && (spread (newAccs x (specRow r x)) || decide (clashesOf [] (newAccs x (specRow r x)) = []))
  | none => false

theorem issues_of {r : Row} {q : Queue} {w : Word128} {f : Station → Station} (h : runsHere r q w f = true) :
    ∃ x, Issues (queued q w f) (here q) r x := by
  unfold runsHere at h
  split at h
  · rename_i x e
    rw [Bool.and_eq_true, Bool.or_eq_true, decide_eq_true_eq] at h
    have z : clashesOf [] (newAccs x (specRow r x)) = [] := h.2.elim (clashes_spread _) id
    obtain ⟨i, c⟩ := alone_issues h.1 (by rw [z]; rfl)
    exact ⟨x, e, i, by rw [c, z]⟩
  · cases h

/-- The word issues as an instruction of the row, and two of its accesses meet at `y`. -/
def meetsHere (r : Row) (q : Queue) (w : Word128) (f : Station → Station) (y : Nat × Nat × Nat) : Bool :=
  match ctxOf (queued q w f).fuses (queued q w f).mach (here q) with
  | some x =>
    let l := newAccs x (specRow r x)
    alone r x && l.all (fun a => a.hold == 0) && (clashesOf [] (l.filter (fun a => a.cycle == x.c))).isEmpty
    && (clashesOf [] (l.filter (fun a => a.cycle == y.1))).any (fun e => e == y) && decide (y.1 < farAway)
  | none => false

theorem meets_of {r : Row} {q : Queue} {w : Word128} {f : Station → Station} {y : Nat × Nat × Nat}
    (h : meetsHere r q w f y = true) : ∃ x z, Meets (queued q w f) (here q) r x z := by
  unfold meetsHere at h
  split at h
  · rename_i x e
    simp only [Bool.and_eq_true, List.all_eq_true, beq_iff_eq, List.isEmpty_iff, List.any_eq_true, decide_eq_true_eq] at h
    obtain ⟨⟨⟨⟨a, b⟩, c⟩, d, hd, rfl⟩, g⟩ := h
    have n : (clashesOf [] (newAccs x (specRow r x))).filter (fun y => y.1 == x.c) = [] := by
      refine List.filter_eq_nil_iff.2 (fun z hz hc => ?_)
      have hz := (clashesOf_at _ z b).1 hz
      rw [beq_iff_eq.1 hc, c] at hz
      cases hz
    obtain ⟨i, j⟩ := alone_issues a n
    have hd := (clashesOf_at _ d b).2 hd
    rw [← j] at hd
    obtain ⟨z, hz, hl⟩ := firstClash_some hd
    exact ⟨x, z, e, i, hz, Nat.lt_of_le_of_lt hl g⟩
  · cases h

/-! ### Instructions of the queues -/

/-- A loaded B buffer and an open set. -/
def loaded (s : Station) : Station :=
  { s with
    loads := 1
    bbufs := [(0, { valid := true, fmt := 1, tile := [], complete := 50 })]
    sets := [(0, { opened := true, count := 1, ready := 100 })] }

/-- An open elastic region of the MX queue, and a count register at its largest value for a loop. -/
def gated (s : Station) : Station :=
  { s with cnt := [(6, 65535)], mx := { s.mx with gate := some { g := 4, b := 12, l := 20, iaddr := 0 } } }

/-- An open loop of the MX queue. -/
def looping (s : Station) : Station := { s with mx := { s.mx with loops := [{ start := 0, left := 2, gated := none }] } }

/-- A descriptor that is READY. -/
def described (s : Station) : Station := { s with sbd := [(63, { state := .ready, base := 64, len := 1 })] }

/-- MX.LOADW of FP4 from beat 16: its word from Tables 3-2, 3-3 and 3-7 to 3-10. -/
def loadwWord : Word128 := word [(120, 0x11), (104, 10), (81, 16), (57, 1)]

theorem witness_loadw : runsHere .loadw .mx loadwWord id = true := by decide +kernel

/-- MX.MMA of FP4 with CLR: its word from Tables 3-2, 3-3 and 3-7 to 3-10. -/
def mmaWord : Word128 := word [(120, 0x12), (104, 100), (81, 16), (57, 1), (52, 1)]

theorem witness_mma : runsHere .mma .mx mmaWord loaded = true := by decide +kernel

/-- MX.DRAIN to FP8 E4M3: its word from Tables 3-2, 3-3 and 3-7 to 3-10. -/
def drainWord : Word128 := word [(120, 0x13), (104, 0x12C), (81, 16), (74, 4)]

theorem witness_drain : runsHere .drain .mx drainWord loaded = true := by decide +kernel

/-- VX.OP function 0 on FP32: its word from Tables 3-2, 3-3 and 3-7 to 3-10. -/
def vxOpWord : Word128 := word [(120, 0x21), (104, 10), (81, 16), (66, 33), (15, 1), (51, 64), (30, 1), (21, 9)]

theorem witness_vxOp : runsHere .vxop .vx vxOpWord id = true := by decide +kernel

/-- VX.CVT CONV of FP32 to BF16: its word from Tables 3-2, 3-3 and 3-7 to 3-10. -/
def convWord : Word128 := word [(120, 0x22), (104, 10), (81, 16), (51, 64), (42, 7), (30, 2), (21, 9)]

theorem witness_conv : runsHere .cvtConv .vx convWord id = true := by decide +kernel

/-- VX.CVT BFSPLIT, two parts: its word from Tables 3-2, 3-3 and 3-7 to 3-10. -/
def bfsplitWord : Word128 := word [(120, 0x22), (104, 10), (81, 16), (51, 64), (42, 2), (30, 2), (26, 1), (21, 9)]

theorem witness_bfsplit : runsHere .cvtBfsplit .vx bfsplitWord id = true := by decide +kernel

/-- VX.CVT EXPSCAN of an FP64 tile: its word from Tables 3-2, 3-3 and 3-7 to 3-10. -/
def expscanWord : Word128 := word [(120, 0x22), (104, 10), (81, 16), (51, 512), (30, 256), (26, 2), (21, 10)]

theorem witness_expscan : runsHere .cvtExpscan .vx expscanWord id = true := by decide +kernel

/-- VX.CVT SPLIT of an FP64 tile into 7 slices: its word from Tables 3-2, 3-3 and 3-7 to 3-10. -/
def splitWord : Word128 := word [(120, 0x22), (104, 10), (81, 16), (66, 300), (15, 1), (51, 512), (42, 7), (30, 256), (26, 3), (21, 10)]

theorem witness_split : meetsHere .cvtSplit .vx splitWord id (43, 2, 1) = true := by decide +kernel

/-- VX.FUNC function 0 on FP32: its word from Tables 3-2, 3-3 and 3-7 to 3-10. -/
def funcWord : Word128 := word [(120, 0x23), (104, 10), (81, 16), (51, 64), (30, 1), (21, 9)]

theorem witness_func : runsHere .vxfunc .vx funcWord id = true := by decide +kernel

/-- VX.RED SUMALL of FP32: its word from Tables 3-2, 3-3 and 3-7 to 3-10. -/
def sumallWord : Word128 := word [(120, 0x24), (104, 10), (81, 16), (66, 100), (15, 1), (51, 64), (30, 1), (21, 9)]

theorem witness_sumall : runsHere .sumall .vx sumallWord id = true := by decide +kernel

/-- VX.RED ROWSUM of one row of FP32: its word from Tables 3-2, 3-3 and 3-7 to 3-10. -/
def rowsumWord : Word128 := word [(120, 0x24), (104, 10), (81, 16), (66, 100), (15, 1), (51, 64), (30, 8), (26, 1), (21, 9)]

theorem witness_rowsum : runsHere .rowsum .vx rowsumWord id = true := by decide +kernel

/-- VX.TOPK SELECT of 16 records: its word from Tables 3-2, 3-3 and 3-7 to 3-10. -/
def topSelectWord : Word128 := word [(120, 0x25), (104, 10), (81, 16), (51, 64), (42, 15), (30, 1), (21, 9)]

theorem witness_topSelect : runsHere .topSelect .vx topSelectWord id = true := by decide +kernel

/-- VX.TOPK MERGE of 16 records: its word from Tables 3-2, 3-3 and 3-7 to 3-10. -/
def topMergeWord : Word128 := word [(120, 0x25), (104, 10), (81, 16), (66, 33), (15, 1), (51, 64), (42, 15), (30, 1), (26, 1), (21, 9)]

theorem witness_topMerge : runsHere .topMerge .vx topMergeWord id = true := by decide +kernel

/-- VX.STOP of one beat: its word from Tables 3-2, 3-3 and 3-7 to 3-10. -/
def stopWord : Word128 := word [(120, 0x26), (104, 10), (81, 16), (66, 33), (15, 1), (51, 64), (30, 1), (21, 11)]

theorem witness_stop : runsHere .vxstop .vx stopWord id = true := by decide +kernel

/-- VX.OCLD LOAD into the last cache beat: its word from Tables 3-2, 3-3 and 3-7 to 3-10. -/
def ocldLoadWord : Word128 := word [(120, 0x27), (104, 10), (81, 16), (42, 0x1FF), (30, 1)]

theorem witness_ocldLoad : runsHere .ocldLoad .vx ocldLoadWord id = true := by decide +kernel

/-- VX.OCLD KEY: its word from Tables 3-2, 3-3 and 3-7 to 3-10. -/
def ocldKeyWord : Word128 := word [(120, 0x27), (104, 10), (81, 16), (30, 1), (26, 1)]

theorem witness_ocldKey : runsHere .ocldKey .vx ocldKeyWord id = true := by decide +kernel

/-- VX.CNTLD of word 31 into count register 7: its word from Tables 3-2, 3-3 and 3-7 to 3-10. -/
def cntldWord : Word128 := word [(120, 0x28), (104, 10), (81, 16), (51, 7), (42, 31), (30, 1)]

theorem witness_cntld : runsHere .cntld .vx cntldWord id = true := by decide +kernel

/-- VX.AMAX SCAN of BF16: its word from Tables 3-2, 3-3 and 3-7 to 3-10. -/
def amaxScanWord : Word128 := word [(120, 0x29), (104, 10), (81, 16), (51, 64), (30, 1), (21, 7)]

theorem witness_amaxScan : runsHere .amaxScan .vx amaxScanWord id = true := by decide +kernel

/-- VX.AMAX LOAD of anchor register 3: its word from Tables 3-2, 3-3 and 3-7 to 3-10. -/
def amaxLoadWord : Word128 := word [(120, 0x29), (104, 10), (81, 16), (66, 33), (15, 1), (51, 3), (30, 1), (26, 1), (21, 11)]

theorem witness_amaxLoad : runsHere .amaxLoad .vx amaxLoadWord id = true := by decide +kernel

/-- MV.SEND of two beats to unit 127: its word from Tables 3-2, 3-3 and 3-7 to 3-10. -/
def sendWord : Word128 := word [(120, 0x31), (104, 10), (99, 31), (96, 7), (81, 16), (69, 2), (65, 0), (57, 127)]

theorem witness_send : runsHere .send .mv sendWord id = true := by decide +kernel

/-- MV.RECV of two beats with WOP 4: its word from Tables 3-2, 3-3 and 3-7 to 3-10. -/
def recvWord : Word128 := word [(120, 0x32), (104, 10), (81, 16), (69, 2), (57, 127), (54, 4)]

theorem witness_recv : runsHere .recv .mv recvWord id = true := by decide +kernel

/-- MV.DMA copy in, DESC 63: its word from Tables 3-2, 3-3 and 3-7 to 3-10. -/
def dmaCopyWord : Word128 := word [(120, 0x33), (104, 10), (81, 16), (69, 32), (63, 63)]

theorem witness_dmaCopy : runsHere .dmaCopy .mv dmaCopyWord id = true := by decide +kernel

/-- MV.DMA decode: its word from Tables 3-2, 3-3 and 3-7 to 3-10. -/
def dmaDecodeWord : Word128 := word [(120, 0x33), (104, 10), (81, 16), (69, 64), (50, 1)]

theorem witness_dmaDecode : runsHere .dmaDecode .mv dmaDecodeWord id = true := by decide +kernel

/-- MV.DMA gather: its word from Tables 3-2, 3-3 and 3-7 to 3-10. -/
def dmaGatherWord : Word128 := word [(120, 0x33), (104, 10), (81, 16), (69, 32), (50, 4)]

theorem witness_dmaGather : runsHere .dmaGather .mv dmaGatherWord id = true := by decide +kernel

/-- MV.DMA score: its word from Tables 3-2, 3-3 and 3-7 to 3-10. -/
def dmaScoreWord : Word128 := word [(120, 0x33), (104, 10), (81, 16), (69, 32), (50, 5)]

theorem witness_dmaScore : runsHere .dmaScore .mv dmaScoreWord id = true := by decide +kernel

/-- MV.DMA query load of all 16 slots: its word from Tables 3-2, 3-3 and 3-7 to 3-10. -/
def dmaQloadWord : Word128 := word [(120, 0x33), (104, 10), (81, 16), (69, 16), (62, 1), (50, 6)]

theorem witness_dmaQload : runsHere .dmaQload .mv dmaQloadWord id = true := by decide +kernel

/-- MV.DMA selected gather: its word from Tables 3-2, 3-3 and 3-7 to 3-10. -/
def dmaSgatherWord : Word128 := word [(120, 0x33), (104, 10), (81, 16), (69, 32), (50, 7)]

theorem witness_dmaSgather : runsHere .dmaSgather .mv dmaSgatherWord id = true := by decide +kernel

/-- MV.HOST in, up to the end of the window: its word from Tables 3-2, 3-3 and 3-7 to 3-10. -/
def hostWord : Word128 := word [(120, 0x34), (104, 10), (81, 16), (69, 2), (29, 6)]

theorem witness_host : runsHere .mvhost .mv hostWord id = true := by decide +kernel

/-- MV.CIST of the last block: its word from Tables 3-2, 3-3 and 3-7 to 3-10. -/
def cistWord : Word128 := word [(120, 0x35), (104, 10), (81, 16), (69, 32), (29, 63)]

theorem witness_cist : runsHere .mvcist .mv cistWord id = true := by decide +kernel

/-- SB.CLOSE of descriptor 63: its word from Tables 3-2, 3-3 and 3-7 to 3-10. -/
def sbCloseWord : Word128 := word [(120, 0x41), (104, 10), (90, 63)]

theorem witness_sbClose : runsHere .sbclose .mx sbCloseWord described = true := by decide +kernel

/-- CT.WAIT: its word from Tables 3-2, 3-3 and 3-7 to 3-10. -/
def waitWord : Word128 := word [(120, 0x50), (104, 0xF00)]

theorem witness_wait : runsHere .wait .mx waitWord id = true := by decide +kernel

/-- CT.LOOP of 65,535 trips: its word from Tables 3-2, 3-3 and 3-7 to 3-10. -/
def loopWord : Word128 := word [(120, 0x51), (104, 10), (80, 0xFFFF)]

theorem witness_loop : runsHere .loop .mx loopWord id = true := by decide +kernel

/-- CT.LOOPR of count register 7, which is 0: its word from Tables 3-2, 3-3 and 3-7 to 3-10. -/
def looprWord : Word128 := word [(120, 0x52), (104, 10), (93, 7)]

theorem witness_loopr : runsHere .loopr .mx looprWord gated = true := by decide +kernel

/-- CT.LOOPR of count register 6, which is 65,535: its word from Tables 3-2, 3-3 and 3-7 to 3-10. -/
def loopr1Word : Word128 := word [(120, 0x52), (104, 10), (93, 6)]

theorem witness_loopr1 : runsHere .loopr .mx loopr1Word gated = true := by decide +kernel

/-- CT.ENDLOOP: its word from Tables 3-2, 3-3 and 3-7 to 3-10. -/
def endloopWord : Word128 := word [(120, 0x53), (104, 10)]

theorem witness_endloop : runsHere .endloop .mx endloopWord looping = true := by decide +kernel

/-- CT.GATE that opens with the least budget: its word from Tables 3-2, 3-3 and 3-7 to 3-10. -/
def gateOpenWord : Word128 := word [(120, 0x54), (104, 10), (71, 8), (47, 8)]

theorem witness_gateOpen : runsHere .gateOpen .mx gateOpenWord id = true := by decide +kernel

/-- CT.GATE that closes: its word from Tables 3-2, 3-3 and 3-7 to 3-10. -/
def gateCloseWord : Word128 := word [(120, 0x54), (104, 10), (95, 1)]

theorem witness_gateClose : runsHere .gateClose .mx gateCloseWord gated = true := by decide +kernel

/-- CT.STAMP: its word from Tables 3-2, 3-3 and 3-7 to 3-10. -/
def stampWord : Word128 := word [(120, 0x55), (104, 10), (90, 31)]

theorem witness_stamp : runsHere .stamp .mx stampWord id = true := by decide +kernel

/-- CT.SETCNT of count register 7: its word from Tables 3-2, 3-3 and 3-7 to 3-10. -/
def setcntWord : Word128 := word [(120, 0x56), (104, 10), (93, 7), (61, 0xFFFFFFFF)]

theorem witness_setcnt : runsHere .setcnt .mx setcntWord id = true := by decide +kernel

/-- CT.FETCH of the last beat of the VX buffer: its word from Tables 3-2, 3-3 and 3-7 to 3-10. -/
def fetchWord : Word128 := word [(120, 0x57), (104, 10), (94, 1), (79, 7), (73, 1)]

theorem witness_fetch : runsHere .fetch .mx fetchWord id = true := by decide +kernel

/-- CT.STEPEND: its word from Tables 3-2, 3-3 and 3-7 to 3-10. -/
def stependWord : Word128 := word [(120, 0x58), (104, 10)]

theorem witness_stepend : runsHere .stepend .mx stependWord id = true := by decide +kernel

/-- LK.INJECT: its word from Tables 3-2, 3-3 and 3-7 to 3-10. -/
def injectWord : Word128 := word [(120, 0x61), (104, 10), (81, 16), (69, 32), (51, 255)]

theorem witness_inject : runsHere .inject .mv injectWord id = true := by decide +kernel

/-- LK.EXPECT: its word from Tables 3-2, 3-3 and 3-7 to 3-10. -/
def expectWord : Word128 := word [(120, 0x62), (104, 10), (81, 16), (69, 32), (61, 1)]

theorem witness_expect : runsHere .expect .mv expectWord id = true := by decide +kernel

theorem witness_mma_buffer :
    ((ctxOf (queued .mx mmaWord loaded).fuses (queued .mx mmaWord loaded).mach (here .mx)).bind
      (fun x => mmaBuf x.st x.c)) = some 0 := by decide +kernel

theorem witness_loopr_counts :
    (ctxOf (queued .mx looprWord gated).fuses (queued .mx looprWord gated).mach (here .mx)).map
      (fun x => cntAt x.st (ctCnt x.w) x.c) = some 0 ∧
    (ctxOf (queued .mx loopr1Word gated).fuses (queued .mx loopr1Word gated).mach (here .mx)).map
      (fun x => cntAt x.st (ctCnt x.w) x.c) = some 65535 := by decide +kernel

theorem witness_fetch_queue : qOf (fetQ fetchWord.toNat) = some .vx := by decide +kernel

theorem witness_MatrixCommandsResult :
    (∃ s a x, Issues s a .loadw x) ∧ (∃ s a x, Issues s a .mma x) ∧ (∃ s a x, Issues s a .drain x) :=
  ⟨⟨_, _, issues_of witness_loadw⟩, ⟨_, _, issues_of witness_mma⟩, ⟨_, _, issues_of witness_drain⟩⟩

theorem witness_VectorStreamCommandsResult :
    (∃ s a x, Issues s a .vxop x) ∧ (∃ s a x, Issues s a .cvtConv x) ∧ (∃ s a x, Issues s a .cvtBfsplit x) ∧
    (∃ s a x, Issues s a .cvtExpscan x) ∧ (∃ s a x y, Meets s a .cvtSplit x y) ∧ (∃ s a x, Issues s a .vxfunc x) ∧
    (∃ s a x, Issues s a .sumall x) ∧ (∃ s a x, Issues s a .rowsum x) :=
  ⟨⟨_, _, issues_of witness_vxOp⟩, ⟨_, _, issues_of witness_conv⟩, ⟨_, _, issues_of witness_bfsplit⟩,
    ⟨_, _, issues_of witness_expscan⟩, ⟨_, _, meets_of witness_split⟩, ⟨_, _, issues_of witness_func⟩,
    ⟨_, _, issues_of witness_sumall⟩, ⟨_, _, issues_of witness_rowsum⟩⟩

theorem witness_VectorOtherCommandsResult :
    (∃ s a x, Issues s a .topSelect x) ∧ (∃ s a x, Issues s a .topMerge x) ∧ (∃ s a x, Issues s a .vxstop x) ∧ (∃ s
    a x, Issues s a .ocldLoad x) ∧ (∃ s a x, Issues s a .ocldKey x) ∧ (∃ s a x, Issues s a .cntld x) ∧ (∃ s a x,
    Issues s a .amaxScan x) ∧ (∃ s a x, Issues s a .amaxLoad x) :=
  ⟨⟨_, _, issues_of witness_topSelect⟩, ⟨_, _, issues_of witness_topMerge⟩, ⟨_, _, issues_of witness_stop⟩, ⟨_, _,
  issues_of witness_ocldLoad⟩, ⟨_, _, issues_of witness_ocldKey⟩, ⟨_, _, issues_of witness_cntld⟩, ⟨_, _, issues_of
  witness_amaxScan⟩, ⟨_, _, issues_of witness_amaxLoad⟩⟩

theorem witness_StreamCommandsResult :
    (∃ s a x, Issues s a .send x) ∧ (∃ s a x, Issues s a .recv x) :=
  ⟨⟨_, _, issues_of witness_send⟩, ⟨_, _, issues_of witness_recv⟩⟩

theorem witness_TransferCommandsResult :
    (∃ s a x, Issues s a .dmaCopy x) ∧ (∃ s a x, Issues s a .dmaDecode x) ∧ (∃ s a x, Issues s a .dmaGather x) ∧ (∃
    s a x, Issues s a .dmaScore x) ∧ (∃ s a x, Issues s a .dmaQload x) ∧ (∃ s a x, Issues s a .dmaSgather x) ∧ (∃ s
    a x, Issues s a .mvhost x) ∧ (∃ s a x, Issues s a .mvcist x) ∧ (∃ s a x, Issues s a .inject x) ∧ (∃ s a x,
    Issues s a .expect x) :=
  ⟨⟨_, _, issues_of witness_dmaCopy⟩, ⟨_, _, issues_of witness_dmaDecode⟩, ⟨_, _, issues_of witness_dmaGather⟩, ⟨_,
  _, issues_of witness_dmaScore⟩, ⟨_, _, issues_of witness_dmaQload⟩, ⟨_, _, issues_of witness_dmaSgather⟩, ⟨_, _,
  issues_of witness_host⟩, ⟨_, _, issues_of witness_cist⟩, ⟨_, _, issues_of witness_inject⟩, ⟨_, _, issues_of
  witness_expect⟩⟩

theorem witness_ControlCommandsResult :
    (∃ s a x, Issues s a .wait x) ∧ (∃ s a x, Issues s a .loop x) ∧ (∃ s a x, Issues s a .loopr x) ∧ (∃ s a x,
    Issues s a .endloop x) ∧ (∃ s a x, Issues s a .gateOpen x) ∧ (∃ s a x, Issues s a .gateClose x) ∧ (∃ s a x,
    Issues s a .stamp x) ∧ (∃ s a x, Issues s a .setcnt x) ∧ (∃ s a x, Issues s a .stepend x) ∧ (∃ s a x, Issues s a
    .sbclose x) ∧ (∃ s a x, Issues s a .fetch x) :=
  ⟨⟨_, _, issues_of witness_wait⟩, ⟨_, _, issues_of witness_loop⟩, ⟨_, _, issues_of witness_loopr⟩, ⟨_, _, issues_of
  witness_endloop⟩, ⟨_, _, issues_of witness_gateOpen⟩, ⟨_, _, issues_of witness_gateClose⟩, ⟨_, _, issues_of
  witness_stamp⟩, ⟨_, _, issues_of witness_setcnt⟩, ⟨_, _, issues_of witness_stepend⟩, ⟨_, _, issues_of
  witness_sbClose⟩, ⟨_, _, issues_of witness_fetch⟩⟩


/-! ### Memories, counters, holds, steps and the mesh -/

/-- The machine with partition 0 changed. -/
def withPart (f : Part → Part) : Mach := onPart 0 f ready

theorem witness_StepIdlesOnEmptyQueue : (at_ ready).pending = [] ∧ (at_ ready).mach.fw.commit = none := by decide +kernel

theorem witness_MemoryFormKept : MemInv State.reset ∧ MemInv (at_ ready) ∧ Goes State.reset (at_ (idle State.reset.mach)) :=
  ⟨by unfold MemInv; decide +kernel, by unfold MemInv; decide +kernel, rfl⟩

/-- A write of the insole operation, of one byte at the last byte of a slice, seen from its third cycle. -/
def lastByte : LateWrite := { cycle := 5, delay := 3, port := 1, off := 4194303, bytes := [1] }

theorem witness_MemoryWritesResult :
    7 < lastByte.cycle + lastByte.delay ∧ lastByte.own = false ∧ lastByte.cycle + lastByte.delay ≤ 8 ∧
    (∀ x ∈ (stn ready 17).late, x.cycle ≤ lastByte.cycle) ∧ (1 : Nat) ≠ 0 := by decide +kernel

/-- A counter at its largest value without OVF, and one below it. -/
def counted_ (n : Nat) : Mach := { ready with ctrs := tput {} ready.ctrs (ctrKey .rteDup iModule 0) { count := n } }

theorem witness_CounterSaturation :
    (0 : Nat) < 1 ∧ ctr (counted_ (2 ^ 48 - 1)) .rteDup iModule 0 = { count := 2 ^ 48 - 1 } ∧
    (ctr (counted_ (2 ^ 48 - 3)) .rteDup iModule 0).count + 1 < 2 ^ 48 - 1 ∧
    2 ^ 48 - 1 ≤ (ctr (counted_ (2 ^ 48 - 2)) .rteDup iModule 0).count + 1 ∧ (regInfo .rteDup).counts = true := by
  decide +kernel

/-- A beat for station 17, sent in cycle 4 of step 7: it reaches its router in cycle 8 and the station in cycle 10. -/
def toward (src : Nat) : Beat :=
  { srcDie := 0, srcUnit := src, dstDie := 0, dstUnit := 17, stamp := 0, sent := 4, step := 7, bytes := [] }

/-- MV.RECV of two beats of station 16 stands next at station 17, and its first beat reaches the station in its issue cycle. -/
def expected (stamp : Nat) : State :=
  let s := queued .mv (word [(120, 0x32), (104, 10), (81, 16), (69, 2), (57, 16), (54, 4)]) id
  { s with mach := { s.mach with mesh := [{ toward 16 with stamp := stamp }] } }

/-- The receive streams of station 17 after its next instruction: first cycle and length. -/
def streamsAfter (s : State) : List (Nat × Nat) :=
  match exec (.mvRecv (here .mv)) s with
  | .next t => (stn t.mach 17).recvs.map (fun r => (r.cycle, r.len))
  | _ => []

/-- R114, R290, Table 7-3: the slot that the MV.RECV opens in that cycle finds its beat; one with another stamp halts later, at
the comparison. -/
theorem test_recv_in_the_cycle_of_its_beat :
    streamsAfter (expected 0) = [(10, 2)] ∧ streamsAfter (expected 5) = [(10, 2)] := by decide +kernel

/-- Two beats that meet at the local port of station 17, from east and west. -/
def meeting : State := at_ { ready with mesh := [toward 18, toward 16] }

theorem witness_RouterConflict :
    keyOf meeting.mach 0 17 = some 17 ∧ executes meeting.mach (partOf meeting.mach 0) 8 = true ∧ (2 : Nat) < 4 ∧
    contenders meeting.mach 7 0 1 1 0 8 = [(2, toward 18), (4, toward 16)] := by decide +kernel

theorem witness_MeshCommandsResult :
    (winner [(2, toward 18), (4, toward 16)] = some (2, toward 18) ∧
      [(2, toward 18), (4, toward 16)].erase (2, toward 18) = (4, toward 16) :: []) ∧
    ((contenders (at_ { ready with mesh := [toward 18] }).mach 7 0 1 1 0 8).length ≤ 1 ∧
      executes { ready with mesh := [toward 18] } 0 8 = true ∧ keyOf { ready with mesh := [toward 18] } 0 17 = some 17) ∧
    executes ready (partOf ready 0) 8 = true := by decide +kernel

/-- The unit at which a context is met, as a test. -/
def seatIs (s : State) (a : At) (f : Ctx → Bool) : Bool := (seatOf s.fuses s.mach a).any f

/-- Nothing stops the queue before the cycle. -/
def freeAt (s : State) (x : Ctx) (c : Nat) : Bool :=
  active x.st x.q && inBudget { x with c := c } && acts s.mach x.p x.key x.own c
    && (stn s.mach x.key).halted.all (fun h => decide ((c : Int) ≤ h))

/-- A queue that has nothing left, in an elastic region or not. -/
def drained_ (f : Station → Station) : State := queued .mx 0 (fun s => f { s with mx := { s.mx with entries := [] } })

/-- The queue has issued an instruction in cycle 10. -/
def late (s : Station) : Station := { s with mx := { s.mx with firstRow := false, ref := 10 } }

/-- CT.WAIT with the largest TIME. -/
def lateWord : Word128 := word [(120, 0x50), (104, 0xFFF)]

theorem witness_QueueHaltCommandsResult :
    seatIs (drained_ id) (here .mx) (fun x => x.qs.underrun (stepW ready x.p) == some (4095, 0)
      && freeAt (drained_ id) x 4095) = true ∧
    seatIs (queued .mx lateWord late) (here .mx) (fun x => x.qs.underrun (stepW ready x.p) == none
      && (x.qs.entries[x.qs.pos]?).any (fun e => decide (stepW ready x.p ≤ issueCycle x.qs e.word.toNat))
      && freeAt (queued .mx lateWord late) x 4095) = true ∧
    (ctxOf Fuses.reset (queued .mx (word [(120, 0x7F)]) id).mach (here .mx)).any (fun x => opIllegal x
      && !notIn x && freeAt (queued .mx (word [(120, 0x7F)]) id) x x.c) = true ∧
    seatIs (drained_ gated) (here .mx) (fun x => x.qs.gate.any (fun g =>
      let m := assertGate Fuses.reset x.p x.d x.unit x.key x.q g (drained_ gated).mach
      x.qs.idleTo (g.g + g.l) && acts m x.p x.key (ownOf m x.p x.d x.unit x.q) (g.g + g.l)
      && (stn m x.key).halted.isNone)) = true := by
  decide +kernel

/-- A hold that a descriptor of station 17 began at cycle 20, its cause cleared or not. -/
def holding (clear : Option Int) (carried : Bool) : Hold :=
  { stop := 20, first := 14, sinceNs := 0, carried := carried
    causes := [{ die := 0, unit := 17, code := 0, desc := 63, since := 14, queue := 0, iaddr := 32, clear := clear }] }

/-- A descriptor that is PENDING when the next instruction would close it. -/
def waiting (s : Station) : Station := { s with sbd := [(63, { state := .pending, base := 64, len := 1 })] }

theorem witness_HoldCommandsResult :
    (ctxOf Fuses.reset (queued .mx sbCloseWord waiting).mach (here .mx)).any (fun x => rowOf x.w == some .sbclose
      && !opIllegal x && active x.st x.q && acts (queued .mx sbCloseWord waiting).mach x.p x.key x.own ((x.c : Int) - 6)
      && !(holdFails x (specRow .sbclose x)).isEmpty) = true ∧
    seatIs (drained_ gated) (here .mx) (fun x => x.qs.gate.any (fun g => x.qs.idleTo g.bound.toNat
      && acts (drained_ gated).mach x.p x.key x.own g.bound && (part (drained_ gated).mach x.p).inStep && (part (drained_ gated).mach x.p).hold.isNone
      && decide (g.bound + 6 < (stepW (drained_ gated).mach x.p : Int)))) = true ∧
    (let m := withPart (fun q => { q with hold := some (holding none false) })
     (part m 0).hold = some (holding none false) ∧ (firstOpen (openCauses (holding none false))).isSome = true ∧
       runs m 0 = true) ∧
    (openCauses (holding (some 30) false) = [] ∧ (holding (some 30) false).carried = false ∧
      runs (withPart (fun q => { q with hold := some (holding (some 30) false) })) 0 = true) ∧
    (openCauses (holding (some 30) true) = [] ∧
      (part (withPart (fun q => { q with hold := some (holding (some 30) true), inStep := false })) 0).inStep = false) ∧
    runs (withPart (fun q => { q with hold := some (holding (some 30) false), st := .stopped })) 0 = false := by
  decide +kernel

/-- The queues of station 17 have ended. -/
def allOver (m : Mach) : Mach :=
  let q : QueueSt := { ended := true }
  { m with stations := [(17, { ibufMx := { base := 0, len := 8 }, mx := q, vx := q, mv := q })] }

theorem witness_StepBoundaryResult :
    mayStart (withPart (fun q => { q with inStep := false })) 0 = true ∧
    mayStart (withPart (fun q => { q with inStep := false, st := .stopping, sec := { q.sec with phase := 1 } })) 0 = true ∧
    mayEnd (allOver ready) 0 = true ∧
    mayEnd (allOver (withPart (fun q => { q with st := .stopping }))) 0 = true ∧
    mayStart ready 0 = false ∧ mayEnd ready 1 = false := by decide +kernel

/-- Station 17 receives two beats from station 18, from cycle 10 on. -/
def receiving (mesh : List Beat) (s : Station) : State :=
  at_ { ready with mesh := mesh, stations := [(17, s)] }

def slots2 : RecvSt := { cycle := 10, len := 2, loc := 0, wp := 0, die := 0, unit := 18, wop := 0, xfer := 0, beat := 0, iaddr := 0 }

/-- The slots of station 17 in a cycle, and the beat delivered to it. -/
def slotsAt (s : State) (c : Nat) : List (RecvSt × Nat) × Option Beat :=
  let m := if 2 ≤ c then routerForward 0 17 0 (c - 2) s.mach else s.mach
  (slotsIn (stn m 17) c, deliveredBeat m 7 0 17 c)

theorem witness_ReceiveCommandResult :
    physOf (receiving [toward 18] {}).mach 0 17 = some 17 ∧ executes (receiving [toward 18] {}).mach 0 11 = true ∧
    slotsAt (receiving [toward 18] { recvs := [slots2] }) 10 = ([(slots2, 0)], some (toward 18)) ∧
    slots2.dead = false ∧ (toward 18).stamp = slots2.stamp 0 ∧ (toward 18).srcUnit = slots2.unit ∧
    slotsAt (receiving [] { recvs := [slots2] }) 11 = ([(slots2, 1)], none) ∧
    slotsAt (receiving [toward 18] {}) 10 = ([], some (toward 18)) ∧
    slotsAt (receiving [toward 18] {}) 9 = ([], none) := by decide +kernel

/-! ### Transfers, reunstarted and plans -/

/-- A transfer of station 17 with one beat to move, and the state that holds it in a lane. -/
def xfer (kind : Nat) (out : Bool) (mode : Nat) : Xfer :=
  { key := 17, die := 0, unit := 17, desc := 3, kind := kind, out := out, loc := 32767, len := 1, port := 0, addr := 0
    mode := mode, iaddr := 0, started := true, src := [0] }

/-- The wellhead 0 with a loaded key, its page 0 written under it. -/
def keyed (q : List Xfer) : Well := { pages := [(0, .epoch0)], slot0 := .loaded, queue := q }

/-- The state with transfers in a lane; `hbm` is what beat 0 of wellhead 0 and the beats after it hold. -/
def moving (l : Lane) (q : List Xfer) (hbm : List Host.Cell) : State :=
  at_ (onLane l (fun _ => q) { ready with wells := [(0, keyed [])], mem := { ready.mem with hbm := hbm } })

/-- When the lane of a transfer acts in cycle 5, and the machine once its lane and its access are recorded. -/
def laneHere (m : Mach) (l : Lane) (t : Xfer) : LaneAt × Option Mach :=
  let at_ := laneAt m 17 5
  (at_, (laneMesh l t at_ m).map (fun n => recordLane t.key (!t.out) t.port (t.loc + t.moved) 0 t.iaddr at_
    (if blockBeat t then cistServed (partOf n t.die) n else n)))

/-- The transfer is found, may move a beat in cycle 5, its beat is there, and a test holds of it. -/
def movesIn (m : Mach) (l : Lane) (t : Xfer) (f : LaneAt → Mach → Bool) : Bool :=
  let y := laneHere m l t
  findXfer m 17 3 == some (l, t) && t.open_ && decide (t.moved + lostOf m t < t.len) && laneFree m t y.1 && !cold m t
    && inTurn m l t y.1 && y.2.any (f y.1)

/-- The beat that leaves the slice holds no uncorrectable word, or holds one. -/
def readsOut (bad : Bool) (t : Xfer) (at_ : LaneAt) (m : Mach) : Bool :=
  ((laneRead t.key (t.loc + t.moved) at_ m).2.1 == []) != bad

/-- A transfer into the slice, one beat of it at the station. -/
def inward (kind : Nat) : Xfer := { xfer kind false 0 with fed := 1 }

/-- The machine with one transfer in a lane, and a change. -/
def carrying (l : Lane) (t : Xfer) (f : Mach → Mach := id) : Mach := f (moving l [t] []).mach

/-- The last beat of the slice of station 17 holds an uncorrectable word. -/
def spoiled : Mach → Mach := onStn 17 (fun s => { s with spErr := [(16 * 32767 + 15, 3)] })

/-- Partition 0 has a sealed range at the end of its host window, with or without the key of a session. -/
def sealing (k : Option Nat) : Mach → Mach :=
  onPart 0 (fun q => { q with hwLen := 2 ^ 20, sealedLen := 8192, sealedKey := k })

/-- An MV.HOST of the first unit of the sealed range. -/
def sealedXfer (out : Bool) (buf : List Byte) : Xfer :=
  { xfer 1 out 0 with fed := if out then 0 else 1, addr := sealedUnit (part (sealing none ready) 0), buffered := buf }

theorem witness_LaneBeatResult_still :
    keyOf ready 0 17 = some 17 ∧
    (findXfer (carrying (.well 0) { xfer 0 true 0 with started := false }) 17 3).isSome = true ∧
    laneMesh (.well 0) (xfer 0 false 0) (laneAt (carrying (.well 0) (xfer 0 false 0)) 17 5)
      (carrying (.well 0) (xfer 0 false 0)) = none := by decide +kernel

theorem witness_LaneBeatResult_well :
    (movesIn (carrying (.well 0) (inward 0)) (.well 0) (inward 0) (fun _ m =>
      match (nextIn 0 (inward 0) m).2 with
      | .ok _ => true
      | .error _ => false)) = true ∧
    (let f := onWell 0 (fun h => { h with slot0 := .empty })
     movesIn (carrying (.well 0) (inward 0) f) (.well 0) (inward 0) (fun _ m =>
      match (nextIn 0 (inward 0) m).2 with
      | .ok _ => false
      | .error _ => true)) = true ∧
    movesIn (carrying (.well 0) (xfer 0 true 6)) (.well 0) (xfer 0 true 6) (readsOut false (xfer 0 true 6)) = true ∧
    movesIn (carrying (.well 0) (xfer 0 true 0)) (.well 0) (xfer 0 true 0) (fun a m =>
      readsOut false (xfer 0 true 0) a m && (writeHbm 0 0 1 0 (zeros 128) m).2.isNone) = true ∧
    movesIn (carrying (.well 0) (xfer 0 true 0) spoiled) (.well 0) (xfer 0 true 0) (readsOut true (xfer 0 true 0)) = true := by
  decide +kernel

theorem witness_LaneBeatResult_host :
    movesIn (carrying (.host 0) (inward 1)) (.host 0) (inward 1) (fun _ m => (hostFails m (part m 0) (inward 1)).isNone) = true ∧
    (let f (m : Mach) : Mach := { m with hostErr := [0] }
     movesIn (carrying (.host 0) (inward 1) f) (.host 0) (inward 1) (fun _ m => hostFails m (part m 0) (inward 1) == some (4, 0))) = true ∧
    (let t := sealedXfer false []
     movesIn (carrying (.host 0) t (sealing none)) (.host 0) t (fun _ m => hostFails m (part m 0) t == some (6, 0))) = true ∧
    movesIn (carrying (.host 0) (xfer 1 true 0)) (.host 0) (xfer 1 true 0) (fun a m =>
      readsOut false (xfer 1 true 0) a m && (sealedBlock (part m 0) (xfer 1 true 0)).isNone) = true ∧
    (let t := sealedXfer true (zeros 3968)
     movesIn (carrying (.host 0) t (sealing (some 0))) (.host 0) t (fun a m =>
      readsOut false t a m && sealedBlock (part m 0) t == some 0)) = true ∧
    movesIn (carrying (.host 0) (xfer 1 true 0) spoiled) (.host 0) (xfer 1 true 0) (readsOut true (xfer 1 true 0)) = true := by
  decide +kernel

theorem witness_LaneBeatResult_cistern :
    movesIn (carrying (.host 0) (inward 2)) (.host 0) (inward 2) (fun _ m => (cistFails m 0 0).isNone) = true ∧
    (let f (m : Mach) : Mach := { m with cistErr := [cistKey 0 0] }
     movesIn (carrying (.host 0) (inward 2) f) (.host 0) (inward 2) (fun _ m => cistFails m 0 0 == some 1)) = true ∧
    movesIn (carrying (.host 0) (xfer 2 true 0)) (.host 0) (xfer 2 true 0) (readsOut false (xfer 2 true 0)) = true ∧
    (let t := { xfer 2 true 0 with moved := 31, len := 32, loc := 32736, buffered := zeros 3968 }
     movesIn (carrying (.host 0) t) (.host 0) t (readsOut false t)) = true ∧
    movesIn (carrying (.host 0) (xfer 2 true 0) spoiled) (.host 0) (xfer 2 true 0) (readsOut true (xfer 2 true 0)) = true := by
  decide +kernel

theorem witness_LaneBeatResult_link :
    (let t := { xfer 3 true 0 with loc := 0, len := 2 }
     movesIn (carrying (.link 0) t) (.link 0) t (readsOut false t)) = true := by decide +kernel

/-- A transfer that waits to start. -/
def unstarted (mode : Nat) : Xfer := { xfer 0 false mode with started := false, desc := 4 }

/-- A start that reads its list or its pages well. -/
def fine {α : Type} (y : Mach × Except HbmStop α) : Bool :=
  match y.2 with
  | .ok _ => true
  | .error _ => false

theorem witness_TransferProgressResult :
    (let q := List.replicate 63 (xfer 1 false 0) ++ [unstarted 0]
     (tget [] (moving (.host 0) q []).mach.hosts 0).find? (fun t => !t.started) = some (unstarted 0) ∧
       ((tget [] (moving (.host 0) q []).mach.hosts 0).filter (fun t => t.started)).length = 63) ∧
    (let q := List.replicate 63 (xfer 0 false 0) ++ [unstarted 0]
     (well (moving (.well 0) q []).mach 0).queue.find? (fun t => !t.started) = some (unstarted 0) ∧
       ((well (moving (.well 0) q []).mach 0).queue.filter (fun t => t.started)).length = 63) ∧
    arrived ready 0 (unstarted 0) = true ∧
    fine (startGather 0 (unstarted 4) (moving (.well 0) [unstarted 4] [(0, 1), (4, 1)]).mach) = true ∧
    fine (startScore 0 (unstarted 5) (moving (.well 0) [unstarted 5] [(0, 1), (4, 1)]).mach) = true ∧
    fine (startSgather 0 (unstarted 7) (onWell 0 (fun h => { h with selections := [(0, [(0, 9)])] })
      (moving (.well 0) [unstarted 7] [(4, 1), (14, 1)]).mach)) = true ∧
    (let t := { xfer 0 false 0 with moved := 1 }
     keyOf (moving (.well 0) [t] []).mach 0 17 = some 17 ∧
       findXfer (moving (.well 0) [t] []).mach 17 3 = some (.well 0, t) ∧ xferDone (moving (.well 0) [t] []).mach t = true) ∧
    (let t := { xfer 4 false 0 with moved := 4 }
     findXfer (moving (.link 0) [t] []).mach 17 3 = some (.link 0, t) ∧ xferDone (moving (.link 0) [t] []).mach t = true) := by
  decide +kernel

theorem witness_RefreshCommandsResult :
    (wellFitted Fuses.reset 0 = true ∧ (well ready 0).selfref = false ∧ (well ready 0).debt ≤ 9) ∧
    (let m := onWell 0 (fun h => { h with debt := 8, hotNext := true }) ready
     (well m 0).debt + 1 = 9 ∧ (well m 0).unused = false ∧ stepping m 0 = true ∧ refreshing m 0 0 = false) ∧
    (let m := onWell 0 (fun h => { h with debt := 1, unused := true }) ready
     (well m 0).debt = 1 ∧ mayRefresh m 0 3999 = true) ∧
    (part (withPart (fun q => { q with rot := { q.rot with state := 2 } })) (partOf ready (wellDie 0))).rot.state = 2 := by
  decide +kernel

/-- A caller of partition 0. -/
def owner : Via := { caller := .pwin 0, slot := 0 }

/-- A policy that consents to all and has the most channels. -/
def policy : Policy := { consent := 7, maxChannels := 16384, nonce := 0, digest := 0, wellFormed := true }

/-- Partition 0 OPEN under that policy, with a further change. -/
def opened (f : Part → Part) : Mach :=
  withPart (fun q => f { q with sec := { q.sec with st := 2, session := 5, policy := some policy } })

/-- Partition 0 OPEN in a state of its plan. -/
def inState (st : PlanState) : Mach :=
  opened (fun q => { q with st := st, inStep := false, plan := if st = .empty then none else some image })

theorem witness_PlanLoadStartResult :
    (served (inState .empty) owner (some 0) 0x201 ∧ (part (inState .empty) 0).st = .empty ∧
      loadStatus Fuses.reset (inState .empty) 0 { image with grid := .g448 } = 0 ∧
      loadStatus Fuses.reset (inState .empty) 0 { image with grid := .g448, valid := false } = 1) ∧
    (served (inState .loaded) owner (some 0) 0x201 ∧ (part (inState .loaded) 0).st ≠ .empty) ∧
    (served (inState .loaded) owner (some 0) 0x202 ∧ (part (inState .loaded) 0).plan = some image ∧
      weightsOk (inState .loaded) 0 image = true ∧ image.members.all (fun y => y.1 == (inState .loaded).moduleId) = true) ∧
    (served (inState .stopped) owner (some 0) 0x202 ∧ (part (inState .stopped) 0).st = .stopped ∧
      weightsOk (inState .stopped) 0 image = true) ∧
    (served (inState .running) owner (some 0) 0x202 ∧ (part (inState .running) 0).st = .running) := by
  unfold served; decide +kernel

theorem witness_PlanOtherCommandsResult :
    served (inState .running) owner (some 0) 0x203 ∧
    (served (inState .halted) owner (some 0) 0x205 ∧ (part (inState .halted) 0).st = .halted) ∧
    (served (inState .stopping) owner (some 0) 0x205 ∧ (part (inState .stopping) 0).st = .stopping) ∧
    served (inState .halted) owner (some 0) 0x204 ∧ served (inState .halted) owner (some 0) 0x206 ∧
    (served (inState .running) owner (some 0) 0x207 ∧ (part (inState .running) 0).plan = some image ∧
      (part (inState .running) 0).st = .running ∧ journalRefuses (inState .running) 0 owner = false ∧
      owner.caller ≠ .journal ∧ 0 < image.variants.length ∧ (part (inState .running) 0).step + 2 = 9) := by
  unfold served; decide +kernel

theorem witness_IntegrityCommandsResult :
    (served (inState .loaded) owner (some 0) 0x701 ∧ slicesFree (part (inState .loaded) 0).st = true ∧
      placeOf Fuses.reset (inState .loaded) 0 (.station 0 17) = some (.slice 17) ∧
      32767 + 1 ≤ placeSize (inState .loaded) 0 (.slice 17)) ∧
    (served (inState .running) owner (some 0) 0x701 ∧
      placeOf Fuses.reset (inState .running) 0 (.wellhead 0) = some (.well 0)) ∧
    (served (inState .running) owner (some 0) 0x702 ∧ consents (inState .running) 0 0 = true ∧
      placeOf Fuses.reset (inState .running) 0 (.wellhead 3) = some (.well 3) ∧
      placeOf Fuses.reset (inState .running) 0 (.station 0 0) = some (.slice 0)) ∧
    (served (inState .running) owner (some 0) 0x703 ∧ wellBeats - 1 < wellBeats) ∧
    served (inState .running) owner (some 0) 0x704 := by unfold served; decide +kernel

/-! ### The link -/

/-- Port 0 changed from ACTIVE on eight lanes, in a module of its pod and shelf. -/
def linked (f : Port → Port) : Mach := onPort 0 (fun _ => f { st := 6, width := 0, lanes := 0xFF }) ready

/-- A sound unit of a kind. -/
def unit_ (kind arg : Nat) (p : Option Packet) : LinkUnit :=
  { ctlUnit kind arg with cls := if kind = 1 then 0 else 2, len16 := if kind = 1 then 4 else 0, pkt := p }

/-- A WRITE of 32 bytes of C0 to station 17 of die 0. -/
def write32 : Packet := mkPacket { newHdr ready 0 0 with op := 1, cls := 0, dstUnit := 17 } (zeros 32)

/-- The port after the prefix of a sound unit. -/
def after (f : Port → Port) (u : LinkUnit) : Port := port (heard 0 u (linked f)) 0

theorem witness_LinkReceiveResult :
    soundUnit (linked id) 0 { unit_ 2 0 none with resv := 1 } = false ∧
    soundUnit (linked (fun q => { q with st := 0 })) 0 (unit_ 2 0 none) = false ∧
    (let u := unit_ 1 0xFFFFFF (some write32)
     let q := after (fun q => { q with rxNext := 0xFFFFFF, outst := { c0 := 1 } }) u
     soundUnit (linked (fun q => { q with rxNext := 0xFFFFFF, outst := { c0 := 1 } })) 0 u = true ∧ u.kind = 1 ∧
       q.active = true ∧ u.arg % 2 ^ 24 = q.rxNext ∧ units write32.size = q.outst.get u.cls) ∧
    (let u := unit_ 1 0 (some write32)
     soundUnit (linked id) 0 u = true ∧ (after id u).active = true ∧ (after id u).rxNext = 0 ∧
       (after id u).outst.get u.cls + 1 = units write32.size) ∧
    (let u := unit_ 4 0x0F none
     soundUnit (linked id) 0 u = true ∧ yields (heard 0 u (linked id)) 0 = true ∧
       groupFor (after id u).lanes (u.arg % 256) = some (1, 0x0F)) ∧
    (soundUnit (linked id) 0 (unit_ 5 0 none) = true ∧ yields (heard 0 (unit_ 5 0 none) (linked id)) 0 = true) ∧
    (let f : Port → Port := fun q => { q with req := some (4, 0xC0, 0) }
     soundUnit (linked f) 0 (unit_ 6 4 none) = true ∧ (after f (unit_ 6 4 none)).req = some (4, 0xC0, 0) ∧
       groupFor (after f (unit_ 6 4 none)).lanes 0xC0 = some (2, 0xC0)) ∧
    (let f : Port → Port := fun q => { q with req := some (5, 0, 0) }
     soundUnit (linked f) 0 (unit_ 6 5 none) = true ∧ (after f (unit_ 6 5 none)).req = some (5, 0, 0)) ∧
    soundUnit (linked id) 0 (unit_ 7 0 none) = true ∧ soundUnit (linked id) 0 (unit_ 8 1 none) = true ∧
    soundUnit (linked id) 0 (unit_ 9 1 none) = true := by decide +kernel

/-- A packet that waits for port 0, sent as far as said. -/
def waits (lseq : Option Nat) (again : Bool) : OutPkt := { pkt := write32, cls := 0, lseq := lseq, again := again }

/-- What port 0 would send once its last unit has left. -/
def choice (f : Port → Port) : Choice :=
  let m := pump 0 (reachWall (((port (linked f) 0).busy + 999) / 1000) (linked f))
  (port m 0).choose m.clk.wall

theorem witness_LinkTransmitResult :
    ((port (linked id) 0).hears = true ∧ (port (linked id) 0).silent = false) ∧
    choice (fun q => { q with ctl := [ctlUnit 4 0x0F] }) = .ctl (ctlUnit 4 0x0F) ∧
    choice (fun q => { q with ackDue := true }) = .bare ∧
    choice (fun q => { q with store := [waits (some 0) true] }) = .again (waits (some 0) true) ∧
    choice (fun q => { q with store := [waits none false], cr := { c0 := 1 } }) = .fresh (waits none false) ∧
    choice (fun q => { q with store := [waits none false], wantSent := 1 }) = .nothing := by decide +kernel

theorem witness_LinkTimersResult :
    (let m := linked (fun q => { q with timer := some 0, expiries := 3 })
     (port m 0).timer = some 0 ∧ 3 ≤ (port (bump .lrkTimeouts (iPort 0) (reachWall 1000 m)) 0).expiries) ∧
    (let m := linked (fun q => { q with timer := some 0, expiries := 2 })
     (port m 0).timer = some 0 ∧ (port (bump .lrkTimeouts (iPort 0) (reachWall 1000 m)) 0).expiries < 3) ∧
    [5, 6, 7].contains (port (linked (fun q => { q with st := 5 })) 0).st = true ∧
    ((port (linked id) 0).hears = true ∧ (port (linked id) 0).st ≠ 9) ∧
    (port (linked (fun q => { q with req := some (4, 0x0F, 0) })) 0).req = some (4, 0x0F, 0) ∧
    (let o : WidthOp := { lanes := 0x0F, width := 1, tx := true, rx := true, start := 0 }
     (port (linked (fun q => { q with op := some o })) 0).op = some o ∧ o.tx = true ∧ o.rx = true) ∧
    (port (linked id) 0).active = true ∧
    ((port (linked (fun q => { q with st := 9 })) 0).active = false ∧
      [2, 3, 4, 5, 9].contains (port (linked (fun q => { q with st := 9 })) 0).st = true) := by decide +kernel

/-- The peer of port 0, with the lanes that both ends find usable. -/
def peer (lanes : BitVec 8) : PeerIdent := { mod := ready.moduleId + 1, port := 6, lanes := lanes, width := 0, ownLanes := 0xFF }

/-- The widest group of lanes that port 0 and its peer find usable. -/
def groupWith (lanes : BitVec 8) : Option (Nat × Nat) :=
  let w := (port (linked (fun q => { q with st := 3 })) 0).widthNow
  groups.find? (fun g => decide (max w (peer lanes).width ≤ g.1) && within g.2 (peer lanes).ownLanes.toNat
    && within g.2 (peer lanes).lanes.toNat)

theorem witness_LinkPrimingResult :
    (let m := linked (fun q => { q with st := 8 })
     (port m 0).st = 8 ∧ (port m 0).enable = true ∧ mayPrime m 0 = true) ∧
    (port (linked (fun q => { q with st := 1 })) 0).st = 1 ∧ (port (linked (fun q => { q with st := 2 })) 0).st = 2 ∧
    (port (linked (fun q => { q with st := 3 })) 0).st = 3 ∧ groupWith 0x55 = none ∧ groupWith 0xC3 = some (2, 0x03) ∧
    ((port (linked (fun q => { q with st := 4 })) 0).st = 4 ∧ ((List.replicate 16 (1000, 350)).map (fun y => (y : Nat × Nat).1 - y.2)).length = 16 ∧
      minOf ((List.replicate 16 (1000, 350)).map (fun y => (y : Nat × Nat).1 - y.2)) = some 650) ∧
    (port (linked (fun q => { q with st := 5 })) 0).st = 5 ∧
    [2, 3, 4, 5].contains (port (linked (fun q => { q with st := 5 })) 0).st = true ∧
    (port (linked id) 0).lanes ≠ 0 := by decide +kernel

theorem witness_LinkCommandsResult :
    let p := some (partOf (linked id) (portDie 0))
    let mgmt : Via := { caller := .mgmt, slot := 0 }
    served (linked id) mgmt p 0x501 ∧ served (linked id) mgmt p 0x502 ∧ served (linked id) mgmt p 0x503 ∧
    served (linked id) mgmt p 0x504 ∧ served (linked id) mgmt p 0x505 ∧ served (linked id) mgmt p 0x506 := by
  unfold served; decide +kernel

/-! ### Packets -/

/-- Partition 0 takes packets, port 0 with a packet in its inbox. -/
def inbox (p : Packet) (len16 : Nat) : Mach :=
  onPort 0 (fun _ => { st := 6, width := 0, lanes := 0xFF, inbox := [{ pkt := p, port := 0, cls := p.hdr.cls, len16 := len16, at_ := 0 }] })
    (onPart 0 (fun q => { q with sec := { q.sec with st := 1 } })
      (onDie 0 (fun d => { d with slots := [(255, { ep0 := { st := 1, peers := [(9, 0)] } })] }) ready))

/-- A packet of 32 bytes with a header changed before its HCRC is taken. -/
def packet (f : Header → Header) : Packet := mkPacket (f { newHdr ready 0 0 with op := 1, cls := 0, dstUnit := 17, keyslot := 255 }) (zeros 32)

/-- The checks of Table 11-5 up to the slot, for the packet of the inbox. -/
def checked (p : Packet) : Bool :=
  let i : InPkt := { pkt := p, port := 0, cls := p.hdr.cls, len16 := 5, at_ := 0 }
  p.hdr.hcrc == p.hdr.crc && prefixOk i && headerOk (inbox p 5) p.hdr

theorem witness_PacketReceiveResult :
    (port (inbox (packet id) 5) 0).inbox = [{ pkt := packet id, port := 0, cls := 0, len16 := 5, at_ := 0 }] ∧
    ({ packet id with hdr := { (packet id).hdr with xfer := 1 } } : Packet).hdr.hcrc
      ≠ ({ packet id with hdr := { (packet id).hdr with xfer := 1 } } : Packet).hdr.crc ∧
    ((packet (fun h => { h with op := 6 })).hdr.hcrc = (packet (fun h => { h with op := 6 })).hdr.crc ∧
      checked (packet (fun h => { h with op := 6 })) = false) ∧
    (let p := packet (fun h => { h with dstMod := 9, hops := 15 })
     checked p = true ∧ p.hdr.dstMod ≠ (inbox p 5).moduleId ∧ 15 ≤ p.hdr.hops) ∧
    (let p := packet (fun h => { h with dstMod := 9, hops := 14 })
     checked p = true ∧ p.hdr.dstMod ≠ (inbox p 5).moduleId ∧ p.hdr.hops < 15) ∧
    (let p := packet (fun h => { h with dstDie := 1 })
     checked p = true ∧ p.hdr.dstMod = (inbox p 5).moduleId ∧ dieHeld (inbox p 5) 1 = false) ∧
    (let p := packet (fun h => { h with keyEpoch := 1 })
     checked p = true ∧ dieHeld (inbox p 5) 0 = true ∧
       slotOk (inbox p 5) { pkt := p, port := 0, cls := 0, len16 := 5, at_ := 0 } = false) ∧
    (let p := { packet id with tagOk := false }
     checked p = true ∧ slotOk (inbox p 5) { pkt := p, port := 0, cls := 0, len16 := 5, at_ := 0 } = true ∧
       p.hdr.keyslot ≠ 0 ∧ p.tagOk = false) ∧
    (checked (packet id) = true ∧ dieHeld (inbox (packet id) 5) 0 = true ∧
      slotOk (inbox (packet id) 5) { pkt := packet id, port := 0, cls := 0, len16 := 5, at_ := 0 } = true ∧
      (packet id).tagOk = true) := by decide +kernel

/-- Die 0 with a packet at its front; a region of station 17, and windows of the wellhead 0 and of host memory. -/
def fronted (p : Packet) : Mach :=
  let region : Xfer := { xfer 4 false 0 with loc := 0, len := 1, srcMod := 0 }
  let window (unit : Nat) : RWin := { enable := true, ops := 3, unit := unit, keyslot := 255, srcMod := 0, base := 0, len := 4096 }
  onDie 0 (fun d => { d with
    deliver := [{ pkt := p, port := 0, cls := p.hdr.cls, len16 := 5, at_ := 0 }], rwins := [(0, window 0xF8), (1, window 0xE0)] })
    { inbox p 5 with links := [(0, [region])], wells := [(0, keyed [])] }

/-- A packet stands at the front of die 0, with room in the response cache. -/
def stands (p : Packet) (op : Nat) : Bool :=
  (front (fronted p) 0 (fun p => p.hdr.op == op)).any (fun i => i.pkt == p) && cacheRoom (fronted p) p.hdr

/-- The write port 0 of station 17 takes an access in cycles 0 and 1. -/
def busy : Mach → Mach := onStn 17 (fun s => { s with acc := [0, 1].map (fun c =>
  { cycle := c, bank := 7, port := 0, write := true, hold := 0, queue := 0, iaddr := 0 }) })

/-- A READ_REQ of 32 bytes at 0, for a unit. -/
def reading (unit : Nat) : Packet :=
  { packet (fun h => { h with op := 2, cls := 1, tag := 1, dstUnit := unit }) with
    payload := leBytes 8 0 ++ leBytes 4 32 ++ zeros 20 }

theorem witness_PacketExecuteResult :
    (stands (packet (fun h => { h with dstUnit := 0x90 })) 1 = true ∧
      targetFails Fuses.reset (fronted (packet (fun h => { h with dstUnit := 0x90 })))
        (packet (fun h => { h with dstUnit := 0x90 })) = some 0x31) ∧
    (let p := packet (fun h => { h with addr := 96 })
     stands p 1 = true ∧ targetFails Fuses.reset (fronted p) p = none ∧ aimOf Fuses.reset (fronted p) p.hdr = .station 17 ∧
       (regionFor (fronted p) p.hdr (32 * p.hdr.len)).isSome = true ∧
       pieceTimes (fronted p) 17 0 0 (laneAt (fronted p) 17 1) [(96, zeros 32)] = some [.cycle 1] ∧
       pieceTimes (busy (fronted p)) 17 0 0 (laneAt (busy (fronted p)) 17 1) [(96, zeros 32)] = none) ∧
    (let p := packet (fun h => { h with dstUnit := 0xF8, addr := 992 })
     stands p 1 = true ∧ targetFails Fuses.reset (fronted p) p = none ∧ aimOf Fuses.reset (fronted p) p.hdr = .host) ∧
    (stands (reading 0xF8) 2 = true ∧ targetFails Fuses.reset (fronted (reading 0xF8)) (reading 0xF8) = none ∧
      aimOf Fuses.reset (fronted (reading 0xF8)) (reading 0xF8).hdr = .host) ∧
    (stands (reading 0x90) 2 = true ∧ targetFails Fuses.reset (fronted (reading 0x90)) (reading 0x90) = some 0x31) ∧
    (stands (reading 0xE0) 2 = true ∧ targetFails Fuses.reset (fronted (reading 0xE0)) (reading 0xE0) = none ∧
      aimOf Fuses.reset (fronted (reading 0xE0)) (reading 0xE0).hdr = .well 0 ∧
      (readBeats Fuses.reset 0 0 1 (fronted (reading 0xE0))).2.isSome = true) ∧
    (let p := packet (fun h => { h with op := 3, tag := 7 })
     let r : Request := { pkt := packet (fun h => { h with tag := 7 }), ext := 0, replays := 3, sentAt := 0, port := 0, via := none }
     let mine (r : Request) : Bool :=
       r.pkt.hdr.tag == p.hdr.tag && r.pkt.hdr.dstMod == p.hdr.srcMod && r.pkt.hdr.dstDie == p.hdr.srcDie
     stands p 3 = true ∧ (die (fronted p) 0).reqs.find? mine = none ∧
       (die (onDie 0 (fun d => { d with reqs := [r] }) (fronted p)) 0).reqs.find? mine = some r) ∧
    (let p := packet (fun h => { h with op := 4 })
     stands p 4 = true ∧ targetFails Fuses.reset (fronted p) p = none ∧ aimOf Fuses.reset (fronted p) p.hdr = .station 17 ∧
       (regionFor (fronted p) p.hdr (32 * p.hdr.len)).isSome = true ∧
       pieceTimes (fronted p) 17 0 2 (laneAt (fronted p) 17 1) [(0, zeros 32)] = some [.cycle 1] ∧
       pieceTimes (busy (fronted p)) 17 0 2 (laneAt (busy (fronted p)) 17 1) [(0, zeros 32)] = none) := by decide +kernel

/-- A CONTROL packet of a CTYPE with bytes laid in it. -/
def control (l : List Byte) : Packet :=
  { packet (fun h => { h with op := 5, cls := 2, dstUnit := 0xF0, len := 1 }) with payload := fitTo 32 l }

/-- It stands at the front of die 0. -/
def controls (c : Nat) (l : List Byte) (m : Mach → Mach) : Bool := (front (m (fronted (control l))) 0 (isCtl c)).isSome

/-- The plan of partition 0 has a collective that it is a member of. -/
def gathered : Mach → Mach := onPart 0 (fun q => { q with
  plan := some { image with collectives := [{ index := 5, firstXfer := 0, count := 1, members := [(0, 0)] }] } })

theorem witness_ControlPacketsResult :
    (controls 1 [1, 0] id = true ∧ bitAt (leAt (control [1, 0]).payload 1 1) 0 = false) ∧
    (let m : Mach → Mach := onMport 0 (fun x => { x with sent := [(5, 0)] })
     controls 1 [1, 1, 0, 0, 5, 0] m = true ∧ bitAt (leAt (control [1, 1, 0, 0, 5, 0]).payload 1 1) 0 = true ∧
       (mport (m (fronted (control [1, 1, 0, 0, 5, 0]))) 0).sent.find?
         (fun y => y.1 == leAt (control [1, 1, 0, 0, 5, 0]).payload 4 2) = some (5, 0)) ∧
    controls 2 [2, 1] id = true ∧
    (controls 3 [3] id = true ∧ ((control [3]).payload.drop 8).take 16 ≠ digest16 (fronted (control [3])) 0) ∧
    (let l : List Byte := [3, 4, 0, 0, 0, 5, 0, 0] ++ digest16 (fronted (control [3])) 0
     let known (m : Mach) : Bool := m.aborts.any (fun y => decide (m.clk.wall < y.2.2.2 + 10000000) && y.1 == 5 && y.2.1 == 0 && y.2.2.1 == 0)
     let told (m : Mach) : Mach := { gathered m with aborts := [(5, 0, 0, 0)] }
     controls 3 l gathered = true ∧ controls 3 l told = true ∧
       ((control l).payload.drop 8).take 16 = digest16 (gathered (fronted (control l))) 0 ∧
       memberOf (gathered (fronted (control l))) 0 5 = true ∧ memberOf (fronted (control l)) 0 5 = false ∧
       known (gathered (fronted (control l))) = false ∧ known (told (fronted (control l))) = true) ∧
    (controls 4 [4] id = true ∧ ((control [4]).payload.drop 16).take 16 ≠ digest16 (fronted (control [4])) 0) ∧
    (let l : List Byte := [4, 1] ++ zeros 14 ++ digest16 (fronted (control [4])) 0
     controls 4 l id = true ∧ ((control l).payload.drop 16).take 16 = digest16 (fronted (control l)) 0 ∧
       planOf (fronted (control l)) 0 ≠ none ∧ begun (part (fronted (control l)) 0) 7 = true ∧
       begun (part (fronted (control l)) 0) 8 = false) ∧
    controls 5 [5] id = true := by decide +kernel

/-- A packet under forwarding through port 0. -/
def passing (f : Header → Header) : InPkt := { pkt := packet f, port := 0, cls := 0, len16 := 5, at_ := 0 }

theorem witness_WaitingPacketsResult :
    ((port (linked (fun q => { q with fwd := [passing id] })) 0).fwd = [passing id] ∧ (passing id).pkt.hdr.cls = 0 ∧
      (passing id).pkt.hdr.escaped = false) ∧
    (passing (fun h => { h with cls := 1 })).pkt.hdr.cls ≠ 0 ∧
    (let q := port (linked (fun q => { q with store := [waits none false] })) 0
     q.next 0 = none ∧ q.head 0 = some (waits none false)) ∧
    (let o : OutPkt := { waits none false with cls := 1 }
     let q := port (linked (fun q => { q with store := [waits none false, o], cr := { c0 := 1 } })) 0
     (q.next 0).isSome = true ∧ q.next 1 = none ∧ q.head 1 = some o) ∧
    (let o : OutPkt := { waits none false with cls := 1 }
     let q := port (linked (fun q => { q with store := [o] })) 0
     q.head 0 = none ∧ q.next 1 = none ∧ q.head 1 = some o) ∧
    (let x : Held := { out := { waits none false with pkt := packet (fun h => { h with dstMod := 9 }) }, table := some 0, since := 0 }
     (die (rehold 0 (onDie 0 (fun d => { d with held := [x] }) ready)) 0).held = [x]) ∧
    (let w : Waiting := { inp := passing id, ext := 1, since := 0 }
     (die (onDie 0 (fun d => { d with reorder := [w] }) ready) 0).reorder.find?
       (fun w => ((pairOf ready 0 w.inp.pkt.hdr.srcMod w.inp.pkt.hdr.srcDie).cls w.inp.pkt.hdr.cls).gap
         != some ((pairOf ready 0 w.inp.pkt.hdr.srcMod w.inp.pkt.hdr.srcDie).cls w.inp.pkt.hdr.cls).next) = some w) ∧
    (let m := onPair 0 9 0 (fun x => { x with live := true, c1 := { x.c1 with next := 1 } }) (inbox (packet id) 5)
     (pairOf m 0 9 0).live = true ∧ (pairOf m 0 9 0).c1.told ≠ (pairOf m 0 9 0).c1.next ∧
       sealSlot m 0 9 0 = some (255, 0) ∧ ((fslot m 0 255).ep 0).unord < 2 ^ 48 - 1) ∧
    (let r (n : Nat) (v : Option Via) : Request := { pkt := packet (fun h => { h with tag := 7 }), ext := 0, replays := n, sentAt := 0, port := 0, via := v }
     let found (r : Request) : Bool :=
       (die (onDie 0 (fun d => { d with reqs := [r] }) ready) 0).reqs.find? (fun r => r.pkt.hdr.tag == 7) == some r
     found (r 2 none) = true ∧ found (r 3 none) = true ∧ found (r 3 (some owner)) = true) ∧
    (let c : Cached := { mod := 9, die := 0, tag := 1, resp := packet id, at_ := 0 }
     (die (onDie 0 (fun d => { d with cache := [c] }) ready) 0).cache = [c]) ∧
    (let m := onRte none (fun r => { r with bank0 := 3 }) (linked id)
     arrivalTable m 0 = none ∧ (rteOf m none).draining = some false ∧ (port m 0).active = true ∧
       bitAt (rteOf m none).sentDrain 0 = false ∧
       (port m 0).store.any (fun o => o.pkt.hdr.epoch == b2n false) = false) ∧
    (rteOf (onRte none (fun r => { r with bank1 := 3 }) ready) (TableId.opt .module)).draining = some true := by
  decide +kernel

/-- A committed bank of a table. -/
def committed1 (p : Option Nat) (m : Mach) : Mach := onRte p (fun r => { r with bank1 := 1 }) m

theorem witness_RouteCommandsResult :
    let pw : Via := { caller := .pwin 0, slot := 0 }
    let mgmt : Via := { caller := .mgmt, slot := 0 }
    (TableId.opt .module = none ∧ callerOperator pw.caller = false ∧ pw.caller ≠ .journal ∧
      served (inState .running) pw none 0x512) ∧
    (callerOperator mgmt.caller = true ∧ served ready mgmt none 0x510 ∧ served ready mgmt none 0x511 ∧
      served ready mgmt none 0x512) ∧
    ((rteOf ready none).bank (!(rteOf ready none).epoch) ≠ 1) ∧
    (served (inState .running) mgmt (some 0) 0x511 ∧
      (rteOf (committed1 (some 0) (inState .running)) (some 0)).bank
        (!(rteOf (committed1 (some 0) (inState .running)) (some 0)).epoch) = 1 ∧
      runs (onRte (some 0) (fun r => { r with flipStep := 9 }) (committed1 (some 0) (inState .running))) 0 = true) ∧
    (rteOf (committed1 none ready) none).bank (!(rteOf (committed1 none ready) none).epoch) = 1 ∧
    (served (inState .running) pw (some (partOf (inState .running) 0)) 0x513 ∧ wellDie (0xE3 - 0xE0) = 0 ∧
      wellDie (0xE4 - 0xE0) ≠ 0) ∧
    served (inState .running) mgmt (some 0) 0x514 := by unfold served; decide +kernel

/-! ### Clocks and module time -/

/-- A time source: a PTP master at an offset, its last Sync at the wall time in force. -/
def synced (ofs : Int) (st : Nat) (m : Mach) : Mach :=
  { m with clk := { m.clk with st := st, ptp := [(m.clk.wall, ofs)], lastSync := some m.clk.wall, ptpOfs := ofs } }

/-- No plan of the module runs. -/
def quietMach : Mach := inState .loaded

/-- What servo_update() finds: its source, whether a plan runs, and the state of MTIME that it leaves. -/
def servo (m : Mach) : Option (Int × Nat) × Bool × Nat :=
  let c := m.clk
  let l := lastSecond c.wall c.ptp
  let n : Mach := { m with clk := { c with
    ptpOfs := if ptpValid m = true ∧ l ≠ [] then mean (l.map (fun y => y.2)) else c.ptpOfs
    peers := (usedPorts m).foldl (fun a k => a + 2 ^ k) 0 } }
  let x := moveState (sourceOfs n).isSome (lockOk n) n
  (sourceOfs n, anyRuns x, x.clk.st)

theorem witness_ClockCommandsResult :
    (let m := withPart (fun q => { q with target := 1, stbyLock := true })
     runs (onPart 0 (fun q => { q with stbyLock := decide ((wanted m (part m 0)).1 ≠ q.cur) }) m) 0 = true) ∧
    (let m := onPart 0 (fun q => { q with target := 3, clkPend := true }) quietMach
     let n := onPart 0 (fun q => { q with stbyLock := decide ((wanted m (part m 0)).1 ≠ q.cur) }) m
     runs n 0 = false ∧ (part n 0).clkPend = true ∧ (part n 0).stbyLock = true ∧ wanted n (part n 0) = wanted m (part m 0)) ∧
    monitored ready 0 0 = true ∧ monitored ready 0 12 = true := by decide +kernel

theorem witness_ModuleTimeResult :
    (port (linked id) 0).active = true ∧ ready.clk.cfg.ptpEn = true ∧
    servo { quietMach with clk := { quietMach.clk with st := 3 } } = (none, false, 3) ∧
    servo { quietMach with clk := { quietMach.clk with st := 1 } } = (none, false, 1) ∧
    servo (synced 0 0 quietMach) = (some (0, 0), false, 1) ∧
    (let thr : Int := (ready.clk.cfg.stepThr * 256000 : Nat)
     servo (synced (thr + 1) 1 quietMach) = (some (thr + 1, 0), false, 1) ∧
     servo (synced thr 1 quietMach) = (some (thr, 0), false, 1) ∧
     servo (synced (-thr) 0 ready) = (some (-thr, 0), true, 1) ∧
     servo (synced (-thr - 1) 0 ready) = (some (-thr - 1, 0), true, 1)) ∧
    (servoRate ready).clk.farTold = false := by decide +kernel

/-! ### Serving -/

/-- A serving plan of which partition 0 is the home, with the least and the largest values of Table 13-3. -/
def engine : Serve :=
  { home := true, stages := 1, rungs := [{ variant := 0, s := 1, p := 64, commit := 4095, bounds := [[0]] }]
    maxCtx := 2 ^ 32 - 1, draftK := 0, preds := 0, lead := 2 }

/-- Partition 0 OPEN with that plan RUNNING, its host window of 1 MB, with a further change. -/
def serving (f : Part → Part) : Mach :=
  opened (fun q => f { q with plan := some { image with serve := some engine }, hwLen := 1048576, nsValid := true })

/-- The session 0 of the home in a state, and a further change. -/
def withSess (x : Session) (f : Part → Part) : Mach :=
  serving (fun q => f { q with srv := { q.srv with sess := [(0, x)] } })

/-- The request 0 of the home in a state. -/
def withReq (r : Req) : Mach := withSess { st := .active, req := some 0 } (fun q => { q with srv := { q.srv with reqs := [(0, r)] } })

/-- The machine after a journalled command is noted. -/
def noted (code : Nat) (m : Mach) : Mach := noteCommand owner 0 code m

/-- Firmware that applies an entry of the journal. -/
def replayer : Via := { caller := .journal, slot := 0 }

theorem witness_SessionCommandsResult :
    (serves (serving id) owner 0 0x301 ∧
      lowestFree (fun s => s.st == .free) 0 (part (noted 0x301 (serving id)) 0).srv.sess = 0 ∧
      16383 < (((part (noted 0x301 (serving id)) 0).sec.policy).map (fun y => y.maxChannels)).getD 0) ∧
    (serves (withSess { st := .parked } id) owner 0 0x302 ∧ findSess (noted 0x302 (withSess { st := .parked } id)) 0 0 = some 0) ∧
    (serves (withSess { st := .active } id) owner 0 0x306 ∧
      (sess (noted 0x306 (withSess { st := .active } id)) 0 0).st ≠ .idle) ∧
    (serves (withSess { st := .idle, len := 5 } id) owner 0 0x306 ∧
      findSess (noted 0x306 (withSess { st := .idle, len := 5 } id)) 0 0 = some 0 ∧
      (sess (noted 0x306 (withSess { st := .idle, len := 5 } id)) 0 0).st = .idle ∧
      swapping (noted 0x306 (withSess { st := .idle, len := 5 } id)) 0 = false) ∧
    (served (serving (fun q => { q with st := .stopped })) owner (some 0) 0x309 ∧
      isHome (serving (fun q => { q with st := .stopped })) 0 = true ∧
      (part (serving (fun q => { q with st := .stopped })) 0).st = .stopped ∧
      findSess (serving (fun q => { q with st := .stopped })) 0 65535 = some 65535) ∧
    (findSess (serving id) 0 65536 = none ∧ serves (serving id) replayer 0 0x302 ∧ serves (serving id) replayer 0 0x306) := by
  unfold serves served; decide +kernel

/-- A request that REQ_SUBMIT takes, with stop sequences of a length. -/
def params (stopLen : Nat) : ReqParams :=
  { session := 0, promptLen := 1, promptAddr := 1024, ringAddr := 4096, ringEntries := 16, maxNew := 0, seed := 0, temp := 0
    topK := 256, nStopId := 32, nStopSeq := 8, pred := 0, rflags := 6, resv := 0, stopIds := List.replicate 32 0
    stopSeqs := List.replicate 8 (List.replicate 16 0), stopLens := List.replicate 8 stopLen }

/-- The session and the parameters are taken on a channel or none. -/
def taken (x : Session) (f : Part → Part) (r : ReqParams) : Bool :=
  let m := noted 0x303 (withSess x f)
  findSess m 0 0 == some 0 && serveOf m 0 == some engine && (sess m 0 0).st == .idle && (sess m 0 0).req == none
    && !submitBad m 0 engine (sess m 0 0) r

/-- The channel 3 of the partition under a key of zeros, its last counter 8. -/
def onChannel (q : Part) : Part := { q with sec := { q.sec with channels := [(3, { st := 1, last := some 8 })] } }

/-- A machine with an envelope of COUNTER 9 on that channel at PROMPT_ADDR, its STOP_LENs and its tag. -/
def enveloped (m : Mach) : Mach :=
  pokeHost 1024 (envHeader 0 9) (pokeHost 1680 (leBytes 8 10120863012528880304)
    (pokeHost 1692 (leBytes 16 128535159542920394124451160998488316272) m))

/-- A session on that channel, with the envelope there or not. -/
def channelled (there : Bool) : Mach :=
  let m := withSess { st := .idle, channel := some 3 } onChannel
  noted 0x303 (if there then enveloped m else m)

/-- What the envelope of the session's channel gives. -/
def opened_ (there : Bool) : Option (Nat × List Byte) :=
  openEnvelope (channelled there) (tget {} (part (channelled there) 0).sec.channels 3) (params 16)

theorem witness_replayed_submit :
    serves (withSess { st := .idle } id) replayer 0 0x303 ∧ replayer.caller = .journal ∧ owner.caller ≠ .journal ∧
    (let m := noteCommand replayer 0 0x303 (withSess { st := .idle } id)
     findSess m 0 0 = some 0 ∧ serveOf m 0 = some engine ∧ (sess m 0 0).st = .idle ∧ (sess m 0 0).req = none ∧
       submitBad m 0 engine (sess m 0 0) (params 16) = false ∧
       lowestFree (fun y => y.st == .free) 0 (part m 0).srv.reqs < 4096) := by
  unfold serves served; decide +kernel

theorem witness_RequestCommandsResult :
    serves (withSess { st := .idle } id) owner 0 0x303 ∧ serves (withSess { st := .idle, channel := some 3 } onChannel) owner 0 0x303 ∧
    taken { st := .idle } id (params 16) = true ∧ (params 16).stopLens.all (fun n => decide (n ≤ 16)) = true ∧
    taken { st := .idle, channel := some 3 } onChannel (params 16) = true ∧
    (opened_ false).isNone = true ∧ (opened_ true).map (fun y => y.1) = some 9 ∧
    (opened_ true).map (fun y => (withStops (params 16) y.2).stopLens) = some (List.replicate 8 0) ∧
    served (enveloped (withSess { st := .idle, channel := some 3 } onChannel)) owner (some 0) 0x303 ∧
    submitBad (noted 0x303 (withSess { st := .idle } id)) 0 engine { st := .idle } { params 16 with topK := 257 } = true ∧
    lowestFree (fun y => y.st == .free) 0 (part (noted 0x303 (withSess { st := .idle } id)) 0).srv.reqs < 4096 ∧
    (serves (withReq {}) owner 0 0x304 ∧ findReq (noted 0x304 (withReq {})) 0 0 = some 0 ∧ (req (noted 0x304 (withReq {})) 0 0).st = .free) ∧
    (let r : Req := { st := .decode, ended := true }
     serves (withReq r) owner 0 0x304 ∧ (req (noted 0x304 (withReq r)) 0 0).st ≠ .free ∧ (req (noted 0x304 (withReq r)) 0 0).ended = true) ∧
    (let r : Req := { st := .queued }
     serves (withReq r) owner 0 0x304 ∧ (req (noted 0x304 (withReq r)) 0 0).ended = false ∧
       (req (noted 0x304 (withReq r)) 0 0).cancel = false ∧ (req (noted 0x304 (withReq r)) 0 0).st ≠ .free) ∧
    (served (withReq {}) owner (some 0) 0x305 ∧ isHome (withReq {}) 0 = true ∧ (part (withReq {}) 0).st = .running ∧
      findReq (withReq {}) 0 4095 = some 4095) := by
  unfold serves served; decide +kernel

/-- A park image of the session on a destination, and its digest. -/
def parked (dest : Nat) : Image :=
  { len := 5, chain := 0, log := [], members := [], program := 0, wset := 0, dest := dest, blocks := [63] }

theorem witness_ParkCommandsResult :
    (let m := noted 0x307 (withSess { st := .idle } id)
     serves (withSess { st := .idle } id) owner 0 0x307 ∧ findSess m 0 0 = some 0 ∧ (sess m 0 0).st = .idle ∧
       swapping m 0 = false ∧ m.pwr.cistern ≠ 3 ∧ parkRoom m 0 0 [63] = true ∧ parkRoom m 0 0 [64] = false ∧
       reserveOk m (.park 0 0) = false ∧
       reserveOk { m with pwr := { m.pwr with energy := 7200 } } (.park 0 0) = true ∧ parkRoom m 0 1 [] = true) ∧
    (let m := withSess { st := .parking, writing := some (parked 1) } id
     findSess m 0 0 = some 0 ∧ (sess m 0 0).writing = some (parked 1) ∧ (sess m 0 0).st = .parking ∧ (parked 1).dest ≠ 0 ∧
       awaits m 0 0 = false ∧ (sess m 0 0).noResp = false) ∧
    (let m := onDie 0 (fun d => { d with asks := [{ mod := 1, die := 0, via := owner }] })
       (withSess { st := .parking, writing := some (parked 1), via := some owner } id)
     findSess m 0 0 = some 0 ∧ (sess m 0 0).writing = some (parked 1) ∧ awaits m 0 0 = true) ∧
    (let m := withSess { st := .parking, writing := some (parked 1), via := some owner, noResp := true } id
     findSess m 0 0 = some 0 ∧ (sess m 0 0).writing = some (parked 1) ∧ awaits m 0 0 = false ∧ (sess m 0 0).noResp = true) ∧
    (let m := withSess { st := .unparking, image := some (parked 0), via := some owner, noResp := true } id
     findSess m 0 0 = some 0 ∧ (sess m 0 0).image = some (parked 0) ∧ (sess m 0 0).st = .unparking ∧
       awaits m 0 0 = false ∧ (sess m 0 0).noResp = true) ∧
    (let m := withSess { st := .parking, writing := some (parked 0) } id
     let n := { m with pwr := { m.pwr with commit := some (.park 0 0) } }
     commitReady n (.park 0 0) = true ∧ (sess n 0 0).writing = some (parked 0)) ∧
    (let m := noted 0x308 (withSess { st := .parked } id)
     serves (withSess { st := .parked } id) owner 0 0x308 ∧ findSess m 0 0 = some 0 ∧ (sess m 0 0).st = .parked ∧ swapping m 0 = false) ∧
    (let m := withSess { st := .unparking, image := some (parked 0), digest := sha256 [] } id
     findSess m 0 0 = some 0 ∧ (sess m 0 0).image = some (parked 0) ∧ (sess m 0 0).st = .unparking ∧ m.pwr.cistern ≠ 3 ∧
       awaits m 0 0 = false ∧ (sess m 0 0).noResp = false ∧
       (parked 0).members = [] ∧ (sess (fetchRead 0 2 (4096 * 63) (draw m).1 0 (draw m).2) 0 0).digest = sha256 []) := by
  unfold serves served; decide +kernel

theorem witness_ServingEventsResult :
    (serveOf (serving id) 0 = some engine ∧ engine.home = true ∧ stepping (serving id) 0 = true ∧
      (part (serving id) 0).srv.commitStep ≠ some (part (serving id) 0).step) ∧
    ((part (serving (fun q => { q with srv := { q.srv with commitStep := some 7 } })) 0).srv.commitStep
      = some (part (serving (fun q => { q with srv := { q.srv with commitStep := some 7 } })) 0).step) ∧
    ((serveOf (serving id) 0).isSome = true ∧ (part (serving id) 0).srv.got.any (fun g => g.step == 7) = false) ∧
    (let o (n : Nat) : OutRec := { seq := n, token := none, logprob := 0, kind := 0, index := 0, status := 0, last := true
                                   ctx := 0, step := 7, prov := 0 }
     let m (n : Nat) : Mach := withReq { st := .decode, params := some (params 0), out := [o n] }
     findReq (m 15) 0 0 = some 0 ∧ (req (m 15) 0 0).out = [o 15] ∧
       15 < consumed (m 15) (req (m 15) 0 0).par.ringAddr + (req (m 15) 0 0).par.ringEntries ∧
       consumed (m 16) (req (m 16) 0 0).par.ringAddr + (req (m 16) 0 0).par.ringEntries ≤ 16) := by decide +kernel

/-! ### Weights -/

/-- An entry of the least length, of a tensor that is placed in the namespace. -/
def entry (d : Digest) : WEntry :=
  { tensor := 3, chunk := 0, length := 4096, srcKind := 2, target := 0, nsid := 0, saddr := 0, nonce := 0, tag := 0
    digest := d, resv := 0 }

/-- A manifest of that entry. -/
def manifest (d : Digest) : WManifest :=
  { format := 1, shard := 0, shards := 1, modelId := 0, wset := d, shardRoot := d, resv := 0, roots := [d], entries := [entry d]
    byteLen := 288 }

/-- The payload of a fetch or stage of the whole manifest, with the greatest MAX_OUT and RATE_CAP. -/
def payload_ (len : Nat) : WPayload :=
  { manAddr := 0, manLen := 288, mkey := 3, maxOut := 2 ^ 32, rateCap := 200000, dest := 0, destAddr := 0, destLen := len, resv := 0 }

/-- The plan of partition 0 in a state, serving and swapping weights, with the weights in a state. -/
def weighted (st : PlanState) (w : Wgt) : Mach :=
  let e : TierEntry := { tensor := 3, place := 1, wh := 0, home := 0, blocks := 1, back := 63, resv := 0 }
  opened (fun q => { q with
    st := st, hwLen := 288, wgt := w
    plan := some { image with serve := some engine, weights := true, tierMap := [e], wswap := some { swapRung := 0, groups := [[3]] } }
    sec := { q.sec with models := [(3, { st := 1, wset := 5 })] } })

/-- A job over the manifest whose first chunk is in a state. -/
def job (d : Digest) (c : Chunk) : Wgt :=
  { st := 1, maxOut := 2 ^ 32, job := some { man := manifest d, pay := payload_ 0, via := owner, chunks := [(0, c)] } }

/-- The staged set of the manifest. -/
def staged (w : Wgt) : Wgt := { w with stage := 2, cur := some (manifest 5), staged := some (manifest 5, payload_ 1) }

theorem witness_WeightsCommandsResult :
    (let m := weighted .loaded {}
     served m owner (some 0) 0x401 ∧ (part m 0).st = .loaded ∧ weightsBusy m 0 = false ∧
       payloadOk (part m 0) false (payload_ 0) = true ∧ payloadOk (part m 0) false { payload_ 0 with mkey := 4 } = false ∧
       checkManifest m 0 (payload_ 0) (manifest 5) = none ∧
       checkManifest m 0 (payload_ 0) (manifest 6) = some .keyMismatch) ∧
    (let m := weighted .stopped {}
     served m owner (some 0) 0x401 ∧ (part m 0).st = .stopped) ∧
    (served (weighted .running {}) owner (some 0) 0x401 ∧ (part (weighted .running {}) 0).st = .running) ∧
    weightsBusy (weighted .loaded (job 5 {})) 0 = true ∧
    (let m := weighted .running {}
     served m owner (some 0) 0x402 ∧ (part m 0).st ≠ .empty ∧ weightsBusy m 0 = false ∧
       payloadOk (part m 0) true (payload_ 64) = true ∧ checkManifest m 0 (payload_ 64) (manifest 5) = none) ∧
    (let m := weighted .running (staged {})
     served m owner (some 0) 0x403 ∧ serveOf m 0 = some engine ∧ (part m 0).wgt.staged = some (manifest 5, payload_ 1) ∧
       (part m 0).st = .running ∧ (part m 0).wgt.stage = 2 ∧ weightsBusy m 0 = false ∧
       ((part m 0).wgt.cur.map (sameShape (manifest 5))).getD false = true ∧ journalRefuses m 0 owner = false ∧
       (part m 0).wgt.phase ≠ 2 ∧ owner.caller ≠ .journal ∧ (part m 0).srv.sess = []) ∧
    (let m := weighted .running (staged { phase := 2, st := 3 })
     served m owner (some 0) 0x403 ∧ (part m 0).wgt.phase = 2 ∧ weightsBusy m 0 = false) ∧
    (let m := weighted .running {}
     (part m 0).wgt.job = none ∧ served m owner (some 0) 0x404 ∧ served m owner (some 0) 0x405) ∧
    ((part (weighted .running (job 5 {})) 0).wgt.job = (job 5 {}).job ∧ served (weighted .running (job 5 {})) owner (some 0) 0x404) ∧
    (served (weighted .running {}) owner (some 0) 0x406 ∧ served (weighted .running {}) owner (some 0) 0x407) := by
  unfold served; decide +kernel

/-- The ciphertext of the chunk, what it is under a key and a nonce of zeros, and the entry whose tag and digest hold. -/
def cipher : List Byte := zeros 4096

def plain : List Byte := gcmCrypt (0 : BitVec 256).toNat (leBytes 12 (0 : BitVec 96).toNat) cipher

def good : WEntry := { entry (sha256 ([0] ++ plain)) with tag := 65912088258885636839739701585864957647 }

/-- The model key of those tests. -/
def modelKey : LoadedKey := { st := 1, wset := 5 }

theorem good_digest : good.digest = sha256 ([0] ++ plain) := by simp only [good, entry]

/-- The manifest of that entry. -/
def goodManifest : WManifest := { manifest good.digest with entries := [good] }

theorem good_opens : openChunk modelKey goodManifest good cipher = (true, plain) := by
  refine Prod.ext ?_ rfl
  decide +kernel

theorem bad_opens : (openChunk modelKey (manifest 5) (entry 5) cipher).1 = false := by decide +kernel

theorem good_passes : chunkFails good true plain = none := by
  have n : ¬ (sha256 ([0] ++ plain) ≠ good.digest) := fun h => h good_digest.symm
  unfold chunkFails
  rw [if_neg (by decide), if_neg n]

theorem witness_ChunkEventsResult :
    (let m := weighted .running (job 5 {})
     (part m 0).wgt.job = (job 5 {}).job ∧ (manifest 5).entries[0]? = some (entry 5) ∧
       (List.range 1).find? (fun i => !(tget {} [(0, ({} : Chunk))] i).issued) = some 0) ∧
    (let m := weighted .running (job 5 {})
     (chunkBytes m (entry 5) cipher).length = (entry 5).length ∧ (chunkBytes m good cipher).length = good.length ∧
       tget {} (part m 0).sec.models 3 = modelKey) ∧
    (openChunk modelKey goodManifest good cipher = (true, plain) ∧ chunkFails good true plain = none ∧
      (openChunk modelKey (manifest 5) (entry 5) cipher).1 = false ∧ chunkFails (entry 5) false plain = some .authFail) ∧
    ((placeChunk Fuses.reset 0 good plain (withPart (fun q => { q with wgt := job good.digest { issued := true } }))).2 = true ∧
      goodManifest.entries[0]? = some good ∧
      gatewayFree (withPart (fun q => { q with wgt := job good.digest { issued := true } })) 0 = true) ∧
    ((tget {} [(0, ({ issued := true } : Chunk))] 0).issued = true ∧ (tget {} [(0, ({ issued := true } : Chunk))] 0).ok = false ∧
      (tget {} [(0, ({ issued := true, again := true } : Chunk))] 0).again = true) ∧
    (let e : TierEntry := { tensor := 3, place := 0, wh := 0, home := 0, blocks := 1, back := 63, resv := 0 }
     (placeChunk Fuses.reset 0 (entry 5) plain (withPart (fun q => { q with plan := some { image with tierMap := [e] } }))).2 = false) ∧
    (let m := weighted .running (staged { phase := 2, st := 4 })
     (part m 0).wgt.job = none ∧ swapEntry m 0 0 = some (manifest 5, payload_ 1, entry 5) ∧
       (stagedBytes m 0 (manifest 5) (payload_ 1) 0 4096).length = 4096 ∧ gatewayFree m (chunkDie m 0 false (entry 5)) = true ∧ groupCount m 0 = 1 ∧ groupTensors m 0 = [3]) ∧
    (let m := weighted .running (staged { phase := 2, st := 4, verified := [0] })
     (part m 0).wgt.staged = some (manifest 5, payload_ 1) ∧ (part m 0).wgt.phase = 2 ∧ (part m 0).wgt.st = 4 ∧
       (part m 0).wgt.groups < groupCount m 0 ∧ (part m 0).wgt.verified.contains 0 = true) := by
  refine ⟨by decide +kernel, by decide +kernel, ⟨good_opens, good_passes, bad_opens, rfl⟩,
    ⟨rfl, rfl, by decide +kernel⟩, by decide +kernel, by decide +kernel, by decide +kernel, by decide +kernel⟩

/-! ### Determinism -/

/-- A head of a journal that agrees with the plan. -/
def head_ (m : Mach) : JHead :=
  { program := image.digest, config := configDigest Fuses.reset m 0, seed := 0, chainOk := true, wset := none, endStep := 0
    badChain := false, fetches := [], times := [], manifests := [] }

/-- A point in the last cycle of step 8, with the longest SETTLE and the least dump. -/
def point : TruncPayload := { step := 8, cycle := 4095, settleUs := 100000, regions := [], dumpAddr := 0, dumpLen := 512, resv := 0 }

theorem witness_DeterminismCommandsResult :
    (served (inState .running) owner (some 0) 0x601 ∧ quiet (part (inState .running) 0).st = false) ∧
    (served (inState .stopped) owner (some 0) 0x601 ∧ quiet (part (inState .stopped) 0).st = true) ∧
    (served (inState .loaded) owner (some 0) 0x602 ∧ (part (inState .loaded) 0).plan = some image ∧ (part (inState .loaded) 0).st = .loaded) ∧
    (served (inState .stopped) owner (some 0) 0x602 ∧ (part (inState .stopped) 0).st ≠ .loaded) ∧
    served (inState .loaded) owner (some 0) 0x603 ∧ served (inState .running) owner (some 0) 0x604 ∧
    (served (inState .running) owner (some 0) 0x605 ∧ consents (inState .running) 0 2 = true ∧
      (part (inState .running) 0).det.trunc < 2 ∧ (part (inState .running) 0).step < point.step ∧
      truncOk Fuses.reset (inState .running) 0 point = true ∧ dumpSize point = 512) ∧
    (¬ (part (inState .running) 0).step < 7) ∧
    (let m := opened (fun q => { q with sec := { q.sec with policy := some { policy with consent := 3 } } })
     served m owner (some 0) 0x605 ∧ consents m 0 2 = false) ∧
    served (inState .running) owner (some 0) 0x606 ∧ served (inState .running) owner (some 0) 0x607 := by
  unfold served; decide +kernel

theorem witness_TruncateEventsResult :
    (let m := withPart (fun q => { q with step := 8, det := { q.det with trunc := 1, point := some point } })
     (part m 0).det.point = some point ∧ (part m 0).det.trunc = 1 ∧ stepping m 0 = true ∧ (part m 0).step = point.step) ∧
    (let m := withPart (fun q => { q with inStep := false, det := { q.det with trunc := 2, point := some point } })
     (part m 0).det.point = some point ∧ (part m 0).det.trunc = 2) := by decide +kernel

/-! ### Security -/

/-- The operator, and the partition 0 in a state of Table 16-9. -/
def owned (st : Nat) (f : Part → Part) : Mach :=
  { withPart (fun q => f { q with st := .empty, plan := none, inStep := false, sec := { q.sec with st := st, policy := some policy, session := 5 } }) with
    operatorKey := some 1 }

/-- A statement for an operation of partition 0. -/
def statement (op p : Nat) : Statement :=
  { op := op, mod := ready.moduleId, changeCtr := ready.change, partition := p, bodyOk := true, sig1 := true, sig2 := true }

/-- The operator's window. -/
def mgmt_ : Via := { caller := .mgmt, slot := 31 }

/-- A body of Table 16-3 for one die. -/
def body_ : PartBody :=
  { dies := [0], nsBlocks := 64, hwinBase := 0, hwinLen := 2097152, sealedLen := 0, tenantKey := 2, restZero := true }

theorem witness_SecurityCommandsResult :
    (served ready mgmt_ none 0x101 ∧ served ready mgmt_ none 0x103 ∧ served ready mgmt_ none 0x104) ∧
    ({ statement 3 0xFF with changeCtr := ready.change + 1 } : Statement).changeCtr ≠ ready.change ∧
    (authentic ready (statement 3 0xFF) 3 0xFF = true ∧ authentic ready { statement 3 0xFF with sig2 := false } 3 0xFF = false) ∧
    (compositions.contains body_.dies = true ∧ (∀ q ∈ holders (owned 0 id) body_.dies, (part (owned 0 id) q).sec.st = 0) ∧
      assignOk Fuses.reset (owned 0 id) body_ = true ∧
      assignOk Fuses.reset (owned 0 id) { body_ with hwinLen := 2097151 } = false ∧
      authentic (owned 0 id) (statement 1 0) 1 (body_.dies.headD 0) = true) ∧
    (body_.restZero = true ∧ (part (owned 1 id) 0).dies = body_.dies ∧ (part (owned 1 id) 0).sec.st = 1 ∧
      authentic (owned 1 id) (statement 1 0) 1 0 = true ∧ (part (owned 2 id) 0).sec.st ≠ 1) ∧
    (served (owned 1 id) owner (some 0) 0x105 ∧ (part (owned 1 id) 0).sec.st = 1 ∧ policyOk policy = true ∧
      served (owned 2 id) owner (some 0) 0x105 ∧ (part (owned 2 id) 0).sec.st ≠ 1) ∧
    (served (owned 2 id) owner (some 0) 0x106 ∧ (part (owned 2 id) 0).sec.st = 2 ∧ authentic (owned 2 id) (statement 2 0) 2 0 = true ∧
      served (owned 1 id) owner (some 0) 0x106) ∧
    (served (owned 2 id) owner (some 0) 0x102 ∧ served (owned 1 id) owner (some 0) 0x102 ∧ served (owned 1 id) owner (some 0) 0x10C) := by
  unfold served; decide +kernel

/-- A blob of the session in force. -/
def blob_ (kind slot : Nat) (sig : Bool) : KeyBlob :=
  { decrypts := true, sigOk := sig, blob := 1, kind := kind, epoch := 0, slot := slot, resv := 0, session := 5, key := 0, wset := 0
    modelId := 0, peers := [] }

theorem witness_KeyCommandsResult :
    (served (owned 2 id) owner (some 0) 0x107 ∧ (part (owned 2 id) 0).sec.st = 2 ∧ (blob_ 2 255 false).decrypts = true ∧
      (blob_ 2 255 false).session.toNat = (part (owned 2 id) 0).sec.session ∧ blobOk (owned 2 id) 0 (blob_ 2 255 true) = true ∧
      blobOk (owned 2 id) 0 (blob_ 5 16384 true) = false) ∧
    (blob_ 2 255 false).sigOk = false ∧ (part (owned 1 id) 0).sec.st ≠ 2 ∧ served (owned 1 id) owner (some 0) 0x107 ∧
    served (owned 2 id) owner (some 0) 0x108 ∧ 16383 < maxChannels (owned 2 id) 0 ∧
    (served (owned 2 id) owner (some 0) 0x109 ∧
      (let m := onDie 0 (fun d => { d with slots := [(255, { ep0 := { st := 1 }, ep1 := { st := 1 } })] }) (owned 2 id)
       (fslot m 0 255).ep0.st = 1 ∧ (fslot m 0 255).ep1.st = 1)) ∧
    (served (owned 2 id) owner (some 0) 0x10A ∧ (part (owned 2 id) 0).rot.state = 0 ∧
      (partWells Fuses.reset (owned 2 id) 0).all (fun w => (well (owned 2 id) w).slot1 == .empty) = true) ∧
    (part (owned 2 (fun q => { q with rot := { q.rot with state := 1 } })) 0).rot = { state := 1, loaded := false } := by
  unfold served; decide +kernel

theorem witness_TeardownResult :
    (served (owned 2 id) owner (some 0) 0x10B ∧ authentic (owned 2 id) (statement 4 0) 4 0 = true ∧ (part (owned 2 id) 0).sec.st = 2 ∧
      authentic (owned 2 id) { statement 4 0 with sig1 := false, sig2 := false } 4 0 = false) ∧
    (served (owned 1 id) owner (some 0) 0x10B ∧ (part (owned 1 id) 0).sec.st = 1) ∧
    (let m := owned 3 (fun q => { q with sec := { q.sec with phase := 1 } })
     (part m 0).sec.st = 3 ∧ (part m 0).sec.phase = 1 ∧ runs m 0 = false) ∧
    (part (owned 3 (fun q => { q with sec := { q.sec with phase := 2 } })) 0).sec.phase = 2 ∧
    (part (owned 3 (fun q => { q with sec := { q.sec with phase := 4 } })) 0).sec.phase = 4 := by
  unfold served; decide +kernel

/-! ### Mailboxes, registers, firmware, power -/

/-- A slot of window 4 as management posts it. -/
def posted (own code : Nat) : SlotPost := { slot := 31, own := own, code := code, flags := 1, plen := 4096, tag := 0, resv := 0, payload := [] }

/-- A store of host software that ends at the reserved region. -/
def lastStore : HostStore := { addr := 0x3F80000000 - 32, bytes := zeros 32 }

theorem witness_MailboxCommandsResult :
    ready.boot = 3 ∧ Mach.reset.boot ≠ 3 ∧
    (lastStore.addr + lastStore.bytes.length ≤ 0x3F80000000 ∧
      0x3F80000000 < { lastStore with addr := lastStore.addr + 1 : HostStore }.addr + lastStore.bytes.length) ∧
    ((posted 2 0x101).own ≠ 1 ∧ (posted 1 0x10C).own = 1 ∧ (posted 1 0x10C).resv = 0 ∧ (posted 1 0x10C).flags ≤ 1 ∧
      (posted 1 0x10C).plen ≤ 4096) ∧
    codeKnown (posted 1 0x10D).code = false ∧ codeKnown (posted 1 0x10C).code = true ∧
    (let m := onWin 0 (fun y => { y with slots := [(0, { own := 1, code := 0x10C, flags := 1, plen := 4096 }), (1, { own := 1, flags := 2 })
                                                   , (2, { own := 1 }), (4, { own := 1, code := 0x10D }), (5, { own := 2 })], busy := 4 }) ready
     (tget {} (win m 0).slots 5).own ≠ 0 ∧ (tget {} (win m 0).slots 5).own ≠ 1 ∧ bitAt (win m 0).busy 5 = false ∧
     (tget {} (win m 0).slots 1).own = 1 ∧ (tget {} (win m 0).slots 3).own = 0 ∧ bitAt (win m 0).busy 2 = true ∧ bitAt (win m 0).busy 1 = false ∧
       1 < (tget {} (win m 0).slots 1).flags ∧ bitAt (win m 0).busy 0 = false ∧ (tget {} (win m 0).slots 0).own = 1 ∧
       (tget {} (win m 0).slots 0).flags ≤ 1 ∧ (tget {} (win m 0).slots 0).plen ≤ 4096 ∧
       codeKnown (tget {} (win m 0).slots 0).code = true ∧ bitAt (win m 0).busy 4 = false ∧
       codeKnown (tget {} (win m 0).slots 4).code = false) := by decide +kernel

/-- A register of partition 0 by its place. -/
def place_ (kind low elem : Nat) : RegAt := { kind := kind, low := low, elem := elem, bank := 0 }

theorem witness_RegisterCommandsResult :
    (served ready mgmt_ none 0x901 ∧ served ready mgmt_ none 0x902 ∧ served ready mgmt_ none 0x903 ∧ served ready owner none 0x903) ∧
    (regOfNum (regNum .lrkCfg) = some .lrkCfg ∧ regRange Fuses.reset ready .lrkCfg 5 15 0 1 = false ∧
      regRange Fuses.reset ready .lrkCfg 5 16 0 1 = true ∧ mayRead ready .mgmt .lrkCfg (place_ 5 15 0) = true ∧
      mayRead ready (.pwin 1) .lrkCfg (place_ 5 0 0) = false) ∧
    ((regInfo .lrkCfg).wmask ≠ 0 ∧ mayWrite ready .mgmt .lrkCfg (place_ 5 15 0) = true ∧
      mayWrite ready (.pwin 1) .lrkCfg (place_ 5 0 0) = false ∧
      writeFails Fuses.reset ready .lrkCfg (place_ 5 15 0) 0x80401000 = none ∧
      writeFails Fuses.reset ready .lrkCfg (place_ 5 15 0) 0x80411000 = some .range) := by unfold served; decide +kernel

theorem witness_TelemetryCommandsResult :
    served ready mgmt_ none 0x904 ∧ served ready mgmt_ none 0x906 ∧
    (let m := opened (fun q => { q with hwLen := 2048 })
     served m owner (some 0) 0x905 ∧ telemSize 16 = true ∧ inClear (part m 0) 64 (64 + 64 * 16) = true ∧
       inClear (part m 0) 1024 (64 + 64 * 16) = false) := by unfold served; decide +kernel

/-- A firmware image of an SVN. -/
def fwImage (svn : Nat) (cert body : Bool) : FwImage :=
  { svn := svn, version := 1, digest := 1, certOk := cert, sigOk := true, bodyOk := body, reservedZero := true }

/-- The firmware changed. -/
def withFw (f : Fw → Fw) : Mach := { ready with fw := f ready.fw }

theorem witness_FirmwareCommandsResult :
    (served ready mgmt_ none 0x810 ∧ ready.fw.commit = none ∧ 0 + 2 ^ 38 ≤ 2 ^ 38 ∧ imageFault ready (fwImage 0 true true) = none ∧
      imageFault (withFw (fun x => { x with svnFuse := 1 })) (fwImage 0 true true) = some 3 ∧
      imageFault ready (fwImage 0 true false) = some 2) ∧
    (let m := withFw (fun x => { x with commit := some (fwImage 0 true true, mgmt_) })
     served m mgmt_ none 0x810 ∧ m.fw.commit.isSome = true ∧ served m mgmt_ none 0x811) ∧
    (let m := withFw (fun x => { x with staged := some (fwImage 0 true true) })
     served m mgmt_ none 0x811 ∧ m.fw.staged = some (fwImage 0 true true) ∧ m.fw.commit = none) ∧
    served ready mgmt_ none 0x812 ∧ served ready mgmt_ none 0x813 ∧ served ready mgmt_ none 0x814 := by
  unfold served; decide +kernel

theorem witness_FaultEventsResult : dieRuns ready 0 = true := by decide +kernel

/-- The image's record stands WRITING at its seventh step, and the reserved region may hold its image. -/
def halfWritten (left : Option FwImage) : Mach :=
  { Mach.reset with fw := { Mach.reset.fw with
      recA := { gen := 2, progress := 6, done := false, digest := 1, crcOk := true }, left := left } }

theorem witness_BootCommandsResult :
    (let m := (repeatCommit (fwImage 0 false true) (logicUp (loseAlwaysOn Mach.reset))).1
     imageFault m (fwImage 0 false true) = some 1 ∧ imageFault m (fwImage 0 true true) = none ∧ m.fw.latest.done = true) ∧
    (let up := logicUp (loseAlwaysOn (halfWritten (some (fwImage 0 true true))))
     up.fw.latest.done = false ∧ up.fw.left = some (fwImage 0 true true) ∧ (fwImage 0 true true).digest = up.fw.latest.digest) ∧
    (let y := repeatCommit (fwImage 0 true true) (logicUp (loseAlwaysOn (halfWritten none)))
     imageFault y.1 y.2 = none ∧ y.1.fw.latest.done = false) ∧
    ({ ready with boot := 2 } : Mach).boot = 2 ∧ ({ ready with boot := 4 } : Mach).boot = 4 ∧
    imageFault { ready with boot := 4 } (fwImage 0 true true) = none ∧ ready.boot ≠ 4 := by decide +kernel

/-- A frame of a type, sealed under its CRC, and the module with an address. -/
def frame (dst typ len : Nat) (l : List Byte) : Frame :=
  frameSeal { dst := dst, src := 0, typ := typ, seq := 7, len := len, resv := 0, payload := fitTo 52 l, crc := 0 }

def addressed (a slot : Nat) (f : Wch → Wch) : Mach := { ready with wch := f { ready.wch with addr := a, slot := slot, bypass := false } }

theorem witness_ChainForwardResult :
    ready.wch.bypass = true ∧
    ((addressed 4 4 id).wch.bypass = false ∧ (addressed 4 4 id).wch.addr ≠ 0 ∧ (frame 5 4 0 []).dst ≠ (addressed 4 4 id).wch.addr ∧
      (frame 5 4 0 []).dst ≠ 0xFF) ∧
    ((frame 0xFF 1 2 [8, 0x80]).typ = 1 ∧ (addressed 0 0 id).wch.addr = 0 ∧ frameSound (frame 0xFF 1 2 [8, 0x80]) = true ∧
      frameSound { frame 0xFF 1 2 [8, 0x80] with crc := 0 } = false ∧
      enumSlot (leAt (frame 0xFF 1 2 [8, 0x80]).payload 0 1) (leAt (frame 0xFF 1 2 [8, 0x80]).payload 1 1) = some 8 ∧
      enumSlot (leAt (frame 0xFF 1 2 [9, 0x80]).payload 0 1) (leAt (frame 0xFF 1 2 [9, 0x80]).payload 1 1) = none) ∧
    ((arrive (addressed 0 3 id)).wch.slot ≠ 0 ∧ (arrive (addressed 0 3 id)).wch.slot ≠ 8 ∧ (arrive (addressed 0 8 id)).wch.slot = 8) := by
  decide +kernel

theorem witness_ChainExecuteResult :
    (let m := addressed 4 4 id
     let f := frame 4 4 52 []
     m.wch.bypass = false ∧ m.wch.addr ≠ 0 ∧ f.dst = m.wch.addr ∧ f.typ = 4 ∧ frameSound f = true ∧
       frameSound { f with crc := 0 } = false ∧ (tget (256, none) (bump .wchFrames iModule (arrive m)).wch.last 4).1 ≠ f.seq ∧
       f.resv = 0 ∧ f.len ≤ 52) ∧
    (let m := addressed 4 4 (fun w => { w with last := [(4, (7, some (frame 0 4 0 [])))] })
     (tget (256, none) (bump .wchFrames iModule (arrive m)).wch.last 4).1 = (frame 4 4 0 []).seq ∧
       (tget (256, none) (bump .wchFrames iModule (arrive m)).wch.last 4).2 = some (frame 0 4 0 [])) ∧
    ((frame 0xFF 4 53 []).dst = 0xFF ∧ frameSound (frame 0xFF 4 53 []) = true ∧ 52 < (frame 0xFF 4 53 []).len) ∧
    frameTypes.contains (frame 4 9 0 []).typ = false := by decide +kernel

/-- The power domain changed. -/
def withPwr (f : Pwr → Pwr) : Mach := { ready with pwr := f ready.pwr }

theorem witness_PowerCommandsResult :
    (served ready mgmt_ none 0x801 ∧ (5 : Nat) ≠ 0 ∧ ready.pwr.st = 0 ∧ ready.pwr.inTransit = false) ∧
    (let m := withPwr (fun x => { x with inTransit := true, target := 3 })
     served m mgmt_ none 0x801 ∧ m.pwr.inTransit = true ∧ m.pwr.failing = false ∧ m.pwr.target = 3) ∧
    (let m := withPwr (fun x => { x with inTransit := true, target := 0, st := 2 })
     m.pwr.target = 0 ∧ m.pwr.st = 2 ∧ m.pwr.failing = false) ∧
    (let m := withPwr (fun x => { x with inTransit := true, target := 0, st := 3 })
     m.pwr.target = 0 ∧ m.pwr.st = 3 ∧ m.pwr.failing = false) ∧
    (let m := withPwr (fun x => { x with inTransit := true, target := 0 })
     m.pwr.target = 0 ∧ m.pwr.st ≠ 2 ∧ m.pwr.st ≠ 3 ∧ m.pwr.failing = false) ∧
    ((withPwr (fun x => { x with inTransit := true, target := 2 })).pwr.target = 2 ∧
      (withPwr (fun x => { x with inTransit := true, target := 4 })).pwr.target = 4) ∧
    ((withPwr (fun x => { x with inTransit := true, failing := true })).pwr.failing = true ∧ ready.pwr.inTransit = false) ∧
    (powerRefused ready 3 = some .badState ∧ served quietMach mgmt_ none 0x801 ∧ powerRefused quietMach 2 = none ∧ quietMach.pwr.st = 0) ∧
    (powerRefused (withPwr (fun x => { x with st := 2 })) 0 = none ∧ (withPwr (fun x => { x with st := 2 })).pwr.st ≠ 4 ∧
      (withPwr (fun x => { x with st := 2 })).pwr.inTransit = false) ∧
    (let m := { onPart 0 (fun q => { q with st := .loaded, inStep := false }) (withPwr (fun x => { x with st := 2 })) with boot := 3 }
     served m mgmt_ none 0x801 ∧ powerRefused m 2 = none ∧ m.pwr.st ≠ 4 ∧ m.pwr.st = 2) ∧
    (let m := withPwr (fun x => { x with st := 4 })
     served m mgmt_ none 0x801 ∧ powerRefused m 0 = none ∧ m.pwr.st = 4) ∧
    served ready mgmt_ none 0x802 ∧ served ready mgmt_ none 0x804 := by unfold served; decide +kernel

theorem witness_TankEventsResult :
    served ready mgmt_ none 0x803 ∧
    ((withPwr (fun x => { x with inputOk := true })).pwr.tank ≠ 2 ∧ (withPwr (fun x => { x with inputOk := true })).pwr.inputOk = true) ∧
    ((withPwr (fun x => { x with tank := 2 })).pwr.tank = 2 ∧ goingPark ready = none) ∧
    (let m := { withSess { st := .parking, writing := some (parked 0) } id with pwr := { ready.pwr with commit := some (.park 0 0) } }
     goingPark m = some (0, 0)) ∧
    ((withPwr (fun x => { x with failed := some (5, false) })).pwr.failed.isSome = true ∧
      (withPwr (fun x => { x with failed := some (5, false) })).pwr.failing = false ∧ ready.pwr.failed = none) ∧
    ((withPwr (fun x => { x with failed := some (5, false), failing := true })).pwr.failed.isSome = true ∧
      (withPwr (fun x => { x with failed := some (5, false), failing := true })).pwr.failing = true) ∧
    (ready.pwr.toStart = false ∧
      (let m := withPwr (fun x => { x with commit := some .fw, toStart := true, energy := 3000 })
       m.pwr.toStart = true ∧ m.pwr.commit = some .fw ∧ Commit.fw.need ≤ m.pwr.energy)) := by
  unfold served; decide +kernel

theorem witness_LimitEventsResult :
    (let l := limitWatts Fuses.reset ready
     97 * l < 10 * (97 * l / 10 + 1) ∧ ready.pwr.step < 3 ∧ 10 * (97 * l / 10) ≤ 97 * l ∧ 10 * (9 * l - 1) < 90 * l ∧
       90 * l ≤ 10 * (9 * l) ∧ 0 < (withPwr (fun x => { x with step := 1 })).pwr.step ∧ ¬ (withPwr (fun x => { x with step := 3 })).pwr.step < 3) ∧
    (let m := setTemp 0 0 1680 ready
     (part m 0).dies.any (fun d => atLeast m d 105) = true ∧ (part m 0).thermal < 3) ∧
    (let m := onPart 0 (fun q => { q with thermal := 3 }) (setTemp 0 0 1680 ready)
     (part m 0).dies.any (fun d => atLeast m d 105) = true ∧ 3 ≤ (part m 0).thermal) ∧
    (let m := reachWall 1000000000 (onPart 0 (fun q => { q with thermal := 1 }) (setTemp 0 0 1600 ready))
     (part m 0).dies.any (fun d => atLeast m d 105) = false ∧ (part m 0).dies.all (coolLong m) = true ∧ 0 < (part m 0).thermal) ∧
    (let m := onPart 0 (fun q => { q with thermal := 1 }) (setTemp 0 0 1601 ready)
     (part m 0).dies.any (fun d => atLeast m d 105) = false ∧ (part m 0).dies.all (coolLong m) = false) := by decide +kernel

/-- A module of the grade HX-930, which has no stack 7. -/
def lesser : Fuses := { Fuses.reset with full := false }

/-- A sensor of each kind of Table 18-11 is met by its clause, and one that the grade does not have. -/
theorem witness_ThermalEventsResult :
    absent lesser { kind := 1, index := 7 } = true ∧ absent Fuses.reset { kind := 1, index := 7 } = false ∧
    ({ kind := 0, index := 3 } : Sensor).kind = 0 ∧ ({ kind := 1, index := 7 } : Sensor).kind = 1 ∧ ({ kind := 2, index := 0 } : Sensor).kind = 2 ∧
    ({ kind := 3, index := 0 } : Sensor).kind = 3 ∧ 4 ≤ ({ kind := 4, index := 8 } : Sensor).kind := by decide +kernel
/-! ### Ill-formed operands and commands, which the checks refuse -/

/-- A Header of zeros. -/
def noHeader : Header :=
  { resv := 0, hcrc := 0, hops := 0, xfer := 0, step := 0, keyEpoch := 0, keyslot := 0, pseq := 0, tag := 0,
    len := 0, addr := 0, srcUnit := 0, srcDie := 0, srcMod := 0, dstUnit := 0, dstDie := 0, dstMod := 0,
    flags := 0, epoch := 0, cls := 0, op := 0 }

theorem test_wf_header : noHeader.wf = true ∧ (
    [{ noHeader with resv := 2 ^ 28 }, { noHeader with hcrc := 2 ^ 32 }, { noHeader with hops := 2 ^ 4 },
      { noHeader with xfer := 2 ^ 16 }, { noHeader with step := 2 ^ 16 }, { noHeader with keyEpoch := 2 ^ 1 },
      { noHeader with keyslot := 2 ^ 8 }, { noHeader with pseq := 2 ^ 16 }, { noHeader with tag := 2 ^ 16 },
      { noHeader with len := 2 ^ 8 }, { noHeader with addr := 2 ^ 48 }, { noHeader with srcUnit := 2 ^ 8 },
      { noHeader with srcDie := 2 ^ 2 }, { noHeader with srcMod := 2 ^ 14 }, { noHeader with dstUnit := 2 ^ 8 },
      { noHeader with dstDie := 2 ^ 2 }, { noHeader with dstMod := 2 ^ 14 }, { noHeader with flags := 2 ^ 8 },
      { noHeader with epoch := 2 ^ 1 }, { noHeader with cls := 2 ^ 2 }, { noHeader with op := 2 ^ 4 }] : List Header).all (fun x => !x.wf) = true := by decide +kernel

/-- A LinkUnit of zeros. -/
def noLinkUnit : LinkUnit :=
  { kind := 0, cls := 0, arg := 0, ack := 0, crCls := 0, cr := 0, len16 := 0, want := 0, resv := 0,
    lcrcOk := false, fecOk := false, pkt := none }

theorem test_wf_link_unit : noLinkUnit.wf = true ∧ (
    [{ noLinkUnit with kind := 2 ^ 4 }, { noLinkUnit with cls := 2 ^ 2 }, { noLinkUnit with arg := 2 ^ 24 },
      { noLinkUnit with ack := 2 ^ 24 }, { noLinkUnit with crCls := 2 ^ 2 }, { noLinkUnit with cr := 2 ^ 16 },
      { noLinkUnit with len16 := 2 ^ 9 }, { noLinkUnit with want := 2 ^ 4 }, { noLinkUnit with resv := 2 ^ 11 },
      { noLinkUnit with pkt := some ⟨{ noHeader with op := 16 }, [], true⟩ }] : List LinkUnit).all (fun x => !x.wf) = true := by decide +kernel

/-- A Frame of zeros. -/
def noFrame : Frame :=
  { dst := 0, src := 0, typ := 0, seq := 0, len := 0, resv := 0, payload := List.replicate 52 0, crc := 0 }

theorem test_wf_frame : noFrame.wf = true ∧ (
    [{ noFrame with dst := 2 ^ 8 }, { noFrame with src := 2 ^ 8 }, { noFrame with typ := 2 ^ 8 },
      { noFrame with seq := 2 ^ 8 }, { noFrame with len := 2 ^ 8 }, { noFrame with resv := 2 ^ 24 },
      { noFrame with crc := 2 ^ 32 }, { noFrame with payload := [] }] : List Frame).all (fun x => !x.wf) = true := by decide +kernel

/-- A SlotPost of zeros. -/
def noSlotPost : SlotPost :=
  { slot := 0, own := 0, code := 0, flags := 0, plen := 0, tag := 0, resv := 0, payload := [] }

theorem test_wf_slot_post : noSlotPost.wf = true ∧ (
    [{ noSlotPost with own := 2 ^ 32 }, { noSlotPost with code := 2 ^ 16 }, { noSlotPost with flags := 2 ^ 8 },
      { noSlotPost with plen := 2 ^ 32 }, { noSlotPost with tag := 2 ^ 64 },
      { noSlotPost with payload := List.replicate 4097 0 }] : List SlotPost).all (fun x => !x.wf) = true := by decide +kernel

/-- A HostStore of zeros. -/
def noHostStore : HostStore :=
  { addr := 0, bytes := [] }

theorem test_wf_host_store : noHostStore.wf = true ∧ (
    [{ noHostStore with addr := 2 ^ 38 - 1, bytes := [1, 2] }] : List HostStore).all (fun x => !x.wf) = true := by decide +kernel

/-- A RouteEntry of zeros. -/
def noRouteEntry : RouteEntry :=
  { secondKind := 0, secondPort := 0, escValid := false, escPort := 0, firstValid := false, firstPort := 0 }

theorem test_wf_route_entry : noRouteEntry.wf = true ∧ (
    [{ noRouteEntry with secondKind := 2 ^ 2 }, { noRouteEntry with secondPort := 2 ^ 4 },
      { noRouteEntry with escPort := 2 ^ 4 }, { noRouteEntry with firstPort := 2 ^ 4 }] : List RouteEntry).all (fun x => !x.wf) = true := by decide +kernel

/-- A RWin of zeros. -/
def noRWin : RWin :=
  { enable := false, ops := 0, unit := 0, keyslot := 0, srcMod := 0, base := 0, len := 0 }

theorem test_wf_r_win : noRWin.wf = true ∧ (
    [{ noRWin with ops := 2 ^ 3 }, { noRWin with unit := 2 ^ 8 }, { noRWin with keyslot := 2 ^ 8 },
      { noRWin with srcMod := 2 ^ 14 }, { noRWin with base := 2 ^ 48 }, { noRWin with len := 2 ^ 40 }] : List RWin).all (fun x => !x.wf) = true := by decide +kernel

/-- A ReqParams of zeros. -/
def noReqParams : ReqParams :=
  { session := 0, promptLen := 0, promptAddr := 0, ringAddr := 0, ringEntries := 0, maxNew := 0, seed := 0,
    temp := 0, topK := 0, nStopId := 0, nStopSeq := 0, pred := 0, rflags := 0, resv := 0,
    stopIds := List.replicate 32 0, stopSeqs := List.replicate 8 (List.replicate 16 0),
    stopLens := List.replicate 8 0 }

theorem test_wf_req_params : noReqParams.wf = true ∧ (
    [{ noReqParams with session := 2 ^ 32 }, { noReqParams with promptLen := 2 ^ 32 },
      { noReqParams with promptAddr := 2 ^ 64 }, { noReqParams with ringAddr := 2 ^ 64 },
      { noReqParams with ringEntries := 2 ^ 32 }, { noReqParams with maxNew := 2 ^ 32 },
      { noReqParams with seed := 2 ^ 64 }, { noReqParams with temp := 2 ^ 16 },
      { noReqParams with topK := 2 ^ 16 }, { noReqParams with nStopId := 2 ^ 8 },
      { noReqParams with nStopSeq := 2 ^ 8 }, { noReqParams with pred := 2 ^ 8 },
      { noReqParams with rflags := 2 ^ 8 }, { noReqParams with stopIds := [] },
      { noReqParams with stopSeqs := [] }, { noReqParams with stopLens := [] },
      { noReqParams with stopIds := List.replicate 32 (2 ^ 32) },
      { noReqParams with stopSeqs := List.replicate 8 [] },
      { noReqParams with stopLens := List.replicate 8 256 }] : List ReqParams).all (fun x => !x.wf) = true := by decide +kernel

/-- A WEntry of zeros. -/
def noWEntry : WEntry :=
  { tensor := 0, chunk := 0, length := 0, srcKind := 0, target := 0, nsid := 0, saddr := 0, nonce := 0, tag := 0
    digest := 0, resv := 0 }

theorem test_wf_w_entry : noWEntry.wf = true ∧ (
    [{ noWEntry with tensor := 2 ^ 32 }, { noWEntry with chunk := 2 ^ 32 }, { noWEntry with length := 2 ^ 32 },
      { noWEntry with srcKind := 2 ^ 8 }, { noWEntry with target := 2 ^ 8 }, { noWEntry with nsid := 2 ^ 32 },
      { noWEntry with saddr := 2 ^ 64 }] : List WEntry).all (fun x => !x.wf) = true := by decide +kernel

/-- A Template of zeros. -/
def noTemplate : Template :=
  { dstMod := 0, dstDie := 0, dstUnit := 0, op := 0, cls := 0, keyslot := 0, flags := 0, addr := 0 }

theorem test_wf_template : noTemplate.wf = true ∧ (
    [{ noTemplate with dstMod := 2 ^ 14 }, { noTemplate with dstDie := 2 ^ 2 },
      { noTemplate with dstUnit := 2 ^ 8 }, { noTemplate with op := 2 ^ 4 }, { noTemplate with cls := 2 ^ 2 },
      { noTemplate with keyslot := 2 ^ 8 }, { noTemplate with flags := 2 ^ 8 },
      { noTemplate with addr := 2 ^ 48 }] : List Template).all (fun x => !x.wf) = true := by decide +kernel

/-- A mailbox slot of window 0. -/
def via0 : Via := { caller := .pwin 0, slot := 0 }

theorem test_wf_image : image.wf = true ∧
    ([{ image with dies := [4] }, { image with data := [⟨4, 0, 0, []⟩] }, { image with data := [⟨0, 128, 0, []⟩] },
      { image with members := [(2 ^ 14, 0)] }, { image with members := [(0, 4)] },
      { image with variants := image.variants.map (fun v => { v with bufs := [⟨4, 0, ⟨0, 0⟩, ⟨0, 0⟩, ⟨0, 0⟩⟩] }) },
      { image with variants := image.variants.map (fun v => { v with bufs := [⟨0, 128, ⟨0, 0⟩, ⟨0, 0⟩, ⟨0, 0⟩⟩] }) },
      { image with variants := image.variants.map (fun v => { v with tmpls := [⟨4, 0, noTemplate⟩] }) },
      { image with variants := image.variants.map (fun v => { v with tmpls := [⟨0, 256, noTemplate⟩] }) },
      { image with variants := image.variants.map (fun v => { v with tmpls := [⟨0, 0, { noTemplate with op := 16 }⟩] }) }]
      : List PlanImage).all (fun x => !x.wf) = true := by decide +kernel

theorem test_wf_command :
    ([.planLoad via0 0 { image with dies := [4] }, .planStart via0 0 (2 ^ 64), .planVariant via0 0 256 0,
      .planVariant via0 0 0 (2 ^ 48), .pkt 0 { noLinkUnit with kind := 16 }, .dozeAck 15 { noLinkUnit with resv := 2048 },
      .laneWindow 0 ⟨[], 0, 0⟩, .routeWrite via0 .module 0 [(0, { noRouteEntry with escPort := 16 })] false,
      .routeFlip via0 .module (2 ^ 48), .rwinSet via0 0 0 { noRWin with ops := 8 }, .collAbort via0 0 256,
      .clkMonitorWindow 0 0 [] 0, .reqSubmit via0 0 { noReqParams with topK := 65536 } [], .sessClose via0 0 (2 ^ 32),
      .reqCancel via0 0 (2 ^ 32), .weightsStage via0 0 ⟨0, 0, 0, 0, 0, 0, 0, 0, 0⟩ ⟨0, 0, 0, 0, 0, 0, 0, [], [{ noWEntry with target := 256 }], 0⟩,
      .weightsSwap via0 0 (2 ^ 64) 0, .weightsSwap via0 0 0 256,
      .detReplay via0 0 ⟨0, 0, 0, true, none, 2 ^ 48, false, [], [], []⟩,
      .detReplay via0 0 ⟨0, 0, 0, true, none, 0, false, [], [(2 ^ 48, 0, 0)], []⟩,
      .detTruncate via0 0 ⟨2 ^ 48, 0, 0, [], 0, 0, 0⟩, .detTruncate via0 0 ⟨0, 2 ^ 32, 0, [], 0, 0, 0⟩,
      .detTruncate via0 0 ⟨0, 0, 0, [⟨256, 0, 0, 0, 0⟩], 0, 0, 0⟩,
      .partitionSetAssign via0 ⟨4, 0, 0, 0, true, true, true⟩ ⟨[4], 0, 0, 0, 0, 0, true⟩, .secKeySwitch via0 0 0 (2 ^ 48),
      .mailboxScan 0 [{ noSlotPost with plen := 2 ^ 32 }] [], .mailboxScan 0 [] [{ noHostStore with addr := 2 ^ 38 + 1 }],
      .mgmtCommand true { noSlotPost with code := 65536 }, .enum { noFrame with typ := 256 }, .thmTrip ⟨16, 0⟩ 0,
      .thmWarn ⟨0, 16⟩ 0, .railFault (.other 16)] : List Instr).all (fun i => !i.wf) = true := by decide +kernel

theorem test_wf_accepts : ([.planLoad via0 0 image, .planStart via0 0 (2 ^ 64 - 1), .pkt 0 noLinkUnit, .reqSubmit via0 0 noReqParams [],
    .mailboxScan 0 [noSlotPost] [noHostStore], .enum noFrame, .railFault (.other 15), .mxMma (here .mx)] : List Instr).all
    (fun i => i.wf) = true := by decide +kernel

/-! ### The manual's worked examples -/

/-- The word of the example of encoding MX.MMA (03), given as bytes from the lowest offset. -/
def mmaExample : Nat :=
  ofLe [0x00, 0x00, 0x00, 0x00, 0x00, 0xEC, 0x97, 0x68, 0x80, 0x01, 0x00, 0x02, 0x00, 0x03, 0x00, 0x12]

theorem test_mma_word : mmaExample = 0x12000300020001806897EC0000000000 ∧ rowOf mmaExample = some .mma ∧
    reservedBit mmaExample = none ∧ wDelta mmaExample = 3 ∧ w95 mmaExample = 0x100 ∧ mxRp mmaExample = 0 ∧
    mxS mmaExample = 0x180 ∧ mxSrp mmaExample = 1 ∧ mxFmt mmaExample = 0x14 ∧ mmaAcc mmaExample = 1 ∧
    mmaFloat mmaExample = false ∧ mmaAuto mmaExample = false ∧ mmaClr mmaExample = true ∧ mmaTrap mmaExample = false ∧
    mmaAnchor mmaExample = -40 := by decide +kernel

/-- A beat sent in cycle 1,000, as in the example of travel times (02). -/
def exampleBeat (a b c d : Nat) : Beat := { srcDie := a, srcUnit := b, dstDie := c, dstUnit := d, stamp := 0, sent := 1000, step := 0, bytes := [] }

theorem test_travel : (exampleBeat 0 0x3A 1 0x25).due = 1050 ∧ (exampleBeat 0 0x3A 1 0x25).crossAt = 1012 ∧
    (exampleBeat 1 0x25 0 0x3A).travel = 50 := by decide

/-- The output ports of the same beat: on CD0 from 1,002 to 1,010, on CD1 from 1,036 to the local port in 1,048. -/
theorem test_route : (exampleBeat 0 0x3A 1 0x25).route.map (fun h => h.cycle) =
    [1002, 1004, 1006, 1008, 1010, 1012, 1036, 1038, 1040, 1042, 1044, 1046, 1048] := by decide

/-- The example of fitting G448 on a die with defective row 7 (02). -/
theorem test_fit : disabledRows .g448 [7] = [5, 7] := by decide

/-- The third slot of shelf 17 in pod 5 (00). -/
theorem test_module_id : moduleIdOf 5 17 3 = 0x058A := by decide

/-- The terms of the example of truncation and order (04): 0.4375 · 0.5, −0.01171875 · 3 and 1.5 · 6, at 2^−6; only the second is inexact. -/
theorem test_truncation : floorUnits false 7 (-5) (-6) = (14, true) ∧ floorUnits true 9 (-8) (-6) = (-3, false) ∧
    floorUnits false 9 0 (-6) = (576, true) := by decide

/-- Its sum 587 · 2^−6 drained to BF16 under RNE and RTZ. -/
theorem test_drain : encodeF bf16 .rne (ofInt 587 (-6)) = (0x4113, { inexact := true }) ∧
    encodeF bf16 .rtz (ofInt 587 (-6)) = (0x4112, { inexact := true }) := by decide

/-- The example of quantising to E4M3 (06): 300.0 lies nearest 288, and 0.0016384 rounds to 2^−9 or to 0. -/
theorem test_quantise : (encodeF e4m3 .rne (ofInt 300 0)).1 = 0x79 ∧ (encodeF e4m3 .rne (ofInt 0x147AE1 (-12))).1 = 0x7A ∧
    (encodeF e4m3 .rne (ofInt 1718 (-20))).1 = 0x01 ∧ (encodeF e4m3 .rtz (ofInt 1718 (-20))).1 = 0x00 := by decide +kernel

/-- The masks of the example of a detection test (09): two bits are an error, one is corrected. -/
theorem test_code : checkMask 0x9 = .bad ∧ checkMask 0x8 = .corrected := by decide +kernel

/-- The check values that the CRC-32C and the SHA-256 standards publish. -/
theorem test_crc : crc32c [0x31, 0x32, 0x33, 0x34, 0x35, 0x36, 0x37, 0x38, 0x39] = 0xE3069283 := by decide +kernel

theorem test_sha : sha256 [0x61, 0x62, 0x63] = 0xBA7816BF8F01CFEA414140DE5DAE2223B00361A396177A9CB410FF61F20015AD := by
  decide +kernel

/-! ### One step -/

/-- The machine after one command. -/
def ran (c : Instr) (s : State) : Option Mach :=
  match step { s with pending := [c] } with
  | .next t => if t.pending = [] then some t.mach else none
  | _ => none

theorem witness_MachineAtReset : Reg.lrkCfg ∉ [Reg.stnRowmap, .seqProfile, .secPart, .mbxBoot] := by decide

/-- CT.SETCNT of register 7 (R134): the register holds VALUE. -/
theorem test_setcnt : (ran (.ctSetcnt (here .mx)) (queued .mx setcntWord id)).map (fun m => cntNow (stn m 17) 7) =
    some 0xFFFFFFFF := by decide +kernel

/-- An instruction leaves its queue when it issues (R88, R91), and its offset is reported no more. -/
theorem test_issue_leaves : (ran (.ctWait (here .mx)) (queued .mx waitWord id)).map
    (fun m => ((stn m 17).mx.entries.length, (stn m 17).mx.ref)) = some (0, 0xF00) := by decide +kernel

/-- An event command of a queue whose next instruction is of another row changes nothing. -/
theorem test_other_row : ran (.mxLoadw (here .mx)) (queued .mx waitWord id) = some (queued .mx waitWord id).mach := by
  decide +kernel

/-- An empty queue steps to the next tick, and no command appears. -/
theorem test_idle : (match step State.reset with | .next t => decide (t.pending = []) | _ => false) = true := by decide +kernel

/-- Bytes of a hexadecimal string, the first the leftmost, as a number whose lowest byte is the first. -/
def bytesOf (n x : Nat) : Nat := ofLe (leBytes n x).reverse

/-- AES-256 on the example that FIPS 197 publishes. -/
theorem test_aes :
    let ks := roundKeys (bytesOf 32 0x000102030405060708090A0B0C0D0E0F101112131415161718191A1B1C1D1E1F)
    let x := bytesOf 16 0x00112233445566778899AABBCCDDEEFF
    aesEnc ks x = bytesOf 16 0x8EA2B7CA516745BFEAFC49904B496089 ∧ aesDec ks (aesEnc ks x) = x := by decide +kernel

/-- AES-256-XTS on the first two blocks of vector 10 of IEEE 1619. -/
theorem test_xts :
    let key := bytesOf 32 0x2718281828459045235360287471352662497757247093699959574966967627
      + 2 ^ 256 * bytesOf 32 0x3141592653589793238462643383279502884197169399375105820974944592
    let l := (List.range 128).map (fun i => BitVec.ofNat 8 i)
    (xtsEncrypt key 0xFF l).take 32 = (leBytes 32 0x1C3B3A102F770386E4836C99E370CF9BEA00803F5E482357A4AE12D414A3E63B).reverse ∧
      xtsDecrypt key 0xFF (xtsEncrypt key 0xFF l) = l := by decide +kernel
end Sys2Proof.Tests
end

section
/-! Proofs about the routers of the mesh (R56 to R59): what the discard of beats changes and leaves, and which of two
beats leaves the mesh. -/

namespace Sys2Proof.Machine

/-! ### Beats that leave the mesh -/

/-- The station that sends a lane beat; other beats have none. -/
def Beat.laneStn (b : Beat) : Option Nat := b.lane.map (fun z => z.1)

@[simp] theorem discard_nil (m : Mach) : discard [] m = m := rfl

theorem discard_beat_without_lane {b : Beat} (h : b.lane = none) (m : Mach) :
    discard [b] m = { m with mesh := m.mesh.erase b } := by
  simp only [discard, List.foldl, h]

theorem discard_lane_beat {b : Beat} {k i : Nat} (h : b.lane = some (k, i)) (m : Mach) :
    discard [b] m = onStn k (fun s => { s with laneLost := i :: s.laneLost }) { m with mesh := m.mesh.erase b } := by
  simp only [discard, List.foldl, h]

/-- Beats are discarded one after another. -/
theorem discard_cons (b : Beat) (r : List Beat) (m : Mach) : discard (b :: r) m = discard r (discard [b] m) := by
  obtain hl | ⟨⟨k, i⟩, hl⟩ := Option.eq_none_or_eq_some b.lane
  · rw [discard_beat_without_lane hl]
    simp only [discard, List.foldl, hl]
  · rw [discard_lane_beat hl]
    simp only [discard, List.foldl, hl]
    rfl

/-- A discard changes the mesh and the stations only. -/
theorem discard_eq (lost : List Beat) (m : Mach) :
    discard lost m = { m with mesh := lost.foldl List.erase m.mesh, stations := (discard lost m).stations } := by
  induction lost generalizing m with
  | nil => rfl
  | cons b r ih =>
    rw [discard_cons, ih]
    obtain hl | ⟨⟨k, i⟩, hl⟩ := Option.eq_none_or_eq_some b.lane
    · rw [discard_beat_without_lane hl]; rfl
    · rw [discard_lane_beat hl]; rfl

@[simp] theorem discard_mesh (lost : List Beat) (m : Mach) :
    (discard lost m).mesh = lost.foldl List.erase m.mesh := by rw [discard_eq]
@[simp] theorem discard_mem (lost : List Beat) (m : Mach) : (discard lost m).mem = m.mem := by rw [discard_eq]
@[simp] theorem discard_dies (lost : List Beat) (m : Mach) : (discard lost m).dies = m.dies := by rw [discard_eq]
@[simp] theorem discard_parts (lost : List Beat) (m : Mach) : (discard lost m).parts = m.parts := by rw [discard_eq]

/-- A station that sent none of the discarded lane beats stays as it is. -/
theorem stn_discard_other {lost : List Beat} {k : Nat} (m : Mach) (h : ∀ b ∈ lost, b.laneStn ≠ some k) :
    stn (discard lost m) k = stn m k := by
  induction lost generalizing m with
  | nil => rfl
  | cons b r ih =>
    obtain ⟨hb, hr⟩ := List.forall_mem_cons.1 h
    rw [discard_cons, ih _ hr]
    obtain hl | ⟨⟨j, i⟩, hl⟩ := Option.eq_none_or_eq_some b.lane
    · rw [discard_beat_without_lane hl]; rfl
    · have hj : k ≠ j := fun e => hb (by simp [Beat.laneStn, hl, e])
      rw [discard_lane_beat hl, stn_onStn_other _ _ hj]; rfl

/-! ### Beats that meet at an output port -/

/-- All but the winner are discarded and counted, and the last of them is recorded at the router's station (R58, R59). -/
theorem collide_of_winner (key step out c : Nat) {l r : List (Nat × Beat)} {w y : Nat × Beat} (m : Mach)
    (hw : winner l = some w) (hl : l.erase w = y :: r) :
    collide key step out c l m =
      bumpBy .stnCollide (iStn key) 0 (y :: r).length
        (onStn key (fun s => { s with
            collideAt := { cycle := c, step := step, a := out, b := (r.getLast?.getD y).1, c := w.1 } })
          (discard ((y :: r).map (fun e => e.2)) m)) := by
  simp [collide, hw, hl]

/-- Of two beats the one from the lower-ordered input wins, in whichever order they stand (R58). -/
theorem winner_of_two {x y : Nat × Beat} {l : List (Nat × Beat)} (h : x.1 < y.1) (hl : l = [x, y] ∨ l = [y, x]) :
    winner l = some x ∧ l.erase x = [y] := by
  have hne : y ≠ x := fun e => absurd h (by simp [e])
  obtain rfl | rfl := hl
  · simp [winner, Nat.le_of_lt h]
  · simp [winner, Nat.not_le.2 h, hne]

/-- A router of a partition that executes the cycle lets the beats that reach the port meet. -/
theorem routerForward_of_executes {m : Mach} {d unit c key : Nat} (out : Nat) (hk : keyOf m d unit = some key)
    (he : executes m (partOf m d) c = true) :
    routerForward d unit out c m = collide key (part m (partOf m d)).step out c
      (contenders m (part m (partOf m d)).step d (unit % 16) (unit / 16) out c) m := by
  simp [routerForward, hk, he]

/-- ROUTER_FORWARD applies a router's cycle to the machine. -/
theorem exec_routerForward (d : Fin 4) (u : Fin 128) (out : Fin 5) (c : Nat) (s : State) :
    exec (.routerForward d u out c) s = nextMach s (routerForward d.val u.val out.val c s.mach) := rfl

/-- Settles O8: of the two beats the one from the lower-ordered input wins, so the list of discards holds the other
alone. -/
theorem routerConflict : Obligations.RouterConflict := by
  intro s d u out c key x y hk he hlt l hl
  obtain ⟨hw, hr⟩ := winner_of_two hlt hl
  refine ⟨_, exec_routerForward d u out c s, ?_⟩
  rw [routerForward_of_executes _ hk he, collide_of_winner _ _ _ _ _ hw hr]
  refine ⟨by simp, by simp, by simp, by simp, fun k hkey hlane => ?_, by simp, fun hlane => ?_⟩
  · rw [stn_bumpBy, stn_onStn_other _ _ hkey]
    exact stn_discard_other _ (List.forall_mem_singleton.2 hlane)
  · have hstn : stn (discard [y.2] s.mach) key = stn s.mach key :=
      stn_discard_other _ (by simp [Beat.laneStn, hlane])
    simp [hstn]

end Sys2Proof.Machine
end

section
/-! Proofs about the timers and losses of a link (R433, R434, R437, R448, R454, R457, R459, R461): what each of them does
to a port in the state that it is for, and the settlement of O28. -/

namespace Sys2Proof.Machine

/-! ### The replay timer (R433, R434) -/

/-- The machine at the expiry of a replay timer that was started at `t`, the expiry counted. -/
def timerExpired (k t : Nat) (m : Mach) : Mach :=
  bump .lrkTimeouts (iPort k) (reachWall (t + 2 * (port m k).rtt + 1000) m)

/-- Every packet of the replay store that was sent is marked to be sent again, and the packets so marked are counted. -/
def markForReplay (k : Nat) (m : Mach) : Mach :=
  bumpBy .lrkReplayed (iPort k) 0 ((port m k).store.filter (fun o => o.lseq.isSome)).length
    (onPort k (fun q => { q with
      expiries := q.expiries + 1, timer := none
      store := q.store.map (fun o => if o.lseq.isSome then { o with again := true } else o) }) m)

section Functions
variable {k t : Nat} {fz : Fuses} {m : Mach}

theorem replayTimeout_of_timer (ht : (port m k).timer = some t) :
    replayTimeout k fz m =
      if 3 ≤ (port (timerExpired k t m) k).expiries then downPort fz k 2 false (timerExpired k t m)
      else markForReplay k (timerExpired k t m) := by
  rw [replayTimeout, ht]
  rfl

/-- The fourth expiry without an acknowledgement takes the port down with cause 2. -/
theorem replayTimeout_fourth (ht : (port m k).timer = some t) (he : 3 ≤ (port (timerExpired k t m) k).expiries) :
    replayTimeout k fz m = downPort fz k 2 false (timerExpired k t m) := by
  rw [replayTimeout_of_timer ht, if_pos he]

theorem replayTimeout_before_fourth (ht : (port m k).timer = some t)
    (he : (port (timerExpired k t m) k).expiries < 3) :
    replayTimeout k fz m = markForReplay k (timerExpired k t m) := by
  rw [replayTimeout_of_timer ht, if_neg (Nat.not_le.2 he)]

/-! ### Losses (R437, R448, R454) -/

theorem silence_of_st (hst : [5, 6, 7].contains (port m k).st = true) :
    silence k fz m = downPort fz k 1 false (reachWall ((port m k).lastHeard + (port m k).downTime) m) :=
  if_pos hst

/-- A port that hears and is not MISWIRED goes down exactly for the loss of a lane in use. -/
theorem lockLoss_of_hears (lane : Nat) (hh : (port m k).hears = true) (hst : (port m k).st ≠ 9) :
    lockLoss k lane fz m = if bitAt (port m k).lanes lane = true then downPort fz k 3 false m else m := by
  simp only [lockLoss, hh, bne_iff_ne.2 hst, Bool.true_and]

theorem lossOfSignal_of_active (ha : (port m k).active = true) :
    lossOfSignal k fz m = startPriming k (downPort fz k 3 false m) :=
  if_pos ha

theorem lossOfSignal_of_inactive (ha : (port m k).active = false)
    (hst : [2, 3, 4, 5, 9].contains (port m k).st = true) :
    lossOfSignal k fz m = startPriming k (onPort k (fun x => { x with fromEq := false }) m) := by
  rw [lossOfSignal, if_neg (Bool.eq_false_iff.1 ha), if_pos hst]

/-! ### Requests and width changes (R457, R459, R461) -/

theorem reqTimeout_of_req {kind mask : Nat} (hr : (port m k).req = some (kind, mask, t)) :
    reqTimeout k m = evalLanes k (dropReq k (reachWall (t + 10000) m)) := by
  simp only [reqTimeout, hr]

theorem widthTimeout_of_op {o : WidthOp} (ho : (port m k).op = some o) :
    widthTimeout k fz m = downPort fz k 4 false (reachWall (o.start + 4000) m) := by
  simp only [widthTimeout, ho]

/-- A width change that both directions have made sets the new width, is counted and reported, and has the conditions
of R454 evaluated again. -/
theorem realign_of_complete {o : WidthOp} (ho : (port m k).op = some o) (htx : o.tx = true) (hrx : o.rx = true) :
    realign k m = evalLanes k (raiseEvt 0x0012 1 (iPort k) o.width (bump .lrkWidthChg (iPort k)
      (onPort k (fun q => { q with st := 6, width := o.width, lanes := o.lanes, op := none }) m))) := by
  simp only [realign, ho, htx, hrx, Bool.and_true, if_true]

end Functions

/-! ### The commands -/

section Commands
variable (k : Fin 16) (s : State)

theorem exec_replayTimeout : exec (.replayTimeout k) s = nextMach s (replayTimeout k.val s.fuses s.mach) := rfl
theorem exec_silence : exec (.silence k) s = nextMach s (silence k.val s.fuses s.mach) := rfl
theorem exec_lockLoss (lane : Fin 8) :
    exec (.lockLoss k lane) s = nextMach s (lockLoss k.val lane.val s.fuses s.mach) := rfl
theorem exec_reqTimeout : exec (.reqTimeout k) s = nextMach s (reqTimeout k.val s.mach) := rfl
theorem exec_widthChangeTimeout :
    exec (.widthChangeTimeout k) s = nextMach s (widthTimeout k.val s.fuses s.mach) := rfl
theorem exec_laneRealign : exec (.laneRealign k) s = nextMach s (realign k.val s.mach) := rfl
theorem exec_lossOfSignal : exec (.lossOfSignal k) s = nextMach s (lossOfSignal k.val s.fuses s.mach) := rfl

end Commands

/-- Settles O28: each command applies the function of its timer or loss, whose equation in the port's state is the
clause. -/
theorem linkTimersResult : Obligations.LinkTimersResult := by
  refine ⟨fun s k t ht => ⟨fun he => ?fourth, fun he => ?replay⟩, fun s k hst => ?silence,
    fun s k lane hh hst => ?lockLoss, fun s k kind mask t hr => ?request,
    fun s k o ho => ⟨?widthTimeout, fun htx hrx => ?realign⟩, fun s k => ⟨fun ha => ?active, fun ha hst => ?inactive⟩⟩
  case fourth => exact congrArg (nextMach s) (replayTimeout_fourth ht he)
  case replay => exact congrArg (nextMach s) (replayTimeout_before_fourth ht he)
  case silence => rw [exec_silence, silence_of_st hst]
  case lockLoss => rw [exec_lockLoss, lockLoss_of_hears lane.val hh hst]
  case request => rw [exec_reqTimeout, reqTimeout_of_req hr]
  case widthTimeout => rw [exec_widthChangeTimeout, widthTimeout_of_op ho]
  case realign => rw [exec_laneRealign, realign_of_complete ho htx hrx]
  case active => rw [exec_lossOfSignal, lossOfSignal_of_active ha]
  case inactive => rw [exec_lossOfSignal, lossOfSignal_of_inactive ha hst]

end Sys2Proof.Machine
end

section
/-! Proofs about the control packets at the front of a die (R490, R491, R507, R508, R514, R515, R548, R549, R830, R831):
what each type does once its packet has left the die, and the settlement of O33. -/

namespace Sys2Proof.Machine

/-! ### Time markers (R548, R549) -/

/-- The marker has left the die, and its flags, sequence number and time of arrival stand at its port. -/
def markerNoted (d : Nat) (i : InPkt) (m : Mach) : Mach :=
  onMport i.port (fun y => { y with
    flags := leAt i.pkt.payload 1 1 % 32
    got := some (leAt i.pkt.payload 2 2, mtimeAt (executed d i m) i.at_) }) (executed d i m)

/-- The marker of ours that a marker echoes, with its time of departure. -/
def echoed (d : Nat) (i : InPkt) (m : Mach) : Option (Nat × Nat) :=
  (mport (executed d i m) i.port).sent.find? (fun y => y.1 == leAt i.pkt.payload 4 2)

/-- The measurement (rtt, offset) of a marker that echoes one of ours sent at `t1`. -/
def markerMeasured (d : Nat) (i : InPkt) (t1 : Nat) (m : Mach) : Int × Int :=
  measure t1 (leAt i.pkt.payload 8 8 * 65536 + leAt i.pkt.payload 6 2 : Nat) (mtimeAt (executed d i m) i.at_)
    (leAt i.pkt.payload 16 4 * 256 : Nat) ((mport (executed d i m) i.port).asym * 65536 / 1000)

section Markers
variable {d : Nat} {i : InPkt} {m : Mach}

/-- A marker that echoes none of ours is counted as dropped. -/
theorem recvMarker_without_echo (hf : front m d (isCtl 1) = some i)
    (he : bitAt (leAt i.pkt.payload 1 1) 0 = false ∨ echoed d i m = none) :
    recvMarker d m = bump .mtmMarkDrop (iPort i.port) (markerNoted d i m) := by
  have hsent : (if bitAt (leAt i.pkt.payload 1 1) 0 = true then echoed d i m else none) = none := by
    obtain hflag | hnone := he
    · rw [if_neg (Bool.eq_false_iff.1 hflag)]
    · rw [hnone, ite_self]
  rw [echoed] at hsent
  simp only [recvMarker, hf, hsent, markerNoted]

/-- A marker that echoes one of ours is dropped if it is late, and measures the round trip and the offset otherwise. -/
theorem recvMarker_of_echo {y : Nat × Nat} (hf : front m d (isCtl 1) = some i)
    (hflag : bitAt (leAt i.pkt.payload 1 1) 0 = true) (he : echoed d i m = some y) :
    recvMarker d m =
      if ((port (markerNoted d i m) i.port).rtt + 20 : Nat) * 65536 < (markerMeasured d i y.2 m).1 then
        bump .mtmMarkDrop (iPort i.port) (markerNoted d i m)
      else onMport i.port (fun x => { x with
        valid := true
        rtt := ((markerMeasured d i y.2 m).1 / 4096).toNat % 2 ^ 24
        offset := (markerMeasured d i y.2 m).2 / 256
        fresh := x.fresh ++ [(markerMeasured d i y.2 m).2 / 256] }) (markerNoted d i m) := by
  rw [echoed] at he
  rw [recvMarker, hf]
  dsimp only
  rw [if_pos hflag, he]
  rfl

end Markers

/-! ### Drains (R514, R515) -/

/-- A drain counts against the bank of its epoch in the table of its port: towards the release of a DRAINING bank, kept
for the flip of an ACTIVE one. -/
theorem recvDrain_of_front {d : Nat} {i : InPkt} {m : Mach} (hf : front m d (isCtl 2) = some i) :
    recvDrain d m =
      let n := executed d i m
      let t := arrivalTable n i.port
      let e := leAt i.pkt.payload 1 1 == 1
      if (rteOf n t).bank e = 3 then tryRelease t (onRte t (fun r => { r with gotDrain := putBit r.gotDrain i.port }) n)
      else if (rteOf n t).bank e = 2 then onRte t (fun r => { r with earlyDrain := putBit r.earlyDrain i.port }) n
      else n := by
  simp only [recvDrain, hf]

/-! ### Aborts of collectives (R507, R508) -/

/-- The abort that the payload of a COLL_ABORT names (Table 11-3). -/
def abortOf (l : List Byte) : Abort :=
  { cause := leAt l 1 1, mod := leAt l 2 2, die := leAt l 4 1, coll := leAt l 5 1, step := leAt l 6 2 }

/-- The aborts that the module has received in the last 10 ms. -/
def latelyAborted (m : Mach) : List (Nat × Nat × Nat × Nat) :=
  m.aborts.filter (fun y => decide (m.clk.wall < y.2.2.2 + 10000000))

/-- An abort of the same collective index and origin is among the last 10 ms. -/
def abortKnown (a : Abort) (m : Mach) : Bool :=
  (latelyAborted m).any (fun y => y.1 == a.coll && y.2.1 == a.mod && y.2.2.1 == a.die)

/-- A COLL_ABORT is of the plan in force, and of a collective that the partition is a member of. -/
def AbortConcerns (p : Nat) (l : List Byte) (m : Mach) : Prop :=
  (l.drop 8).take 16 = digest16 m p ∧ memberOf m p (abortOf l).coll = true

section Aborts
variable {d : Nat} {i : InPkt} {m : Mach} {fz : Fuses}

theorem not_abortConcerns_iff {p : Nat} {l : List Byte} :
    ¬ AbortConcerns p l m ↔ (l.drop 8).take 16 ≠ digest16 m p ∨ memberOf m p (abortOf l).coll = false := by
  rw [AbortConcerns, Decidable.not_and_iff_not_or_not, Bool.not_eq_true]

/-- Once it has left the die, an abort that concerns the partition is a repetition or reaches it. -/
theorem recvAbort_of_front (hf : front m d (isCtl 3) = some i) :
    recvAbort d fz m =
      let n := executed d i m
      let p := partOf m d
      let a := abortOf i.pkt.payload
      if (i.pkt.payload.drop 8).take 16 ≠ digest16 n p ∨ memberOf n p a.coll = false then n
      else if abortKnown a n = true then bump .rteAbortDup (iDie d) n
      else abortMember fz p a { n with aborts := latelyAborted n ++ [(a.coll, a.mod, a.die, n.clk.wall)] } := by
  rw [recvAbort, hf]
  rfl

theorem recvAbort_of_unconcerned (hf : front m d (isCtl 3) = some i)
    (hc : ¬ AbortConcerns (partOf m d) i.pkt.payload (executed d i m)) :
    recvAbort d fz m = executed d i m := by
  rw [recvAbort_of_front hf]
  exact if_pos (not_abortConcerns_iff.1 hc)

theorem recvAbort_of_concerned (hf : front m d (isCtl 3) = some i)
    (hc : AbortConcerns (partOf m d) i.pkt.payload (executed d i m)) :
    recvAbort d fz m =
      let n := executed d i m
      let a := abortOf i.pkt.payload
      if abortKnown a n = true then bump .rteAbortDup (iDie d) n
      else abortMember fz (partOf m d) a
        { n with aborts := latelyAborted n ++ [(a.coll, a.mod, a.die, n.clk.wall)] } := by
  rw [recvAbort_of_front hf]
  exact if_neg (fun hn => not_abortConcerns_iff.2 hn hc)

/-- R508: a further abort of a collective and origin within 10 ms is counted and does nothing else. -/
theorem recvAbort_of_known (hf : front m d (isCtl 3) = some i)
    (hc : AbortConcerns (partOf m d) i.pkt.payload (executed d i m))
    (hk : abortKnown (abortOf i.pkt.payload) (executed d i m) = true) :
    recvAbort d fz m = bump .rteAbortDup (iDie d) (executed d i m) := by
  rw [recvAbort_of_concerned hf hc]
  exact if_pos hk

theorem recvAbort_of_new (hf : front m d (isCtl 3) = some i)
    (hc : AbortConcerns (partOf m d) i.pkt.payload (executed d i m))
    (hk : abortKnown (abortOf i.pkt.payload) (executed d i m) = false) :
    recvAbort d fz m =
      let n := executed d i m
      let a := abortOf i.pkt.payload
      abortMember fz (partOf m d) a
        { n with aborts := latelyAborted n ++ [(a.coll, a.mod, a.die, n.clk.wall)] } := by
  rw [recvAbort_of_concerned hf hc]
  exact if_neg (Bool.eq_false_iff.1 hk)

end Aborts

/-! ### Variants (R830, R831) -/

section Variants
variable {d : Nat} {i : InPkt} {m : Mach} {fz : Fuses}

/-- A variant for a partition without a plan, or for another plan, does nothing. -/
theorem recvVariant_of_other_plan (hf : front m d (isCtl 4) = some i)
    (hp : planOf (executed d i m) (partOf m d) = none ∨
      (i.pkt.payload.drop 16).take 16 ≠ digest16 (executed d i m) (partOf m d)) :
    recvVariant d fz m = executed d i m := by
  simp only [recvVariant, hf]
  exact if_pos (hp.imp_left Option.isNone_iff_eq_none.2)

/-- A variant for the plan in force halts the partition if its step has begun, and is armed otherwise. -/
theorem recvVariant_of_plan (hf : front m d (isCtl 4) = some i)
    (hp : planOf (executed d i m) (partOf m d) ≠ none)
    (hd : (i.pkt.payload.drop 16).take 16 = digest16 (executed d i m) (partOf m d)) :
    recvVariant d fz m =
      let l := i.pkt.payload
      let n := executed d i m
      let p := partOf m d
      let v := leAt l 1 1
      let e := leAt l 6 6
      if begun (part n p) e = true then forceHalt fz p 5 (v % 16 * 2 ^ 44 + e % 2 ^ 44) (cycleNow n p) n
      else arm p { variant := v, step := e, originMod := leAt l 2 2, originDie := leAt l 4 1
                   payload := leBytes 1 v ++ zeros 7 ++ leBytes 6 e } n := by
  simp only [recvVariant, hf]
  refine if_neg (not_or.2 ⟨?plan, not_not_intro hd⟩)
  case plan => exact mt Option.isNone_iff_eq_none.1 hp

end Variants

/-! ### Delivery counts (R490, R491) -/

/-- A class of a pair hears that its peer has delivered `n` packets of it. -/
def PairCls.hearDelivered (n : Nat) (y : PairCls) : PairCls := { y with deliv := max y.deliv n }

/-- The greater of two delivery counts, as the model writes it. -/
theorem PairCls.hearDelivered_eq (n : Nat) (y : PairCls) :
    y.hearDelivered n = { y with deliv := if y.deliv ≤ n then n else y.deliv } := by
  rw [PairCls.hearDelivered, Nat.max_def]

/-- A DELIVERED of a live pair raises its delivery counts and lets every port go on; of another pair it does nothing. -/
theorem recvDelivered_of_front {d : Nat} {i : InPkt} {m : Mach} (hf : front m d (isCtl 5) = some i) :
    recvDelivered d m =
      let h := i.pkt.hdr
      let l := i.pkt.payload
      let n := executed d i m
      if (pairOf n d h.srcMod h.srcDie).live = true then
        pumpAll (onPair d h.srcMod h.srcDie (fun x => { x with
          c0 := x.c0.hearDelivered (leAt l 2 6), c1 := x.c1.hearDelivered (leAt l 8 6)
          c2 := x.c2.hearDelivered (leAt l 14 6) }) n)
      else n := by
  simp only [recvDelivered, hf, PairCls.hearDelivered_eq]
  cases (pairOf (executed d i m) d i.pkt.hdr.srcMod i.pkt.hdr.srcDie).live with
  | false => rfl
  | true => rfl

/-! ### The commands -/

section Commands
variable (d : Fin 4) (s : State)

theorem exec_timeMarker : exec (.timeMarker d) s = nextMach s (recvMarker d.val s.mach) := rfl
theorem exec_drain : exec (.drain d) s = nextMach s (recvDrain d.val s.mach) := rfl
theorem exec_collAbortPacket :
    exec (.collAbortPacket d) s = nextMach s (recvAbort d.val s.fuses s.mach) := rfl
theorem exec_variant : exec (.variant d) s = nextMach s (recvVariant d.val s.fuses s.mach) := rfl
theorem exec_delivered : exec (.delivered d) s = nextMach s (recvDelivered d.val s.mach) := rfl

end Commands

/-- Settles O33: each command applies the function of its packet type, whose equation for the packet at the front is the
clause. -/
theorem controlPacketsResult : Obligations.ControlPacketsResult := by
  refine ⟨fun s d i hf => ⟨fun he => ?unechoed, fun y hflag he => ?echo⟩, fun s d i hf => ?drain,
    fun s d i hf => ⟨fun hc => ?unconcerned, fun hdig hmem hk => ?known, fun hdig hmem hk => ?new⟩,
    fun s d i hf => ⟨fun hp => ?otherPlan, fun hp hdig => ?plan⟩, fun s d i hf => ?delivered⟩
  case unechoed => exact (exec_timeMarker d s).trans (congrArg (nextMach s) (recvMarker_without_echo hf he))
  case echo => exact (exec_timeMarker d s).trans (congrArg (nextMach s) (recvMarker_of_echo hf hflag he))
  case drain => exact (exec_drain d s).trans (congrArg (nextMach s) (recvDrain_of_front hf))
  case unconcerned =>
    have hc' := not_abortConcerns_iff.2 hc
    exact (exec_collAbortPacket d s).trans (congrArg (nextMach s) (recvAbort_of_unconcerned hf hc'))
  case known => exact (exec_collAbortPacket d s).trans (congrArg (nextMach s) (recvAbort_of_known hf ⟨hdig, hmem⟩ hk))
  case new => exact (exec_collAbortPacket d s).trans (congrArg (nextMach s) (recvAbort_of_new hf ⟨hdig, hmem⟩ hk))
  case otherPlan => exact (exec_variant d s).trans (congrArg (nextMach s) (recvVariant_of_other_plan hf hp))
  case plan => exact (exec_variant d s).trans (congrArg (nextMach s) (recvVariant_of_plan hf hp hdig))
  case delivered => exact (exec_delivered d s).trans (congrArg (nextMach s) (recvDelivered_of_front hf))

end Sys2Proof.Machine
end

section
/-! Proofs about the frames of the Wiluc chain that a module executes (R768, R769, Table 17-17): what a frame that is for
the module does once it has been taken off the chain, and the settlement of O56. -/

namespace Sys2Proof.Machine

/-! ### A frame taken off the chain (R764, R768) -/

/-- A frame for this module, or for all, has arrived: it counts as consumed, or goes on to the next module as well. -/
def frameTaken (f : Frame) (m : Mach) : Mach :=
  if f.dst = m.wch.addr then bump .wchFrames iModule (arrive m) else forwardFrame f (arrive m)

/-- The SEQ of the last frame of a type that the module executed, with its response (R769). -/
def lastOfType (t : Nat) (m : Mach) : Nat × Option Frame := tget (256, none) m.wch.last t

/-- A frame's SEQ and response kept as the last of its type (R769). -/
def keepResponse (f r : Frame) (m : Mach) : Mach :=
  { m with wch := { m.wch with last := tput (256, none) m.wch.last f.typ (f.seq, some r) } }

@[simp] theorem arrive_addr (m : Mach) : (arrive m).wch.addr = m.wch.addr := rfl

section Frames
variable {f : Frame} {act : Mach → Nat × List Byte × Mach} {m : Mach}

/-- At a module with an address, a frame for it or for all is answered if its CRC holds, and counted if not. -/
theorem recvFrame_of_addressed (hb : m.wch.bypass = false) (ha : m.wch.addr ≠ 0)
    (hd : f.dst = m.wch.addr ∨ f.dst = 0xFF) :
    recvFrame f act m =
      if frameSound f = true then answerFrame f act (frameTaken f m) else bump .wchCrcErr iModule (frameTaken f m) := by
  simp only [recvFrame, hb, Bool.false_eq_true, if_false, arrive_addr, ha, frameTaken]
  by_cases hown : f.dst = m.wch.addr
  · simp only [hown, if_true]
  · have hall : f.dst = 0xFF := hd.resolve_left hown
    simp only [hown, not_not_intro hall, if_false]

/-! ### The answer (R768, R769) -/

theorem answerFrame_of_repeat {r : Frame} (hs : (lastOfType f.typ m).1 = f.seq)
    (hr : (lastOfType f.typ m).2 = some r) :
    answerFrame f act m = bump .wchRepeat iModule (sendFrame r m.wch.inAt m) := by
  rw [lastOfType] at hs hr
  simp only [answerFrame, hs, hr, if_true]

/-- A frame with another SEQ than the last of its type is executed, or is BAD_FRAME, and its response is kept. -/
theorem answerFrame_of_new (hs : (lastOfType f.typ m).1 ≠ f.seq) :
    answerFrame f act m =
      let y := if f.resv ≠ 0 ∨ 52 < f.len then (2, [], m) else act m
      let r := response y.2.2 f y.1 y.2.1
      sendFrame r m.wch.inAt (keepResponse f r y.2.2) := by
  rw [lastOfType] at hs
  simp only [answerFrame, hs, if_false, keepResponse]

theorem answerFrame_of_wellFormed (hs : (lastOfType f.typ m).1 ≠ f.seq) (hv : f.resv = 0) (hl : f.len ≤ 52) :
    answerFrame f act m =
      let y := act m
      let r := response y.2.2 f y.1 y.2.1
      sendFrame r m.wch.inAt (keepResponse f r y.2.2) := by
  have hform : ¬ (f.resv ≠ 0 ∨ 52 < f.len) := not_or.2 ⟨not_not_intro hv, Nat.not_lt.2 hl⟩
  rw [answerFrame_of_new hs, if_neg hform]

theorem answerFrame_of_illFormed (hs : (lastOfType f.typ m).1 ≠ f.seq) (hform : f.resv ≠ 0 ∨ 52 < f.len) :
    answerFrame f act m =
      let r := response m f 2 []
      sendFrame r m.wch.inAt (keepResponse f r m) := by
  rw [answerFrame_of_new hs, if_pos hform]

end Frames

/-! ### The commands (Table 17-17) -/

section Commands
variable {f : Frame} (s : State)

/-- A module with an address executes no ENUM: it answers REFUSED. -/
theorem exec_enum_of_addressed (ht : f.typ = 1) (ha : s.mach.wch.addr ≠ 0) :
    exec (.enum f) s = nextMach s (recvFrame f (fun m => (1, [], m)) s.mach) := by
  have henum : enum f s.mach = recvFrame f (fun m => (1, [], m)) s.mach := by
    rw [enum, if_neg (not_not_intro ht), if_neg (fun h => ha h.1)]
  exact congrArg (nextMach s) henum

theorem exec_setLocation (ht : f.typ = 2) :
    exec (.setLocation f) s = nextMach s (recvFrame f (setLocation f) s.mach) :=
  congrArg (nextMach s) (if_pos ht)

theorem exec_power (ht : f.typ = 3) : exec (.power f) s = nextMach s (recvFrame f (powerFrame f) s.mach) :=
  congrArg (nextMach s) (if_pos ht)

theorem exec_healthFrame (ht : f.typ = 4) :
    exec (.healthFrame f) s = nextMach s (recvFrame f (fun m => (0, (healthBytes m).drop 1, m)) s.mach) :=
  congrArg (nextMach s) (if_pos ht)

theorem exec_holdup (ht : f.typ = 5) :
    exec (.holdup f) s = nextMach s (recvFrame f (fun m => (0, tankBytes m, m)) s.mach) :=
  congrArg (nextMach s) (if_pos ht)

theorem exec_rcvBegin (ht : f.typ = 6) : exec (.rcvBegin f) s = nextMach s (recvFrame f (rcvBegin f) s.mach) :=
  congrArg (nextMach s) (if_pos ht)

theorem exec_rcvData (ht : f.typ = 7) : exec (.rcvData f) s = nextMach s (recvFrame f (rcvData f) s.mach) :=
  congrArg (nextMach s) (if_pos ht)

theorem exec_rcvEnd (i : FwImage) (ht : f.typ = 8) :
    exec (.rcvEnd f i) s = nextMach s (recvFrame f (rcvEnd f i) s.mach) :=
  congrArg (nextMach s) (if_pos ht)

/-- A frame of a type that Table 17-17 does not assign is received as BAD_FRAME. -/
theorem exec_wilucForward_of_unassigned (ht : frameTypes.contains f.typ = false) :
    exec (.wilucForward f) s = nextMach s (recvFrame f (fun m => (2, [], m)) s.mach) := by
  have hrecv : wilucForward f s.mach = recvFrame f (fun m => (2, [], m)) s.mach := by
    simp only [wilucForward, ht, Bool.false_and, Bool.false_eq_true, if_false]
  exact congrArg (nextMach s) hrecv

end Commands

/-- The command of each type of frame, and what it does to the module that executes it (Table 17-17). -/
def frameActs (f : Frame) (i : FwImage) : List (Nat × Instr × (Mach → Nat × List Byte × Mach)) :=
  [(1, .enum f, fun m => (1, [], m)), (2, .setLocation f, setLocation f), (3, .power f, powerFrame f)
  , (4, .healthFrame f, fun m => (0, (healthBytes m).drop 1, m)), (5, .holdup f, fun m => (0, tankBytes m, m))
  , (6, .rcvBegin f, rcvBegin f), (7, .rcvData f, rcvData f), (8, .rcvEnd f i, rcvEnd f i)]

/-- At a module with an address, the command of each type, assigned or not, receives its frame. -/
theorem exec_of_frameActs {f : Frame} {i : FwImage} {c : Instr} {act : Mach → Nat × List Byte × Mach} {s : State}
    (ha : s.mach.wch.addr ≠ 0)
    (hc : (f.typ, c, act) ∈ frameActs f i ∨
      (frameTypes.contains f.typ = false ∧ c = .wilucForward f ∧ act = fun m => (2, [], m))) :
    exec c s = nextMach s (recvFrame f act s.mach) := by
  obtain hmem | ⟨ht, rfl, rfl⟩ := hc
  · simp only [frameActs, List.mem_cons, List.not_mem_nil, or_false, Prod.mk.injEq] at hmem
    obtain ⟨ht, rfl, rfl⟩ | ⟨ht, rfl, rfl⟩ | ⟨ht, rfl, rfl⟩ | ⟨ht, rfl, rfl⟩ | ⟨ht, rfl, rfl⟩ | ⟨ht, rfl, rfl⟩ |
      ⟨ht, rfl, rfl⟩ | ⟨ht, rfl, rfl⟩ := hmem
    · exact exec_enum_of_addressed s ht ha
    · exact exec_setLocation s ht
    · exact exec_power s ht
    · exact exec_healthFrame s ht
    · exact exec_holdup s ht
    · exact exec_rcvBegin s ht
    · exact exec_rcvData s ht
    · exact exec_rcvEnd s i ht
  · exact exec_wilucForward_of_unassigned s ht

/-- Settles O56: every command receives its frame, which a module with an address takes off the chain and, if it is
sound, answers by its SEQ and its form. -/
theorem chainExecuteResult : Obligations.ChainExecuteResult := by
  intro s f i c act hb ha hd hc m last keep
  have hexec : exec c s = nextMach s
      (if frameSound f = true then answerFrame f act m else bump .wchCrcErr iModule m) :=
    (exec_of_frameActs ha hc).trans (congrArg (nextMach s) (recvFrame_of_addressed hb ha hd))
  refine ⟨fun hbad => ?unsound, fun hsound => ?sound⟩
  case unsound => rw [hexec, if_neg (Bool.eq_false_iff.1 hbad)]
  case sound =>
    rw [hexec, if_pos hsound]
    refine ⟨fun r hs hr => ?again, fun hs hv hl => ?executed, fun hs hform => ?badFrame⟩
    case again => exact congrArg (nextMach s) (answerFrame_of_repeat hs hr)
    case executed => exact congrArg (nextMach s) (answerFrame_of_wellFormed hs hv hl)
    case badFrame => exact congrArg (nextMach s) (answerFrame_of_illFormed hs hform)

end Sys2Proof.Machine
end

section
/-! Proofs about event and error counters (R811, R813, Table 2-7): what an increment leaves in a counter, what a write of
OVF does to it and when COUNTER_OVF is raised, and the settlement of O7. -/

namespace Sys2Proof.Machine

/-! ### One increment (R813) -/

/-- An increment that stays below 2^48 − 1 adds to COUNT and leaves OVF. -/
theorem Ctr.add_of_below {c : Ctr} {n : Nat} (h : c.count + n < 2 ^ 48 - 1) :
    c.add n = { count := c.count + n, ovf := c.ovf } := by
  unfold Ctr.add
  by_cases hn : n = 0
  · rw [if_pos hn, hn]; rfl
  · rw [if_neg hn, if_pos h]

/-- An increment that reaches 2^48 − 1 or would pass it leaves COUNT there and sets OVF. -/
theorem Ctr.add_of_saturating {c : Ctr} {n : Nat} (hn : 0 < n) (h : 2 ^ 48 - 1 ≤ c.count + n) :
    c.add n = { count := 2 ^ 48 - 1, ovf := true } := by
  unfold Ctr.add
  rw [if_neg (Nat.ne_of_gt hn), if_neg (Nat.not_lt.2 h)]

section Counters

variable {m : Mach} {r : Reg} {i e n : Nat}

@[simp] theorem ctr_bumpQuiet_same (r : Reg) (i e n : Nat) (m : Mach) :
    ctr (bumpQuiet r i e n m) r i e = (ctr m r i e).add n :=
  tget_tmod_same ({} : Ctr) m.ctrs _ (fun c => c.add n)

theorem ctr_bumpQuiet_other {r' : Reg} {i' e' : Nat} (n : Nat) (m : Mach) (h : ctrKey r' i' e' ≠ ctrKey r i e) :
    ctr (bumpQuiet r i e n m) r' i' e' = ctr m r' i' e' :=
  tget_tmod_other ({} : Ctr) m.ctrs (fun c => c.add n) h

/-! ### A write of OVF (R744, R813) -/

/-- A write of a register with the layout of Table 2-7 clears OVF where it writes 1 to it, and does nothing else. -/
theorem regStore_of_counts (h : (regInfo r).counts = true) (fz : Fuses) (a : RegAt) (x : Nat) (m : Mach) :
    regStore fz r a x m =
      if bitAt x 63 then
        { m with ctrs := tmod {} m.ctrs (ctrKey r a.inst a.elem) (fun c => { c with ovf := false }) }
      else m := by
  -- Only the last arm of `regStore` takes a counter: the registers of the arms before it do not count.
  unfold regStore
  split
  case h_23 => simp only [h, Bool.true_and]
  all_goals exact absurd h Bool.false_ne_true

theorem ctr_regStore_of_ovf_written (h : (regInfo r).counts = true) (fz : Fuses) (a : RegAt) {x : Nat} (m : Mach)
    (hx : bitAt x 63 = true) :
    ctr (regStore fz r a x m) r a.inst a.elem = { count := (ctr m r a.inst a.elem).count, ovf := false } := by
  rw [regStore_of_counts h, if_pos hx]
  exact tget_tmod_same ({} : Ctr) m.ctrs _ (fun c => { c with ovf := false })

/-! ### COUNTER_OVF (R811) -/

theorem bumpBy_of_ovf_set (hold : (ctr m r i e).ovf = false) (hnew : ((ctr m r i e).add n).ovf = true) :
    bumpBy r i e n m = raiseEvt 0x0002 0 i (regNum r * 2 ^ 32 + e) (bumpQuiet r i e n m) := by
  simp [bumpBy, hold, hnew]

theorem bumpBy_of_ovf (hold : (ctr m r i e).ovf = true) : bumpBy r i e n m = bumpQuiet r i e n m := by
  simp [bumpBy, hold]

theorem bumpBy_of_ovf_unchanged (hnew : ((ctr m r i e).add n).ovf = (ctr m r i e).ovf) :
    bumpBy r i e n m = bumpQuiet r i e n m := by
  simp [bumpBy, hnew]

end Counters

/-- Settles O7: each clause is what one increment, one write of OVF or one bump leaves, read at the counter. -/
theorem counterSaturation : Obligations.CounterSaturation := by
  intro m r i e n hn _
  refine ⟨fun hlt => ?below, fun hle => ?saturating, fun r' i' e' hk => ?other, fun fz a hc hi he => ?written,
    fun hmax => ?again, fun hovf hle => ?told, fun hquiet => ?untold⟩
  case below => rw [ctr_bumpQuiet_same, Ctr.add_of_below hlt]
  case saturating => rw [ctr_bumpQuiet_same, Ctr.add_of_saturating hn hle]
  case other => exact ctr_bumpQuiet_other n m hk
  case written =>
    subst hi he
    exact ctr_regStore_of_ovf_written hc fz a m (by decide)
  case again => rw [ctr_bumpQuiet_same, Ctr.add_of_saturating hn (hmax ▸ Nat.le_add_right _ _)]
  case told => exact bumpBy_of_ovf_set hovf (by rw [Ctr.add_of_saturating hn hle])
  case untold =>
    obtain hovf | hlt := hquiet
    · exact bumpBy_of_ovf hovf
    · exact bumpBy_of_ovf_unchanged (by rw [Ctr.add_of_below hlt])

end Sys2Proof.Machine
end

section
/-! The canonical form of the memories as an invariant of the step (08), and the settlement of O5. -/

namespace Sys2Proof.Machine

/-- Every command keeps the canonical form of every memory. -/
theorem exec_keeps (c : Instr) : Keeps (exec c) :=
  match c with
  | .mxLoadw a => keeps_mxLoadw a
  | .mxMma a => keeps_mxMma a
  | .mxDrain a => keeps_mxDrain a
  | .vxOp a => keeps_vxOp a
  | .vxCvtConv a => keeps_vxCvtConv a
  | .vxCvtBfsplit a => keeps_vxCvtBfsplit a
  | .vxCvtExpscan a => keeps_vxCvtExpscan a
  | .vxCvtSplit a => keeps_vxCvtSplit a
  | .vxFunc a => keeps_vxFunc a
  | .vxRedSumall a => keeps_vxRedSumall a
  | .vxRedRowsum a => keeps_vxRedRowsum a
  | .vxTopkSelect a => keeps_vxTopkSelect a
  | .vxTopkMerge a => keeps_vxTopkMerge a
  | .vxStop a => keeps_vxStop a
  | .vxOcldLoad a => keeps_vxOcldLoad a
  | .vxOcldKey a => keeps_vxOcldKey a
  | .vxCntld a => keeps_vxCntld a
  | .vxAmaxScan a => keeps_vxAmaxScan a
  | .vxAmaxLoad a => keeps_vxAmaxLoad a
  | .mvSend a => keeps_mvSend a
  | .mvRecv a => keeps_mvRecv a
  | .mvDmaCopy a => keeps_mvDmaCopy a
  | .mvDmaDecode a => keeps_mvDmaDecode a
  | .mvDmaGather a => keeps_mvDmaGather a
  | .mvDmaScore a => keeps_mvDmaScore a
  | .mvDmaQload a => keeps_mvDmaQload a
  | .mvDmaSgather a => keeps_mvDmaSgather a
  | .mvHost a => keeps_mvHost a
  | .mvCist a => keeps_mvCist a
  | .sbClose a => keeps_sbClose a
  | .ctWait a => keeps_ctWait a
  | .ctLoop a => keeps_ctLoop a
  | .ctLoopr a => keeps_ctLoopr a
  | .ctEndloop a => keeps_ctEndloop a
  | .ctGateOpen a => keeps_ctGateOpen a
  | .ctGateClose a => keeps_ctGateClose a
  | .ctStamp a => keeps_ctStamp a
  | .ctSetcnt a => keeps_ctSetcnt a
  | .ctFetch a => keeps_ctFetch a
  | .ctStepend a => keeps_ctStepend a
  | .lkInject a => keeps_lkInject a
  | .lkExpect a => keeps_lkExpect a
  | .queueUnderrun a => keeps_queueUnderrun a
  | .stepOpen a => keeps_stepOpen a
  | .holdCheck a => keeps_holdCheck a
  | .holdRelease p => keeps_holdRelease p
  | .holdLimit p => keeps_holdLimit p
  | .gateHold a => keeps_gateHold a
  | .gateTimeout a => keeps_gateTimeout a
  | .stepStart p => keeps_stepStart p
  | .stepEnd p => keeps_stepEnd p
  | .beatReceive die unit cycle => keeps_beatReceive die unit cycle
  | .routerForward die unit port cycle => keeps_routerForward die unit port cycle
  | .crossingAdmit die side cycle slipped => keeps_crossingAdmit die side cycle slipped
  | .descriptorReady die unit desc wall => keeps_descriptorReady die unit desc wall
  | .laneBeatAccess die unit desc cycle => keeps_laneBeatAccess die unit desc cycle
  | .wellheadRequestStart e cycle => keeps_wellheadRequestStart e cycle
  | .refreshTick w cycle wall => keeps_refreshTick w cycle wall
  | .refreshUnit w cycle wall => keeps_refreshUnit w cycle wall
  | .pageReencrypt w => keeps_pageReencrypt w
  | .planLoad v p image => keeps_planLoad v p image
  | .planStart v p anchor => keeps_planStart v p anchor
  | .planStop v p => keeps_planStop v p
  | .planStatus v p => keeps_planStatus v p
  | .planUnload v p => keeps_planUnload v p
  | .faultRead v p => keeps_faultRead v p
  | .planVariant v p variant step => keeps_planVariant v p variant step
  | .scrubRange v p t start length => keeps_scrubRange v p t start length
  | .eccFlipArm v p t mask => keeps_eccFlipArm v p t mask
  | .eccRemapAdd v p t loc => keeps_eccRemapAdd v p t loc
  | .eccCounts v p => keeps_eccCounts v p
  | .pkt port u => keeps_pkt port u
  | .link port u => keeps_link port u
  | .keepalive port => keeps_keepalive port
  | .unitTransmit port => keeps_unitTransmit port
  | .widthReq port u => keeps_widthReq port u
  | .retrainReq port u => keeps_retrainReq port u
  | .reqAck port u => keeps_reqAck port u
  | .widthMark port u => keeps_widthMark port u
  | .laneRealign port => keeps_laneRealign port
  | .doze port u => keeps_doze port u
  | .dozeAck port u => keeps_dozeAck port u
  | .replayTimeout port => keeps_replayTimeout port
  | .silence port => keeps_silence port
  | .lockLoss port lane => keeps_lockLoss port lane
  | .primeRetry port => keeps_primeRetry port
  | .primeFail port => keeps_primeFail port
  | .detect port => keeps_detect port
  | .equalise port => keeps_equalise port
  | .lockAlign port peer => keeps_lockAlign port peer
  | .time port markers offset => keeps_time port markers offset
  | .auth port peerOk => keeps_auth port peerOk
  | .laneWindow port w => keeps_laneWindow port w
  | .reqTimeout port => keeps_reqTimeout port
  | .widthChangeTimeout port => keeps_widthChangeTimeout port
  | .linkStatus v port => keeps_linkStatus v port
  | .linkPrime v port => keeps_linkPrime v port
  | .linkDisable v port => keeps_linkDisable v port
  | .linkEnable v port => keeps_linkEnable v port
  | .linkWidth v port mask => keeps_linkWidth v port mask
  | .linkCounters v port => keeps_linkCounters v port
  | .packetReceive port => keeps_packetReceive port
  | .write die => keeps_write die
  | .readReq die => keeps_readReq die
  | .readResp die => keeps_readResp die
  | .laAdd die cycle => keeps_laAdd die cycle
  | .timeMarker die => keeps_timeMarker die
  | .drain die => keeps_drain die
  | .collAbortPacket die => keeps_collAbortPacket die
  | .variant die => keeps_variant die
  | .delivered die => keeps_delivered die
  | .forwardStart port => keeps_forwardStart port
  | .escape port => keeps_escape port
  | .noRoute die => keeps_noRoute die
  | .pseqGap die => keeps_pseqGap die
  | .deliveredSend die peerMod peerDie => keeps_deliveredSend die peerMod peerDie
  | .requestReplay die tag => keeps_requestReplay die tag
  | .responseCacheExpire die => keeps_responseCacheExpire die
  | .drainSend port => keeps_drainSend port
  | .epochRelease t => keeps_epochRelease t
  | .routeWrite v t bank entries commit => keeps_routeWrite v t bank entries commit
  | .routeFlip v t step => keeps_routeFlip v t step
  | .routeStatus v t => keeps_routeStatus v t
  | .rwinSet v die idx win => keeps_rwinSet v die idx win
  | .collAbort v p coll => keeps_collAbort v p coll
  | .refLoss => keeps_refLoss
  | .refValid => keeps_refValid
  | .clkTargetWrite p target => keeps_clkTargetWrite p target
  | .pllLock p => keeps_pllLock p
  | .droop die stretches => keeps_droop die stretches
  | .sympatheticStretch die periods => keeps_sympatheticStretch die periods
  | .clkMonitorWindow die region hist duty => keeps_clkMonitorWindow die region hist duty
  | .servoUpdate => keeps_servoUpdate
  | .timeMarkerSend port => keeps_timeMarkerSend port
  | .ptpSync offset => keeps_ptpSync offset
  | .sessOpen v p channel => keeps_sessOpen v p channel
  | .sessClose v p sid => keeps_sessClose v p sid
  | .reqSubmit v p r tokens => keeps_reqSubmit v p r tokens
  | .reqCancel v p rid => keeps_reqCancel v p rid
  | .reqStatus v p rid => keeps_reqStatus v p rid
  | .sessTruncate v p sid newL => keeps_sessTruncate v p sid newL
  | .park v p sid dest blocks => keeps_park v p sid dest blocks
  | .parkCommit p sid members => keeps_parkCommit p sid members
  | .unpark v p sid program wset => keeps_unpark v p sid program wset
  | .unparkCheck p sid readable members => keeps_unparkCheck p sid readable members
  | .sessStatus v p sid => keeps_sessStatus v p sid
  | .commitPoint p block => keeps_commitPoint p block
  | .manifestReceive p m wall => keeps_manifestReceive p m wall
  | .layerBoundary p cycle => keeps_layerBoundary p cycle
  | .outputRecordWrite p rid => keeps_outputRecordWrite p rid
  | .weightsFetch v p w m => keeps_weightsFetch v p w m
  | .weightsStage v p w m => keeps_weightsStage v p w m
  | .weightsSwap v p barrier ctx => keeps_weightsSwap v p barrier ctx
  | .weightsPace v p maxOut rateCap => keeps_weightsPace v p maxOut rateCap
  | .weightsAbort v p => keeps_weightsAbort v p
  | .weightsStatus v p => keeps_weightsStatus v p
  | .weightsTarget v p target addr service nqn => keeps_weightsTarget v p target addr service nqn
  | .chunkIssue p => keeps_chunkIssue p
  | .chunkVerify p entry readOk cipher => keeps_chunkVerify p entry readOk cipher
  | .readTimeout p entry => keeps_readTimeout p entry
  | .layerGroupDone p => keeps_layerGroupDone p
  | .detJournal v p dest => keeps_detJournal v p dest
  | .detReplay v p j => keeps_detReplay v p j
  | .provConfig v p c => keeps_provConfig v p c
  | .provSeal v p => keeps_provSeal v p
  | .detTruncate v p t => keeps_detTruncate v p t
  | .detStatus v p => keeps_detStatus v p
  | .detDisarm v p => keeps_detDisarm v p
  | .truncatePoint p => keeps_truncatePoint p
  | .truncateSettle p => keeps_truncateSettle p
  | .secIdentity v => keeps_secIdentity v
  | .secAttest v p nonce => keeps_secAttest v p nonce
  | .partitionSetAssign v st b => keeps_partitionSetAssign v st b
  | .partitionSetRelease v st b => keeps_partitionSetRelease v st b
  | .secEnroll v st operatorKey custodianKey => keeps_secEnroll v st operatorKey custodianKey
  | .secSessionOpen v p policy sigOk => keeps_secSessionOpen v p policy sigOk
  | .secPolicySet v p st policy => keeps_secPolicySet v p st policy
  | .secKeyLoad v p k => keeps_secKeyLoad v p k
  | .secKeyDestroy v p k => keeps_secKeyDestroy v p k
  | .secKeySwitch v p slot step => keeps_secKeySwitch v p slot step
  | .secMemkeyRotate v p => keeps_secMemkeyRotate v p
  | .memkeyLoaded p => keeps_memkeyLoaded p
  | .secTeardown v p st mode => keeps_secTeardown v p st mode
  | .teardownDrainEnd p => keeps_teardownDrainEnd p
  | .teardownScrubDone p => keeps_teardownScrubDone p
  | .secStatus v p => keeps_secStatus v p
  | .mailboxScan w posts stores => keeps_mailboxScan w posts stores
  | .mgmtCommand clientOk post => keeps_mgmtCommand clientOk post
  | .regDir v first => keeps_regDir v first
  | .regRead v num elem count inst bank => keeps_regRead v num elem count inst bank
  | .regWrite v num elem inst value => keeps_regWrite v num elem inst value
  | .evtRead v max => keeps_evtRead v max
  | .telemConfig v p addr entries pushEvery => keeps_telemConfig v p addr entries pushEvery
  | .health v => keeps_health v
  | .fwStage v addr len image => keeps_fwStage v addr len image
  | .fwCommit v => keeps_fwCommit v
  | .fwActivate v => keeps_fwActivate v
  | .fwStatus v => keeps_fwStatus v
  | .fwSvnAdvance v => keeps_fwSvnAdvance v
  | .wdogControl p => keeps_wdogControl p
  | .wdogMgmt => keeps_wdogMgmt
  | .wdogSecurity => keeps_wdogSecurity
  | .powerOn image alignFail => keeps_powerOn image alignFail
  | .fillComplete spFail whFail => keeps_fillComplete spFail whFail
  | .recoveryStart image => keeps_recoveryStart image
  | .wilucForward f => keeps_wilucForward f
  | .chainTakeover => keeps_chainTakeover
  | .enum f => keeps_enum f
  | .setLocation f => keeps_setLocation f
  | .power f => keeps_power f
  | .healthFrame f => keeps_healthFrame f
  | .holdup f => keeps_holdup f
  | .rcvBegin f => keeps_rcvBegin f
  | .rcvData f => keeps_rcvData f
  | .rcvEnd f image => keeps_rcvEnd f image
  | .pwrSet v target => keeps_pwrSet v target
  | .powerTransitionDone => keeps_powerTransitionDone
  | .pwrStatus v => keeps_pwrStatus v
  | .holdupTest v => keeps_holdupTest v
  | .holdupTestDaily => keeps_holdupTestDaily
  | .holdupTestDone deltaMv v0Mv => keeps_holdupTestDone deltaMv v0Mv
  | .pwrLimit v watts => keeps_pwrLimit v watts
  | .inputFail => keeps_inputFail
  | .inputOvervoltage => keeps_inputOvervoltage
  | .inputReturn => keeps_inputReturn
  | .tankExhausted => keeps_tankExhausted
  | .powerSample vinMv iinMa pinDw pavgDw => keeps_powerSample vinMv iinMa pinDw pavgDw
  | .powerStepUpdate avg100Dw avg1sMaxDw => keeps_powerStepUpdate avg100Dw avg1sMaxDw
  | .thermalStepUpdate p => keeps_thermalStepUpdate p
  | .thmTrip sensor temp => keeps_thmTrip sensor temp
  | .railFault r => keeps_railFault r
  | .coolFlow flow => keeps_coolFlow flow
  | .coolInlet temp => keeps_coolInlet temp
  | .machineError addr => keeps_machineError addr
  | .edgeCheck die failed => keeps_edgeCheck die failed
  | .illegalOpcode a => keeps_illegalOpcode a
  | .lossOfSignal port => keeps_lossOfSignal port
  | .thmWarn sensor temp => keeps_thmWarn sensor temp
  | .tankReady => keeps_tankReady

/-- A step on an empty queue is the tick. -/
theorem step_of_empty {s : State} (h : s.pending = []) : step s = nextMach s (idle s.mach) := by
  simp only [step, h, nextMach]

/-- A step on a queue that is not empty runs its front. -/
theorem step_of_cons {s : State} {c : Instr} {r : List Instr} (h : s.pending = c :: r) :
    step s = exec c { s with pending := r } := by
  simp only [step, h]

/-- Settles O5: the tick keeps the form, and so does each command. -/
theorem memoryFormKept : Obligations.MemoryFormKept := by
  intro s t hs ht
  cases hp : s.pending with
  | nil =>
    rw [step_of_empty hp] at ht
    cases ht
    exact wf_idle _ hs
  | cons c r =>
    rw [step_of_cons hp] at ht
    exact exec_keeps c { s with pending := r } t hs ht

end Sys2Proof.Machine
end

section
/-! Proofs about the commands of the mailboxes (17 R741, R752): a command that passes the checks before its own does its
own work. -/

namespace Sys2Proof.Machine

variable {s : State} {m n : Mach} {v : Via} {p : Option Nat} {code : Nat}

theorem command_of_served (h : served m v p code) (body : Mach → Mach) : command v p code body m = body m := by
  obtain ⟨hboot, hok⟩ := h
  simp only [command, hboot, hok, ne_eq, not_true_eq_false, if_false]

/-- The next state of a command that is served is what its own work leaves. -/
theorem run_served {body : Fuses → Mach → Mach} (h : served s.mach v p code) (hb : body s.fuses s.mach = n) :
    run s (fun fz => command v p code (body fz)) = nextMach s n :=
  congrArg (nextMach s) ((command_of_served h _).trans hb)

/-- The same for a command that reads no fuse. -/
theorem run_plain {body : Mach → Mach} (h : served s.mach v p code) (hb : body s.mach = n) :
    run s (fun _ => command v p code body) = nextMach s n :=
  run_served (body := fun _ => body) h hb

end Sys2Proof.Machine
end

section
/-! Proofs about the instructions of the queues that execute normally (03 to 06): the state that each of them leaves, and
the settlement of O9 to O14. Each effect is the one of the model at no uncorrectable read, whose reads are of the machine
at the issue. -/

namespace Sys2Proof.Machine

/-! ### An instruction that executes normally -/

/-- The next state of an instruction that executes normally is the one of its effect. -/
theorem run_issue {s : State} {a : At} {r : Row} {x : Ctx} (eff : Ctx → Cut → Eff) (h : Issues s a r x) :
    run s (issue a r (specRow r) eff) = nextMach s (issueOf x r (eff x {}) s.mach) :=
  congrArg (nextMach s) (issue_well eff h)

/-- The same of an instruction whose accesses meet others (R52, R108). -/
theorem run_meets {s : State} {a : At} {r : Row} {x : Ctx} {y : Nat × Nat × Nat} (eff : Ctx → Cut → Eff)
    (h : Meets s a r x y) :
    run s (issue a r (specRow r) eff) =
      nextMach s (let lost := lostHere x y.1 (specRow r x)
        let got := loseGots x.m lost x.q x.e.off (gotsOf x (specRow r x))
        let e := eff { x with got := got } {}
        let m := loseAccs x.fz x.key (lostBefore x y.1 (specRow r x)) { countReads x.m x.key farAway got s.mach with
          freeCtr := (countReads x.m x.key farAway got s.mach).freeCtr + 1 }
        let n := e.next (writeOut x ((e.writes.map (ownWrite x)).filter (fun w => !w.isOf lost))
          (e.cache.map (ownWrite x)) (onIssue x (specRow r x) lost {} got e m))
        haltUnit x y.1 0x03 y.2.1 y.2.2 (some x.e.off) { n with freeCtr := n.freeCtr + 1 }) := by
  obtain ⟨hx, hi, hc, hy⟩ := h
  obtain ⟨hp, hs⟩ := issue_at eff hx hi
  exact congrArg (nextMach s) (hp.trans (perform_meets eff s.mach hc hy hs (lostHere_some hc)))

/-- Without an uncorrectable read every cycle of an instruction is before the first one. -/
theorem filter_lets_of_sound {α : Type} (f : α → Nat) (l : List α) :
    l.filter (fun i => Cut.lets {} (f i)) = l :=
  List.filter_eq_self.2 (fun _ _ => lets_none _)

/-- No uncorrectable read stops an instruction whose reads are sound. -/
theorem not_cut_of_sound : ¬ ({} : Cut).cycle < farAway := Nat.lt_irrefl _

theorem mmaRows_of_sound (x : Ctx) : mmaRows x {} = 64 := by
  simp [mmaRows, farAway]

section Reads
variable {s : State} {a : At} {r : Row} {x : Ctx} (h : Issues s a r x)
include h

/-- An instruction that issues reads its beats as they stand. -/
theorem Issues.read_eq (c b : Nat) : x.read c b = readBeat x.m x.key x.own c b := (read_here h.1 c b).1

theorem Issues.buf_eq : x.buf = none := (ctxOf_m h.1).2.2.2

theorem Issues.usedBuf_eq : usedBuf x = mmaBuf x.st x.c := by rw [usedBuf, h.buf_eq, Option.none_or]

end Reads

/-! ### The matrix engine (04) -/

section Matrix
variable {s : State} {a : At} {x : Ctx}

theorem effLoadw_of_issues (h : Issues s a .loadw x) :
    effLoadw x {} = { st := fun t => { t with
      bbufs := tput {} t.bbufs (t.loads % 2)
        { valid := true, fmt := mxFmt x.w, tile := readTile x (w95 x.w) (from_ (x.c + 1) (tileBeats (mxFmt x.w)))
          scales := if isMx (mxFmt x.w) then readBeat x.m x.key x.own x.c (mxS x.w) else []
          complete := x.c + tileBeats (mxFmt x.w) + 4 }
      loads := t.loads + 1 } } := by
  simp only [effLoadw, if_neg not_cut_of_sound, h.read_eq]

end Matrix

/-- Settles O9: the effects of a load, of a multiply on the buffer that R166 gives it, and of a drain. -/
theorem matrixCommandsResult : Obligations.MatrixCommandsResult := by
  refine ⟨fun s a x h => ?loadw, fun s a x k h hk => ?mma, fun s a x h => ?drain⟩
  case loadw => exact (run_issue effLoadw h).trans (by rw [effLoadw_of_issues h])
  case mma =>
    refine (run_issue effMma h).trans ?_
    simp only [effMma, h.usedBuf_eq, hk, h.read_eq, mmaRows_of_sound]
  case drain => exact run_issue effDrain h

/-! ### The vector engine (05, 06) -/

/-- The key advances in its base alone (R249). -/
theorem advanceKey_eq (w n : Nat) (t : Station) :
    advanceKey w n t = { t with srBase := if vxRnd w = 2 then t.srBase + BitVec.ofNat 64 n else t.srBase } := by
  unfold advanceKey
  split <;> rfl

/-- A planned instruction whose reads are sound raises the flags of all its elements. -/
theorem effPlan_of_sound (f : Ctx → VxPlan → VxOut) (x : Ctx) :
    effPlan f x {} =
      { writes := scatterWrites (vxWp x.w) (vxPlanOf x).dst (planCycles x.c (vxPlanOf x)) (f x (vxPlanOf x)).bytes
        st := fun t => advanceKey x.w (f x (vxPlanOf x)).count (takePipe x.c (vxPlanOf x).n t)
        vx := (f x (vxPlanOf x)).fl.bits, la := (f x (vxPlanOf x)).la.bits } := by
  simp only [effPlan, if_neg not_cut_of_sound]

/-- Settles O10: the seven rows that stream elements have the effect of a plan, and so has SPLIT, less what its accesses
lose. -/
theorem vectorStreamCommandsResult : Obligations.VectorStreamCommandsResult := by
  refine ⟨fun s a x c r f hc h => ?issues, fun s a x y h => ?meets⟩
  case issues =>
    have hrun := run_issue (effPlan f) h
    simp only [effPlan_of_sound, advanceKey_eq] at hrun
    simp only [List.mem_cons, Prod.mk.injEq, List.not_mem_nil, or_false] at hc
    obtain ⟨rfl, rfl, rfl⟩ | ⟨rfl, rfl, rfl⟩ | ⟨rfl, rfl, rfl⟩ | ⟨rfl, rfl, rfl⟩ | ⟨rfl, rfl, rfl⟩ | ⟨rfl, rfl, rfl⟩
      | ⟨rfl, rfl, rfl⟩ := hc <;> exact hrun
  case meets =>
    have hrun := run_meets (effPlan outSplit) h
    simp only [effPlan_of_sound, advanceKey_eq] at hrun
    exact hrun

section Vector
variable {s : State} {a : At} {x : Ctx}

theorem effOcldLoad_of_issues (h : Issues s a .ocldLoad x) :
    effOcldLoad x {} = {
      cache := (List.range (vxLen x.w)).map (fun i =>
        { cycle := x.c + i + 2, delay := 1, port := 0, off := 128 * (vxC x.w + i)
          bytes := readBeat x.m x.key x.own (x.c + i) (w95 x.w + i) })
      st := takePipe x.c (vxLen x.w) } := by
  simp only [effOcldLoad, filter_lets_of_sound (fun i => x.c + i), h.read_eq]

theorem effOcldKey_of_issues (h : Issues s a .ocldKey x) :
    effOcldKey x {} = { st := fun t => { takePipe x.c 1 t with
      srTensor := BitVec.ofNat 32 (leAt (readBeat x.m x.key x.own x.c (w95 x.w)) 0 4)
      srBase := BitVec.ofNat 64 (leAt (readBeat x.m x.key x.own x.c (w95 x.w)) 8 8) } } := by
  simp only [effOcldKey, if_neg not_cut_of_sound, h.read_eq]

theorem effCntld_of_issues (h : Issues s a .cntld x) :
    effCntld x {} = {
      st := fun t => writeCnt x (vxD x.w % 8)
        (leAt (readBeat x.m x.key x.own x.c (w95 x.w)) (4 * (vxC x.w % 32)) 4) (takePipe x.c 1 t) } := by
  simp only [effCntld, if_neg not_cut_of_sound, h.read_eq]

theorem effAmaxLoad_of_issues (h : Issues s a .amaxLoad x) :
    effAmaxLoad x {} = { st := fun t => { takePipe x.c 1 t with
      axLog := (takePipe x.c 1 t).axLog ++ [(x.c, vxD x.w % 4, clampAx
        (sext 32 (leAt (readBeat x.m x.key x.own x.c (w95 x.w)) 0 4)
          + sext 32 (leAt (readBeat x.m x.key x.own x.c (vxB x.w)) 0 4)))] } } := by
  simp only [effAmaxLoad, if_neg not_cut_of_sound, h.read_eq]

end Vector

theorem takePipe_axLog (c n : Nat) (t : Station) : (takePipe c n t).axLog = t.axLog := by
  unfold takePipe
  split <;> rfl

theorem takePipe_cntLog (c n : Nat) (t : Station) : (takePipe c n t).cntLog = t.cntLog := by
  unfold takePipe
  split <;> rfl

/-- Settles O11: the effects of the other rows of the vector engine. -/
theorem vectorOtherCommandsResult : Obligations.VectorOtherCommandsResult := by
  refine ⟨fun s a x h => run_issue effTopSelect h, fun s a x h => run_issue effTopMerge h,
    fun s a x h => run_issue effStop h, fun s a x h => ?ocldLoad, fun s a x h => ?ocldKey, fun s a x h => ?cntld,
    fun s a x h => run_issue effAmaxScan h, fun s a x h => ?amaxLoad⟩
  case ocldLoad => exact (run_issue effOcldLoad h).trans (by rw [effOcldLoad_of_issues h])
  case ocldKey => exact (run_issue effOcldKey h).trans (by rw [effOcldKey_of_issues h])
  case cntld =>
    refine (run_issue effCntld h).trans ?_
    rw [effCntld_of_issues h]
    simp only [writeCnt, takePipe_cntLog]
  case amaxLoad =>
    refine (run_issue effAmaxLoad h).trans ?_
    simp only [effAmaxLoad_of_issues h, takePipe_axLog]

/-! ### Streams, transfers and control (03, 08, 10) -/

theorem effSend_of_issues {s : State} {a : At} {x : Ctx} (h : Issues s a .send x) :
    effSend x {} =
      { st := fun t => { t with sends := t.sends ++ [{ cycle := x.c, len := mvLen x.w }] }
        next := fun m => { m with mesh := m.mesh ++ (List.range (mvLen x.w)).map (fun i =>
          { srcDie := x.d, srcUnit := x.unit, dstDie := mvDie x.w, dstUnit := mvUnit x.w
            stamp := stampOf (wXfer x.w) x.qs.stofs (wBeat x.w) i, sent := x.c + i, step := (part x.m x.p).step
            rows := meshRows x.m x.p, bytes := readBeat x.m x.key x.own (x.c + i) (w95 x.w + i) }) } } := by
  simp only [effSend, filter_lets_of_sound (fun i => x.c + i), h.read_eq]

/-- Settles O12: all beats of a send go on the mesh, and a receive adds its stream. -/
theorem streamCommandsResult : Obligations.StreamCommandsResult := by
  refine ⟨fun s a x h => ?send, fun s a x h => run_issue effRecv h⟩
  case send => exact (run_issue effSend h).trans (by rw [effSend_of_issues h]; rfl)

/-- Settles O13: each long-running row opens its descriptor and puts its request where R70 has it. -/
theorem transferCommandsResult : Obligations.TransferCommandsResult := by
  refine ⟨fun s a x c r hc h => ?dma, fun s a x c r kind cause hc h => ?host, fun s a x h => run_issue effInject h,
    fun s a x h => run_issue effExpect h⟩
  case dma =>
    have hrun := run_issue effDma h
    simp only [List.mem_cons, Prod.mk.injEq, List.not_mem_nil, or_false] at hc
    obtain ⟨rfl, rfl⟩ | ⟨rfl, rfl⟩ | ⟨rfl, rfl⟩ | ⟨rfl, rfl⟩ | ⟨rfl, rfl⟩ | ⟨rfl, rfl⟩ := hc <;> exact hrun
  case host =>
    simp only [List.mem_cons, Prod.mk.injEq, List.not_mem_nil, or_false] at hc
    obtain ⟨rfl, rfl, rfl, rfl⟩ | ⟨rfl, rfl, rfl, rfl⟩ := hc
    · exact run_issue effHost h
    · exact run_issue effCist h

theorem effLoopr_of_count {x : Ctx} (cut : Cut) (hn : cntAt x.st (ctCnt x.w) x.c ≠ 0) :
    effLoopr x cut = onOwn x (pushLoop (cntAt x.st (ctCnt x.w) x.c)) := by
  simp only [effLoopr, if_neg hn]

theorem effLoopr_of_zero {x : Ctx} (cut : Cut) (hn : cntAt x.st (ctCnt x.w) x.c = 0) :
    effLoopr x cut = onOwn x (fun q => { q with skip := 1 }) := by
  simp only [effLoopr, hn, if_true]

theorem effFetch_of_issues {s : State} {a : At} {x : Ctx} {q : Queue} (h : Issues s a .fetch x)
    (hq : qOf (fetQ x.w) = some q) :
    effFetch x {} = { st := fun t => t.onQueue q (fun y => y.append ((List.range (fetN x.w)).flatMap (fun k =>
      beatEntries (readBeat x.m x.key x.own (x.c + k) (fetSrc x.w + k)) (128 * (fetSrc x.w + k - (x.st.ibuf q).base))
        (x.c + k + 5)))) } := by
  simp only [effFetch, hq, filter_lets_of_sound (fun k => x.c + k), h.read_eq]

/-- Settles O14: what each control row does to its queue or station; of CT.LOOPR at a count and at 0. -/
theorem controlCommandsResult : Obligations.ControlCommandsResult := by
  refine ⟨fun s a x h => run_issue _ h, fun s a x h => run_issue _ h, fun s a x h hn => ?loopr, fun s a x h hn => ?skip,
    fun s a x h => run_issue _ h, fun s a x h => run_issue effGateOpen h, fun s a x h => run_issue effGateClose h,
    fun s a x h => run_issue effStamp h, fun s a x h => run_issue effSetcnt h, fun s a x h => run_issue effStepend h,
    fun s a x h => run_issue effClose h, fun s a x q h hq => ?fetch⟩
  case loopr => exact (run_issue effLoopr h).trans (by rw [effLoopr_of_count _ hn]; rfl)
  case skip => exact (run_issue effLoopr h).trans (by rw [effLoopr_of_zero _ hn]; rfl)
  case fetch => exact (run_issue effFetch h).trans (by rw [effFetch_of_issues h hq])

end Sys2Proof.Machine
end

section
/-! Proofs about the beats of the mesh (02 R56 to R71, 07 R290, R291): what a router, a crossing and a receive slot do
with them, and the settlement of O18 and O19. -/

namespace Sys2Proof.Machine

/-! ### Routers and crossings -/

/-- A beat that is alone at an output port, or none, goes on (R57). -/
theorem collide_of_alone (key step out c : Nat) {l : List (Nat × Beat)} (m : Mach) (h : l.length ≤ 1) :
    collide key step out c l m = m := by
  match l, h with
  | [], _ => rfl
  | [_], _ => simp [collide, winner]

/-- Settles O18: a router with a winner and without a meeting, and an admission of a cycle that the partition executes. -/
theorem meshCommandsResult : Obligations.MeshCommandsResult := by
  refine ⟨fun s d u out c key w y r hk he hw hr => ?meeting, fun s d u out c key hk he hl => ?alone,
    fun s d side c slipped he => ?crossing⟩
  case meeting =>
    refine (exec_routerForward d u out c s).trans (congrArg (nextMach s) ?_)
    rw [routerForward_of_executes _ hk he, collide_of_winner _ _ _ _ _ hw hr]
    simp only [List.length_map]
  case alone =>
    refine (exec_routerForward d u out c s).trans (congrArg (nextMach s) ?_)
    rw [routerForward_of_executes _ hk he, collide_of_alone _ _ _ _ _ hl]
  case crossing =>
    refine congrArg (nextMach s) (?_ : crossingAdmit d.val (decide (side = .east)) c slipped s.mach = _)
    simp only [crossingAdmit, if_pos he, decide_eq_true_eq]

/-! ### Receive slots -/

section Slots
variable {fz : Fuses} {d unit c pidx : Nat} {m : Mach}

/-- The machine in which a receive slot is decided: the local port has forwarded (R71). -/
def afterLocalPort (d unit c : Nat) (m : Mach) : Mach :=
  if 2 ≤ c then routerForward d unit 0 (c - 2) m else m

variable {r : RecvSt} {i : Nat} {b : Beat}
  (hp : physOf m d unit = some pidx) (he : executes m (partOf m d) c = true)
include hp he

/-- A beat that fits the one slot of its cycle is taken there. -/
theorem beatReceive_of_fit (hs : slotsIn (stn (afterLocalPort d unit c m) (stKey d pidx)) c = [(r, i)])
    (hb : deliveredBeat (afterLocalPort d unit c m) (part (afterLocalPort d unit c m) (partOf m d)).step d unit c
      = some b) (hd : r.dead = false) (hfit : slotFits (some b) (r, i) = true) :
    beatReceive fz d unit c m = takeBeat fz (partOf m d) d unit pidx c r i b
      (onStn (stKey d pidx) (closeSlots c [])
        { afterLocalPort d unit c m with mesh := (afterLocalPort d unit c m).mesh.erase b }) := by
  unfold afterLocalPort at *
  simp [beatReceive, hp, he, hs, hb, hd, hfit]

theorem beatReceive_of_empty_slot (hs : slotsIn (stn (afterLocalPort d unit c m) (stKey d pidx)) c = [(r, i)])
    (hb : deliveredBeat (afterLocalPort d unit c m) (part (afterLocalPort d unit c m) (partOf m d)).step d unit c
      = none) (hd : r.dead = false) :
    beatReceive fz d unit c m = haltSlot fz (partOf m d) d unit pidx c 0x07 (stampArg (some (r.stamp i, i)) none)
      (some r) (onStn (stKey d pidx) (closeSlots c [r]) (afterLocalPort d unit c m)) := by
  unfold afterLocalPort at *
  simp [beatReceive, hp, he, hs, hb, hd]

theorem beatReceive_of_no_slot (hs : slotsIn (stn (afterLocalPort d unit c m) (stKey d pidx)) c = [])
    (hb : deliveredBeat (afterLocalPort d unit c m) (part (afterLocalPort d unit c m) (partOf m d)).step d unit c
      = some b) :
    beatReceive fz d unit c m = haltSlot fz (partOf m d) d unit pidx c 0x06 (stampArg none (some b)) none
      (onStn (stKey d pidx) (closeSlots c [])
        { afterLocalPort d unit c m with mesh := (afterLocalPort d unit c m).mesh.erase b }) := by
  unfold afterLocalPort at *
  simp [beatReceive, hp, he, hs, hb]

theorem beatReceive_of_neither (hs : slotsIn (stn (afterLocalPort d unit c m) (stKey d pidx)) c = [])
    (hb : deliveredBeat (afterLocalPort d unit c m) (part (afterLocalPort d unit c m) (partOf m d)).step d unit c
      = none) :
    beatReceive fz d unit c m = onStn (stKey d pidx) (closeSlots c []) (afterLocalPort d unit c m) := by
  unfold afterLocalPort at *
  simp [beatReceive, hp, he, hs, hb]

end Slots

/-- Settles O19: a slot with its beat, a slot or a beat without the other, and neither. -/
theorem receiveCommandResult : Obligations.ReceiveCommandResult := by
  intro s d u c pidx hp p he key m beat slots
  refine ⟨fun r i b hs hb hd hstamp hdie hunit => ?fit, fun r i hs hb hd => ?empty, fun b hs hb => ?stray,
    fun hs hb => ?neither⟩
  case fit =>
    have hfit : slotFits (some b) (r, i) = true := by simp [slotFits, hstamp, hdie, hunit]
    exact congrArg (nextMach s) (beatReceive_of_fit hp he hs hb hd hfit)
  case empty => exact congrArg (nextMach s) (beatReceive_of_empty_slot hp he hs hb hd)
  case stray => exact congrArg (nextMach s) (beatReceive_of_no_slot hp he hs hb)
  case neither => exact congrArg (nextMach s) (beatReceive_of_neither hp he hs hb)

end Sys2Proof.Machine
end

section
/-! Proofs about the transfers of the edge stations (08 R327 to R344, R361 to R369): one beat of a transfer, its start and
its end, and the settlement of O20 and O21. -/

namespace Sys2Proof.Machine

/-! ### One beat of a transfer -/

/-- The edge station takes the next beat of a transfer now, and port and bank are free for it (R330). -/
def beatMay (m : Mach) (lane : Lane) (t : Xfer) (at_ : LaneAt) : Bool :=
  t.open_ && decide (t.moved + lostOf m t < t.len) && laneFree m t at_ && !cold m t && inTurn m lane t at_

/-- The machine in which the next beat moves, of one whose mesh is settled: a block of the cistern takes its turn, and the
access is recorded. -/
def beatFrom (t : Xfer) (at_ : LaneAt) (n : Mach) : Mach :=
  recordLane t.key (!t.out) t.port (t.loc + t.moved) 0 t.iaddr at_
    (if blockBeat t then cistServed (partOf n t.die) n else n)

section Beat
variable {fz : Fuses} {d unit desc c key : Nat} {m n : Mach} {t : Xfer} {lane : Lane} {at_ : LaneAt}

theorem laneBeat_of_found (hk : keyOf m d unit = some key) (hf : findXfer m key desc = some (lane, t)) :
    laneBeat d unit desc c fz m =
      if beatMay m lane t (laneAt m key c) then stepLane fz lane t (laneAt m key c) c m else m := by
  simp only [laneBeat, hk, hf]
  rfl

theorem stepLane_of_no_mesh (h : laneMesh lane t at_ m = none) : stepLane fz lane t at_ c m = m := by
  simp only [stepLane, h]

theorem stepLane_of_mesh (h : laneMesh lane t at_ m = some n) :
    stepLane fz lane t at_ c m = feed lane t.key t.desc at_ (moveBeat fz lane t at_ c (beatFrom t at_ n)) := by
  simp only [stepLane, h, beatFrom]

end Beat

/-! ### Beats of a wellhead -/

section Well
variable {fz : Fuses} {w c : Nat} {t t' : Xfer} {at_ : LaneAt} {m n : Mach} {l : List Byte} {e : HbmStop}

theorem wellIn_of_ok (h : nextIn w t m = (n, .ok (l, t'))) :
    wellIn fz w t at_ c m = putXfer (.well w) t { t' with moved := t.moved + 1 }
      (laneWrite fz t.key t.port (128 * (t.loc + t.moved)) at_ l n) := by
  rw [wellIn, h]

theorem wellIn_of_error (h : nextIn w t m = (n, .error e)) : wellIn fz w t at_ c m = stopXfer fz w t c e n := by
  rw [wellIn, h]

theorem wellOut_of_bad {b : Nat} {r : List Nat} (h : laneRead t.key (t.loc + t.moved) at_ m = (n, b :: r, l)) :
    wellOut fz w t at_ c m = laneHalt fz t c (t.loc + t.moved) (b :: r) (endXfer (.well w) t n) := by
  unfold wellOut
  generalize laneRead t.key (t.loc + t.moved) at_ m = z at h ⊢
  subst h
  rfl

/-- A beat of a query goes to the buffer of the tap. -/
theorem wellOut_of_query (hq : t.mode = 6) (h : laneRead t.key (t.loc + t.moved) at_ m = (n, [], l)) :
    wellOut fz w t at_ c m = putXfer (.well w) t { t with moved := t.moved + 1 }
      (onWell w (fun y => { y with queries := tput [] y.queries (t.addr + t.moved) l }) n) := by
  unfold wellOut
  generalize laneRead t.key (t.loc + t.moved) at_ m = z at h ⊢
  subst h
  exact if_pos hq

theorem wellOut_of_written {n' : Mach} (hq : t.mode ≠ 6) (h : laneRead t.key (t.loc + t.moved) at_ m = (n, [], l))
    (hw : writeHbm w t.addr (t.addr + t.len) (t.addr + t.moved) l n = (n', none)) :
    wellOut fz w t at_ c m = putXfer (.well w) t { t with moved := t.moved + 1 } n' := by
  unfold wellOut
  generalize laneRead t.key (t.loc + t.moved) at_ m = z at h ⊢
  subst h
  simp only [if_neg hq, hw]

end Well

/-! ### Beats of the host gateway and the cistern -/

section Host
variable {fz : Fuses} {c : Nat} {t : Xfer} {at_ : LaneAt} {m n : Mach} {l : List Byte}

theorem hostIn_of_sound (h : hostFails m (part m (partOf m t.die)) t = none) :
    hostIn fz t at_ c m =
      putXfer (.host t.die) t { t with
          moved := t.moved + 1, buffered := t.buffered ++ hostBeat m (part m (partOf m t.die)) t }
        (laneWrite fz t.key t.port (128 * (t.loc + t.moved)) at_ (hostBeat m (part m (partOf m t.die)) t) m) := by
  rw [hostIn, h]

theorem hostIn_of_fails {sub arg : Nat} (h : hostFails m (part m (partOf m t.die)) t = some (sub, arg)) :
    hostIn fz t at_ c m = hostHalt fz t c sub arg (endXfer (.host t.die) t m) := by
  rw [hostIn, h]

theorem hostOut_of_bad {b : Nat} {r : List Nat} (h : laneRead t.key (t.loc + t.moved) at_ m = (n, b :: r, l)) :
    hostOut fz t at_ c m = laneHalt fz t c (t.loc + t.moved) (b :: r) (endXfer (.host t.die) t n) := by
  unfold hostOut
  generalize laneRead t.key (t.loc + t.moved) at_ m = z at h ⊢
  subst h
  rfl

theorem hostOut_of_open (hk : t.kind = 1) (h : laneRead t.key (t.loc + t.moved) at_ m = (n, [], l))
    (hs : sealedBlock (part m (partOf m t.die)) t = none) :
    hostOut fz t at_ c m = putXfer (.host t.die) t { t with moved := t.moved + 1 }
      (pokeHost (hostAddr (part m (partOf m t.die)) (t.addr + t.moved)) l n) := by
  unfold hostOut
  generalize laneRead t.key (t.loc + t.moved) at_ m = z at h ⊢
  subst h
  simp [hk, hs]

theorem hostOut_of_sealed {b : Nat} (hk : t.kind = 1) (h : laneRead t.key (t.loc + t.moved) at_ m = (n, [], l))
    (hs : sealedBlock (part m (partOf m t.die)) t = some b) :
    hostOut fz t at_ c m = gatherBeat (.host t.die) t l (writeSealed (partOf m t.die) b) n := by
  unfold hostOut
  generalize laneRead t.key (t.loc + t.moved) at_ m = z at h ⊢
  subst h
  simp [hk, hs]

/-- A block is stored once its last byte has been read. -/
theorem gatherBeat_eq (lane : Lane) (store : List Byte → Mach → Mach) :
    gatherBeat lane t l store m =
      if t.buffered.length + l.length < 4096 then
        putXfer lane t { t with moved := t.moved + 1, buffered := t.buffered ++ l } m
      else putXfer lane t { t with moved := t.moved + 1, buffered := [] } (store (t.buffered ++ l) m) := by
  simp only [gatherBeat, List.length_append]

theorem hostOut_of_cistern (hk : t.kind = 2) (h : laneRead t.key (t.loc + t.moved) at_ m = (n, [], l)) :
    hostOut fz t at_ c m =
      gatherBeat (.host t.die) t l (writeBlock (partOf m t.die) (t.addr + t.moved / 32)) n := by
  unfold hostOut
  generalize laneRead t.key (t.loc + t.moved) at_ m = z at h ⊢
  subst h
  simp only [if_pos hk]

/-- A block is checked at its first beat only (R377). -/
theorem cistIn_of_sound
    (h : t.moved % 32 = 0 → cistFails m (partOf m t.die) (t.addr + t.moved / 32) = none) :
    cistIn fz t at_ c m =
      putXfer (.host t.die) t { t with
          moved := t.moved + 1
          buffered := t.buffered ++ peeks m.mem.cist (cistAddr (partOf m t.die) t.addr + 128 * t.moved) 128 }
        (laneWrite fz t.key t.port (128 * (t.loc + t.moved)) at_
          (peeks m.mem.cist (cistAddr (partOf m t.die) t.addr + 128 * t.moved) 128) m) := by
  have hn : (if t.moved % 32 = 0 then cistFails m (partOf m t.die) (t.addr + t.moved / 32) else none) = none := by
    split
    · exact h ‹_›
    · rfl
  simp only [cistIn, hn]

theorem cistIn_of_fails {code : Nat} (hm : t.moved % 32 = 0)
    (h : cistFails m (partOf m t.die) (t.addr + t.moved / 32) = some code) :
    cistIn fz t at_ c m =
      hostHalt fz t c 5 (code * 2 ^ 40 + (t.addr + t.moved / 32)) (endXfer (.host t.die) t m) := by
  simp only [cistIn, if_pos hm, h]

/-- A beat of an LK.INJECT that does not complete a packet waits for the others of it. -/
theorem linkOut_of_partial (h : laneRead t.key (t.loc + t.moved) at_ m = (n, [], l)) (hm : (t.moved + 1) % 32 ≠ 0)
    (hl : t.moved + 1 < t.len) :
    linkOut fz t at_ c m =
      putXfer (.link t.die) t { t with moved := t.moved + 1, buffered := t.buffered ++ l } n := by
  unfold linkOut
  generalize laneRead t.key (t.loc + t.moved) at_ m = z at h ⊢
  subst h
  simp [hm, Nat.not_le.2 hl]

end Host

section Directions
variable {fz : Fuses} {w c : Nat} {t : Xfer} {at_ : LaneAt} {m : Mach}

theorem moveBeat_well_in (ho : t.out = false) : moveBeat fz (.well w) t at_ c m = wellIn fz w t at_ c m :=
  if_neg (by simp [ho])

theorem moveBeat_well_out (ho : t.out = true) : moveBeat fz (.well w) t at_ c m = wellOut fz w t at_ c m := if_pos ho

theorem moveBeat_host_out (ho : t.out = true) : moveBeat fz (.host w) t at_ c m = hostOut fz t at_ c m := if_pos ho

theorem moveBeat_host_in (hk : t.kind = 1) (ho : t.out = false) :
    moveBeat fz (.host w) t at_ c m = hostIn fz t at_ c m := by
  simp [moveBeat, hk, ho]

theorem moveBeat_cistern_in (hk : t.kind = 2) (ho : t.out = false) :
    moveBeat fz (.host w) t at_ c m = cistIn fz t at_ c m := by
  simp [moveBeat, hk, ho]

theorem moveBeat_link (hk : t.kind = 3) : moveBeat fz (.link w) t at_ c m = linkOut fz t at_ c m := if_pos hk

end Directions

/-- Settles O20: a beat that may move does so as its lane and direction have it, and any other stays. -/
theorem laneBeatResult : Obligations.LaneBeatResult := by
  intro s d u desc c key t lane hk hf at_ may
  have hrun : exec (.laneBeatAccess d u desc c) s
      = nextMach s (if may then stepLane s.fuses lane t at_ c s.mach else s.mach) :=
    congrArg (nextMach s) (laneBeat_of_found hk hf)
  refine ⟨fun hmay => ?stays, fun hmesh => ?waits, fun n hmay hmesh => ?moves⟩
  case stays => rw [hrun, hmay]; rfl
  case waits => rw [hrun, stepLane_of_no_mesh hmesh, ite_self]
  case moves =>
    intro m0 fed q
    have hfed : ∀ {m : Mach}, moveBeat s.fuses lane t at_ c m0 = m → fed m := fun h => by
      subst h
      exact (hrun.trans (by rw [hmay, if_pos rfl])).trans (congrArg (nextMach s) (stepLane_of_mesh hmesh))
    refine ⟨?wellIn, ?wellStop, ?query, ?wellOut, ?hostIn, ?hostStop, ?hostOut, ?sealed, ?cistIn, ?cistStop, ?cistOut,
      ?bad, ?link⟩
    case wellIn => rintro w m l t' rfl - ho h; exact hfed ((moveBeat_well_in ho).trans (wellIn_of_ok h))
    case wellStop => rintro w m e rfl - ho h; exact hfed ((moveBeat_well_in ho).trans (wellIn_of_error h))
    case query => rintro w m l rfl - ho hq h; exact hfed ((moveBeat_well_out ho).trans (wellOut_of_query hq h))
    case wellOut =>
      rintro w m n l rfl - ho hq h hw
      exact hfed ((moveBeat_well_out ho).trans (wellOut_of_written hq h hw))
    case hostIn => rintro w rfl hkind ho h; exact hfed ((moveBeat_host_in hkind ho).trans (hostIn_of_sound h))
    case hostStop =>
      rintro w sub arg rfl hkind ho h
      exact hfed ((moveBeat_host_in hkind ho).trans (hostIn_of_fails h))
    case hostOut =>
      rintro w m l rfl hkind ho h hs
      exact hfed ((moveBeat_host_out ho).trans (hostOut_of_open hkind h hs))
    case sealed =>
      rintro w m l b rfl hkind ho h hs
      exact hfed ((moveBeat_host_out ho).trans ((hostOut_of_sealed hkind h hs).trans (gatherBeat_eq _ _)))
    case cistIn => rintro w rfl hkind ho h; exact hfed ((moveBeat_cistern_in hkind ho).trans (cistIn_of_sound h))
    case cistStop =>
      rintro w code rfl hkind ho hm h
      exact hfed ((moveBeat_cistern_in hkind ho).trans (cistIn_of_fails hm h))
    case cistOut =>
      rintro w m l rfl hkind ho h
      exact hfed ((moveBeat_host_out ho).trans ((hostOut_of_cistern hkind h).trans (gatherBeat_eq _ _)))
    case bad =>
      rintro w m b r l (rfl | rfl) - - - hw ho h
      · rw [hw rfl]
        exact hfed ((moveBeat_host_out ho).trans (hostOut_of_bad h))
      · exact hfed ((moveBeat_well_out ho).trans (wellOut_of_bad h))
    case link =>
      rintro w m l rfl hkind h hm hl
      exact hfed ((moveBeat_link hkind).trans (linkOut_of_partial h hm hl))

/-! ### The start and the end of a transfer -/

section Start
variable {fz : Fuses} {c : Nat} {t : Xfer} {m n : Mach}

theorem requestStart_host {d : Fin 4} (hf : (tget [] m.hosts d.val).find? (fun t => !t.started) = some t)
    (hn : ((tget [] m.hosts d.val).filter (fun t => t.started)).length < 64) (ha : arrived m c t = true) :
    requestStart (.host d) c fz m = feed (.host d.val) t.key t.desc (laneAt m t.key c)
      (putXfer (.host d.val) t { t with started := true } m) := by
  simp [requestStart, laneList, startedOf, hf, Nat.not_le.2 hn, ha]

theorem requestStart_well {w : Fin 16} (hf : (well m w.val).queue.find? (fun t => !t.started) = some t)
    (hn : ((well m w.val).queue.filter (fun t => t.started)).length < 64) (ha : arrived m c t = true) :
    requestStart (.well w) c fz m = feed (.well w.val) t.key t.desc (laneAt m t.key c) (startWell fz w.val c t m) := by
  simp [requestStart, laneList, startedOf, hf, Nat.not_le.2 hn, ha]

/-- A transfer that reads no list starts with the addresses of its own beats. -/
theorem startWell_of_plain (w : Nat) (h4 : t.mode ≠ 4) (h5 : t.mode ≠ 5) (h7 : t.mode ≠ 7) :
    startWell fz w c t m =
      putXfer (.well w) t { t with started := true, src := from_ t.addr t.len, buffered := [] } m := by
  unfold startWell
  split
  · exact absurd ‹t.mode = 4› h4
  · exact absurd ‹t.mode = 5› h5
  · exact absurd ‹t.mode = 7› h7
  · rfl

variable {w : Nat} {l : List Nat}

theorem startWell_of_gather (hmode : t.mode = 4) (h : startGather w t m = (n, .ok l)) :
    startWell fz w c t m = putXfer (.well w) t { t with started := true, src := l, buffered := [] } n := by
  simp only [startWell, hmode, h]

theorem startWell_of_score {l : List Byte} (hmode : t.mode = 5) (h : startScore w t m = (n, .ok l)) :
    startWell fz w c t m = putXfer (.well w) t { t with started := true, src := [], buffered := l } n := by
  simp only [startWell, hmode, h]

theorem startWell_of_sgather (hmode : t.mode = 7) (h : startSgather w t m = (n, .ok l)) :
    startWell fz w c t m = putXfer (.well w) t { t with started := true, src := l, buffered := [] } n := by
  simp only [startWell, hmode, h]

theorem descriptorReady_of_done {d unit desc key : Nat} {wall : Int} {lane : Lane}
    (hk : keyOf m d unit = some key) (hf : findXfer m key desc = some (lane, t)) (hd : xferDone m t = true) :
    descriptorReady d unit desc wall m = noteFetch t (becomeReady d unit key desc wall (retire lane t m)) := by
  simp only [descriptorReady, hk, hf, if_pos hd]

end Start

/-- Settles O21: the start at a gateway and at a wellhead, by the mode of the request, and the end of a transfer. -/
theorem transferProgressResult : Obligations.TransferProgressResult := by
  refine ⟨fun s d c t hf hn ha => congrArg (nextMach s) (requestStart_host hf hn ha), fun s w c t hf hn ha => ?well,
    fun s d u desc wall key l t hk hf hd => congrArg (nextMach s) (descriptorReady_of_done hk hf hd)⟩
  case well =>
    have hstart := congrArg (nextMach s) (requestStart_well (fz := s.fuses) hf hn ha)
    refine ⟨fun h4 h5 h7 => hstart.trans ?_, fun m l hmode h => hstart.trans ?_, fun m l hmode h => hstart.trans ?_,
      fun m l hmode h => hstart.trans ?_⟩
    · rw [startWell_of_plain _ h4 h5 h7]; rfl
    · rw [startWell_of_gather hmode h]
    · rw [startWell_of_score hmode h]
    · rw [startWell_of_sgather hmode h]

end Sys2Proof.Machine
end

section
/-! Proofs about the halts and holds of a queue without an issue (03 R104, R146 to R151, 07 R285, R293 to R304), and the
settlement of O15 and O16. -/

namespace Sys2Proof.Machine

/-! ### The seat of a queue -/

/-- A seat, and a context likewise, is that of its queue in the machine. -/
structure SeatIn (fz : Fuses) (m : Mach) (x : Ctx) : Prop where
  fz_eq : x.fz = fz
  m_eq : x.m = m
  key_eq : x.key = stKey x.d x.pidx
  own_eq : x.own = ownOf m x.p x.d x.unit x.q

theorem seatIn_of_seatOf {fz : Fuses} {m : Mach} {a : At} {x : Ctx} (h : seatOf fz m a = some x) : SeatIn fz m x := by
  simp only [seatOf, Option.bind_eq_bind, Option.bind_eq_some_iff, Option.some.injEq] at h
  obtain ⟨_, _, rfl⟩ := h
  exact ⟨rfl, rfl, rfl, rfl⟩

theorem seatIn_of_ctxOf {fz : Fuses} {m : Mach} {a : At} {x : Ctx} (h : ctxOf fz m a = some x) : SeatIn fz m x := by
  simp only [ctxOf, ctxAt, Option.bind_eq_bind, Option.bind_eq_some_iff, Option.some.injEq] at h
  obtain ⟨_, _, _, _, rfl⟩ := h
  exact ⟨rfl, rfl, rfl, rfl⟩

/-! ### Halts of a station -/

/-- The halt of the unit of a seat: its station stops in the cycle and its partition halts (R151). -/
def stopUnit (fz : Fuses) (x : Ctx) (c reason sub arg : Nat) (ia : Option Nat) (m : Mach) : Mach :=
  haltPart fz x.p { reason := reason, die := x.d, queue := qCode x.q, unit := x.unit, pidx := x.pidx, cycle := c
                    iaddr := ia, subcode := sub, arg := arg, station := true, issuer := none }
    (onStn x.key (fun t => { t with halted := some (c : Int) }) m)

/-- A unit whose station has not stopped before the cycle stops it there. -/
theorem haltUnit_of_not_before {fz : Fuses} {x : Ctx} {m n : Mach} {c : Nat} (hx : SeatIn fz m x)
    (hh : ∀ h, (stn n x.key).halted = some h → (c : Int) ≤ h) (reason sub arg : Nat) (ia : Option Nat) :
    haltUnit x c reason sub arg ia n = stopUnit fz x c reason sub arg ia n := by
  have hkey := hx.key_eq
  rw [hkey] at hh
  unfold haltUnit haltStation stopUnit
  rw [hx.fz_eq, hkey]
  cases hs : (stn n (stKey x.d x.pidx)).halted with
  | none => rfl
  | some h => exact if_neg (Int.not_lt.2 (hh h hs))

/-- A region that is within its budget in a cycle has passed neither its limit nor its bound. -/
theorem within_of_inBudget {x : Ctx} (h : inBudget x = true) (m : Mach) : pastLimit x = none ∧ autoGate x m = m := by
  unfold inBudget at h
  unfold pastLimit autoGate
  cases hg : x.qs.gate with
  | none => exact ⟨rfl, rfl⟩
  | some g =>
    rw [hg] at h
    obtain ⟨hbound, hlimit⟩ := (Bool.and_eq_true _ _).mp h
    have hbound := of_decide_eq_true hbound
    have hlimit := of_decide_eq_true hlimit
    exact ⟨by simp [Option.filter, Nat.not_lt.2 hlimit], if_neg (Int.not_lt.2 hbound)⟩

/-- In a cycle in which nothing stops the unit and its region is within its budget. -/
structure FreeIn (x : Ctx) (m : Mach) (c : Nat) : Prop where
  active : active x.st x.q = true
  budget : inBudget { x with c := c } = true
  acts : acts m x.p x.key x.own c = true
  before : ∀ h, (stn m x.key).halted = some h → (c : Int) ≤ h

theorem idleHalt_of_free {fz : Fuses} {x : Ctx} {m : Mach} {c : Nat} (hx : SeatIn fz m x) (hf : FreeIn x m c)
    (reason sub arg : Nat) (ia : Option Nat) :
    idleHalt x c reason sub arg ia m = stopUnit fz x c reason sub arg ia m := by
  obtain ⟨hl, hg⟩ := within_of_inBudget hf.budget m
  have hacts := hf.acts
  rw [hx.own_eq] at hacts
  unfold idleHalt
  simp only [hl, hg, hf.active, hacts, Bool.and_self, if_true]
  exact haltUnit_of_not_before hx hf.before reason sub arg ia

/-- An instruction that is in its queue and whose opcode the queue does not accept halts it. -/
theorem verdict_of_opIllegal {x : Ctx} (hop : opIllegal x = true) (hin : notIn x = false) :
    verdict x {} = .halt x.c 0x01 0 (pair24 (qCode x.q) (wOp x.w)) := by
  unfold opIllegal at hop
  simp only [verdict, verdictWith, hin, hop, Bool.false_eq_true, if_false, if_true]

theorem illegalOpcode_of_free {fz : Fuses} {a : At} {x : Ctx} {m : Mach} (hx : ctxOf fz m a = some x)
    (hop : opIllegal x = true) (hin : notIn x = false) (hf : FreeIn x m x.c) :
    illegalOpcode a fz m = stopUnit fz x x.c 0x01 0 (pair24 (qCode x.q) (wOp x.w)) (some x.e.off) m := by
  have hs := seatIn_of_ctxOf hx
  have hself : { x with m := m, own := ownOf m x.p x.d x.unit x.q } = x := by
    rw [← hs.own_eq, ← hs.m_eq]
  obtain ⟨hl, hg⟩ := within_of_inBudget (x := x) hf.budget m
  have hacts := hf.acts
  have hown : acts m x.p x.key (ownOf m x.p x.d x.unit x.q) x.c = true := by
    rw [← hs.own_eq]
    exact hacts
  have hissue : issueAt x {} (fun _ _ => {}) m =
      haltUnit x x.c 0x01 0 (pair24 (qCode x.q) (wOp x.w)) (some x.e.off) m := by
    rw [issueAt, verdict_of_opIllegal hop hin]
    simp [haltChecked, hacts]
  unfold illegalOpcode
  simp only [hx, hop, hf.active, hl, hg, hself, hown, hissue, Bool.true_eq_false, or_self, if_false, if_true]
  exact haltUnit_of_not_before hs hf.before ..

/-- A region that reaches its limit asserts GATE and then halts its unit (R147). -/
theorem haltGate_of_acts {fz : Fuses} {x : Ctx} {g : Gate} {m n : Mach} (hx : SeatIn fz m x)
    (hn : assertGate fz x.p x.d x.unit x.key x.q g m = n)
    (ha : acts n x.p x.key (ownOf n x.p x.d x.unit x.q) (g.g + g.l) = true)
    (hh : ∀ h, (stn n x.key).halted = some h → ((g.g + g.l : Nat) : Int) ≤ h) :
    haltGate x g m =
      stopUnit fz x (g.g + g.l) 0x0A (qCode x.q) (pair24 g.l g.g) (some g.iaddr) n := by
  have hfz := hx.fz_eq
  unfold haltGate
  simp only [hfz, hn, ha, if_true]
  exact haltUnit_of_not_before hx hh ..

/-- Settles O15: each of the four halts finds its queue free to halt in the cycle. -/
theorem queueHaltCommandsResult : Obligations.QueueHaltCommandsResult := by
  refine ⟨fun s a x c off hx hu hf => ?underrun, fun s a x e hx hu he hw hf => ?open_,
    fun s a x hx hop hin hf => ?illegal, fun s a x g hx hg hi ha hh => ?gate⟩
  case underrun =>
    obtain ⟨hact, hbudget, hacts, hbefore⟩ := hf
    refine congrArg (nextMach s) (?_ : queueUnderrun a s.fuses s.mach = _)
    rw [queueUnderrun, hx]
    simp only [hu]
    exact idleHalt_of_free (seatIn_of_seatOf hx) ⟨hact, hbudget, hacts, hbefore⟩ ..
  case open_ =>
    obtain ⟨hact, hbudget, hacts, hbefore⟩ := hf
    have hopen : x.qs.stepOpen (stepW s.mach x.p) = true := by simp [QueueSt.stepOpen, hu, he, hw]
    refine congrArg (nextMach s) (?_ : stepOpen a s.fuses s.mach = _)
    rw [stepOpen, hx]
    simp only [hopen, if_true]
    exact idleHalt_of_free (seatIn_of_seatOf hx) ⟨hact, hbudget, hacts, hbefore⟩ ..
  case illegal =>
    obtain ⟨hact, hbudget, hacts, hbefore⟩ := hf
    exact congrArg (nextMach s) (illegalOpcode_of_free hx hop hin ⟨hact, hbudget, hacts, hbefore⟩)
  case gate =>
    refine congrArg (nextMach s) (?_ : gateTimeout a s.fuses s.mach = _)
    rw [gateTimeout, hx]
    simp only [hg, hi, if_true]
    exact haltGate_of_acts (seatIn_of_seatOf hx) rfl ha hh

/-! ### Holds -/

/-- The first cause of a hold that stops the partition within the step (R294). -/
theorem assertOnce_of_no_hold {fz : Fuses} {p : Nat} {x : Int} {c : CauseSt} {m : Mach} (hh : (part m p).hold = none)
    (hw : x + 6 < stepW m p) :
    assertOnce fz p x c m = beginHold p { stop := x + 6, first := c.since, sinceNs := nowNs m, causes := [c]
                                          carried := false } m := by
  simp [assertOnce, assertCause, hh, startHold, Int.not_le.2 hw]

theorem gateHold_of_no_hold {fz : Fuses} {a : At} {x : Ctx} {g : Gate} {m : Mach} (hx : seatOf fz m a = some x)
    (hg : x.qs.gate = some g) (hi : x.qs.idleTo g.bound.toNat = true) (ha : acts m x.p x.key x.own g.bound = true)
    (hh : (part m x.p).hold = none) (hw : g.bound + 6 < stepW m x.p) :
    let c : CauseSt := { die := x.d, unit := x.unit, code := 5, desc := 0xFFFFFF, since := wallOf m x.p g.bound
                         queue := qCode x.q, iaddr := g.iaddr }
    gateHold a fz m = markOwn x.key x.q (g.bound + 6).toNat
      (beginHold x.p { stop := g.bound + 6, first := c.since, sinceNs := nowNs m, causes := [c], carried := false } m) := by
  rw [(seatIn_of_seatOf hx).own_eq] at ha
  rw [gateHold, hx]
  simp only [hg, hi, if_true, assertGate, ha, assertOnce_of_no_hold hh hw]
  simp [beginHold]

/-! ### The release of a hold -/

section Release
variable {fz : Fuses} {p : Nat} {h : Hold} {m : Mach}

theorem part_fold_bumpBy {α : Type} (r : α → Reg) (i : Nat) (n : α → Nat) (l : List α) (m : Mach) (j : Nat) :
    part (l.foldl (fun m k => bumpBy (r k) i 0 (n k) m) m) j = part m j := by
  induction l generalizing m with
  | nil => rfl
  | cons k r ih => rw [List.foldl_cons, ih, part_bumpBy]

/-- The counters of a hold leave the state of the plan as it is. -/
theorem countHold_st (p : Nat) (h : Hold) (m : Mach) : (part (countHold p h m) p).st = (part m p).st := by
  simp only [countHold, part_onPart_same, part_bump, part_bumpBy, part_fold_bumpBy]

theorem runs_countHold (p : Nat) (h : Hold) (m : Mach) : runs (countHold p h m) p = runs m p := by
  simp only [runs, countHold_st]

theorem resume_of_runs (hc : h.carried = false) (hr : runs m p = true) :
    let n := countHold p h m
    let q := part n p
    let shift := releaseAt h + 6 - h.stop
    let d := (shift - q.shift).toNat
    resume fz p h m = tellLate p (onPart p (fun x => { x with
      hold := none, shift := shift, late := x.late + if h.stop < 6 then cyclesNs q d else 0
      resumes := x.resumes ++ [{ stop := h.stop, shift := x.shift, r := releaseAt h }] }) (endOwn fz h d n)) := by
  simp [resume, hc, runs_countHold, hr]

theorem resume_of_carried (hc : h.carried = true) :
    let n := countHold p h m
    let q := part n p
    resume fz p h m = onPart p (fun x => { x with hold := none })
      (reachNs (q.startNs + cyclesNs q (releaseAt h + 6).toNat) n) := by
  simp only [resume, hc, true_or, if_true]

theorem resume_of_halted (hc : h.carried = false) (hr : runs m p = false) :
    let n := countHold p h m
    let q := part n p
    resume fz p h m = onPart p (fun x => { x with hold := none, lastStop := earlierStop x.lastStop h.stop })
      (reachNs (q.startNs + cyclesNs q (releaseAt h + 6).toNat) n) := by
  simp [resume, hc, runs_countHold, hr]

/-- A hold all of whose causes have cleared is released, but one that stops the partition between two steps only there. -/
theorem holdRelease_of_cleared (hh : (part m p).hold = some h) (ho : openCauses h = [])
    (hb : ¬(h.carried = true ∧ (part m p).inStep = true)) : holdRelease p fz m = resume fz p h m := by
  simp only [holdRelease, hh, ho, ne_eq, not_true_eq_false, false_or, if_neg hb]

theorem holdLimit_of_open {c : CauseSt} (hh : (part m p).hold = some h) (hc : firstOpen (openCauses h) = some c)
    (hr : runs m p = true) :
    holdLimit p fz m = limitHalt fz p h c (reachNs (h.sinceNs + 100000001) m) := by
  simp only [holdLimit, hh, hc, hr, if_true]

end Release

theorem holdCheck_of_acts {fz : Fuses} {a : At} {x : Ctx} {r : Row} {m : Mach} (hx : ctxOf fz m a = some x)
    (hr : rowOf x.w = some r) (hop : opIllegal x = false) (hq : active x.st x.q = true)
    (ha : acts m x.p x.key x.own ((x.c : Int) - 6) = true) :
    holdCheck a fz m = assertWaits x (holdFails x (specRow r x)) m := by
  simp [holdCheck, hx, hr, hop, hq, ha]

/-- Settles O16: the checks of an instruction, a region past its bound, the limit, and the three ways of a release. -/
theorem holdCommandsResult : Obligations.HoldCommandsResult := by
  refine ⟨fun s a x r hx hr hop hq ha => ?check, fun s a x g hx hg hi ha hh hw _ => ?gate,
    fun s p h c hh hc hr => ?limit, fun s p h hh ho => ⟨fun hc hr => ?runs, fun hc hs => ?carried, fun hc hr => ?halted⟩⟩
  case check =>
    refine congrArg (nextMach s) ((holdCheck_of_acts hx hr hop hq ha).trans ?_)
    have hfz := (seatIn_of_ctxOf hx).fz_eq
    rw [assertWaits, hfz]
    rfl
  case gate => exact congrArg (nextMach s) (gateHold_of_no_hold hx hg hi ha hh hw)
  case limit =>
    refine congrArg (nextMach s) ((holdLimit_of_open hh hc hr).trans ?_)
    simp only [limitHalt, beq_iff_eq]
  case runs =>
    exact congrArg (nextMach s) ((holdRelease_of_cleared hh ho (by simp [hc])).trans (resume_of_runs hc hr))
  case carried =>
    exact congrArg (nextMach s) ((holdRelease_of_cleared hh ho (by simp [hs])).trans (resume_of_carried hc))
  case halted =>
    exact congrArg (nextMach s) ((holdRelease_of_cleared hh ho (by simp [hc])).trans (resume_of_halted hc hr))

end Sys2Proof.Machine
end

section
/-! Proofs about the refresh of the wellheads and the re-encryption of their pages (08 R352 to R357, 16 R715, R716), and
the settlement of O22. -/

namespace Sys2Proof.Machine

/-- A change of a wellhead is what it makes of the wellhead as it stands. -/
theorem onWell_congr {w : Nat} {f g : Well → Well} {m : Mach} (h : f (well m w) = g (well m w)) :
    onWell w f m = onWell w g m :=
  congrArg (fun v => { m with wells := tput {} m.wells w v }) h

/-- The debt after a tick of a wellhead that owes at most 9 units (R354, R357). -/
theorem tick_debt {h : Well} (hd : h.debt ≤ 9) :
    h.tick.debt = if h.selfref = false ∧ (h.hotNext = true ∨ (h.ticks + 1) % 2 = 0) then min 9 (h.debt + 1)
      else h.debt := by
  have hmin : (if h.debt < 9 then h.debt + 1 else 9) = min 9 (h.debt + 1) := by split <;> omega
  simp [Well.tick, hmin]

theorem Well.tick_eq (h : Well) :
    h.tick = { h with ticks := h.ticks + 1, debt := h.tick.debt, hot := h.hotNext } := rfl

section Commands
variable {fz : Fuses} {w : Nat} {m : Mach}

theorem refreshTick_of_fitted {c wall : Int} (hw : wellFitted fz w = true) (hd : (well m w).debt ≤ 9) :
    let h := well m w
    let debt := if h.selfref = false ∧ (h.hotNext = true ∨ (h.ticks + 1) % 2 = 0) then min 9 (h.debt + 1) else h.debt
    let n := onWell w (fun h => { h with ticks := h.ticks + 1, debt := debt, hot := h.hotNext }) m
    refreshTick w c wall fz m = refreshCause fz w c wall n ∧ (well n w).debt = debt ∧ (well n w).unused = h.unused := by
  intro h debt n
  have hn : onWell w Well.tick m = n := onWell_congr (h.tick_eq.trans (by rw [tick_debt hd]))
  refine ⟨?_, ?_, ?_⟩
  · rw [refreshTick, if_pos hw, hn]
  · simp only [n, well_onWell_same]
  · simp only [n, well_onWell_same, h]

theorem refreshUnit_of_may {c : Nat} {wall : Int} (hd : (well m w).debt ≠ 0) (hm : mayRefresh m w c = true) :
    refreshUnit w c wall m =
      let n := bump .wlhRefunits (iWell w) (onWell w (fun h => { h with debt := h.debt - 1 }) m)
      if (well m w).debt = 1 then
        clearCause (partOf m (wellDie w)) wall (fun c => c.code == 4 && c.unit == wellUnit w) n
      else n := by
  simp only [refreshUnit, hd, hm, Bool.true_eq_false, or_self, if_false]

theorem pageReencrypt_of_rotating (hr : (part m (partOf m (wellDie w))).rot.state = 2) (hw : wellFitted fz w = true) :
    pageReencrypt w fz m = endRotation fz (partOf m (wellDie w)) (dropOld w
      (match (well m w).pages.find? (fun y => y.2 == oldPage (well m w)) with
       | some y => reencrypt w (32 * y.1) m
       | none => m)) := by
  simp only [pageReencrypt, hr, hw, ne_eq, not_true_eq_false, Bool.true_eq_false, or_self, if_false]
  cases (well m w).pages.find? (fun y => y.2 == oldPage (well m w)) <;> rfl

end Commands

/-- Settles O22: a tick and what it asserts, a unit and what it clears, and the next page of a rotation. -/
theorem refreshCommandsResult : Obligations.RefreshCommandsResult := by
  refine ⟨fun s w c wall hw hd => ?tick, fun s w c wall hd hm => congrArg (nextMach s) (refreshUnit_of_may hd hm),
    fun s w hr hw => congrArg (nextMach s) (pageReencrypt_of_rotating hr hw)⟩
  case tick =>
    obtain ⟨hrun, hdebt, hunused⟩ := refreshTick_of_fitted (c := c) (wall := wall) hw hd
    refine congrArg (nextMach s) (hrun.trans ?_)
    rw [refreshCause, hdebt, hunused]
    rfl

end Sys2Proof.Machine
end

section
/-! Proofs about the plan commands (07 R314 to R322, 19 R828, R829) and those of the integrity (09 R398 to R409), and the
settlement of O23 to O25. -/

namespace Sys2Proof.Machine

/-! ### What the loader leaves of the partitions -/

/-- Steps that each leave the partitions leave them together. -/
theorem parts_foldl {α : Type} {f : Mach → α → Mach} (h : ∀ m x, (f m x).parts = m.parts) (l : List α) (m : Mach) :
    (l.foldl f m).parts = m.parts := by
  induction l generalizing m with
  | nil => rfl
  | cons x r ih => rw [List.foldl_cons, ih, h]

section Loader
variable (m : Mach)

theorem parts_placeData (y : StationData) : (placeData m y).parts = m.parts := by
  unfold placeData
  split <;> rfl

theorem parts_setBufs (dies : List Nat) (v : VariantImage) : (setBufs dies v m).parts = m.parts := by
  refine parts_foldl (fun m b => ?_) _ _
  split <;> rfl

theorem parts_setTmpls (dies : List Nat) (v : VariantImage) : (setTmpls dies v m).parts = m.parts := by
  refine parts_foldl (fun _ _ => ?_) _ _
  rfl

theorem parts_setSeed (dies : List Nat) (seed : BitVec 64) : (setSeed dies seed m).parts = m.parts := by
  refine parts_foldl (fun _ _ => ?_) _ _
  rfl

theorem parts_makePairs (peers : List (Nat × Nat)) (d : Nat) : (makePairs peers m d).parts = m.parts := by
  refine parts_foldl (fun m y => ?_) _ _
  unfold enterPair
  dsimp only
  split <;> rfl

theorem parts_selfRefresh (fz : Fuses) (g : GridClass) (dies : List Nat) :
    (selfRefresh fz g dies m).parts = m.parts := by
  refine parts_foldl (fun m w => ?_) _ _
  split <;> rfl

/-- After a load the partition is LOADED with the plan at step 0 (R319). -/
theorem part_loadPlan (fz : Fuses) (p : Nat) (pl : PlanImage) :
    part (loadPlan fz p pl m) p =
      { part m p with st := .loaded, plan := some pl, step := 0, variant := 0, varBase := 0 } := by
  have hfit : (pl.dies.foldl (fitDie fz pl.grid) m).parts = m.parts := parts_foldl (f := fitDie fz pl.grid) (fun _ _ => rfl) _ _
  have hparts : (loadPlan fz p pl m).parts = (onPart p (fun q => { q with
      st := .loaded, plan := some pl, step := 0, variant := 0, varBase := 0 }) (pl.dies.foldl (fitDie fz pl.grid) m)).parts := by
    unfold loadPlan
    dsimp only
    rw [parts_selfRefresh, parts_foldl (fun m d => parts_makePairs m pl.peers d),
      parts_foldl (f := spendSlots) (fun _ _ => rfl), parts_setSeed]
    split <;> simp only [parts_setTmpls, parts_setBufs, parts_foldl (f := placeData) parts_placeData]
  rw [part, hparts, ← part, part_onPart_same, part, hfit]
  rfl

end Loader

section Commands
variable {fz : Fuses} {v : Via} {p : Nat} {pl : PlanImage} {m : Mach}

theorem part_answer (v : Via) (st : Status) (m : Mach) (j : Nat) : part (answer v st m) j = part m j := by
  rw [part, answer, complete_parts]
  rfl

/-! ### PLAN_LOAD, PLAN_START -/

theorem planLoad_of_not_empty (h : (part m p).st ≠ .empty) : planLoad v p pl fz m = answer v .badState m := if_pos h

theorem planLoad_of_loadable (h : (part m p).st = .empty) (hl : loadStatus fz m p pl = 0) :
    planLoad v p pl fz m = answer v .ok (loadPlan fz p pl m) := by
  simp only [planLoad, h, hl, ne_eq, not_true_eq_false, if_false]

theorem planLoad_of_rejected (h : (part m p).st = .empty) (hl : loadStatus fz m p pl ≠ 0) :
    planLoad v p pl fz m = complete v .loadRejected (loadStatus fz m p pl) .empty
      (rejectFit fz p (loadStatus fz m p pl) pl.grid m) := by
  rw [planLoad, if_neg (Classical.not_not.2 h)]
  split
  · exact absurd ‹_› hl
  · rfl

theorem planStart_of_other {anchor : Nat} (hl : (part m p).st ≠ .loaded) (hs : (part m p).st ≠ .stopped) :
    planStart v p anchor fz m = answer v .badState m := by
  cases hp : (part m p).plan <;> simp [planStart, hp, hl, hs]

/-- A plan whose members lie on this module, or whose time is set, starts once its weights are valid (R321, R554, R625). -/
theorem planStart_of_ready {anchor : Nat} (hp : (part m p).plan = some pl)
    (hst : (part m p).st = .loaded ∨ (part m p).st = .stopped) (hw : weightsOk m p pl = true)
    (ht : pl.members.all (fun y => y.1 == m.moduleId) = true ∨ m.clk.st ≠ 0) :
    let n := onPart p (fun q => { q with st := .running, release := anchor }) m
    planStart v p anchor fz m = answer v .ok
      (if (part m p).st = .loaded then journalStart fz p anchor pl (fillQueues (part m p).dies n)
       else flushJournal p n) := by
  have htime : (pl.members.any (fun y => y.1 != m.moduleId) && m.clk.st == 0) = false := by
    obtain hall | hset := ht
    · have hany : pl.members.any (fun y => y.1 != m.moduleId) = false := by
        rw [List.any_eq_not_all_not]
        simpa using hall
      rw [hany, Bool.false_and]
    · rw [beq_eq_false_iff_ne.2 hset, Bool.and_false]
  have hnot : ¬((part m p).st ≠ .loaded ∧ (part m p).st ≠ .stopped) := fun h => hst.elim h.1 h.2
  simp only [planStart, hp, if_neg hnot, htime, hw, Bool.false_eq_true, Bool.not_true, if_false]

/-! ### PLAN_UNLOAD, PLAN_VARIANT -/

theorem planUnload_of_stopped
    (h : (part m p).st = .loaded ∨ (part m p).st = .stopped ∨ (part m p).st = .halted) :
    planUnload v p fz m = answer v .ok (partitionReset p
      (if (serveOf (cutOff p m) p).isSome = true then failAll fz p (cutOff p m) else cutOff p m)) := by
  have hnot : ¬((part m p).st ≠ .loaded ∧ (part m p).st ≠ .stopped ∧ (part m p).st ≠ .halted) := by
    rintro ⟨hl, hs, hh⟩
    exact h.elim hl (fun h => h.elim hs hh)
  simp only [planUnload, if_neg hnot]

theorem planUnload_of_other
    (h : (part m p).st = .empty ∨ (part m p).st = .running ∨ (part m p).st = .stopping) :
    planUnload v p fz m = answer v .badState m := by
  obtain h | h | h := h <;> simp [planUnload, h]

/-- A switch of a running plan that neither a journal nor a replay decides: it is armed here and sent to the others. -/
theorem planVariant_of_running {n step : Nat} (hp : (part m p).plan = some pl) (hst : (part m p).st = .running)
    (hj : journalRefuses m p v = false) (hc : v.caller ≠ .journal) (hn : n < pl.variants.length) :
    let e := if step = 0 then (part m p).step + pl.vlead else step
    let a : Armed := { variant := n, step := e, originMod := m.moduleId, originDie := p, payload := payloadOf m v }
    planVariant v p n step fz m =
      if e < (part m p).step + 2 then answer v .range m
      else answer v .ok ((pl.members.filter (fun y => y != (m.moduleId, p))).foldl (sendVariant fz p a) (arm p a m)) := by
  simp only [planVariant, hp, hst, hj, hc, ne_eq, not_true_eq_false, not_false_eq_true, Nat.not_le.2 hn, if_false,
    false_or, true_and, Bool.false_eq_true]
  rfl

end Commands

/-- Settles O23: a load into an EMPTY partition, the two refusals of one, and a start by the state of the plan. -/
theorem planLoadStartResult : Obligations.PlanLoadStartResult := by
  refine ⟨fun s v p pl hv he hl => ?load, fun s v p pl hv he => run_served hv (planLoad_of_not_empty he),
    fun s v p pl hv he hl => run_served hv (planLoad_of_rejected he hl), fun s v p anchor pl hv hp hw ht => ?start,
    fun s v p anchor hv hl hs => run_served hv (planStart_of_other hl hs)⟩
  case load =>
    refine ⟨_, run_served hv (planLoad_of_loadable he hl), rfl, ?_, ?_, ?_⟩ <;> rw [part_answer, part_loadPlan]
  case start =>
    refine ⟨fun hst => ?_, fun hst => ?_⟩
    · exact run_served hv ((planStart_of_ready hp (.inl hst) hw ht).trans (by rw [if_pos hst]))
    · exact run_served hv ((planStart_of_ready hp (.inr hst) hw ht).trans (by rw [hst]; rfl))

/-- Settles O24: each of the other plan commands in the states that Table 7-8 allows, and in the others. -/
theorem planOtherCommandsResult : Obligations.PlanOtherCommandsResult := by
  refine ⟨fun s v p hv => run_served (body := fun _ => planStop v p.val) hv rfl, fun s v p hv h => run_served hv (planUnload_of_stopped h),
    fun s v p hv h => run_served hv (planUnload_of_other h),
    fun s v p hv => run_served (body := fun _ => planStatus v p.val) hv rfl,
    fun s v p hv => run_served (body := fun _ m => complete v .ok 0 (.bytes (faultBytes m p.val)) m) hv ?fault,
    fun s v p n step pl hv hp hst hj hc hn => run_served hv (planVariant_of_running hp hst hj hc hn)⟩
  case fault =>
    unfold faultBytes
    rfl

/-! ### Integrity -/

section Integrity
variable {fz : Fuses} {v : Via} {p : Nat} {t : Target} {m : Mach}

theorem scrubRange_of_place {start n : Nat} {y : Place} (hy : placeOf fz m p t = some y)
    (hn : start + n ≤ placeSize m p y) (hs : slicesFree (part m p).st = true ∨ ∀ k, y ≠ .slice k) :
    let r := scrubPlace p y start n m
    scrubRange v p t start n fz m = complete v .ok 0 (.bytes (scrubBytes 0 (placeUnits y * n) r.2)) r.1 := by
  have hfree : (y.isSlice && !slicesFree (part m p).st) = false := by
    obtain h | h := hs
    · simp [h]
    · cases y with
      | slice k => exact absurd rfl (h k)
      | well _ => rfl
      | cistern => rfl
  simp only [scrubRange, hy, hfree, Nat.not_lt.2 hn, Bool.false_eq_true, if_false]

theorem eccFlipArm_of_allowed {mask : BitVec 72} (h : (part m p).st = .empty ∨ consents m p 0 = true) :
    (∀ k, placeOf fz m p t = some (.slice k) → eccFlipArm v p t mask fz m =
      answer v .ok (onStn k (fun y => { y with flip := { state := 1, firedAt := 0, mask := mask } }) m)) ∧
    (∀ w, placeOf fz m p t = some (.well w) → eccFlipArm v p t mask fz m =
      answer v .ok (onWell w (fun y => { y with flip := { state := 1, firedAt := 0, mask := mask } }) m)) := by
  have hnot : ¬((part m p).st ≠ .empty ∧ consents m p 0 = false) := by
    rintro ⟨he, hc⟩
    obtain h | h := h
    · exact he h
    · rw [hc] at h; cases h
  constructor <;> intro _ hk <;> rw [eccFlipArm, if_neg hnot, hk] <;> rfl

theorem eccRemapAdd_of_slice {k loc : Nat} (hk : placeOf fz m p t = some (.slice k)) (hl : loc < 32768) :
    eccRemapAdd v p t loc fz m = answer v .ok (record { kind := 0, place := k, unit := 16 * loc, what := 3 } m) := by
  rw [eccRemapAdd, hk]
  exact if_neg (Nat.not_le.2 hl)

theorem eccRemapAdd_of_well {w loc : Nat} (hw : placeOf fz m p t = some (.well w)) (hl : loc < wellBeats) :
    eccRemapAdd v p t loc fz m = answer v .ok (record { kind := 1, place := w, unit := 4 * loc, what := 3 } m) := by
  rw [eccRemapAdd, hw]
  exact if_neg (Nat.not_le.2 hl)

end Integrity

/-- Settles O25: each command on a target that it may act on. -/
theorem integrityCommandsResult : Obligations.IntegrityCommandsResult :=
  ⟨fun _ _ _ _ _ _ _ hv hy hn hs => run_served hv (scrubRange_of_place hy hn hs),
    fun _ _ _ _ _ hv h => ⟨fun k hk => run_served hv ((eccFlipArm_of_allowed h).1 k hk),
      fun w hw => run_served hv ((eccFlipArm_of_allowed h).2 w hw)⟩,
    fun _ _ _ _ _ hv => ⟨fun _ hk hl => run_served hv (eccRemapAdd_of_slice hk hl),
      fun _ hw hl => run_served hv (eccRemapAdd_of_well hw hl)⟩,
    fun _ _ _ hv => run_served hv rfl⟩

end Sys2Proof.Machine
end

section
/-! Proofs about the units that a port of the Lerek link receives, its priming and its commands (10), and the settlement of
O26, O29 and O30. -/

namespace Sys2Proof.Machine

/-! ### Units received -/

section Receive
variable {fz : Fuses} {k : Nat} {u : LinkUnit} {m : Mach}

theorem hear_of_sound (h : soundUnit m k u = true) : hear k u m = (heard k u m, true) := by
  simp only [soundUnit, Bool.and_eq_true, Bool.not_eq_true'] at h
  obtain ⟨⟨⟨hh, hl⟩, hf⟩, hb⟩ := h
  simp [hear, heard, hh, hl, hf, hb]

/-- What is left of a unit that is not heard, or is not sound: one counter of its error at most. -/
theorem hear_of_unsound (h : soundUnit m k u = false) :
    hear k u m = (if (port m k).hears = false then m
      else if u.lcrcOk && u.fecOk then
        bump .lrkKindDrop (iPort k) (onPort k (fun x => { x with lastHeard := m.clk.wall }) m)
      else bump .lrkLcrcErr (iPort k) m, false) := by
  unfold soundUnit at h
  unfold hear
  cases hh : (port m k).hears <;> cases hl : u.lcrcOk <;> cases hf : u.fecOk <;> simp_all

/-- A packet in sequence within its grant is stored and owed an acknowledgement (R421, R430). -/
theorem acceptPkt_of_granted {y : Packet} (hseq : u.arg % 2 ^ 24 = (port m k).rxNext)
    (hg : units (carried u y).size ≤ (port m k).outst.get u.cls) :
    acceptPkt k u y m = onPort k (fun q => { (q.oweAck m.clk.wall) with
      rxNext := (q.rxNext + 1) % 2 ^ 24
      outst := q.outst.mod u.cls (fun x => x - units (carried u y).size)
      holds := q.holds.mod u.cls (fun x => x + units (carried u y).size)
      inbox := q.inbox ++ [{ pkt := carried u y, port := k, cls := u.cls, len16 := u.len16, at_ := m.clk.wall }] }) m := by
  simp only [acceptPkt, hseq, if_true, Nat.not_lt.2 hg, if_false]

theorem acceptPkt_of_beyond {y : Packet} (hseq : u.arg % 2 ^ 24 = (port m k).rxNext)
    (hg : (port m k).outst.get u.cls < units (carried u y).size) :
    acceptPkt k u y m = bump .lrkCreditViol (iPort k) m := by
  simp only [acceptPkt, hseq, if_true, hg]

end Receive

section Heard
variable {fz : Fuses} {k : Nat} {u : LinkUnit} {m n : Mach} (h : hear k u m = (n, true))
include h

theorem recvPkt_of_heard {y : Packet} (hy : u.pkt = some y) (hk : u.kind = 1) (ha : (port n k).active = true) :
    recvPkt k u m = acceptPkt k u y n := by
  simp only [recvPkt, h, hy, hk, ha, and_self, if_true]

theorem recvWidthReq_of_heard {g : Nat × Nat} (hk : u.kind = 4) (hy : yields n k = true)
    (hg : groupFor (port n k).lanes (u.arg % 256) = some g) :
    recvWidthReq k u m = startWidth k g n.clk.wall (queueCtl k (ctlUnit 6 4) (dropReq k n)) := by
  simp [recvWidthReq, h, hk, hy, hg]

theorem recvRetrainReq_of_heard (hk : u.kind = 5) (hy : yields n k = true) :
    recvRetrainReq k u m = onPort k (fun q => { q with retrain := true }) (queueCtl k (ctlUnit 6 5) (dropReq k n)) := by
  simp [recvRetrainReq, h, hk, hy]

theorem recvReqAck_of_width {mask t : Nat} {g : Nat × Nat} (hk : u.kind = 6)
    (hr : (port n k).req = some (4, mask, t)) (ha : u.arg % 16 = 4) (hg : groupFor (port n k).lanes mask = some g) :
    recvReqAck k u fz m = startWidth k g t (onPort k (fun q => { q with req := none }) n) := by
  simp [recvReqAck, h, hk, hr, ha, port_onPort, hg]

theorem recvReqAck_of_retrain {mask t : Nat} (hk : u.kind = 6) (hr : (port n k).req = some (5, mask, t))
    (ha : u.arg % 16 = 5) :
    recvReqAck k u fz m = downPort fz k 4 true (onPort k (fun q => { q with req := none }) n) := by
  simp [recvReqAck, h, hk, hr, ha]

theorem recvWidthMark_of_heard (hk : u.kind = 7) :
    recvWidthMark k u m = onPort k (fun q => { q with op := q.op.map (fun o => { o with rx := true }) }) n := by
  simp only [recvWidthMark, h, hk, if_true]

theorem recvDoze_of_heard (hk : u.kind = 8) :
    recvDoze k u m = if (port n k).active = false then n
      else if u.arg % 2 = 1 then queueCtl k (ctlUnit 9 1) (onPort k (fun q => { q with peerDoze := true }) n)
      else onPort k (fun q => { q with peerDoze := false }) n := by
  simp only [recvDoze, h, hk, ne_eq, not_true_eq_false, false_or]

theorem recvDozeAck_of_heard (hk : u.kind = 9) (ha : u.arg % 2 = 1) :
    recvDozeAck k u m = onPort k (fun q => { q with slowKeep := q.doze }) n := by
  simp only [recvDozeAck, h, hk, ha, and_self, if_true]

end Heard

section Unsound
variable {fz : Fuses} {k : Nat} {u : LinkUnit} {m n : Mach} (h : hear k u m = (n, false))
include h

/-- No receiver does anything further with a unit that is not taken. -/
theorem received_of_unsound :
    recvPkt k u m = n ∧ (hear k u m).1 = n ∧ recvWidthReq k u m = n ∧ recvRetrainReq k u m = n ∧
      recvReqAck k u fz m = n ∧ recvWidthMark k u m = n ∧ recvDoze k u m = n ∧ recvDozeAck k u m = n := by
  simp only [recvPkt, recvWidthReq, recvRetrainReq, recvReqAck, recvWidthMark, recvDoze, recvDozeAck, h, and_self]

end Unsound

/-- Settles O26: a unit that is not sound, and a sound one by its kind. -/
theorem linkReceiveResult : Obligations.LinkReceiveResult := by
  refine ⟨fun s k u c hc hs => ?unsound, fun s k u hs => ?sound⟩
  case unsound =>
    obtain ⟨hpkt, hlink, hwidth, hretrain, hack, hmark, hdoze, hdozeAck⟩ :=
      received_of_unsound (fz := s.fuses) (hear_of_unsound hs)
    simp only [List.mem_cons, List.not_mem_nil, or_false] at hc
    obtain rfl | rfl | rfl | rfl | rfl | rfl | rfl | rfl := hc
    · exact congrArg (nextMach s) hpkt
    · exact congrArg (nextMach s) hlink
    · exact congrArg (nextMach s) hwidth
    · exact congrArg (nextMach s) hretrain
    · exact congrArg (nextMach s) hack
    · exact congrArg (nextMach s) hmark
    · exact congrArg (nextMach s) hdoze
    · exact congrArg (nextMach s) hdozeAck
  case sound =>
    have h := hear_of_sound hs
    intro m q
    refine ⟨congrArg (nextMach s) (congrArg Prod.fst h), fun y hy hk ha hseq => ?_, fun y hy hk ha hseq hg => ?_,
      fun g hk hy hg => congrArg (nextMach s) (recvWidthReq_of_heard h hk hy hg),
      fun hk hy => congrArg (nextMach s) (recvRetrainReq_of_heard h hk hy),
      fun mask t g hk hr ha hg => congrArg (nextMach s) (recvReqAck_of_width h hk hr ha hg),
      fun mask t hk hr ha => congrArg (nextMach s) (recvReqAck_of_retrain h hk hr ha),
      fun hk => congrArg (nextMach s) (recvWidthMark_of_heard h hk),
      fun hk => congrArg (nextMach s) (recvDoze_of_heard h hk),
      fun hk ha => congrArg (nextMach s) (recvDozeAck_of_heard h hk ha)⟩
    · exact fun hg =>
        congrArg (nextMach s) ((recvPkt_of_heard h hy hk ha).trans (acceptPkt_of_granted hseq hg))
    · exact congrArg (nextMach s) ((recvPkt_of_heard h hy hk ha).trans (acceptPkt_of_beyond hseq hg))

/-! ### Priming -/

section Priming
variable {fz : Fuses} {k : Nat} {m : Mach}

theorem primeRetry_of_down (hst : (port m k).st = 8) (he : (port m k).enable = true) (hp : mayPrime m k = true) :
    primeRetry k m = startPriming k (reachWall ((port m k).downAt + (port m k).backoff) m) :=
  if_pos ⟨hst, he, hp⟩

/-- A failed priming doubles the interval of the port, up to 1 s (R439). -/
theorem failPriming_eq :
    failPriming fz k m = onPort k (fun q => { q with backoff := min (2 * q.backoff) 1000000000 })
      (downPort fz k 6 false (bump .lrkPrimeFail (iPort k) m)) := by
  simp only [failPriming, Nat.min_def]

theorem primeFail_of_priming (hst : [2, 3, 4, 5].contains (port m k).st = true) :
    primeFail k fz m = failPriming fz k m := if_pos hst

/-- The machine in which LOCK_ALIGN chooses the width: both ends have told who they are and which lanes they can use. -/
def identified (k : Nat) (y : PeerIdent) (m : Mach) : Mach :=
  onPort k (fun q => { q with
    peerMod := y.mod % 16384, peerPort := y.port % 16, unusable := 255 - y.ownLanes.toNat
    lastHeard := m.clk.wall, lastSent := m.clk.wall }) (identOut k y.ownLanes.toNat m)

/-- The group of lanes that both ends can use, at the width of both (R446). -/
def commonGroup (q : Port) (y : PeerIdent) : Option (Nat × Nat) :=
  groups.find? (fun g => decide (max q.widthNow y.width ≤ g.1) && within g.2 y.ownLanes.toNat
    && within g.2 y.lanes.toNat)

theorem lockAlign_eq {y : PeerIdent} (hst : (port m k).st = 3) :
    lockAlign k y fz m = match commonGroup (port m k) y with
      | none => failPriming fz k (identified k y m)
      | some g =>
        let n := onPort k (fun q => { q with width := g.1, lanes := g.2 }) (identified k y m)
        if wired n k y then onPort k (fun q => { q with st := 4 }) n
        else raiseEvt 0x0011 1 (iPort k) (y.mod % 16384 * 65536 + y.port % 16)
          (onPort k (fun q => { q with st := 9 }) n) := by
  simp only [lockAlign, hst, ne_eq, not_true_eq_false, if_false, commonGroup, Nat.max_def]
  rfl

theorem timePhase_of_markers {markers : List (Nat × Nat)} {offset : Int} {r : Nat} (hst : (port m k).st = 4)
    (hn : markers.length = 16) (hr : minOf (markers.map (fun y => y.1 - y.2)) = some r) :
    timePhase k markers offset m = onPort k (fun q => { q with
        st := 5, rtt := (r + 15) / 16 % 2 ^ 32, timed := true, lastHeard := m.clk.wall })
      (onMport k (fun x => { x with rtt := r, offset := offset, fresh := x.fresh ++ [offset] })
        { m with out := m.out ++ [.timing k 16] }) := by
  simp only [timePhase, hr, hst, hn, ne_eq, not_true_eq_false, or_self, if_false]
  rfl

theorem authPhase_of_auth {ok : Bool} (hst : (port m k).st = 5) :
    authPhase k ok fz m = if ok = true then reholdAll (enterActive k m) else failPriming fz k m :=
  if_neg (Classical.not_not.2 hst)

theorem laneWindow_of_lanes {w : LaneWindow} (hl : (port m k).lanes ≠ 0) :
    let q := port m k
    let bad (i : Nat) : Bool := bitAt q.lanes i && q.thrNow != 0 && decide (q.thrNow < w.sym.getD i 0)
    laneWindow k w m = evalLanes k (onPort k (fun q => { q with
        unusable := (List.range 8).foldl (fun a i => if bad i then putBit a i else a) q.unusable })
      (bumpBy .lrkFecUnc (iPort k) 0 w.fecUnc (bumpBy .lrkFecCorr (iPort k) 0 w.fecCorr
        ((List.range 8).foldl (fun m i => bumpBy .lrkLaneSym (iPort k) i (w.sym.getD i 0) m) m)))) :=
  if_neg hl

end Priming

/-- Settles O29: each phase in the state that it is for. -/
theorem linkPrimingResult : Obligations.LinkPrimingResult := by
  refine ⟨fun s k hst he hp => congrArg (nextMach s) (primeRetry_of_down hst he hp),
    fun s k hst => congrArg (nextMach s) (if_pos hst), fun s k hst => congrArg (nextMach s) (if_pos hst),
    fun s k y hst => ?lock, fun s k markers offset r hst hn hr =>
      congrArg (nextMach s) (timePhase_of_markers hst hn hr),
    fun s k ok hst => congrArg (nextMach s) (authPhase_of_auth hst),
    fun s k hst => congrArg (nextMach s) ((primeFail_of_priming hst).trans failPriming_eq),
    fun s k w hl => congrArg (nextMach s) (laneWindow_of_lanes hl)⟩
  case lock =>
    have hrun : exec (.lockAlign k y) s = nextMach s _ := congrArg (nextMach s) (lockAlign_eq hst)
    intro w g m
    refine ⟨fun hg => hrun.trans ?_, fun a hg => hrun.trans ?_⟩
    · rw [show commonGroup (port s.mach k.val) y = none from hg]
      rfl
    · rw [show commonGroup (port s.mach k.val) y = some a from hg]
      rfl

/-! ### Link commands -/

section Commands
variable {fz : Fuses} {v : Via} {k : Nat} {m : Mach}

theorem linkEnable_eq : linkEnable v k m =
    if (port m k).st = 0 then answer v .ok (wakePort k (onPort k (fun q => { q with enable := true }) m))
    else answer v .badState m := by
  simp only [linkEnable, ite_not]

theorem linkWidth_eq (mask : Nat) : linkWidth v k mask m =
    if (port m k).st = 6 ∧ (groupFor (port m k).lanes mask).isSome = true then
      answer v .ok (askPeer k 4 mask (dropReq k m))
    else answer v .badState m := by
  have hiff : ((port m k).st ≠ 6 ∨ (groupFor (port m k).lanes mask).isNone = true) ↔
      ¬((port m k).st = 6 ∧ (groupFor (port m k).lanes mask).isSome = true) := by
    cases groupFor (port m k).lanes mask <;> simp
  simp only [linkWidth, hiff, ite_not]

end Commands

/-- Settles O30: each command of a port that is served. -/
theorem linkCommandsResult : Obligations.LinkCommandsResult := by
  intro s v k p q n
  exact ⟨fun hv => run_served (body := fun _ => linkStatus v k.val) hv rfl,
    fun hv => run_served (body := linkPrime v k.val) hv rfl,
    fun hv => run_served (body := linkDisable v k.val) hv rfl,
    fun hv => run_served (body := fun _ => linkEnable v k.val) hv linkEnable_eq,
    fun mask hv => run_served (body := fun _ => linkWidth v k.val mask.toNat) hv (linkWidth_eq _),
    fun hv => run_served (body := fun _ => linkCounters v k.val) hv rfl⟩

end Sys2Proof.Machine
end

section
/-! Proofs about the packets that arrive (11 Table 11-5) and the requests at the front of a die (11 R492 to R501, 05 R217),
and the settlement of O31 and O32. -/

namespace Sys2Proof.Machine

/-! ### The checks of Table 11-5 -/

section Checks
variable {fz : Fuses} {k d : Nat} {i : InPkt} {m : Mach}

theorem checkPacket_of_bad_hcrc (h : i.pkt.hdr.hcrc ≠ i.pkt.hdr.crc) :
    checkPacket fz k d i m = raiseEvt 0x0015 0 (iDie d) k (dropPkt i .rteHcrcErr d m) := if_pos h

theorem checkPacket_of_bad_header (hc : i.pkt.hdr.hcrc = i.pkt.hdr.crc)
    (hh : (prefixOk i && headerOk m i.pkt.hdr) = false) : checkPacket fz k d i m = dropPkt i .rteHdrErr d m := by
  have hbad : (!prefixOk i || !headerOk m i.pkt.hdr) = true := by rw [← Bool.not_and, hh]; rfl
  simp only [checkPacket, hc, ne_eq, not_true_eq_false, if_false, hbad, if_true]

variable (hc : i.pkt.hdr.hcrc = i.pkt.hdr.crc) (hh : (prefixOk i && headerOk m i.pkt.hdr) = true)
include hc hh

theorem header_checked : ¬(i.pkt.hdr.hcrc ≠ i.pkt.hdr.crc) ∧ (!prefixOk i || !headerOk m i.pkt.hdr) = false :=
  ⟨Classical.not_not.2 hc, by rw [← Bool.not_and, hh]; rfl⟩

/-- A packet for another module goes on with one hop more, up to 15 (R480). -/
theorem checkPacket_of_elsewhere (hm : i.pkt.hdr.dstMod ≠ m.moduleId) :
    checkPacket fz k d i m = if 15 ≤ i.pkt.hdr.hops then dropPkt i .rteHopsDrop d m
      else forward fz { i with pkt := { i.pkt with hdr := { i.pkt.hdr with hops := i.pkt.hdr.hops + 1 } } } m := by
  obtain ⟨hcrc, hok⟩ := header_checked hc hh
  simp only [checkPacket, hcrc, hok, hm, ne_eq, not_false_eq_true, Bool.false_eq_true, if_false, if_true]

variable (hm : i.pkt.hdr.dstMod = m.moduleId)
include hm

theorem checkPacket_of_here :
    checkPacket fz k d i m =
      if !dieHeld m i.pkt.hdr.dstDie then dropPkt i .rteRemoteDrop i.pkt.hdr.dstDie m
      else if !slotOk m i then dropPkt i .rteKeyDrop i.pkt.hdr.dstDie m
      else if i.pkt.hdr.keyslot ≠ 0 ∧ i.pkt.tagOk = false then
        raiseEvt 0x0016 1 (iDie i.pkt.hdr.dstDie) i.pkt.hdr.srcMod (dropPkt i .rteAuthFail i.pkt.hdr.dstDie m)
      else if i.pkt.hdr.isLocal || i.pkt.hdr.unordered then deliver fz i m
      else order fz i m := by
  obtain ⟨hcrc, hok⟩ := header_checked hc hh
  rw [checkPacket, if_neg hcrc, hok, if_neg Bool.false_ne_true, if_neg (Classical.not_not.2 hm)]

end Checks

theorem packetReceive_of_inbox {fz : Fuses} {k : Nat} {i : InPkt} {r : List InPkt} {m : Mach}
    (h : (port m k).inbox = i :: r) :
    packetReceive k fz m = checkPacket fz k (portDie k) i (onPort k (fun q => { q with inbox := r }) m) := by
  simp only [packetReceive, h]

/-- Settles O31: the checks in the order of the table. -/
theorem packetReceiveResult : Obligations.PacketReceiveResult := by
  intro s k i r hi m h d drop
  have hrun : exec (.packetReceive k) s = nextMach s (checkPacket s.fuses k.val d i m) :=
    congrArg (nextMach s) (packetReceive_of_inbox hi)
  refine ⟨fun hbad => hrun.trans (congrArg (nextMach s) (checkPacket_of_bad_hcrc hbad)), fun hc =>
    ⟨fun hh => hrun.trans (congrArg (nextMach s) (checkPacket_of_bad_header hc hh)), fun hh => ?_⟩⟩
  have helse (hm : h.dstMod ≠ m.moduleId) := hrun.trans (congrArg (nextMach s) (checkPacket_of_elsewhere hc hh hm))
  have hhere (hm : h.dstMod = m.moduleId) := hrun.trans (congrArg (nextMach s) (checkPacket_of_here hc hh hm))
  refine ⟨fun hm hhops => (helse hm).trans (by rw [if_pos hhops]),
    fun hm hhops => (helse hm).trans (by rw [if_neg (Nat.not_le.2 hhops)]), fun hm hheld => (hhere hm).trans ?_,
    fun hm hheld hslot => (hhere hm).trans ?_, fun hm hheld hslot hk ht => (hhere hm).trans ?_,
    fun hm hheld hslot hok => (hhere hm).trans ?_⟩
  · rw [hheld]; rfl
  · rw [hheld, hslot]; rfl
  · rw [hheld, hslot]
    have hfail : i.pkt.hdr.keyslot ≠ 0 ∧ i.pkt.tagOk = false := ⟨hk, ht⟩
    exact congrArg (nextMach s) (if_pos hfail)
  · have hpass : ¬(i.pkt.hdr.keyslot ≠ 0 ∧ i.pkt.tagOk = false) := by
      rintro ⟨hk, ht⟩
      obtain h0 | h1 := hok
      · exact hk h0
      · rw [ht] at h1; cases h1
    rw [hheld, hslot]
    exact congrArg (nextMach s) (if_neg hpass)

/-! ### Requests at the front of a die -/

section Requests
variable {fz : Fuses} {d : Nat} {i : InPkt} {m n : Mach}

/-- The packet at the front of a die goes to a target that fails (R496). -/
def failFront (fz : Fuses) (d : Nat) (i : InPkt) (sub : Nat) (m : Mach) : Mach :=
  failTarget fz i sub (onDie d (fun x => { x with deliver := x.deliver.drop 1 }) m)

section Write
variable (hf : front m d (fun p => p.hdr.op == 1) = some i) (hr : cacheRoom m i.pkt.hdr = true)
include hf hr

theorem recvWrite_of_fails {sub : Nat} (ht : targetFails fz m i.pkt = some sub) :
    recvWrite d fz m = failFront fz d i sub m := by
  simp only [recvWrite, hf, hr, ht, Bool.not_true, Bool.false_eq_true, if_false, failFront]

theorem recvWrite_of_station {key : Nat} {t : Xfer} (ht : targetFails fz m i.pkt = none)
    (ha : aimOf fz m i.pkt.hdr = .station key) (hreg : regionFor m i.pkt.hdr (32 * i.pkt.hdr.len) = some t) :
    let l := i.pkt.payload.take (32 * i.pkt.hdr.len)
    let ps := beatPieces l.length i.pkt.hdr.addr l
    recvWrite d fz m = match pieceTimes m key t.port 0 (laneAt m key (cycleNow m (partOf m d))) ps with
      | some cs => executed d i (storePieces fz key t.port (ps.zip cs) (countRegion d t i.pkt.hdr.len m))
      | none => m := by
  simp only [recvWrite, hf, hr, ht, ha, hreg, Bool.not_true, Bool.false_eq_true, if_false] <;> rfl

theorem recvWrite_of_remote (ht : targetFails fz m i.pkt = none) (ha : ∀ key, aimOf fz m i.pkt.hdr ≠ .station key) :
    let y := putRemote fz i.pkt.hdr i.pkt.hdr.addr (i.pkt.payload.take (32 * i.pkt.hdr.len)) m
    recvWrite d fz m = executed d i
      (if isAsk i.pkt.hdr = true then respond fz i.pkt 0 (statusLine y.2) y.1 else y.1) := by
  simp only [recvWrite, hf, hr, ht, Bool.not_true, Bool.false_eq_true, if_false]
  split
  · exact absurd ‹_› (ha _)
  · exact absurd ‹_› (ha _)
  · rfl

end Write

section ReadReq
variable (hf : front m d (fun p => p.hdr.op == 2) = some i) (hr : cacheRoom m i.pkt.hdr = true)
include hf hr

theorem recvReadReq_of_fails {sub : Nat} (ht : targetFails fz m i.pkt = some sub) :
    recvReadReq d fz m = failFront fz d i sub m := by
  simp only [recvReadReq, hf, hr, ht, Bool.not_true, Bool.false_eq_true, if_false, failFront]

theorem recvReadReq_of_host (ht : targetFails fz m i.pkt = none) (ha : ∀ w, aimOf fz m i.pkt.hdr ≠ .well w) :
    let base := (part m (partOf m d)).hwBase + (readArgs i.pkt).1
    recvReadReq d fz m = executed d i (respond fz i.pkt (readArgs i.pkt).2.2
      (if hostBad m base (readArgs i.pkt).2.1 = true then statusLine 2
       else peeks m.mem.host base (readArgs i.pkt).2.1) m) := by
  simp only [recvReadReq, hf, hr, ht, Bool.not_true, Bool.false_eq_true, if_false]

theorem recvReadReq_of_well {w : Nat} {l : List Byte} (ht : targetFails fz m i.pkt = none)
    (ha : aimOf fz m i.pkt.hdr = .well w)
    (hb : readBeats fz w ((readArgs i.pkt).1 / 128)
      (((readArgs i.pkt).1 + (readArgs i.pkt).2.1 + 127) / 128 - (readArgs i.pkt).1 / 128) m = (n, some l)) :
    recvReadReq d fz m = executed d i (respond fz i.pkt (readArgs i.pkt).2.2
      ((l.drop ((readArgs i.pkt).1 % 128)).take (readArgs i.pkt).2.1) n) := by
  have hmod : (readArgs i.pkt).1 - 128 * ((readArgs i.pkt).1 / 128) = (readArgs i.pkt).1 % 128 := by omega
  simp only [recvReadReq, hf, hr, ht, ha, hb, hmod, Bool.not_true, Bool.false_eq_true, if_false]

end ReadReq

section ReadResp
variable (hf : front m d (fun p => p.hdr.op == 3) = some i)

/-- A response belongs to a request: its tag, from the die that was asked (R498). -/
def answers (i : InPkt) (r : Request) : Bool :=
  r.pkt.hdr.tag == i.pkt.hdr.tag && r.pkt.hdr.dstMod == i.pkt.hdr.srcMod && r.pkt.hdr.dstDie == i.pkt.hdr.srcDie

include hf

theorem recvReadResp_of_no_request (hq : (die m d).reqs.find? (answers i) = none) :
    recvReadResp d fz m = bump .rteRespDup (iDie d) (executed d i m) := by
  unfold answers at hq
  simp only [recvReadResp, hf, hq]

theorem recvReadResp_of_request {r : Request} (hq : (die m d).reqs.find? (answers i) = some r) :
    let n := onDie d (fun x => { x with reqs := x.reqs.erase r }) m
    recvReadResp d fz m = issueAsks fz d (executed d i (if r.pkt.hdr.op = 2 then
      (putRemote fz i.pkt.hdr i.pkt.hdr.addr (i.pkt.payload.take (32 * i.pkt.hdr.len)) n).1 else n)) := by
  unfold answers at hq
  simp only [recvReadResp, hf, hq]

end ReadResp

theorem recvLaAdd_of_station {cycle key : Nat} {t : Xfer} (hf : front m d (fun p => p.hdr.op == 4) = some i)
    (ht : targetFails fz m i.pkt = none) (ha : aimOf fz m i.pkt.hdr = .station key)
    (hreg : regionFor m i.pkt.hdr (32 * i.pkt.hdr.len) = some t) :
    let l := i.pkt.payload.take (32 * i.pkt.hdr.len)
    let n := countRegion d t i.pkt.hdr.len m
    let ps := beatPieces l.length i.pkt.hdr.addr l
    let place := laneAt m key cycle
    let add (cs : List LaneAt) (m' : Mach) : Mach :=
      (ps.zip cs).foldl (addPiece fz (partOf m d) d i.pkt.hdr.dstUnit key t.port) m'
    recvLaAdd d cycle fz m = match pieceTimes m key t.port 2 place ps with
      | none => m
      | some cs => executed d i (if place.when = none then settleStn key (add cs (settleStn key n)) else add cs n) := by
  simp only [recvLaAdd, hf, ht, ha, hreg] <;> rfl

end Requests

/-- Settles O32: each of the four packets at the front of a die, by what it aims at. -/
theorem packetExecuteResult : Obligations.PacketExecuteResult := by
  refine ⟨fun s d i hf hr => ⟨fun sub ht => congrArg (nextMach s) (recvWrite_of_fails hf hr ht),
      fun key t ht ha hreg => ?writeStation, fun ht ha => congrArg (nextMach s) (recvWrite_of_remote hf hr ht ha)⟩,
    fun s d i hf hr => ⟨fun sub ht => congrArg (nextMach s) (recvReadReq_of_fails hf hr ht),
      fun ht ha => congrArg (nextMach s) (recvReadReq_of_host hf hr ht ha),
      fun w m l ht ha hb => congrArg (nextMach s) (recvReadReq_of_well hf hr ht ha hb)⟩,
    fun s d i hf => ⟨fun hq => congrArg (nextMach s) (recvReadResp_of_no_request hf hq),
      fun r hq => congrArg (nextMach s) (recvReadResp_of_request hf hq)⟩,
    fun s d cycle i key t hf ht ha hreg => ?laAdd⟩
  case writeStation =>
    have hrun := recvWrite_of_station (fz := s.fuses) hf hr ht ha hreg
    exact ⟨fun cs hcs => congrArg (nextMach s) (hrun.trans (by rw [hcs])),
      fun hn => congrArg (nextMach s) (hrun.trans (by rw [hn]))⟩
  case laAdd =>
    have hrun := recvLaAdd_of_station (cycle := cycle) hf ht ha hreg
    exact ⟨fun cs hcs => congrArg (nextMach s) (hrun.trans (by rw [hcs])),
      fun hn => congrArg (nextMach s) (hrun.trans (by rw [hn]))⟩

end Sys2Proof.Machine
end

section
/-! Proofs about the timed events of the packets of a die (11 R481 to R491, R500 to R503, R514, R515) and the route commands
(11 R494, R506, R512 to R517), and the settlement of O34 and O35. -/

namespace Sys2Proof.Machine

/-! ### Packets that wait at a port -/

section Port
variable {fz : Fuses} {k : Nat} {i : InPkt} {r : List InPkt} {m : Mach}

/-- A C0 packet alone at its port starts 600 ns after its arrival, and late where something keeps it from that (R481). -/
theorem forwardStart_of_timed (hf : (port m k).fwd = [i]) (hc : i.pkt.hdr.cls = 0) (he : i.pkt.hdr.escaped = false) :
    let n := reachWall (i.at_ + 600) m
    let q := port m k
    let late := decide (i.at_ + 600 < n.clk.wall) || decide (1000 * n.clk.wall < q.busy) || (q.head 0).isSome
      || decide (q.credit 0 < units i.pkt.size)
    forwardStart k m = putPort k { i.through i.viaIn with since := n.clk.wall }
      (onPort k (fun q => { q with fwd := q.fwd.erase i })
        (if late = true then bump .rteFwdLate (iDie (portDie k)) n else n)) := by
  intro n q late
  have htimed : (i.pkt.hdr.cls == 0 && !i.pkt.hdr.escaped) = true := by simp [hc, he]
  have hgo (f : InPkt → Bool) : ([i].find? f).or [i].head? = some i := by
    cases h : f i <;> simp [h]
  simp only [forwardStart, hf, hgo, htimed, if_true, Bool.true_and, ← Bool.or_assoc]
  rfl

/-- A packet of another class starts at once. -/
theorem forwardStart_of_untimed (hf : (port m k).fwd = i :: r) (hc : i.pkt.hdr.cls ≠ 0) :
    forwardStart k m = putPort k { i.through i.viaIn with since := m.clk.wall }
      (onPort k (fun q => { q with fwd := q.fwd.erase i }) m) := by
  have htimed : (i.pkt.hdr.cls == 0 && !i.pkt.hdr.escaped) = false := by simp [hc]
  have hgo : ((i :: r).find? (fun i => !(i.pkt.hdr.cls == 0 && !i.pkt.hdr.escaped) || decide (i.at_ + 600 ≤ m.clk.wall))).or
      (i :: r).head? = some i := by
    rw [List.find?_cons_of_pos (by rw [htimed]; rfl)]
    rfl
  simp only [forwardStart, hf, hgo, htimed, Bool.false_and, Bool.false_eq_true, if_false]

/-- The packet that waits for credit: of C0 first, then of C1 (R482). -/
theorem escape_of_stuck {o : OutPkt}
    (h : ((port m k).next 0 = none ∧ (port m k).head 0 = some o)
      ∨ (((port m k).next 0).isSome = true ∧ (port m k).next 1 = none ∧ (port m k).head 1 = some o)
      ∨ ((port m k).head 0 = none ∧ (port m k).next 1 = none ∧ (port m k).head 1 = some o)) :
    let n := onPort k (fun q => { q with store := q.store.erase o }) (reachWall (o.since + 10000) m)
    escape k fz m = pump k (place fz (portDie k) (storeTable n k o.pkt.hdr)
      { o with pkt := { o.pkt with hdr := o.pkt.hdr.setFlag 4 }, cls := 3 }
      (bump .rteEscaped (iDie (portDie k)) n)) := by
  have hstuck : (if ((port m k).next 0).isSome then none else (port m k).head 0).or
      (if ((port m k).next 1).isSome then none else (port m k).head 1) = some o := by
    obtain ⟨hn, hh⟩ | ⟨hn, hn1, hh⟩ | ⟨hh0, hn1, hh⟩ := h
    · simp [hn, hh]
    · simp [hn, hn1, hh]
    · simp [hh0, hn1, hh]
  simp only [escape, hstuck]

theorem drainSend_of_drained {e : Bool} (hd : (rteOf m (arrivalTable m k)).draining = some e)
    (ha : (port m k).active = true) (hs : bitAt (rteOf m (arrivalTable m k)).sentDrain k = false)
    (hq : (port m k).store.any (fun o => o.pkt.hdr.epoch == b2n e) = false) :
    let t := arrivalTable m k
    drainSend k m = tryRelease t (onRte t (fun r => { r with sentDrain := putBit r.sentDrain k })
      (sendLocal k none ([2, BitVec.ofNat 8 (b2n e)] ++ zeros 30) m)) := by
  simp only [drainSend, hd, ha, hs, hq, Bool.not_true, Bool.or_self, Bool.false_eq_true, if_false]

end Port

/-! ### Packets and requests that wait at a die -/

section Die
variable {fz : Fuses} {d : Nat} {m : Mach}

theorem noRouteDrop_of_held {x : Held} {r : List Held} (h : (die (rehold d m) d).held = x :: r) :
    noRouteDrop d m = raiseEvt 0x0013 1 (iDie d) x.out.pkt.hdr.dstMod (bump .rteNoroute (iDie d)
      (refillHeld d (x.out.freePool
        (onDie d (fun y => { y with held := r }) (reachWall (x.since + 2000000) (rehold d m)))))) := by
  simp only [noRouteDrop, h]

theorem pseqGap_of_untold {w : Waiting}
    (h : (die m d).reorder.find? (fun w =>
      (clsOf m d w.inp.pkt.hdr).gap != some (clsOf m d w.inp.pkt.hdr).next) = some w) :
    let h := w.inp.pkt.hdr
    pseqGap d m = raiseEvt 0x0014 1 (iDie d) (h.srcMod * 65536 + h.srcDie * 16384 + h.cls)
      (bump .rteGap (iDie d) (onPair d h.srcMod h.srcDie
        (fun x => x.onCls h.cls (fun y => { y with gap := some y.next })) (reachWall (w.since + 2000000) m))) := by
  simp only [pseqGap, h]

/-- Delivery counts that have moved are told under a fabric key that has a number left (R491, R708). -/
theorem deliveredSend_of_moved {e mod slot key : Nat} (hl : (pairOf m d mod e).live = true)
    (hmoved : (pairOf m d mod e).c0.told ≠ (pairOf m d mod e).c0.next ∨
      (pairOf m d mod e).c1.told ≠ (pairOf m d mod e).c1.next ∨
      (pairOf m d mod e).c2.told ≠ (pairOf m d mod e).c2.next) :
    let x := pairOf m d mod e
    let full (y : PairCls) : Bool := decide (y.told + 4096 ≤ y.next)
    let m0 := if (full x.c0 || full x.c1 || full x.c2) = true then m else reachWall (x.toldAt + 100000) m
    let n := ((fslot m0 d slot).ep key).unord
    sealSlot m0 d mod e = some (slot, key) → n < 2 ^ 48 - 1 →
    let h : Header := { newHdr m0 d 0xF0 with
      dstMod := mod, dstDie := e, dstUnit := 0xF0, flags := 64, keyslot := slot, keyEpoch := key
      tag := n % 65536, pseq := n / 65536 % 65536, xfer := n / 2 ^ 32 % 65536 }
    let told (y : PairCls) : PairCls := { y with told := y.next }
    let m1 := onSlot d slot (fun f => f.onEp key (fun y => { y with unord := n + 1 })) m0
    let m2 := onPair d mod e (fun x => { x with
      c0 := told x.c0, c1 := told x.c1, c2 := told x.c2, toldAt := m1.clk.wall }) m1
    deliveredSend d mod e fz m = place fz d (some (partOf m2 d)) { pkt := mkPacket h (deliveredBytes x), cls := 2 } m2 := by
  intro x full m0 n hs hn
  have hany : ¬((!x.live || !(x.c0.told != x.c0.next || x.c1.told != x.c1.next || x.c2.told != x.c2.next)) = true) := by
    obtain h | h | h := hmoved <;> simp [x, hl, h]
  unfold deliveredSend
  rw [if_neg hany]
  by_cases hfull : (full x.c0 || full x.c1 || full x.c2) = true
  · simp only [n, m0, if_pos hfull] at hs hn ⊢
    simp only [full, x] at hfull
    simp only [if_pos hfull, hs]
    exact if_neg (Nat.not_le.2 hn)
  · simp only [n, m0, if_neg hfull] at hs hn ⊢
    simp only [full, x] at hs hfull
    simp only [if_neg hfull, hs]
    exact if_neg (Nat.not_le.2 hn)

/-- What a request without a response does: sent again up to three times, and then it fails (R500, R503). -/
theorem requestReplay_of_found {tag : Nat} {r : Request}
    (h : (die m d).reqs.find? (fun r => r.pkt.hdr.tag == tag) = some r) :
    let n := reachWall (r.sentAt + 200000) m
    let l := bump .rteNoresp (iDie d) (onDie d (fun x => { x with reqs := x.reqs.erase r }) n)
    requestReplay d tag fz m =
      if r.replays < 3 then resend fz d r n
      else issueAsks fz d (match r.via with
        | some v => workFails d v l
        | none => l) := by
  simp only [requestReplay, h] <;> rfl

theorem cacheExpire_of_oldest {c : Cached} {r : List Cached} (h : (die m d).cache = c :: r) :
    cacheExpire d m = onDie d (fun x => { x with cache := r }) (reachWall (c.at_ + 1000000) m) := by
  simp only [cacheExpire, h]

end Die

theorem epochRelease_of_draining {t : Option Nat} {e : Bool} {m : Mach} (h : (rteOf m t).draining = some e) :
    epochRelease t m = onRte t (fun r => r.setBank e 0) (reachWall ((rteOf m t).flipAt + 2000000) m) := by
  simp only [epochRelease, h]

/-- Settles O34: each event where something waits for it. -/
theorem waitingPacketsResult : Obligations.WaitingPacketsResult := by
  refine ⟨fun s k i hf hc he => congrArg (nextMach s) (forwardStart_of_timed hf hc he),
    fun s k i r hf hc => congrArg (nextMach s) (forwardStart_of_untimed hf hc),
    fun s k o h => congrArg (nextMach s) (escape_of_stuck h),
    fun s d x r h => congrArg (nextMach s) (noRouteDrop_of_held h),
    fun s d w h => congrArg (nextMach s) (pseqGap_of_untold h),
    fun s d e mod slot key hl hmoved hs hn => ?delivered,
    fun s d tag r h => ?replay,
    fun s d c r h => congrArg (nextMach s) (cacheExpire_of_oldest h),
    fun s k e hd ha hs hq => congrArg (nextMach s) (drainSend_of_drained hd ha hs hq),
    fun s t e h => congrArg (nextMach s) (epochRelease_of_draining h)⟩
  case delivered =>
    have hrun := deliveredSend_of_moved (fz := s.fuses) hl hmoved hs hn
    exact congrArg (nextMach s) hrun
  case replay =>
    have hrun := congrArg (nextMach s) (requestReplay_of_found (fz := s.fuses) h)
    refine ⟨fun hr => hrun.trans ?_, fun v hr hv => hrun.trans ?_, fun hr hv => hrun.trans ?_⟩
    · rw [if_pos hr]
    · rw [if_neg (Nat.not_lt.2 hr), hv]
    · rw [if_neg (Nat.not_lt.2 hr), hv]

/-! ### Route commands -/

section Routes
variable {s : State} {v : Via} {t : Option Nat} {code : Nat} {m n : Mach} {body : Mach → Mach}

/-- The module table is the operator's. -/
theorem run_table_denied (hv : served s.mach v t code) (ht : t = none) (ho : callerOperator v.caller = false)
    (hj : v.caller ≠ .journal) :
    run s (fun _ => tableCommand v t code body) = nextMach s (answer v .denied s.mach) :=
  run_served (body := fun _ m => if t = none ∧ callerOperator v.caller = false ∧ v.caller ≠ .journal then
    answer v .denied m else body m) hv (if_pos ⟨ht, ho, hj⟩)

theorem run_table_served (hv : served s.mach v t code)
    (hc : t ≠ none ∨ callerOperator v.caller = true ∨ v.caller = .journal) (hb : body s.mach = n) :
    run s (fun _ => tableCommand v t code body) = nextMach s n := by
  have hnot : ¬(t = none ∧ callerOperator v.caller = false ∧ v.caller ≠ .journal) := by
    rintro ⟨ht, ho, hj⟩
    obtain h | h | h := hc
    · exact h ht
    · rw [ho] at h; cases h
    · exact hj h
  exact run_served (body := fun _ m => if t = none ∧ callerOperator v.caller = false ∧ v.caller ≠ .journal then
    answer v .denied m else body m) hv ((if_neg hnot).trans hb)

theorem routeWrite_eq (bank : Nat) (l : List (Nat × RouteEntry)) (commit : Bool) :
    let put (b : Table RouteEntry) : Table RouteEntry := l.foldl (fun b y => tput noRoute b y.1 y.2) b
    let n := onRte t (fun r => if bank = 1 then { r with r1 := put r.r1 } else { r with r0 := put r.r0 }) m
    routeWrite v t (bank == 1) l commit m =
      if (rteOf m t).bank (bank == 1) ≠ 0 then answer v .badState m
      else if 512 < l.length ∨ l.all (entryOk (tablePorts m t)) = false then answer v .range m
      else answer v .ok (if commit = true then onRte t (fun r => r.setBank (bank == 1) 1) n else n) := by
  simp only [routeWrite, beq_iff_eq]

theorem routeFlip_of_uncommitted {step : Nat} (h : (rteOf m t).bank (!(rteOf m t).epoch) ≠ 1) :
    routeFlip v t step m = answer v .badState m := if_pos h

/-- A flip to a committed bank waits for its step while the plan of the table's partition runs (R513). -/
theorem routeFlip_of_running {step p : Nat} (h : (rteOf m t).bank (!(rteOf m t).epoch) = 1) (ht : t = some p)
    (hr : runs (onRte t (fun r => { r with flipStep := step }) m) p = true) :
    routeFlip v t step m = answer v .ok (onRte t (fun r => { r with pend := true })
      (onRte t (fun r => { r with flipStep := step }) m)) := by
  subst ht
  simp only [routeFlip, h, ne_eq, not_true_eq_false, if_false, hr, if_true]

theorem routeFlip_of_idle {step : Nat} (h : (rteOf m t).bank (!(rteOf m t).epoch) = 1)
    (hr : ∀ p, t = some p → runs (onRte t (fun r => { r with flipStep := step }) m) p = false) :
    routeFlip v t step m = answer v .ok (flipTable t (onRte t (fun r => { r with flipStep := step }) m)) := by
  cases t with
  | none => simp only [routeFlip, h, ne_eq, not_true_eq_false, if_false, Bool.false_eq_true]
  | some p => simp only [routeFlip, h, ne_eq, not_true_eq_false, if_false, hr p rfl, Bool.false_eq_true]

/-- A unit that a remote window may stand for: the host gateway, or a wellhead of the die (R494). -/
def windowUnit (d : Nat) (w : RWin) : Prop :=
  w.unit = 0xF8 ∨ (0xE0 ≤ w.unit ∧ w.unit < 0xF0 ∧ wellDie (w.unit - 0xE0) = d)

theorem windowUnit_iff (d : Nat) (w : RWin) :
    (w.unit == 0xF8 || (decide (0xE0 ≤ w.unit) && decide (w.unit < 0xF0) && wellDie (w.unit - 0xE0) == d)) = true ↔
      windowUnit d w := by
  simp [windowUnit, and_assoc]

theorem rwinSet_of_wrong {d idx : Nat} {w : RWin} (he : w.enable = true) (h : ¬windowUnit d w ∨ 4 ≤ w.ops) :
    rwinSet v d idx w m = answer v .range m := by
  rw [← windowUnit_iff, Bool.not_eq_true] at h
  exact if_pos ⟨he, h⟩

theorem rwinSet_of_right {d idx : Nat} {w : RWin} (h : w.enable = false ∨ (windowUnit d w ∧ w.ops < 4)) :
    rwinSet v d idx w m = answer v .ok (onDie d (fun x => { x with
      rwins := tput noWindow x.rwins idx (if w.enable = true then w else noWindow) }) m) := by
  rw [← windowUnit_iff] at h
  refine if_neg ?_
  rintro ⟨he, hu | ho⟩
  · obtain h | ⟨h, -⟩ := h
    · rw [he] at h; cases h
    · rw [h] at hu; cases hu
  · obtain h | ⟨-, h⟩ := h
    · rw [he] at h; cases h
    · exact absurd ho (Nat.not_le.2 h)

theorem collAbort_eq (fz : Fuses) (p coll : Nat) :
    collAbort v p coll fz m =
      if planOf m p = none then answer v .badState m
      else if (collsOf m p).all (fun c => c.index != coll) = true then answer v .range m
      else answer v .ok (abortMember fz p
        { cause := 4, mod := m.moduleId, die := p, coll := coll, step := (part m p).step % 65536 } m) := by
  simp only [collAbort, Option.isNone_iff_eq_none]

end Routes

/-- Settles O35: the commands on a table that is not the caller's, on one that is, of a window and of an abort. -/
theorem routeCommandsResult : Obligations.RouteCommandsResult := by
  refine ⟨fun s v t ht ho hj => ⟨fun _ _ _ hv => ?deniedWrite, fun _ hv => ?deniedFlip, fun hv => ?deniedStatus⟩,
    fun s v t hc => ⟨fun bank l commit hv => ?write, fun step hv => ⟨fun h => ?uncommitted, fun h p hp hr => ?pending,
      fun h hr => ?flip⟩, fun hv => ?status⟩,
    fun s v d idx w hv => ⟨fun he h => ?wrong, fun h => ?right⟩, fun s v p coll hv => run_served hv (collAbort_eq _ _ _)⟩
  case deniedWrite => rw [ht.symm] at hv; exact run_table_denied hv ht ho hj
  case deniedFlip => rw [ht.symm] at hv; exact run_table_denied hv ht ho hj
  case deniedStatus => rw [ht.symm] at hv; exact run_table_denied hv ht ho hj
  case write => exact run_table_served hv hc (routeWrite_eq _ _ _)
  case uncommitted => exact run_table_served hv hc (routeFlip_of_uncommitted h)
  case pending => exact run_table_served hv hc (routeFlip_of_running h hp hr)
  case flip => exact run_table_served hv hc (routeFlip_of_idle h hr)
  case status => exact run_table_served hv hc rfl
  case wrong => exact run_served (body := fun _ => rwinSet v d.val idx.val w) hv (rwinSet_of_wrong he h)
  case right => exact run_served (body := fun _ => rwinSet v d.val idx.val w) hv (rwinSet_of_right h)

end Sys2Proof.Machine
end

section
/-! Proofs about the clocks of the partitions and module time (12), and the settlement of O36 and O37. -/

namespace Sys2Proof.Machine

/-! ### Frequency steps and stretches -/

/-- A change of a partition is what it makes of the partition as it stands. -/
theorem onPart_congr {p : Nat} {f g : Part → Part} {m : Mach} (h : f (part m p) = g (part m p)) :
    onPart p f m = onPart p g m :=
  congrArg (fun v => { m with parts := tput {} m.parts p v }) h

section Clock
variable {m : Mach} {p d : Nat}

/-- A new target begins a change where it moves the step wanted, or where that is neither CURRENT nor pending (R523). -/
theorem setTarget_eq (t : Nat) :
    let n := onPart p (fun q => { q with target := t }) m
    let w := (wanted n (part n p)).1
    setTarget p t m = if w = (wanted m (part m p)).1 ∧ (w = (part m p).cur ∨ (part m p).clkPend = true) then n
      else onPart p (fun q => { q with clkPend := decide (w ≠ q.cur), stbyLock := false }) n := by
  simp only [setTarget, retarget, part_onPart_same]

/-- A change to the step wanted takes effect where the standby PLLs are locked to it (R524, R525). -/
theorem changeClock_of_locked (hp : (part m p).clkPend = true) (hl : (part m p).stbyLock = true) :
    changeClock p m = onPart p (fun q => { q with
      cur := (wanted m (part m p)).1, clkPend := false, stbyLock := false, setBy := (wanted m (part m p)).2 }) m := by
  unfold changeClock
  generalize wanted m (part m p) = w
  exact onPart_congr (by simp only [hp, hl, and_self, if_true])

theorem pllLock_of_idle (h : runs (onPart p (fun q => { q with
      stbyLock := decide ((wanted m (part m p)).1 ≠ q.cur) }) m) p = false) :
    pllLock p m = changeClock p (onPart p (fun q => { q with
      stbyLock := decide ((wanted m (part m p)).1 ≠ q.cur) }) m) := by
  simp only [pllLock, h, Bool.false_eq_true, if_false]

theorem droop_eq (l : List Nat) :
    droop d l m = bumpBy .clkStretch (iDie d) 0 l.length (addStretch d
      ((l.map (fun x => min x (halfPeriod (part m (partOf m d)).cur))).sum) m) := by
  simp only [droop, Nat.min_def, List.sum_eq_foldl]

theorem sympathetic_eq (periods : Nat) :
    let half := halfPeriod (part m (partOf m d)).cur
    let gap := (die m d).told - (die m d).stretch
    let n := min periods ((gap + half - 1) / half)
    sympathetic d periods m = bumpBy .clkSymp (iDie d) 0 n (addStretch d (min gap (n * half)) m) := by
  simp only [sympathetic, Nat.min_def]

theorem monitorWindow_of_monitored {r duty : Nat} {hist : List Nat} (hm : monitored m d r = true) :
    let i := iRegion d r
    let l := bumpBy .clkDutyErr i 0 duty
      ((List.range 16).foldl (fun m b => bumpBy .clkJhist i b (hist.getD b 0) m) m)
    let ends := hist.getD 0 0 + hist.getD 15 0
    let n := if l.clk.dutyThr < duty then raiseEvt 0x0022 1 i duty l else l
    monitorWindow d r hist duty m = if n.clk.jitThr < ends then raiseEvt 0x0023 1 i ends n else n :=
  if_neg (by rw [hm]; exact Bool.false_ne_true)

end Clock

/-- Settles O36: each event of the clocks. -/
theorem clockCommandsResult : Obligations.ClockCommandsResult := by
  refine ⟨fun s => rfl, fun s => rfl, fun s p t => congrArg (nextMach s) (setTarget_eq _),
    fun s p => ⟨fun hr => congrArg (nextMach s) (if_pos hr), fun hr hp hl hw => ?changed⟩,
    fun s d l => congrArg (nextMach s) (droop_eq l), fun s d periods => congrArg (nextMach s) (sympathetic_eq periods),
    fun s d r hist duty hm => congrArg (nextMach s) (monitorWindow_of_monitored hm)⟩
  case changed =>
    exact congrArg (nextMach s) ((pllLock_of_idle hr).trans ((changeClock_of_locked hp hl).trans (by rw [hw])))

/-! ### Module time -/

/-- The machine with which a servo update reckons: the mean of the last second of PTP, and the ports that it uses. -/
def reckoned (m : Mach) : Mach :=
  let l := lastSecond m.clk.wall m.clk.ptp
  { m with clk := { m.clk with
    ptpOfs := if ptpValid m = true ∧ l ≠ [] then mean (l.map (fun y => y.2)) else m.clk.ptpOfs
    peers := (usedPorts m).foldl (fun a k => a + 2 ^ k) 0 } }

/-- The offsets of the ports are used once. -/
def offsetsUsed (m : Mach) : Mach :=
  (List.range 16).foldl (fun m k => onMport k (fun x => { x with valid := !x.fresh.isEmpty, fresh := [] }) m) m

/-- The offset lies beyond the step threshold. -/
def farOff (n : Mach) (ofs : Int) : Bool :=
  decide (ofs < -((n.clk.cfg.stepThr * 256000 : Nat) : Int)) || decide (((n.clk.cfg.stepThr * 256000 : Nat) : Int) < ofs)

/-- The machine after the moves of Table 12-4. -/
def moved (n : Mach) : Mach := moveState (sourceOfs n).isSome (lockOk n) n

/-- What an update does to MTIME, of the machine with which it reckons. -/
def servoed (n : Mach) : Mach :=
  match sourceOfs n with
  | none => if (moved n).clk.st = 3 then moved n else servoRate (moved n)
  | some (ofs, src) =>
    if !anyRuns (moved n) && (n.clk.st == 0 || farOff n ofs) then stepTime ofs src (moved n)
    else if farOff n ofs && !(servoRate (moved n)).clk.farTold then
      raiseEvt 0x0024 0 iModule (twos 64 (ofs / 256))
        { servoRate (moved n) with clk := { (servoRate (moved n)).clk with farTold := true } }
    else { servoRate (moved n) with clk := { (servoRate (moved n)).clk with farTold := farOff n ofs } }

theorem servoUpdate_eq (m : Mach) : servoUpdate m = offsetsUsed (servoed (reckoned m)) := by
  unfold servoUpdate servoed reckoned
  cases hv : ptpValid m with
  | false =>
    simp only [Bool.false_eq_true, false_and, if_false]
    rfl
  | true =>
    cases hl : lastSecond m.clk.wall m.clk.ptp with
    | nil =>
      simp only [ne_eq, not_true_eq_false, and_false, if_true, if_false]
      rfl
    | cons y r =>
      simp only [ne_eq, reduceCtorEq, not_false_eq_true, and_self, if_true]
      rfl

section Servo
variable {n : Mach} {ofs : Int} {src : Nat}

theorem servoed_of_no_source (h : sourceOfs n = none) :
    servoed n = if (moved n).clk.st = 3 then moved n else servoRate (moved n) := by
  simp only [servoed, h]

variable (h : sourceOfs n = some (ofs, src))
include h

theorem servoed_of_step (hr : anyRuns (moved n) = false) (hf : n.clk.st = 0 ∨ farOff n ofs = true) :
    servoed n = stepTime ofs src (moved n) := by
  have hstep : (!anyRuns (moved n) && (n.clk.st == 0 || farOff n ofs)) = true := by simpa [hr] using hf
  simp only [servoed, h, hstep, if_true]

theorem servoed_of_near (hr : anyRuns (moved n) = true ∨ n.clk.st ≠ 0) (hf : farOff n ofs = false) :
    servoed n = { servoRate (moved n) with clk := { (servoRate (moved n)).clk with farTold := false } } := by
  have hstep : (!anyRuns (moved n) && (n.clk.st == 0 || false)) = false := by
    obtain h | h := hr <;> simp [h]
  simp only [servoed, h, hf, hstep, Bool.false_and, Bool.false_eq_true, if_false]

theorem servoed_of_far (hr : anyRuns (moved n) = true) (hf : farOff n ofs = true)
    (ht : (servoRate (moved n)).clk.farTold = false) :
    servoed n = raiseEvt 0x0024 0 iModule (twos 64 (ofs / 256))
      { servoRate (moved n) with clk := { (servoRate (moved n)).clk with farTold := true } } := by
  simp only [servoed, h, hr, hf, ht, Bool.not_true, Bool.not_false, Bool.false_and, Bool.and_self, Bool.false_eq_true,
    if_false, if_true]

end Servo

theorem farOff_iff (n : Mach) (ofs : Int) :
    farOff n ofs = true ↔ ofs < -((n.clk.cfg.stepThr * 256000 : Nat) : Int) ∨
      ((n.clk.cfg.stepThr * 256000 : Nat) : Int) < ofs := by
  simp only [farOff, Bool.or_eq_true, decide_eq_true_eq]

/-- Settles O37: a marker, an offset to the PTP master, and an update by its source and how far off it is. -/
theorem moduleTimeResult : Obligations.ModuleTimeResult := by
  refine ⟨fun s k ha => congrArg (nextMach s) (if_neg (by rw [ha]; exact Bool.false_ne_true)),
    fun s offset he => congrArg (nextMach s) (if_neg (by rw [he]; exact Bool.false_ne_true)), fun s => ?_⟩
  have hrun (m : Mach) (h : servoed (reckoned s.mach) = m) : exec .servoUpdate s = nextMach s (offsetsUsed m) :=
    congrArg (nextMach s) ((servoUpdate_eq s.mach).trans (congrArg offsetsUsed h))
  refine ⟨fun h hst => hrun _ ((servoed_of_no_source h).trans (if_pos hst)),
    fun h hst => hrun _ ((servoed_of_no_source h).trans (if_neg hst)),
    fun ofs src h hr hf => hrun _ (servoed_of_step h hr ?far), fun ofs src h hr hlo hhi => hrun _ (servoed_of_near h hr ?near),
    fun ofs src h hr hf ht => hrun _ (servoed_of_far h hr ((farOff_iff _ _).2 hf) ht)⟩
  case far => exact hf.imp id (fun hf => (farOff_iff _ _).2 hf)
  case near =>
    rw [Bool.eq_false_iff, ne_eq, farOff_iff]
    exact fun hf => hf.elim (Int.not_lt.2 hlo) (Int.not_lt.2 hhi)

end Sys2Proof.Machine
end

section
/-! Proofs about the serving engine (13): its commands on sessions and requests, park and unpark, and its events; the
settlement of O38 to O41. -/

namespace Sys2Proof.Machine

/-! ### Commands of the serving engine -/

section Served
variable {s : State} {v : Via} {p code : Nat} {n : Mach} {body : Fuses → Mach → Mach}

/-- A journalled command of the serving engine does its own work once it is noted (R657). -/
theorem run_serves (h : serves s.mach v p code) (stopped : Mach → Bool)
    (hb : body s.fuses (noteCommand v p code s.mach) = n) :
    run s (fun fz => servingCmd v p code true stopped (body fz)) = nextMach s n := by
  obtain ⟨hv, hhome, hst, hj⟩ := h
  refine congrArg (nextMach s) ((command_of_served hv _).trans ?_)
  simp [hhome, hst, hj, hb]

/-- A command that answers a state is served while the plan runs or is STOPPED, and changes nothing in the journal. -/
theorem run_status (hv : served s.mach v (some p) code) (hhome : isHome s.mach p = true)
    (hst : (part s.mach p).st = .running ∨ (part s.mach p).st = .stopped) (hb : body s.fuses s.mach = n) :
    run s (fun fz => servingCmd v p code false stoppedToo (body fz)) = nextMach s n := by
  refine congrArg (nextMach s) ((command_of_served hv _).trans ?_)
  obtain h | h := hst <;> simp [hhome, h, hb, stoppedToo]

end Served

/-- A command that the journal gives is in it already. -/
theorem noteCommand_of_journal {v : Via} (h : v.caller = .journal) (p code : Nat) (m : Mach) :
    noteCommand v p code m = m := if_pos h

/-! ### Sessions -/

section Sessions
variable {v : Via} {p i sid : Nat} {m : Mach}

theorem sessOpen_of_room {chan : Option Nat}
    (hc : ∀ c, chan = some c → c < (((part m p).sec.policy).map (fun y => y.maxChannels)).getD 0)
    (hi : lowestFree (fun s => s.st == .free) 0 (part m p).srv.sess < 65536) :
    let i := lowestFree (fun s => s.st == .free) 0 (part m p).srv.sess
    let n := onSess p i (fun s => { gen := s.gen, st := .idle, channel := chan }) m
    sessOpen v p chan m = complete v .ok 0 (.fields [("SESSION", sessId (sess n p i).gen i)]) n := by
  cases chan with
  | none => simp only [sessOpen, Nat.not_le.2 hi, Bool.false_eq_true, if_false]
  | some c => simp only [sessOpen, Nat.not_le.2 hi, Nat.not_le.2 (hc c rfl), decide_false, Bool.false_eq_true, if_false]

theorem sessClose_of_found (h : findSess m p sid = some i) :
    sessClose v p sid m = if (sess m p i).st = .idle ∨ (sess m p i).st = .parked then
        answer v .ok (onSess p i Session.freed m)
      else answer v .badState m := by
  simp only [sessClose, h]

theorem sessClose_of_stale (h : findSess m p sid = none) : sessClose v p sid m = answer v .stale m := by
  simp only [sessClose, h]

theorem sessTruncate_of_busy {newL : Nat} (h : findSess m p sid = some i)
    (hb : (sess m p i).st ≠ .idle ∨ swapping m p = true) : sessTruncate v p sid newL m = answer v .badState m := by
  simp only [sessTruncate, h, if_pos hb]

theorem sessTruncate_of_idle {newL : Nat} (h : findSess m p sid = some i) (hi : (sess m p i).st = .idle)
    (hs : swapping m p = false) :
    sessTruncate v p sid newL m = if newL < (sess m p i).len then
        complete v .ok 0 (.fields [("L", newL)]) (onSess p i (fun s => { s with
          len := newL, log := s.log.take newL, again := []
          chain := sha256 ([3] ++ digestBytes s.chain ++ leBytes 4 newL) }) m)
      else answer v .range m := by
  simp only [sessTruncate, h, hi, hs, ne_eq, not_true_eq_false, Bool.false_eq_true, or_self, if_false, ← Nat.not_lt,
    ite_not]

theorem sessTruncate_of_stale {newL : Nat} (h : findSess m p sid = none) :
    sessTruncate v p sid newL m = answer v .stale m := by
  simp only [sessTruncate, h]

theorem sessStatus_of_found (h : findSess m p sid = some i) :
    let x := sess m p i
    sessStatus v p sid m = complete v .ok 0
      (.fields [("STATE", x.st.ctorIdx), ("L", x.len), ("DIGEST", x.digest.toNat)]) m := by
  simp only [sessStatus, h]

end Sessions

/-- Settles O38: each session command on a session in the states that it is for, and on an ID that is stale. -/
theorem sessionCommandsResult : Obligations.SessionCommandsResult := by
  refine ⟨fun s v p chan hv => ?open_, fun s v p sid i hv => ?close, fun s v p sid newL i hv => ?truncate,
    fun s v p sid i hv hh hst hf => ?status, fun s v p sid newL hf hj => ⟨fun hv => ?staleClose, fun hv => ?staleTruncate⟩⟩
  case open_ =>
    intro m i n hc hi
    exact run_serves (body := fun _ => sessOpen v p.val chan) hv never (sessOpen_of_room hc hi)
  case close =>
    intro m hf
    exact run_serves (body := fun _ => sessClose v p.val sid) hv (isParked p.val sid) (sessClose_of_found hf)
  case truncate =>
    intro m hf
    exact ⟨fun hb => run_serves (body := fun _ => sessTruncate v p.val sid newL) hv never (sessTruncate_of_busy hf hb),
      fun hi hs => run_serves (body := fun _ => sessTruncate v p.val sid newL) hv never (sessTruncate_of_idle hf hi hs)⟩
  case status =>
    exact run_status (body := fun _ => sessStatus v p.val sid) hv hh hst (sessStatus_of_found hf)
  case staleClose =>
    refine run_serves (body := fun _ => sessClose v p.val sid) hv (isParked p.val sid) ?_
    rw [noteCommand_of_journal hj, sessClose_of_stale hf]
  case staleTruncate =>
    refine run_serves (body := fun _ => sessTruncate v p.val sid newL) hv never ?_
    rw [noteCommand_of_journal hj, sessTruncate_of_stale hf]

/-! ### Requests -/

section Submit
variable {v : Via} {p i : Nat} {r : ReqParams} {tokens : List Nat} {sv : Serve} {m : Mach}

/-- The lowest request entry that is free. -/
def freeReq (m : Mach) (p : Nat) : Nat := lowestFree (fun y => y.st == .free) 0 (part m p).srv.reqs

theorem enterRequest_of_stops (prompt : List Nat) (hs : r.stopLens.all (fun n => decide (n ≤ 16)) = true) :
    enterRequest v p i r prompt m =
      if freeReq m p < 4096 then openRequest v p i (freeReq m p) r prompt m else answer v .full m := by
  have hnone : r.stopLens.any (fun n => decide (16 < n)) = false := by
    rw [List.any_eq_false]
    intro n hn
    simpa using List.all_eq_true.1 hs n hn
  simp only [enterRequest, hnone, Bool.false_eq_true, if_false, ← Nat.not_lt, ite_not]
  rfl

theorem enterRequest_of_room (prompt : List Nat) (hs : r.stopLens.all (fun n => decide (n ≤ 16)) = true)
    (hj : freeReq m p < 4096) : enterRequest v p i r prompt m = openRequest v p i (freeReq m p) r prompt m :=
  (enterRequest_of_stops prompt hs).trans (if_pos hj)

/-- The acceptance of a counter leaves the requests as they are. -/
theorem freeReq_acceptCounter (c n : Nat) : freeReq (acceptCounter p c n m) p = freeReq m p := by
  simp only [freeReq, acceptCounter, part_onPart_same]

variable (hf : findSess m p r.session = some i) (hsv : serveOf m p = some sv)
include hf hsv

theorem reqSubmit_of_busy (h : (sess m p i).st ≠ .idle ∨ (sess m p i).req.isSome = true) :
    reqSubmit v p r tokens m = answer v .badState m := by
  simp only [reqSubmit, hf, hsv, if_pos h]

variable (hi : (sess m p i).st = .idle) (hq : (sess m p i).req = none)
include hi hq

theorem reqSubmit_of_bad (hb : submitBad m p sv (sess m p i) r = true) :
    reqSubmit v p r tokens m = answer v .range m := by
  simp [reqSubmit, hf, hsv, hi, hq, hb]

variable (hb : submitBad m p sv (sess m p i) r = false)
include hb

theorem reqSubmit_of_journal (hj : v.caller = .journal) :
    reqSubmit v p r tokens m = enterRequest v p i r tokens m := by
  simp [reqSubmit, hf, hsv, hi, hq, hb, hj]

variable (hj : v.caller ≠ .journal)
include hj

theorem reqSubmit_of_clear (hc : (sess m p i).channel = none) :
    reqSubmit v p r tokens m =
      enterRequest v p i r (wordsOf r.promptLen (peeks m.mem.host r.promptAddr (4 * r.promptLen))) m := by
  simp [reqSubmit, hf, hsv, hi, hq, hb, hj, hc]

variable {c : Nat} (hc : (sess m p i).channel = some c)
include hc

theorem reqSubmit_of_rejected (he : openEnvelope m (tget {} (part m p).sec.channels c) r = none) :
    reqSubmit v p r tokens m = answer v .denied (bump .secEnvReject (iPart p) m) := by
  simp only [reqSubmit, hf, hsv, hi, hq, hb, hc, he, if_neg hj, ne_eq, not_true_eq_false, Option.isSome_none,
    Bool.false_eq_true, or_self, if_false]

theorem reqSubmit_of_envelope {n : Nat} {l : List Byte}
    (he : openEnvelope m (tget {} (part m p).sec.channels c) r = some (n, l)) :
    reqSubmit v p r tokens m =
      enterRequest v p i (withStops r l) (wordsOf r.promptLen (l.drop 648)) (acceptCounter p c n m) := by
  simp only [reqSubmit, hf, hsv, hi, hq, hb, hc, he, if_neg hj, ne_eq, not_true_eq_false, Option.isSome_none,
    Bool.false_eq_true, or_self, if_false]

end Submit

section Cancel
variable {v : Via} {p i rid : Nat} {m : Mach} (hf : findReq m p rid = some i)
include hf

theorem reqCancel_of_free (h : (req m p i).st = .free) : reqCancel v p rid m = answer v .badState m := by
  simp only [reqCancel, hf, if_pos h]

theorem reqCancel_of_over (h : (req m p i).st ≠ .free) (he : (req m p i).ended = true ∨ (req m p i).cancel = true) :
    reqCancel v p rid m = answer v .ok m := by
  simp only [reqCancel, hf, if_neg h, if_pos he]

/-- A request that runs ends CANCELLED; one that has committed nothing leaves the context as it was (R590 to R595). -/
theorem reqCancel_of_open (h : (req m p i).st ≠ .free) (he : (req m p i).ended = false)
    (hc : (req m p i).cancel = false) :
    let r := req m p i
    let n := onReq p i (fun x => { x with cancel := true })
      (onSrv p (fun x => { x with mask := (slotsOfReq m p i).foldr insertNat x.mask }) m)
    let early := (r.st == .queued || r.st == .prefill) && r.tokens == [] && (sess n p r.sess).again == []
    reqCancel v p rid m = answer v .ok (endRequest p i none 0 0 2 (if early = true then
      onSess p r.sess (fun x => { x with len := r.baseLen, log := x.log.take r.baseLen }) n else n)) := by
  simp only [reqCancel, hf, if_neg h, he, hc, Bool.false_eq_true, or_self, if_false]

theorem reqStatus_of_found :
    let r := req m p i
    reqStatus v p rid m = complete v .ok 0 (.fields [("STATE", r.st.ctorIdx), ("STATUS", reqStatusOf r), ("SEQ", r.seq)
      , ("CTX_LEN", (sess m p r.sess).len)]) m := by
  simp only [reqStatus, hf]

end Cancel

/-- Settles O39: a request by where its prompt comes from and what stands against it, its cancellation and its status. -/
theorem requestCommandsResult : Obligations.RequestCommandsResult := by
  refine ⟨fun s v p r tokens i sv hv => ?submit, fun s v p rid i hv => ?cancel, fun s v p rid i hv hh hst hf => ?status⟩
  case submit =>
    intro m x k j hf hsv
    have hrun {n : Mach} (h : reqSubmit v p.val r tokens m = n) : exec (.reqSubmit v p r tokens) s = nextMach s n :=
      run_serves (body := fun _ => reqSubmit v p.val r tokens) hv never h
    exact ⟨fun h => hrun (reqSubmit_of_busy hf hsv h), fun hi hq hb => hrun (reqSubmit_of_bad hf hsv hi hq hb),
      fun c hi hq hb hc hj he => hrun (reqSubmit_of_rejected hf hsv hi hq hb hj hc he),
      fun hi hq hb hc hj hs =>
        hrun ((reqSubmit_of_clear hf hsv hi hq hb hj hc).trans (enterRequest_of_stops _ hs)),
      fun c n l hi hq hb hc hj he hs hfree => hrun ((reqSubmit_of_envelope hf hsv hi hq hb hj hc he).trans
        ((enterRequest_of_room _ hs (Nat.lt_of_le_of_lt (Nat.le_of_eq (freeReq_acceptCounter c n)) hfree)).trans
          (by rw [freeReq_acceptCounter]; rfl))),
      fun hi hq hb hj hs hfree =>
        hrun ((reqSubmit_of_journal hf hsv hi hq hb hj).trans (enterRequest_of_room _ hs hfree))⟩
  case cancel =>
    intro m r hf
    have hrun {n : Mach} (h : reqCancel v p.val rid m = n) : exec (.reqCancel v p rid) s = nextMach s n :=
      run_serves (body := fun _ => reqCancel v p.val rid) hv never h
    exact ⟨fun h => hrun (reqCancel_of_free hf h), fun h he => hrun (reqCancel_of_over hf h he),
      fun h he hc => hrun (reqCancel_of_open hf h he hc)⟩
  case status =>
    exact run_status (body := fun _ => reqStatus v p.val rid) hv hh hst (reqStatus_of_found hf)

/-! ### Park and unpark -/

section Park
variable {fz : Fuses} {v : Via} {p sid i dest : Nat} {blocks : List Nat} {m : Mach} (hf : findSess m p sid = some i)
include hf

theorem park_of_busy (h : (sess m p i).st ≠ .idle ∨ swapping m p = true) :
    park v p sid dest blocks fz m = answer v .badState m := by
  simp only [park, hf, if_pos h]

variable (hi : (sess m p i).st = .idle) (hs : swapping m p = false)
include hi hs

theorem park_of_cold (hd : dest = 0) (hc : m.pwr.cistern = 3) :
    park v p sid dest blocks fz m = answer v .ioError m := by
  simp [park, hf, hi, hs, hd, hc]

variable (hc : ¬(dest = 0 ∧ m.pwr.cistern = 3))
include hc

theorem park_of_no_room (hr : parkRoom m p dest blocks = false) :
    park v p sid dest blocks fz m = answer v .noSpace m := by
  simp only [park, hf, hi, hs, if_neg hc, hr, ne_eq, not_true_eq_false, Bool.false_eq_true, or_self, if_false,
    Bool.not_false, if_true]

theorem park_of_low (hr : parkRoom m p dest blocks = true) (hd : dest = 0) (hl : reserveOk m (.park p sid) = false) :
    park v p sid dest blocks fz m = answer v .holdupLow (bump .pwrHoldupLow iModule m) := by
  have hlow : dest = 0 ∧ reserveOk m (.park p sid) = false := ⟨hd, hl⟩
  simp only [park, hf, hi, hs, if_neg hc, hr, if_pos hlow, ne_eq, not_true_eq_false, Bool.false_eq_true, or_self,
    if_false, Bool.not_true]

theorem park_of_room (hr : parkRoom m p dest blocks = true) (hl : ¬(dest = 0 ∧ reserveOk m (.park p sid) = false)) :
    let x := sess m p i
    let img : Image := { len := x.len, chain := x.chain, log := x.log, members := []
                         program := ((planOf m p).map (fun pl => pl.digest)).getD 0, wset := wsetOf m p
                         dest := dest, blocks := blocks }
    let n := askMembers fz p v (onSess p i (fun s => { s with
      st := .parking, writing := some img, via := some v, noResp := false }) m)
    park v p sid dest blocks fz m = if dest = 0 then askCommit (.park p sid) n else n := by
  simp only [park, hf, hi, hs, if_neg hc, hr, if_neg hl, ne_eq, not_true_eq_false, Bool.false_eq_true, or_self,
    if_false, Bool.not_true]

end Park

section ParkCommit
variable {p sid i : Nat} {members : List Digest} {img : Image} {m : Mach} (hf : findSess m p sid = some i)
  (hw : (sess m p i).writing = some img)
include hf hw

theorem parkCommit_of_awaits (ha : awaits m p i = true) : parkCommit p sid members m = m := by
  simp only [parkCommit, hf, hw, ha, or_true, if_true]

variable (hst : (sess m p i).st = .parking) (hr : img.dest ≠ 0 ∨ commitReady m (.park p sid) = true)
  (ha : awaits m p i = false)
include hst hr ha

omit hf hw in
/-- Nothing keeps a park from its commit any more. -/
theorem commit_due : ¬((sess m p i).st ≠ .parking ∨ (img.dest = 0 ∧ commitReady m (.park p sid) = false)
    ∨ awaits m p i = true) := by
  rintro (h | ⟨hd, hc⟩ | h)
  · exact h hst
  · obtain hr | hr := hr
    · exact hr hd
    · rw [hr] at hc; cases hc
  · rw [ha] at h; cases h

theorem parkCommit_of_lost (hn : (sess m p i).noResp = true) :
    parkCommit p sid members m = loseSess p i .idle (if img.dest = 0 then endCommit m else m) := by
  simp only [parkCommit, hf, hw, if_neg (commit_due hst hr ha), hn, if_true]

theorem parkCommit_of_due (hn : (sess m p i).noResp = false) :
    let d := sha256 (members.flatMap digestBytes)
    let n := if img.dest = 0 then endCommit (onPart p (fun q => { q with dirty := [] }) m) else m
    parkCommit p sid members m = answerSess p i .ok (.bytes (digestBytes d)) (bump .srvParks (iPart p)
      (onSess p i (fun s => { s with
        st := .parked, digest := d, image := some { img with members := members }, writing := none, log := [] }) n)) := by
  simp only [parkCommit, hf, hw, if_neg (commit_due hst hr ha), hn, Bool.false_eq_true, if_false]

end ParkCommit

section Unpark
variable {fz : Fuses} {v : Via} {p sid i : Nat} {program wset : Digest} {m : Mach} (hf : findSess m p sid = some i)
include hf

theorem unpark_of_busy (h : (sess m p i).st ≠ .parked ∨ swapping m p = true) :
    unpark v p sid program wset fz m = answer v .badState m := by
  simp only [unpark, hf, if_pos h]

theorem unpark_of_parked (hst : (sess m p i).st = .parked) (hs : swapping m p = false) :
    unpark v p sid program wset fz m =
      if program = ((planOf m p).map (fun pl => pl.digest)).getD 0 ∧ wset = wsetOf m p then
        askMembers fz p v (onSess p i (fun s => { s with st := .unparking, via := some v, noResp := false }) m)
      else answer v .planMismatch m := by
  simp only [unpark, hf, hst, hs, ne_eq, not_true_eq_false, Bool.false_eq_true, or_self, if_false,
    ← Classical.not_and_iff_not_or_not, ite_not]

end Unpark

section UnparkCheck
variable {p sid i : Nat} {readable : Bool} {members : List Digest} {img : Image} {m : Mach}
  (hf : findSess m p sid = some i) (hw : (sess m p i).image = some img) (hst : (sess m p i).st = .unparking)
  (ha : awaits m p i = false)
include hf hw hst ha

theorem unparkCheck_of_lost (hn : (sess m p i).noResp = true) :
    unparkCheck p sid readable members m = loseSess p i .parked m := by
  simp only [unparkCheck, hf, hw, hst, ha, hn, ne_eq, not_true_eq_false, Bool.false_eq_true, or_self, if_false, if_true]

variable (hn : (sess m p i).noResp = false)
include hn

/-- The command that waits completes, and the session stays PARKED. -/
def unparkFails (p i : Nat) (st : Status) (m : Mach) : Mach :=
  answerSess p i st .empty (onSess p i (fun s => { s with st := .parked }) m)

theorem unparkCheck_of_unreadable (hr : readable = false ∨ (img.dest = 0 ∧ m.pwr.cistern = 3)) :
    unparkCheck p sid readable members m = unparkFails p i .ioError m := by
  have hbad : (!readable || (img.dest == 0 && m.pwr.cistern == 3)) = true := by
    obtain h | ⟨hd, hc⟩ := hr
    · simp [h]
    · simp [hd, hc]
  simp only [unparkCheck, hf, hw, hst, ha, hn, hbad, ne_eq, not_true_eq_false, Bool.false_eq_true, or_self, if_false,
    if_true, unparkFails]

/-- An image that can be read is compared with what was recorded (R601, R603). -/
theorem unparkCheck_of_readable (hr : readable = true) (hd : img.dest ≠ 0 ∨ m.pwr.cistern ≠ 3) :
    let n := fetchRead p 2 (4096 * img.blocks.headD 0) (draw m).1 (members.getLastD 0) (draw m).2
    unparkCheck p sid readable members m =
      if members = img.members ∧ sha256 (members.flatMap digestBytes) = (sess n p i).digest then
        answerSess p i .ok (.fields [("L", img.len)]) (bump .srvUnparks (iPart p) (onSess p i (fun s => { s with
          st := .idle, len := img.len, chain := img.chain, log := img.log }) n))
      else unparkFails p i .digestMismatch (bump .srvDigestFail (iPart p) n) := by
  have hbad : (!readable || (img.dest == 0 && m.pwr.cistern == 3)) = false := by
    obtain h | h := hd <;> simp [hr, h]
  simp only [unparkCheck, hf, hw, hst, ha, hn, hbad, ne_eq, not_true_eq_false, Bool.false_eq_true, or_self, if_false,
    unparkFails, ← Classical.not_and_iff_not_or_not, ite_not]

end UnparkCheck

/-- Settles O40: a park and an unpark by what stands against them, and their ends. -/
theorem parkCommandsResult : Obligations.ParkCommandsResult := by
  refine ⟨fun s v p sid i dest blocks hv => ?park, fun s p sid i members img hf hw hst hr => ?commit,
    fun s v p sid i program wset hv => ?unpark, fun s p sid i readable members img hf hw hst ha => ?check⟩
  case park =>
    intro m x img n hf
    have hrun {l : Mach} (h : park v p.val sid dest.val blocks s.fuses m = l) :
        exec (.park v p sid dest blocks) s = nextMach s l :=
      run_serves (body := park v p.val sid dest.val blocks) hv never h
    refine ⟨fun h => hrun (park_of_busy hf h), fun hi hs => ⟨fun hd hc => hrun (park_of_cold hf hi hs hd hc),
      fun hd => ?_⟩⟩
    have hc : ¬(dest.val = 0 ∧ m.pwr.cistern = 3) := by
      rintro ⟨h0, h3⟩
      exact hd.elim (fun h1 => by rw [h0] at h1; cases h1) (fun h => h h3)
    refine ⟨fun hr => hrun (park_of_no_room hf hi hs hc hr), fun hr hd hl => hrun (park_of_low hf hi hs hc hr hd hl),
      fun hr hl => hrun (park_of_room hf hi hs hc hr ?_)⟩
    rintro ⟨h0, hlow⟩
    obtain h1 | hok := hl
    · rw [h0] at h1; cases h1
    · rw [hok] at hlow; cases hlow
  case commit =>
    exact ⟨fun ha => congrArg (nextMach s) (parkCommit_of_awaits hf hw ha),
      fun ha hn => congrArg (nextMach s) (parkCommit_of_lost hf hw hst hr ha hn),
      fun ha hn => congrArg (nextMach s) (parkCommit_of_due hf hw hst hr ha hn)⟩
  case unpark =>
    intro m hf
    exact ⟨fun h => run_serves (body := unpark v p.val sid program wset) hv never (unpark_of_busy hf h),
      fun hst hs => run_serves (body := unpark v p.val sid program wset) hv never (unpark_of_parked hf hst hs)⟩
  case check =>
    refine ⟨fun hn => congrArg (nextMach s) (unparkCheck_of_lost hf hw hst ha hn), fun hn =>
      ⟨fun hr => congrArg (nextMach s) (unparkCheck_of_unreadable hf hw hst ha hn hr), fun hr hd hg => ?_, fun hr hd hg => ?_⟩⟩
    · exact congrArg (nextMach s) ((unparkCheck_of_readable hf hw hst ha hn hr hd).trans (if_neg hg))
    · exact congrArg (nextMach s) ((unparkCheck_of_readable hf hw hst ha hn hr hd).trans (if_pos hg))

/-! ### Serving events -/

section Events
variable {fz : Fuses} {p i rid : Nat} {m : Mach}

theorem commitPoint_of_due {block : List Candidate} {sv : Serve} (hsv : serveOf m p = some sv) (hh : sv.home = true)
    (hs : stepping m p = true) (hc : (part m p).srv.commitStep ≠ some (part m p).step) :
    let n := (part m p).step
    let l := block.foldl (commitOne p n sv.maxCtx sv.draftK) (writeDue fz p m)
    commitPoint p block fz m = sealAt p (n + sv.lead) sv (onSrv p (fun x => { x with commitStep := some n })
      ((openReqs l p).foldl (fun m i => toDecode p i m) l)) := by
  have hdue : (!sv.home || !stepping m p || (part m p).srv.commitStep == some (part m p).step) = false := by
    simp [hh, hs, hc]
  simp only [commitPoint, hsv, hdue, Bool.false_eq_true, if_false]

theorem commitPoint_of_not_due {block : List Candidate} {sv : Serve} (hsv : serveOf m p = some sv)
    (h : sv.home = false ∨ stepping m p = false ∨ (part m p).srv.commitStep = some (part m p).step) :
    commitPoint p block fz m = m := by
  have hdue : (!sv.home || !stepping m p || (part m p).srv.commitStep == some (part m p).step) = true := by
    obtain h | h | h := h <;> simp [h]
  simp only [commitPoint, hsv, hdue, if_true]

theorem manifestReceive_of_new {f : Manifest} {wall : Nat} (hsv : (serveOf m p).isSome = true)
    (hg : (part m p).srv.got.any (fun g => g.step == f.step) = false) :
    let n := onSrv p (fun x => { x with got := x.got ++ [f] }) m
    manifestReceive p f wall m = if f.step = (part m p).step then
      clearCause p wall (fun c => c.code == 1 && c.desc == 0xFFFFFF) n else n := by
  have hnone : (serveOf m p).isNone = false := by rw [← Option.not_isSome, hsv]; rfl
  simp only [manifestReceive, hnone, hg, Bool.false_eq_true, or_self, if_false, onSrv, part_onPart_same]

theorem layerBoundary_of_serve {cycle : Nat} {sv : Serve} (hsv : serveOf m p = some sv) :
    layerBoundary p cycle m = if stepping m p = true ∧ sv.rungs.any (fun r => r.variant == (part m p).variant
        && r.bounds.any (fun l => l.contains cycle)) = true then
      onSrv p (fun x => { x with masked := x.mask }) m
    else m := by
  simp only [layerBoundary, hsv, Bool.and_eq_true]

theorem outputRecordWrite_of_found (hf : findReq m p rid = some i) :
    outputRecordWrite p rid fz m = writeWaiting fz p i (req m p i).out.length m := by
  simp only [outputRecordWrite, hf]

/-- The first waiting record of a request written (R583, R585). -/
theorem writeRecord_of_waiting {o : OutRec} {l : List OutRec} (ho : (req m p i).out = o :: l) :
    let r := req m p i
    let w := onReq p i (fun x => { x with
      out := l, st := if l = [] ∧ x.st = .outWait ∧ x.ended = false then .decode else x.st }) (putRecord p i o m)
    let full := decide (o.seq + 1 = consumed w r.par.ringAddr + r.par.ringEntries - 16)
    let n := if o.last then afterLast fz p i o w else w
    writeRecord fz p i m = if (bitAt r.par.rflags 1 && (o.last || full)) = true then interrupt p 1 n else n := by
  simp only [writeRecord, ho]

theorem hasRoom_of_waiting {r : Req} {o : OutRec} {l : List OutRec} (ho : r.out = o :: l) :
    hasRoom m r = decide (o.seq < consumed m r.par.ringAddr + r.par.ringEntries) := by
  simp only [hasRoom, ho]

end Events

/-- Settles O41: a commit point, a manifest, a layer boundary, and the records of a request. -/
theorem servingEventsResult : Obligations.ServingEventsResult := by
  refine ⟨fun s p block sv hsv => ⟨fun hh hs hc => congrArg (nextMach s) (commitPoint_of_due hsv hh hs hc),
      fun h => congrArg (nextMach s) (commitPoint_of_not_due hsv h)⟩,
    fun s p f wall hsv hg => congrArg (nextMach s) (manifestReceive_of_new hsv hg),
    fun s p cycle sv hsv => congrArg (nextMach s) (layerBoundary_of_serve hsv),
    fun s p rid i o l hf ho => ?records, fun s p rid i hf ho => ?none⟩
  case records =>
    have hrun := outputRecordWrite_of_found (fz := s.fuses) hf
    rw [ho, List.length_cons, writeWaiting, hasRoom_of_waiting ho] at hrun
    intro r room m full n
    refine ⟨fun hr => congrArg (nextMach s) (hrun.trans (if_neg ?_)), fun hr => congrArg (nextMach s) (hrun.trans ?_)⟩
    · rw [decide_eq_true_eq]
      exact Nat.not_lt.2 hr
    · rw [if_pos (decide_eq_true hr), writeRecord_of_waiting ho]
  case none =>
    refine congrArg (nextMach s) ((outputRecordWrite_of_found hf).trans ?_)
    rw [ho]
    rfl

end Sys2Proof.Machine
end

section
/-! Proofs about the weights (14): the commands that begin, change and end a job; the settlement of O42. -/

namespace Sys2Proof.Machine

variable {v : Via} {p : Nat} {m : Mach}

/-! ### Commands that begin a job -/

section Begin
variable {w : WPayload} {x : WManifest}

theorem weightsFetch_of_busy (h : ((part m p).st ≠ .loaded ∧ (part m p).st ≠ .stopped) ∨ weightsBusy m p = true) :
    weightsFetch v p w x m = answer v .badState m := by
  simp only [weightsFetch, if_pos h]

section Fetch
variable (hst : (part m p).st = .loaded ∨ (part m p).st = .stopped) (hb : weightsBusy m p = false)
include hst hb

/-- What `weightsFetch` goes on with where its partition may fetch. -/
theorem fetch_allowed : ¬(((part m p).st ≠ .loaded ∧ (part m p).st ≠ .stopped) ∨ weightsBusy m p = true) := by
  rw [hb]
  rintro (⟨hl, hs⟩ | h)
  · exact hst.elim hl hs
  · cases h

theorem weightsFetch_of_range (hw : payloadOk (part m p) false w = false) :
    weightsFetch v p w x m = answer v .range m := by
  simp only [weightsFetch, if_neg (fetch_allowed hst hb), hw, Bool.not_false, if_true]

theorem weightsFetch_of_rejected {st : Status} (hw : payloadOk (part m p) false w = true)
    (hc : checkManifest m p w x = some st) : weightsFetch v p w x m = answer v st m := by
  simp only [weightsFetch, if_neg (fetch_allowed hst hb), hw, hc, Bool.not_true, Bool.false_eq_true, if_false]

theorem weightsFetch_of_good (hw : payloadOk (part m p) false w = true) (hc : checkManifest m p w x = none) :
    let q := part m p
    let same := q.wgt.cur == some x && q.wgt.mkey == w.mkey && q.wgt.phase == 0
    let ok := if same then q.wgt.verified else []
    let j : Job := { man := x, pay := w, via := v, chunks := ok.map (fun i => (i, { issued := true, ok := true }))
                     bucket := bucketDepth w.rateCap, at_ := m.clk.wall }
    weightsFetch v p w x m = maybeDone p (onWgt p (fun y => { y with
      st := 1, phase := 0, groups := 0, mkey := w.mkey, digest := x.wset, cur := some x, verified := ok
      total := x.entries.length, done := ok.length, maxOut := w.maxOut, rateCap := w.rateCap, job := some j }) m) := by
  simp only [weightsFetch, if_neg (fetch_allowed hst hb), hw, hc, Bool.not_true, Bool.false_eq_true, if_false]

end Fetch

theorem weightsStage_of_busy (h : (part m p).st = .empty ∨ weightsBusy m p = true) :
    weightsStage v p w x m = answer v .badState m := by
  simp only [weightsStage, if_pos h]

theorem weightsStage_of_good (hst : (part m p).st ≠ .empty) (hb : weightsBusy m p = false)
    (hw : payloadOk (part m p) true w = true) (hc : checkManifest m p w x = none) :
    let j : Job := { man := x, pay := w, via := v, bucket := bucketDepth w.rateCap, at_ := m.clk.wall }
    weightsStage v p w x m =
      if w.destLen * (if w.dest = 0 then 4096 else 1) < totalBytes x then answer v .noSpace m
      else onWgt p (fun y => { y with
        stage := 1, staged := none, total := x.entries.length, done := 0, maxOut := w.maxOut, rateCap := w.rateCap
        job := some j }) m := by
  simp only [weightsStage, hst, hb, hw, hc, Bool.not_true, Bool.false_eq_true, or_self, if_false]

end Begin

/-! ### The swap -/

section Swap
variable {barrier ctx : Nat} {sv : Serve} {y : WManifest × WPayload} (hsv : serveOf m p = some sv)
  (hy : (part m p).wgt.staged = some y) (hh : sv.home = true) (hst : (part m p).st = .running)
  (hg : (part m p).wgt.stage = 2)
  (hm : (part m p).srv.sess.any (fun z => z.2.st == .parking || z.2.st == .unparking) = false)
  (hb : weightsBusy m p = false) (hbar : barrier < 2 ^ 48) (hctx : ctx ≤ 1)
  (hs : ((part m p).wgt.cur.map (sameShape y.1)).getD false = true) (hj : journalRefuses m p v = false)
  (hv : v.caller ≠ .journal)
include hsv hy hh hst hg hm hb hbar hctx hs hj hv

/-- A swap of weights that are staged takes effect at its barrier, or at the first step that is not sealed. -/
theorem weightsSwap_of_first (hp : (part m p).wgt.phase ≠ 2) :
    weightsSwap v p barrier ctx m = onWgt p (fun w => { w with
      swap := some v, ctx := ctx, barrier := max barrier (firstUnsealed m p sv.lead), groups := 0 }) m := by
  have hr : ¬(2 ^ 48 ≤ barrier ∨ 1 < ctx) := by omega
  have hx : max barrier (firstUnsealed m p sv.lead) =
      if barrier < firstUnsealed m p sv.lead then firstUnsealed m p sv.lead else barrier := by
    split <;> omega
  simp only [weightsSwap, hsv, hy, hh, hst, hg, hm, hb, hs, hj, hx, if_neg hr, if_neg hp, if_neg hv, ne_eq,
    not_true_eq_false, decide_false, Bool.not_true, Bool.or_self, Bool.false_eq_true, if_false]

/-- A swap whose layer groups are under way takes up those that failed (R632). -/
theorem weightsSwap_of_groups (hp : (part m p).wgt.phase = 2) :
    weightsSwap v p barrier ctx m = againGroups (onWgt p (fun w => { w with swap := some v, ctx := ctx })
      (journalCommand p 0x403 (payloadOf m v) (stepNow m p) (posNow m p) m)) p := by
  have hr : ¬(2 ^ 48 ≤ barrier ∨ 1 < ctx) := by omega
  simp only [weightsSwap, hsv, hy, hh, hst, hg, hm, hb, hs, hj, if_neg hr, if_pos hp, if_neg hv, ne_eq,
    not_true_eq_false, decide_false, Bool.not_true, Bool.or_self, Bool.false_eq_true, if_false]

end Swap

/-! ### Commands on a job -/

section OnJob

theorem weightsPace_of_none {a b : Nat} (h : (part m p).wgt.job = none) :
    weightsPace v p a b m = answer v .badState m := by
  simp only [weightsPace, h]

theorem weightsAbort_of_none (h : (part m p).wgt.job = none) : weightsAbort v p m = answer v .badState m := by
  simp only [weightsAbort, h]

theorem weightsPace_of_job {a b : Nat} {j : Job} (h : (part m p).wgt.job = some j) :
    weightsPace v p a b m = if paceOk a b = true then
        answer v .ok (onWgt p (fun w => { w with
          maxOut := a, rateCap := b
          job := some { (j.fill (part m p).wgt.rateCap m.clk.wall) with
            bucket := min (j.fill (part m p).wgt.rateCap m.clk.wall).bucket (bucketDepth b) } }) m)
      else answer v .range m := by
  have hmin (x y : Nat) : min x y = if x < y then x else y := by split <;> omega
  simp only [weightsPace, h, hmin]
  cases paceOk a b <;> rfl

theorem weightsAbort_of_job {j : Job} (h : (part m p).wgt.job = some j) :
    weightsAbort v p m = answer v .ok (endJob p j none .aborted m) := by
  simp only [weightsAbort, h]

end OnJob

/-- Settles O42: each weight command by the state of its partition, its range and its manifest. -/
theorem weightsCommandsResult : Obligations.WeightsCommandsResult := by
  refine ⟨fun s v p w x => ⟨fun hv => ?fetch, fun hv => ?stage⟩, fun s v p barrier ctx sv y hv => ?swap,
    fun s v p hj => ⟨fun a b hv =>
        run_plain hv (weightsPace_of_none hj),
      fun hv => run_plain hv (weightsAbort_of_none hj)⟩,
    fun s v p j hj => ⟨fun a b hv =>
        run_plain hv (weightsPace_of_job hj),
      fun hv => run_plain hv (weightsAbort_of_job hj)⟩,
    fun s v p hv => run_plain hv rfl,
    fun s v p t addr service nqn hv => run_plain hv rfl⟩
  case fetch =>
    exact ⟨fun h => run_plain hv (weightsFetch_of_busy h), fun hst hb =>
      ⟨fun hw => run_plain hv (weightsFetch_of_range hst hb hw),
        fun st hw hc => run_plain hv (weightsFetch_of_rejected hst hb hw hc),
        fun hw hc => run_plain hv (weightsFetch_of_good hst hb hw hc)⟩⟩
  case stage =>
    exact ⟨fun h => run_plain hv (weightsStage_of_busy h),
      fun hst hb hw hc => run_plain hv (weightsStage_of_good hst hb hw hc)⟩
  case swap =>
    intro q hsv hy hh hst hg hm hb hbar hctx hs hj
    exact ⟨fun hp hc => run_plain hv (weightsSwap_of_first hsv hy hh hst hg hm hb hbar hctx hs hj hc hp),
      fun hp hc => run_plain hv (weightsSwap_of_groups hsv hy hh hst hg hm hb hbar hctx hs hj hc hp)⟩

end Sys2Proof.Machine
end

section
/-! Proofs about the chunks of a job of the weights (14): the settlement of O43. -/

namespace Sys2Proof.Machine

variable {fz : Fuses} {p i : Nat} {m : Mach}

/-! ### A chunk is issued -/

theorem chunkIssue_of_next {j : Job} {e : WEntry} (hj : (part m p).wgt.job = some j)
    (hi : (List.range j.man.entries.length).find? (fun i => !(tget {} j.chunks i).issued) = some i)
    (he : j.man.entries[i]? = some e) :
    let w := (part m p).wgt
    let b := (j.fill w.rateCap m.clk.wall).bucket
    let k : Job := { j.fill w.rateCap m.clk.wall with
      out := j.out + e.length, bucket := if w.rateCap = 0 then b else b - 1000 * e.length
      chunks := tmod {} j.chunks i (fun c => { c with issued := true }) }
    chunkIssue p m = if w.maxOut < j.out + e.length ∨ (w.rateCap ≠ 0 ∧ b < 1000 * e.length) then m
      else sendReads e (onWgt p (fun w => { w with job := some k }) m) := by
  simp only [chunkIssue, hj, hi, he]
  rfl

/-! ### A chunk of the fetch or the stage arrives -/

/-- A chunk of a job that is awaited is checked where its gateway takes it. -/
theorem chunkArrives_of_job {j : Job} {e : WEntry} {cipher : List Byte} (hj : (part m p).wgt.job = some j)
    (he : j.man.entries[i]? = some e) (hi : (tget {} j.chunks i).issued = true) (ho : (tget {} j.chunks i).ok = false)
    (hl : (chunkBytes m e cipher).length = e.length)
    (hg : gatewayFree m (chunkDie m p (decide ((part m p).wgt.stage = 1)) e) = true) :
    chunkArrives p i cipher fz m = verifyJob fz p i j e (chunkBytes m e cipher) m := by
  simp only [chunkArrives, hj, he, hi, ho, hl, hg, Bool.not_false, Bool.and_true, beq_self_eq_true, if_true]

/-- A chunk of OVERWRITE that is awaited is checked where its gateway takes it. -/
theorem chunkArrives_of_swap {x : WManifest} {w : WPayload} {e : WEntry} {cipher : List Byte}
    (hj : (part m p).wgt.job = none) (he : swapEntry m p i = some (x, w, e))
    (hg : gatewayFree m (chunkDie m p false e) = true) :
    chunkArrives p i cipher fz m = verifySwap fz p i x w e m := by
  simp only [chunkArrives, hj, he, if_pos hg]

section VerifyJob
variable {j : Job} {e : WEntry} {l : List Byte}

/-- The machine with the chunk of entry `i` written, and whether the write was made. -/
def chunkWritten (fz : Fuses) (p i : Nat) (j : Job) (e : WEntry) (l : List Byte) (m : Mach) : Mach × Bool :=
  if decide ((part m p).wgt.stage = 1) = true then (stageChunk p j i l m, true)
  else placeChunk fz p e (openChunk (tget {} (part m p).sec.models j.pay.mkey) j.man e l).2 m

/-- The machine once the checks of a chunk are counted and its bytes are no longer out. -/
def chunkCounted (fz : Fuses) (p i : Nat) (j : Job) (e : WEntry) (l : List Byte) (m : Mach) : Mach :=
  let y := openChunk (tget {} (part m p).sec.models j.pay.mkey) j.man e l
  countFails p e y.1 y.2 (onWgt p (fun w => { w with job := w.job.map (fun j => { j with out := j.out - e.length }) })
    (chunkWritten fz p i j e l m).1)

/-- What the checks of a chunk say. -/
def chunkVerdict (p : Nat) (j : Job) (e : WEntry) (l : List Byte) (m : Mach) : Option Status :=
  let y := openChunk (tget {} (part m p).sec.models j.pay.mkey) j.man e l
  chunkFails e y.1 y.2

theorem verifyJob_of_ok (hw : (chunkWritten fz p i j e l m).2 = true) (hf : chunkVerdict p j e l m = none) :
    verifyJob fz p i j e l m = maybeDone p (onWgt p (fun w => { w with
        done := w.done + 1
        verified := if decide ((part m p).wgt.stage = 1) = true then w.verified else insertNat i w.verified })
      (bump .wgtChunks (iPart p) (onChunk p i (fun c => { c with ok := true }) (chunkCounted fz p i j e l m)))) := by
  unfold chunkWritten at hw; unfold chunkVerdict at hf; unfold verifyJob
  simp only [hw, hf, Bool.not_true, Bool.false_eq_true, if_false]
  rfl

theorem verifyJob_of_failed {st : Status} (hw : (chunkWritten fz p i j e l m).2 = true)
    (hf : chunkVerdict p j e l m = some st) :
    verifyJob fz p i j e l m = if (tget {} j.chunks i).again = true then
        endJob p j (some i) st (chunkCounted fz p i j e l m)
      else onChunk p i (fun c => { c with issued := false, again := true }) (chunkCounted fz p i j e l m) := by
  unfold chunkWritten at hw; unfold chunkVerdict at hf; unfold verifyJob
  simp only [hw, hf, Bool.not_true, Bool.false_eq_true, Bool.true_eq_false,
    or_false, if_false]
  rfl

theorem verifyJob_of_unwritten (hw : (chunkWritten fz p i j e l m).2 = false) :
    verifyJob fz p i j e l m = endJob p j (some i) .ioError (chunkCounted fz p i j e l m) := by
  unfold chunkWritten at hw; unfold verifyJob
  simp only [hw, Bool.not_false, if_true, or_true]
  rfl

end VerifyJob

/-! ### A chunk of OVERWRITE arrives -/

section VerifySwap
variable {x : WManifest} {w : WPayload} {e : WEntry}

/-- What a chunk of OVERWRITE holds once opened. -/
def swapOpened (p i : Nat) (x : WManifest) (w : WPayload) (e : WEntry) (m : Mach) : Bool × List Byte :=
  openChunk (tget {} (part m p).sec.models w.mkey) x e (stagedBytes m p x w i e.length)

/-- The machine once the checks of a chunk of OVERWRITE are counted. -/
def swapCounted (fz : Fuses) (p i : Nat) (x : WManifest) (w : WPayload) (e : WEntry) (m : Mach) : Mach :=
  countFails p e (swapOpened p i x w e m).1 (swapOpened p i x w e m).2
    (placeChunk fz p e (swapOpened p i x w e m).2 m).1

theorem verifySwap_of_ok (hw : (placeChunk fz p e (swapOpened p i x w e m).2 m).2 = true)
    (hf : chunkFails e (swapOpened p i x w e m).1 (swapOpened p i x w e m).2 = none) :
    verifySwap fz p i x w e m = bump .wgtChunks (iPart p) (onWgt p (fun w => { w with
        done := w.done + 1, verified := insertNat i w.verified }) (swapCounted fz p i x w e m)) := by
  unfold swapOpened at hw hf; unfold verifySwap
  simp only [hw, hf, Bool.not_true, Bool.false_eq_true, if_false]
  rfl

theorem verifySwap_of_failed {st : Status} (hw : (placeChunk fz p e (swapOpened p i x w e m).2 m).2 = true)
    (hf : chunkFails e (swapOpened p i x w e m).1 (swapOpened p i x w e m).2 = some st) :
    verifySwap fz p i x w e m = swapFails p i st (swapCounted fz p i x w e m) := by
  unfold swapOpened at hw hf; unfold verifySwap
  simp only [hw, hf, Bool.not_true, Bool.false_eq_true, if_false]
  rfl

theorem verifySwap_of_unwritten (hw : (placeChunk fz p e (swapOpened p i x w e m).2 m).2 = false) :
    verifySwap fz p i x w e m = swapFails p i .ioError (swapCounted fz p i x w e m) := by
  unfold swapOpened at hw; unfold verifySwap
  simp only [hw, Bool.not_false, if_true]
  rfl

end VerifySwap

/-! ### A Read without completion, and the end of a layer group -/

theorem readTimeout_of_job {j : Job} {e : WEntry} (hj : (part m p).wgt.job = some j) (he : j.man.entries[i]? = some e)
    (hi : (tget {} j.chunks i).issued = true) (ho : (tget {} j.chunks i).ok = false) :
    readTimeout p i m = if (tget {} j.chunks i).retries < 3 then
        bump .wgtIoRetry (iPart p) (sendReads e (onChunk p i (fun c => { c with retries := c.retries + 1 }) m))
      else endJob p j (some i) .ioError m := by
  simp only [readTimeout, hj, he, hi, ho, Bool.not_true, Bool.or_self, Bool.false_eq_true, if_false]

theorem readTimeout_of_swap {e : WManifest × WPayload × WEntry} (hj : (part m p).wgt.job = none)
    (he : swapEntry m p i = some e) : readTimeout p i m = swapFails p i .ioError m := by
  simp only [readTimeout, hj, he]

/-- Every entry of the staged manifest that lies in the group is verified. -/
theorem group_verified {y : WManifest × WPayload}
    (ha : ∀ (i : Nat) (e : WEntry), y.1.entries[i]? = some e → (groupTensors m p).contains e.tensor = true →
      (part m p).wgt.verified.contains i = true) :
    (List.range y.1.entries.length).all (fun i =>
      match y.1.entries[i]? with
      | some e => !(groupTensors m p).contains e.tensor || (part m p).wgt.verified.contains i
      | none => true) = true := by
  refine List.all_eq_true.2 fun i _ => ?_
  cases he : y.1.entries[i]? with
  | none => rfl
  | some e =>
    change (!(groupTensors m p).contains e.tensor || (part m p).wgt.verified.contains i) = true
    cases hg : (groupTensors m p).contains e.tensor with
    | false => rfl
    | true => exact ha i e he hg

theorem layerGroupDone_of_verified {y : WManifest × WPayload} (hy : (part m p).wgt.staged = some y)
    (hp : (part m p).wgt.phase = 2) (hs : (part m p).wgt.st = 4) (hg : (part m p).wgt.groups < groupCount m p)
    (ha : ∀ (i : Nat) (e : WEntry), y.1.entries[i]? = some e → (groupTensors m p).contains e.tensor = true →
      (part m p).wgt.verified.contains i = true) :
    layerGroupDone p m = onWgt p (fun w => { w with groups := w.groups + 1, verified := [] }) m := by
  simp only [layerGroupDone, hy]
  refine if_neg ?_
  rintro (h | h | h | h)
  · exact h hp
  · exact h hs
  · exact Nat.not_le.2 hg h
  · exact Bool.false_ne_true (h.symm.trans (group_verified ha))

/-- Settles O43: each event of a job by the chunk that it names and what the checks of the chunk say. -/
theorem chunkEventsResult : Obligations.ChunkEventsResult := by
  refine ⟨fun s p j i e hj hi he => congrArg (nextMach s) (chunkIssue_of_next hj hi he),
    fun s p j i e cipher hj he hi ho hl => ?job, fun s p i x w e cipher hj he => ?swap,
    fun s p j i e hj he hi ho => congrArg (nextMach s) (readTimeout_of_job hj he hi ho),
    fun s p i e hj he => congrArg (nextMach s) (readTimeout_of_swap hj he), fun s p i cipher => rfl,
    fun s p y hy hp hst hg ha => congrArg (nextMach s) (layerGroupDone_of_verified hy hp hst hg ha)⟩
  case job =>
    intro l tagOk plain stage hg y n
    have hrun {n : Mach} (h : verifyJob s.fuses p.val i j e l s.mach = n) :
        exec (.chunkVerify p i true cipher) s = nextMach s n :=
      congrArg (nextMach s) ((chunkArrives_of_job hj he hi ho hl hg).trans h)
    exact ⟨fun hw hf => hrun (verifyJob_of_ok hw hf),
      fun st hw hf ha => hrun ((verifyJob_of_failed hw hf).trans (if_neg (by simp [ha]))),
      fun st hw hf ha => hrun ((verifyJob_of_failed hw hf).trans (if_pos ha)),
      fun hw => hrun (verifyJob_of_unwritten hw)⟩
  case swap =>
    intro k tagOk plain hg y n
    have hrun {n : Mach} (h : verifySwap s.fuses p.val i x w e s.mach = n) :
        exec (.chunkVerify p i true cipher) s = nextMach s n :=
      congrArg (nextMach s) ((chunkArrives_of_swap hj he hg).trans h)
    exact ⟨fun hw hf => hrun (verifySwap_of_ok hw hf), fun st hw hf => hrun (verifySwap_of_failed hw hf),
      fun hw => hrun (verifySwap_of_unwritten hw)⟩

end Sys2Proof.Machine
end

section
/-! Proofs about determinism (15): its commands and the truncation of a plan; the settlement of O44 and O45. -/

namespace Sys2Proof.Machine

variable {fz : Fuses} {v : Via} {p : Nat} {m : Mach}

/-! ### The journal and the replay -/

theorem detJournal_of_busy {dest : Option JDest} (h : quiet (part m p).st = false) :
    detJournal v p dest m = answer v .badState m := by
  simp only [detJournal, h, Bool.not_false, if_true]

theorem detJournal_of_none (h : quiet (part m p).st = true) :
    detJournal v p none m = answer v .ok (onDet p (fun x => { x with
      journal := false, dest := none, jfull := false, pending := [] }) m) := by
  simp only [detJournal, h, Bool.not_true, Bool.false_eq_true, if_false]

theorem detJournal_of_some {d : JDest} (h : quiet (part m p).st = true) :
    detJournal v p (some d) m = if jdestOk (part m p) d = true then
        answer v .ok (onDet p (fun x => { x with journal := true, dest := some d, pos := 0, jfull := false }) m)
      else answer v .range m := by
  simp only [detJournal, h, Bool.not_true, Bool.false_eq_true, if_false]
  cases jdestOk (part m p) d <;> rfl

theorem detReplay_of_busy {j : JHead} {pl : PlanImage} (hpl : (part m p).plan = some pl)
    (h : (part m p).st ≠ .loaded) : detReplay v p j fz m = answer v .badState m := by
  simp only [detReplay, hpl, if_pos h]

theorem detReplay_of_loaded {j : JHead} {pl : PlanImage} (hpl : (part m p).plan = some pl)
    (h : (part m p).st = .loaded) :
    detReplay v p j fz m = if j.program ≠ pl.digest then answer v .planMismatch m
      else if j.config ≠ configDigest fz m p then answer v .configMismatch m
      else if j.chainOk = false then answer v .journalInvalid m
      else answer v .ok (setSeed (part m p).dies j.seed (onDet p (fun x => { x with replay := some j }) m)) := by
  simp only [detReplay, hpl, h, ne_eq, not_true_eq_false, if_false, Bool.not_eq_true']

/-! ### The provenance rings and the truncation -/

theorem provConfig_eq {c : ProvCfg} :
    provConfig v p c m = if quiet (part m p).st = false then answer v .badState m
      else if provOk (part m p) c = false then answer v .range m
      else answer v .ok (onProv p (fun x => { x with cfg := some c }) m) := by
  simp only [provConfig, Bool.not_eq_true']

section Truncate
variable {t : TruncPayload}

/-- A point may be armed: none has passed or is settling, and its step has not begun (R665). -/
abbrev pointOpen (m : Mach) (p : Nat) (t : TruncPayload) : Prop :=
  (part m p).det.trunc < 2 ∧ ((part m p).st = .loaded ∨ (part m p).st = .stopped
    ∨ ((part m p).st = .running ∧ (part m p).step < t.step))

theorem detTruncate_of_denied (hc : consents m p 2 = false) : detTruncate v p t fz m = answer v .denied m := by
  simp only [detTruncate, hc, Bool.not_false, if_true]

/-- With consent, a point that may be armed is armed where its ranges and its dump area allow it (R666). -/
theorem detTruncate_of_consent (hc : consents m p 2 = true) :
    detTruncate v p t fz m = if pointOpen m p t then
        if truncOk fz m p t = false then answer v .range m
        else if t.dumpLen < dumpSize t then answer v .noSpace m
        else answer v .ok (onDet p (fun x => { x with trunc := 1, point := some t, dumps := [] }) m)
      else answer v .badState m := by
  have hopen : ((part m p).det.trunc ≥ 2 ∨ (!((part m p).st == .loaded || (part m p).st == .stopped
      || ((part m p).st == .running && decide ((part m p).step < t.step)))) = true) ↔ ¬pointOpen m p t := by
    rw [pointOpen, Classical.not_and_iff_not_or_not, Nat.not_lt, Bool.not_eq_true', ← Bool.not_eq_true]
    simp only [Bool.or_eq_true, Bool.and_eq_true, beq_iff_eq, decide_eq_true_eq, or_assoc]
  simp only [detTruncate, hc, hopen, ite_not, Bool.not_true, Bool.false_eq_true, if_false]
  simp only [Bool.not_eq_true']

end Truncate

/-- Settles O44: each determinism command by the state of its partition and what its operands name. -/
theorem determinismCommandsResult : Obligations.DeterminismCommandsResult := by
  intro s v p q
  refine ⟨fun hv => ⟨fun dest h => run_plain hv (detJournal_of_busy h), fun h => run_plain hv (detJournal_of_none h),
      fun d h => run_plain hv (detJournal_of_some h)⟩,
    fun j pl hv hpl => ⟨fun h => run_served hv (detReplay_of_busy hpl h),
      fun h => run_served hv (detReplay_of_loaded hpl h)⟩,
    fun c hv => run_plain hv provConfig_eq, fun hv => run_plain (body := provSeal v p.val) hv rfl,
    fun t hv => ⟨fun hc => run_served hv (detTruncate_of_denied hc),
      fun hc ho => run_served hv ((detTruncate_of_consent hc).trans (if_neg ho)),
      fun hc ho => run_served hv ((detTruncate_of_consent hc).trans (if_pos ho))⟩,
    fun hv => run_plain (body := detStatus v p.val) hv rfl, fun hv => run_plain (body := detDisarm v p.val) hv rfl⟩

/-! ### The point and its settling -/

section Point
variable {t : TruncPayload} (ht : (part m p).det.point = some t)
include ht

theorem truncatePoint_of_due (h1 : (part m p).det.trunc = 1) (hs : stepping m p = true) (hst : (part m p).step = t.step) :
    let n := onPart p (fun q => { q with inStep := false }) (onDet p (fun x => { x with
      trunc := 2, stopCauses := causeMask m p, settleEnd := m.clk.wall + 1000 * t.settleUs }) m)
    truncatePoint p m = bump .detTruncs (iPart p) { n with
      stations := tmapIf {} (fun k => (part m p).dies.contains (k / 256)) (fun s => { s with recvs := [] }) n.stations
      mesh := n.mesh.filter (fun b => !(part m p).dies.contains b.dstDie) } := by
  simp only [truncatePoint, ht, h1, hs, hst, ne_eq, not_true_eq_false, Bool.true_eq_false, or_self, if_false]

/-- The machine once the dumps of a settled point are taken and written (R668 to R670). -/
def dumped (fz : Fuses) (p : Nat) (t : TruncPayload) (m : Mach) : Mach :=
  let n := onDet p (fun x => { x with trunc := 3 })
    (if unsettled m p = true then reachWall (part m p).det.settleEnd m else m)
  let y := dumpAll fz p t.regions n
  writeDump t (onDet p (fun x => { x with dumps := y.2 }) y.1)

theorem truncateSettle_of_passed (h2 : (part m p).det.trunc = 2) :
    let n := dumped fz p t m
    let pend := n.stations.any (fun z => (part m p).dies.contains (z.1 / 256)
      && z.2.sbd.any (fun d => d.2.state == .pending))
    truncateSettle p fz m = haltPart fz p
      { reason := 0x11, die := p, queue := 3, unit := 0, pidx := 0xFF, cycle := t.cycle, iaddr := none
        subcode := 0, arg := pack [(8, t.regions.length), (1, b2n pend), (39, 0)] 0, station := false
        issuer := none, causes := some (part m p).det.stopCauses } n := by
  simp only [truncateSettle, ht, h2, ne_eq, not_true_eq_false, if_false]
  rfl

end Point

/-- Settles O45: the point of a step that runs, and the settling of a point that has passed. -/
theorem truncateEventsResult : Obligations.TruncateEventsResult :=
  ⟨fun s _ _ ht h1 hs hst => congrArg (nextMach s) (truncatePoint_of_due ht h1 hs hst),
    fun s _ _ ht h2 => congrArg (nextMach s) (truncateSettle_of_passed ht h2)⟩

end Sys2Proof.Machine
end

section
/-! Proofs about partitions and security (16): change statements, assignment, sessions, policies and teardown; the
settlement of O46 and O48. -/

namespace Sys2Proof.Machine

variable {fz : Fuses} {v : Via} {p : Nat} {m : Mach} {st : Statement}

/-! ### Change statements -/

section Statements
variable {op : Nat} {body : Mach → Mach}

theorem withStatement_of_stale (h : st.changeCtr ≠ m.change) : withStatement v st op p body m = answer v .stale m :=
  if_pos h

/-- A statement of the counter in force is authentic unless one of the faults of R686 stands against it. -/
theorem authentic_iff (h : st.changeCtr = m.change) : authentic m st op p = true ↔
    ¬(st.op ≠ op ∨ st.mod ≠ m.moduleId ∨ st.partition ≠ p ∨ st.bodyOk = false ∨ sigsOk m st = false) := by
  simp only [authentic, h, Bool.and_eq_true, decide_eq_true_eq, not_or, ne_eq, Classical.not_not, true_and, Bool.not_eq_false,
    and_assoc]

theorem changeCtr_of_authentic (h : authentic m st op p = true) : st.changeCtr = m.change := by
  simp only [authentic, Bool.and_eq_true, decide_eq_true_eq, and_assoc] at h
  exact h.1

theorem withStatement_of_fault (h : st.changeCtr = m.change) (ha : authentic m st op p = false) :
    withStatement v st op p body m = answer v .denied (bump .secSigfail iModule m) := by
  have hf := (not_congr (authentic_iff (op := op) (p := p) h)).1 (Bool.not_eq_true _ ▸ ha)
  exact (if_neg (not_not_intro h)).trans (if_pos (Classical.not_not.1 hf))

/-- An authentic statement moves the change counter on, and its command does its work (R685). -/
theorem withStatement_of_authentic (ha : authentic m st op p = true) :
    withStatement v st op p body m = body (counted m) :=
  (if_neg (not_not_intro (changeCtr_of_authentic ha))).trans
    (if_neg ((authentic_iff (changeCtr_of_authentic ha)).1 ha))

end Statements

/-! ### Assignment and release -/

section Assignment
variable {b : PartBody} (hc : compositions.contains b.dies = true)
include hc

theorem partitionAssign_of_free (hs : ∀ q, q ∈ holders m b.dies → (part m q).sec.st = 0) :
    partitionAssign v st b fz m = if assignOk fz m b = true then
        withStatement v st 1 (b.dies.headD 0) (fun m => answer v .ok (assign b m)) m
      else answer v .range m := by
  have ha : (holders m b.dies).any (fun q => (part m q).sec.st != 0) = false :=
    List.any_eq_false.2 fun q hq => by simp [hs q hq]
  simp only [partitionAssign, hc, ha, Bool.not_true, Bool.false_eq_true, if_false]
  cases assignOk fz m b <;> rfl

variable (hr : b.restZero = true)
include hr

theorem partitionRelease_of_other (h : (part m (b.dies.headD 0)).dies ≠ b.dies ∨ (part m (b.dies.headD 0)).sec.st ≠ 1) :
    partitionRelease v st b m = answer v .badState m := by
  simp only [partitionRelease, hc, hr, Bool.not_true, Bool.or_self, Bool.false_eq_true, if_false, if_pos h]

theorem partitionRelease_of_assigned (hd : (part m (b.dies.headD 0)).dies = b.dies)
    (hs : (part m (b.dies.headD 0)).sec.st = 1) :
    partitionRelease v st b m = withStatement v st 1 (b.dies.headD 0)
      (fun m => answer v .ok (beginTeardown (b.dies.headD 0) 1 m)) m := by
  simp only [partitionRelease, hc, hr, hd, hs, ne_eq, not_true_eq_false, Bool.not_true, Bool.or_self, or_self,
    Bool.false_eq_true, if_false]

end Assignment

/-! ### Sessions, policies and attestation -/

section Sessions
variable {y : Policy}

theorem sessionOpen_of_state {sigOk : Bool} (h : (part m p).sec.st ≠ 1) :
    sessionOpen v p y sigOk fz m = answer v .badState m := if_pos h

theorem sessionOpen_of_unsigned (h : (part m p).sec.st = 1) :
    sessionOpen v p y false fz m = answer v .denied m := if_neg (not_not_intro h)

theorem sessionOpen_of_signed (h : (part m p).sec.st = 1) (hy : policyOk y = true) :
    sessionOpen v p y true fz m = answer v .ok (sessionKeys fz p (onPart p (fun q =>
      { q with sealedKey := some (m.freeCtr + 1), sealedCtr := 0, sec := { q.sec with
          st := 2, policy := some y, session := Config.random m.freeCtr % 2 ^ 64 } })
      { m with freeCtr := m.freeCtr + 2 })) := by
  simp only [sessionOpen, h, hy, ne_eq, not_true_eq_false, Bool.not_true, Bool.false_eq_true, if_false]

theorem policySet_of_state (h : (part m p).sec.st ≠ 2) : policySet v p st y m = answer v .badState m := if_pos h

theorem policySet_of_open (h : (part m p).sec.st = 2) (hy : policyOk y = true) :
    policySet v p st y m = withStatement v st 2 p (fun m =>
      answer v .ok (onPart p (fun q => { q with sec := { q.sec with policy := some y } }) m)) m := by
  simp only [policySet, h, hy, ne_eq, not_true_eq_false, Bool.not_true, Bool.false_eq_true, if_false]

end Sessions

theorem attest_of_state {nonce : BitVec 256} (h : (part m p).sec.st ≠ 2) :
    attest v p nonce fz m = answer v .badState m := if_pos h

theorem attest_of_open {nonce : BitVec 256} (h : (part m p).sec.st = 2) :
    attest v p nonce fz m = complete v .ok 0
      (.bytes (attestReport fz (signature m).2 p nonce ++ (signature m).1)) (signature m).2 :=
  if_neg (not_not_intro h)

/-- Settles O46: each command by the state of its partition, then by its statement. -/
theorem securityCommandsResult : Obligations.SecurityCommandsResult := by
  intro s v
  refine ⟨fun hv => run_plain (body := identity v) hv rfl,
    fun st o c hv => ⟨fun h => run_plain hv (withStatement_of_stale h),
      fun h ha => run_plain hv (withStatement_of_fault h ha), fun ha => run_plain hv (withStatement_of_authentic ha)⟩,
    fun st b hv hc hs => ⟨fun ha => run_served hv ((partitionAssign_of_free hc hs).trans (if_neg (by simp [ha]))),
      fun ha hst => run_served hv
        ((partitionAssign_of_free hc hs).trans ((if_pos ha).trans (withStatement_of_authentic hst)))⟩,
    fun st b hv hc hr => ⟨fun h => run_plain hv (partitionRelease_of_other hc hr h),
      fun hd hs hst => run_plain hv
        ((partitionRelease_of_assigned hc hr hd hs).trans (withStatement_of_authentic hst))⟩,
    fun p y sigOk hv => ⟨fun h => run_served hv (sessionOpen_of_state h), fun h hs => ?unsigned, fun h hs hy => ?signed⟩,
    fun p st y hv => ⟨fun h => run_plain hv (policySet_of_state h),
      fun h hy hst => run_plain hv ((policySet_of_open h hy).trans (withStatement_of_authentic hst))⟩,
    fun p nonce hv => ⟨fun h => run_served hv (attest_of_state h), fun h => run_served hv (attest_of_open h)⟩,
    fun p hv => run_plain (body := secStatus v p.val) hv rfl⟩
  case unsigned =>
    subst hs
    exact run_served hv (sessionOpen_of_unsigned h)
  case signed =>
    subst hs
    exact run_served hv (sessionOpen_of_signed h hy)

/-! ### Teardown -/

section Teardown
variable {mode : Nat}

theorem secTeardown_of_state (h : ¬((part m p).sec.st = 2 ∨ ((part m p).sec.st = 1 ∧ mode = 1))) :
    secTeardown v p st mode m = answer v .badState m := if_neg h

theorem secTeardown_of_open (h : (part m p).sec.st = 2 ∨ ((part m p).sec.st = 1 ∧ mode = 1)) :
    secTeardown v p st mode m = withStatement v st 4 p (fun m => answer v .ok (beginTeardown p mode m)) m := if_pos h

/-- A drain that is done, or whose 2 ms are over, is followed by DESTROY and SCRUB (Table 16-10). -/
theorem drainEnd_of_fenced (hs : (part m p).sec.st = 3)
    (hp : (part m p).sec.phase = 2 ∨ ((part m p).sec.phase = 1 ∧ runs m p = false)) :
    let n := if drained m p = true then m else reachWall ((part m p).sec.fenceEnd + 2000000) m
    drainEnd p fz m = scrub fz p (destroyKeys fz p (if (serveOf n p).isSome = true then failAll fz p n else n)) := by
  simp only [drainEnd, hs, hp, ne_eq, not_true_eq_false, or_self, if_false]

/-- The attestation of a scrub is signed, kept and sent (Table 16-11). -/
theorem scrubDone_of_scrubbed (hs : (part m p).sec.st = 3) (hp : (part m p).sec.phase = 4) :
    let y := signature m
    let z := draw y.2
    let l := scrubAttest z.2 p ++ y.1
    scrubDone p m = leaveTeardown p l (bump .secTeardowns (iPart p) (pushReport (z.1 % 65536) l z.2)) := by
  simp only [scrubDone, hs, hp, ne_eq, not_true_eq_false, or_self, if_false]

end Teardown

/-- Settles O48: the command by the state of its partition and its statement, and the ends of the drain and the scrub. -/
theorem teardownResult : Obligations.TeardownResult := by
  refine ⟨fun s v p st mode hv => ⟨fun h => run_plain hv (secTeardown_of_state h), fun h hc => ?stale,
      fun h hc ha => ?fault, fun h ha => ?accepted⟩,
    fun s p hs hp => congrArg (nextMach s) (drainEnd_of_fenced hs hp),
    fun s p hs hp => congrArg (nextMach s) (scrubDone_of_scrubbed hs hp)⟩
  case stale => exact run_plain hv ((secTeardown_of_open h).trans (withStatement_of_stale hc))
  case fault => exact run_plain hv ((secTeardown_of_open h).trans (withStatement_of_fault hc ha))
  case accepted => exact run_plain hv ((secTeardown_of_open h).trans (withStatement_of_authentic ha))

end Sys2Proof.Machine
end

section
/-! Proofs about the keys of a session (16): the refutation of O47. -/

namespace Sys2Proof.Machine

/-- A machine whose partition 0 runs a plan while its rotation waits for the new keys of its wellheads. -/
def rotating : Mach :=
  onPart 0 (fun q => { q with st := .running, rot := { q.rot with state := 1, loaded := false } }) Mach.reset

/-- A new key of a wellhead is a fresh free value (R349, R677), so the four wellheads of the partition draw four. -/
theorem freeCtr_memkeyLoaded_rotating :
    (memkeyLoaded 0 Fuses.reset rotating).freeCtr = rotating.freeCtr + 4 := by decide

/-- Refutes O47: its last clause marks the empty slots LOADED without drawing their keys, but MEMKEY_LOADED draws one
free value for each wellhead. -/
theorem not_keyCommandsResult : ¬ Obligations.KeyCommandsResult := by
  intro h
  obtain ⟨-, -, -, -, hload⟩ := h { pending := [], fuses := Fuses.reset, mach := rotating } ⟨.mwin, 0⟩ 0
  have hnext := hload (by decide) (by decide)
  injection hnext with hstate
  injection hstate with _ _ hmach
  have hctr := freeCtr_memkeyLoaded_rotating
  rw [show memkeyLoaded 0 Fuses.reset rotating = _ from hmach] at hctr
  revert hctr
  decide

end Sys2Proof.Machine
end

section
/-! Proofs about the mailboxes (17 R728 to R741): the scan of a window, the slots that it takes and the commands of the
management network; the settlement of O49. -/

namespace Sys2Proof.Machine

variable {w i : Nat} {m : Mach}

/-! ### What host software stores and posts -/

theorem mailboxScan_of_ready {posts : List SlotPost} {stores : List HostStore}
    (h : (posts.foldl (postSlot w) (stores.foldl hostStore m)).boot = 3) :
    mailboxScan w posts stores m =
      statusBlock w ((List.range 32).foldl (takeSlot w) (posts.foldl (postSlot w) (stores.foldl hostStore m))) :=
  if_neg (not_not_intro h)

theorem mailboxScan_of_unready {posts : List SlotPost} {stores : List HostStore}
    (h : (posts.foldl (postSlot w) (stores.foldl hostStore m)).boot ≠ 3) :
    mailboxScan w posts stores m = posts.foldl (postSlot w) (stores.foldl hostStore m) := if_pos h

theorem boot_hostStore (m : Mach) (h : HostStore) : (hostStore m h).boot = m.boot := by
  unfold hostStore; split <;> rfl

theorem boot_postSlot (w : Nat) (m : Mach) (y : SlotPost) : (postSlot w m y).boot = m.boot := by
  unfold postSlot; split <;> rfl

/-- A scan finds firmware in the state in which what was stored and posted left it: the one before. -/
theorem boot_scanned (posts : List SlotPost) (stores : List HostStore) :
    (posts.foldl (postSlot w) (stores.foldl hostStore m)).boot = m.boot := by
  have hs : (stores.foldl hostStore m).boot = m.boot :=
    List.foldlRecOn (motive := fun n : Mach => n.boot = m.boot) stores _ rfl fun n h y _ => (boot_hostStore n y).trans h
  exact List.foldlRecOn (motive := fun n : Mach => n.boot = m.boot) posts _ hs
    fun n h y _ => (boot_postSlot w n y).trans h

theorem hostStore_of_below {h : HostStore} (hb : h.addr + h.bytes.length ≤ 0x3F80000000) :
    hostStore m h = pokeHost h.addr h.bytes m := if_pos hb

theorem hostStore_of_reserved {h : HostStore} (hb : 0x3F80000000 < h.addr + h.bytes.length) : hostStore m h = m :=
  if_neg (Nat.not_le.2 hb)

theorem postSlot_of_busy {y : SlotPost} (h : bitAt (win m w).busy y.slot.val = true) : postSlot w m y = m := if_pos h

theorem slot_postSlot {y : SlotPost} (h : bitAt (win m w).busy y.slot.val = false) :
    tget {} (win (postSlot w m y) w).slots y.slot.val = { tget {} (win m w).slots y.slot.val with
      own := y.own, code := y.code, flags := y.flags + 256 * y.resv, plen := y.plen, tag := y.tag
      payload := y.payload.take y.plen, takenAt := 0 } := by
  simp only [postSlot, h, Bool.false_eq_true, if_false, win_onWin_same, tget_tmod_same]

/-! ### Commands of the management network (R740) -/

section Mgmt
variable {y : SlotPost}

theorem mgmtCommand_of_ignored {ok : Bool} (h : m.boot ≠ 3 ∨ ok = false) : mgmtCommand ok y m = m := if_pos h

theorem mgmtCommand_of_wrong (hb : m.boot = 3) (h : y.own ≠ 1 ∨ y.resv ≠ 0 ∨ 1 < y.flags ∨ 4096 < y.plen) :
    mgmtCommand true y m = { m with mgmtTag := y.tag, out := m.out ++ [.mgmt Status.badFormat.code 0 y.tag .empty] } := by
  simp only [mgmtCommand, hb, if_pos h, ne_eq, not_true_eq_false, Bool.true_eq_false, or_self, if_false]
  rfl

variable (hb : m.boot = 3) (h : ¬(y.own ≠ 1 ∨ y.resv ≠ 0 ∨ 1 < y.flags ∨ 4096 < y.plen))
include hb h

theorem mgmtCommand_of_unknown (hc : codeKnown y.code = false) :
    mgmtCommand true y m =
      { m with mgmtTag := y.tag, out := m.out ++ [.mgmt Status.unknownCommand.code 0 y.tag .empty] } := by
  simp only [mgmtCommand, hb, if_neg h, hc, ne_eq, not_true_eq_false, Bool.true_eq_false, or_self, if_false,
    Bool.not_false, if_true]
  rfl

theorem mgmtCommand_of_known (hc : codeKnown y.code = true) :
    mgmtCommand true y m = { m with mgmtTag := y.tag } := by
  simp only [mgmtCommand, hb, if_neg h, hc, ne_eq, not_true_eq_false, Bool.true_eq_false, or_self, if_false,
    Bool.not_true, Bool.false_eq_true]

end Mgmt

/-! ### A slot is taken (R730 to R732) -/

theorem takeSlot_of_idle (h : (tget {} (win m w).slots i).own = 0 ∨ bitAt (win m w).busy i = true) :
    takeSlot w m i = m := if_pos h

section Take
variable (hb : bitAt (win m w).busy i = false)
include hb

theorem takeSlot_of_owner (h0 : (tget {} (win m w).slots i).own ≠ 0) (h1 : (tget {} (win m w).slots i).own ≠ 1) :
    takeSlot w m i = completeSlot w i .badFormat 0 .empty m := by
  simp only [takeSlot, h0, if_pos h1, hb, Bool.false_eq_true, or_self, if_false]

variable (h1 : (tget {} (win m w).slots i).own = 1)
include h1

/-- A slot that host software has posted in the right format is looked at for its fields and its code. -/
theorem takeSlot_of_posted : takeSlot w m i =
    if 1 < (tget {} (win m w).slots i).flags ∨ 4096 < (tget {} (win m w).slots i).plen then
      completeSlot w i .badFormat 0 .empty (stampTaken w i m)
    else if codeKnown (tget {} (win m w).slots i).code = false then
      completeSlot w i .unknownCommand 0 .empty (stampTaken w i m)
    else stampTaken w i m := by
  simp only [takeSlot, h1, hb, Bool.false_eq_true, or_self, if_false, Nat.one_ne_zero, ne_eq, not_true_eq_false,
    Bool.not_eq_true']

theorem takeSlot_of_fields (h : 1 < (tget {} (win m w).slots i).flags ∨ 4096 < (tget {} (win m w).slots i).plen) :
    takeSlot w m i = completeSlot w i .badFormat 0 .empty (stampTaken w i m) :=
  (takeSlot_of_posted hb h1).trans (if_pos h)

theorem takeSlot_of_code (hf : (tget {} (win m w).slots i).flags ≤ 1) (hp : (tget {} (win m w).slots i).plen ≤ 4096) :
    takeSlot w m i = if codeKnown (tget {} (win m w).slots i).code = false then
        completeSlot w i .unknownCommand 0 .empty (stampTaken w i m)
      else stampTaken w i m :=
  (takeSlot_of_posted hb h1).trans (if_neg (by omega))

end Take

/-! ### A slot is completed (R733) -/

theorem bitAt_dropBit (x i : Nat) : bitAt (dropBit x i) i = false := by
  unfold dropBit
  split
  case isFalse h => exact Bool.not_eq_true _ ▸ h
  case isTrue h =>
    have hx : (x - 2 ^ i) / 2 ^ i = x / 2 ^ i - 1 := by simpa using Nat.sub_mul_div x (2 ^ i) 1
    simp only [bitAt, beq_iff_eq, hx, beq_eq_false_iff_ne] at h ⊢
    omega

theorem win_respLen (r : Resp) (k : Nat) : win (respLen r m).2 k = win m k := by cases r <;> rfl

theorem nowNs_respLen (r : Resp) : nowNs (respLen r m).2 = nowNs m := by cases r <;> rfl

/-- An interrupt of a window changes no slot of it and nothing of what is taken. -/
theorem slots_interrupt (src : Nat) :
    (win (interrupt w src m) w).slots = (win m w).slots ∧ (win (interrupt w src m) w).busy = (win m w).busy := by
  unfold interrupt
  dsimp only
  split
  · split <;> exact ⟨rfl, rfl⟩
  · rw [win_onWin_same]; exact ⟨rfl, rfl⟩

theorem slots_completeSlot {st : Status} {detail : Nat} {r : Resp} :
    tget {} (win (completeSlot w i st detail r m) w).slots i = { tget {} (win m w).slots i with
      own := 0, status := st.code, detail := detail, rlen := (respLen r m).1, doneAt := nowNs m, resp := r } ∧
    (win (completeSlot w i st detail r m) w).busy = dropBit (win m w).busy i := by
  unfold completeSlot
  dsimp only
  split
  · rw [(slots_interrupt 0).1, (slots_interrupt 0).2, win_onWin_same, tget_tmod_same, nowNs_respLen, win_respLen]
    exact ⟨rfl, rfl⟩
  · rw [win_onWin_same, tget_tmod_same, nowNs_respLen, win_respLen]
    exact ⟨rfl, rfl⟩

/-- Settles O49: a scan by the state of firmware, and each step of a slot from its post to its completion. -/
theorem mailboxCommandsResult : Obligations.MailboxCommandsResult := by
  refine ⟨fun s w posts stores => ⟨fun hb => ?ready, fun hb => ?unready⟩,
    fun m h => ⟨fun hb => by rw [hostStore_of_below hb], hostStore_of_reserved⟩,
    fun m w y => ⟨postSlot_of_busy, fun h => ?post⟩,
    fun s y ok h => congrArg (nextMach s) (mgmtCommand_of_ignored h),
    fun s y hb => ⟨fun h => congrArg (nextMach s) (mgmtCommand_of_wrong hb h),
      fun h hc => congrArg (nextMach s) (mgmtCommand_of_unknown hb h hc),
      fun h hc => congrArg (nextMach s) (mgmtCommand_of_known hb h hc)⟩,
    fun m w i => ⟨takeSlot_of_idle, takeSlot_of_owner, takeSlot_of_fields,
      fun hb h1 hf hp hc => (takeSlot_of_code hb h1 hf hp).trans (if_pos hc),
      fun hb h1 hf hp hc => (takeSlot_of_code hb h1 hf hp).trans (if_neg (by simp [hc]))⟩,
    fun m w i detail st r => ?completed, fun m w => ?status⟩
  case ready => exact congrArg (nextMach s) (mailboxScan_of_ready ((boot_scanned posts stores).trans hb))
  case unready => exact congrArg (nextMach s) (mailboxScan_of_unready fun h => hb ((boot_scanned posts stores).symm.trans h))
  case post =>
    intro x
    have hx : x = _ := slot_postSlot h
    rw [hx]
    exact ⟨rfl, rfl, rfl, rfl, rfl, rfl⟩
  case completed =>
    intro n x
    have hx : x = _ := slots_completeSlot.1
    have hbusy : (win n w).busy = _ := slots_completeSlot.2
    rw [hx, hbusy]
    refine ⟨rfl, rfl, rfl, rfl, rfl, bitAt_dropBit _ i, ?empty, ?bytes⟩
    case empty => rintro rfl; rfl
    case bytes => rintro l rfl; rfl
  case status =>
    intro y
    have hy : y = _ := congrArg Win.status (win_onWin_same w _ m)
    rw [hy]
    exact ⟨rfl, rfl, rfl, rfl, rfl, rfl, rfl, rfl, fun hw => ⟨if_pos hw, if_pos hw, if_pos hw⟩⟩

end Sys2Proof.Machine
end

section
/-! Proofs about the registers, events, telemetry and firmware (17, 19): the settlement of O50 to O53. -/

namespace Sys2Proof.Machine

variable {fz : Fuses} {v : Via} {p : Nat} {m : Mach}

/-! ### Registers (R742 to R746) -/

section Registers
variable {num elem count inst bank value : Nat} {r : Reg} (hr : regOfNum num = some r)
include hr

section Read
variable {a : RegAt} {bad : Prop}

theorem regRead_of_bad
    (h : count = 0 ∨ 120 < count ∨ regRange fz m r (inst / 0x10000000) (inst % 0x10000000) elem count = true) :
    regRead v num elem count inst bank fz m = answer v .range m := by
  simp only [regRead, hr, if_pos h]

variable
  (h : ¬(count = 0 ∨ 120 < count ∨ regRange fz m r (inst / 0x10000000) (inst % 0x10000000) elem count = true))
include h

theorem regRead_of_denied
    (hm : mayRead m v.caller r { kind := inst / 0x10000000, low := inst % 0x10000000, elem := elem, bank := bank } = false) :
    regRead v num elem count inst bank fz m = answer v .denied m := by
  simp only [regRead, hr, if_neg h, Nat.add_zero, hm, Bool.not_false, if_true]

theorem regRead_of_allowed
    (hm : mayRead m v.caller r { kind := inst / 0x10000000, low := inst % 0x10000000, elem := elem, bank := bank } = true) :
    regRead v num elem count inst bank fz m = complete v .ok 0 (.bytes ((List.range count).flatMap (fun i =>
      leBytes 32 (regValue fz m r
        { kind := inst / 0x10000000, low := inst % 0x10000000, elem := elem + i, bank := bank })))) m := by
  simp only [regRead, hr, if_neg h, Nat.add_zero, hm, Bool.not_true, Bool.false_eq_true, if_false]

end Read

section Write

theorem regWrite_of_bad (h : ((regInfo r).wmask = 0 ∧ (regInfo r).cmask = 0)
      ∨ regRange fz m r (inst / 0x10000000) (inst % 0x10000000) elem 1 = true) :
    regWrite v num elem inst value fz m = answer v .range m := by
  simp only [regWrite, hr, if_pos h]

variable (h : ¬(((regInfo r).wmask = 0 ∧ (regInfo r).cmask = 0)
  ∨ regRange fz m r (inst / 0x10000000) (inst % 0x10000000) elem 1 = true))
include h

theorem regWrite_of_denied
    (hm : mayWrite m v.caller r { kind := inst / 0x10000000, low := inst % 0x10000000, elem := elem, bank := 0 } = false) :
    regWrite v num elem inst value fz m = answer v .denied m := by
  simp only [regWrite, hr, if_neg h, hm, Bool.not_false, if_true]

variable
  (hm : mayWrite m v.caller r { kind := inst / 0x10000000, low := inst % 0x10000000, elem := elem, bank := 0 } = true)
include hm

theorem regWrite_of_fault {st : Status} (hf : writeFails fz m r
      { kind := inst / 0x10000000, low := inst % 0x10000000, elem := elem, bank := 0 } value = some st) :
    regWrite v num elem inst value fz m = answer v st m := by
  simp only [regWrite, hr, if_neg h, hm, hf, Bool.not_true, Bool.false_eq_true, if_false]

theorem regWrite_of_taken (hf : writeFails fz m r
      { kind := inst / 0x10000000, low := inst % 0x10000000, elem := elem, bank := 0 } value = none) :
    regWrite v num elem inst value fz m = answer v .ok (regStore fz r
      { kind := inst / 0x10000000, low := inst % 0x10000000, elem := elem, bank := 0 } value m) := by
  simp only [regWrite, hr, if_neg h, hm, hf, Bool.not_true, Bool.false_eq_true, if_false]

end Write

end Registers

/-- Settles O50: a page of the directory, and the reads and writes by range, authority and value. -/
theorem registerCommandsResult : Obligations.RegisterCommandsResult :=
  fun _ v => ⟨fun first hv => run_plain (body := regDir v first) hv rfl,
    fun _ _ _ _ _ _ hv hr => ⟨fun h => run_served hv (regRead_of_bad hr h),
      fun h hm => run_served hv (regRead_of_denied hr h hm), fun h hm => run_served hv (regRead_of_allowed hr h hm)⟩,
    fun _ _ _ _ _ hv hr => ⟨fun h => run_served hv (regWrite_of_bad hr h),
      fun h hm => run_served hv (regWrite_of_denied hr h hm),
      fun _ h hm hf => run_served hv (regWrite_of_fault hr h hm hf),
      fun h hm hf => run_served hv (regWrite_of_taken hr h hm hf)⟩⟩

/-! ### Events and telemetry -/

section Telemetry
variable {addr entries every : Nat}

theorem telemConfig_of_zero (h : addr = 0) :
    telemConfig v p addr entries every m = answer v .ok (onPart p (fun q => { q with telem := {} }) m) := if_pos h

theorem telemConfig_of_address (h : addr ≠ 0) :
    telemConfig v p addr entries every m =
      if addr % 64 = 0 ∧ telemSize entries = true ∧ every ≤ 65535
          ∧ inClear (part m p) addr (64 + 64 * entries) = true then
        answer v .ok (onPart p (fun q => { q with
          telem := { addr := addr, pushEvery := every, entries := entries } }) m)
      else answer v .range m := by
  simp only [telemConfig, if_neg h, ← Nat.not_le, ← Bool.not_eq_true, ne_eq,
    ← Classical.not_and_iff_not_or_not, ite_not]

end Telemetry

/-- Settles O51: each command by its ranges. -/
theorem telemetryCommandsResult : Obligations.TelemetryCommandsResult :=
  ⟨fun _ v n hv => run_plain (body := evtRead v n) hv rfl,
    fun _ _ _ _ _ _ hv => ⟨fun h => run_plain hv (telemConfig_of_zero h),
      fun h hok => run_plain hv ((telemConfig_of_address h).trans (if_neg hok)),
      fun h hok => run_plain hv ((telemConfig_of_address h).trans (if_pos hok))⟩,
    fun _ v hv => run_plain (body := fun m => complete v .ok 0 (.bytes (healthBytes m)) m) hv rfl⟩

/-! ### Firmware (R754 to R759) -/

section Stage
variable {addr len : Nat} {i : FwImage}

theorem fwStage_of_busy (h : m.fw.commit.isSome = true) : fwStage v addr len i m = answer v .badState m := if_pos h

/-- The machine with the image kept, or none, once the copy is made. -/
def stagedAs (addr len : Nat) (o : Option FwImage) (m : Mach) : Mach :=
  { copyImage addr len m with fw := { m.fw with staged := o } }

variable (hc : m.fw.commit = none) (hl : addr + len ≤ 2 ^ 38)
include hc hl

theorem fwStage_of_sound (hi : imageFault m i = none) :
    fwStage v addr len i m = answer v .ok (stagedAs addr len (some i) m) := by
  have hi' : imageFault (copyImage addr len m) i = none := hi
  simp only [fwStage, hc, Nat.not_lt.2 hl, hi', Option.isSome_none, Bool.false_eq_true, if_false]
  rfl

theorem fwStage_of_rollback (hi : imageFault m i = some 3) :
    fwStage v addr len i m = answer v .rollback (stagedAs addr len none m) := by
  have hi' : imageFault (copyImage addr len m) i = some 3 := hi
  simp only [fwStage, hc, Nat.not_lt.2 hl, hi', Option.isSome_none, Bool.false_eq_true, if_false]
  rfl

theorem fwStage_of_unsound {c : Nat} (hi : imageFault m i = some c) (h3 : c ≠ 3) :
    fwStage v addr len i m = answer v .imageInvalid (stagedAs addr len none m) := by
  have hi' : imageFault (copyImage addr len m) i = some c := hi
  simp only [fwStage, hc, Nat.not_lt.2 hl, hi', Option.isSome_none, Bool.false_eq_true, if_false]
  rfl

end Stage

theorem fwCommit_of_staged {i : FwImage} (hs : m.fw.staged = some i) (hc : m.fw.commit = none) :
    fwCommit v m = askCommit .fw { m with fw := { m.fw with commit := some (i, v) } } := by
  simp only [fwCommit, hs, hc]

theorem fwCommit_of_refused (h : m.fw.staged = none ∨ m.fw.commit.isSome = true) :
    fwCommit v m = answer v .badState m := by
  unfold fwCommit
  split
  · next hs hc => simp [hs, hc] at h
  · rfl

theorem fwSvnAdvance_eq : fwSvnAdvance v m =
    if m.fw.svnFuse < m.fw.runSvn then answer v .ok { m with fw := { m.fw with svnFuse := m.fw.runSvn } }
    else answer v .badState m := by
  simp only [fwSvnAdvance, ← Nat.not_lt, ite_not]

/-- Settles O52: each firmware command by the image it finds and the commit under way. -/
theorem firmwareCommandsResult : Obligations.FirmwareCommandsResult :=
  fun _ v => ⟨fun _ _ _ hv => ⟨fun h => run_plain hv (fwStage_of_busy h),
      fun hc hl hi => run_plain hv (fwStage_of_sound hc hl hi),
      fun hc hl hi => run_plain hv (fwStage_of_rollback hc hl hi),
      fun _ hc hl hi h3 => run_plain hv (fwStage_of_unsound hc hl hi h3)⟩,
    fun hv => ⟨fun _ hs hc => run_plain hv (fwCommit_of_staged hs hc), fun h => run_plain hv (fwCommit_of_refused h)⟩,
    fun hv => run_plain (body := fwActivate v) hv rfl, fun hv => run_plain (body := fwStatus v) hv rfl,
    fun hv => run_plain hv fwSvnAdvance_eq⟩

/-! ### Watchdogs, machine errors and edge stations -/

theorem edgeCheck_of_running {d : Nat} {u : Fin 256} (h : dieRuns m d = true) :
    let n := raiseEvt 0x0054 2 (iDie d) u.val m
    let p := partOf n d
    edgeCheck d (some u) fz m = onDie d (fun x => { x with failed := true })
      (forceHalt fz p 6 (d * 256 + u.val) (cycleNow n p) n) := by
  simp only [edgeCheck, h, Bool.not_true, Bool.false_eq_true, if_false]

/-- Settles O53: every watchdog and machine error is its event and what follows it; an edge station that fails halts the
plan that runs on its die. -/
theorem faultEventsResult : Obligations.FaultEventsResult :=
  ⟨fun _ _ => rfl, fun _ => rfl, fun _ => rfl, fun _ _ => rfl, fun _ _ => rfl,
    fun s _ _ h => congrArg (nextMach s) (edgeCheck_of_running h)⟩

end Sys2Proof.Machine
end

section
/-! Proofs about the boot of the logic side and the Wiluc chain (17): the settlement of O54 and O55. -/

namespace Sys2Proof.Machine

variable {m : Mach}

/-! ### A commit that a loss of power interrupted (R763) -/

section Note
variable {f : Fw} {n : Nat} {d : Bool}

theorem note_of_second (hb : f.inB = true) : f.note n d = { f with recB := { f.recB with progress := n, done := d } } := by
  simp only [Fw.note, Fw.latest, hb, if_true]

theorem note_of_first (hb : f.inB = false) (ha : f.recA.crcOk = true) :
    f.note n d = { f with recA := { f.recA with progress := n, done := d } } := by
  simp only [Fw.note, Fw.latest, hb, ha, Bool.false_eq_true, if_false, if_true]

/-- A record that is not DONE is DONE once it is noted so. -/
theorem done_latest_note (h : f.latest.done = false) : (f.note n true).latest.done = true := by
  cases hb : f.inB with
  | true =>
    rw [note_of_second hb]
    exact congrArg GenRec.done (if_pos hb)
  | false =>
    cases ha : f.recA.crcOk with
    | false => simp [Fw.latest, hb, ha] at h
    | true =>
      rw [note_of_first hb ha]
      have hb' : ¬f.inB = true := by simp [hb]
      exact congrArg GenRec.done ((if_neg hb').trans (if_pos ha))

end Note

section Repeat
variable {i : FwImage}

theorem repeatCommit_of_done (h : m.fw.latest.done = true) :
    (repeatCommit i m).2 = i ∧ (repeatCommit i m).1.fw = { m.fw with left := none } := by
  simp only [repeatCommit, h, if_true, and_self]

theorem repeatCommit_of_left {j : FwImage} (h : m.fw.latest.done = false) (hl : m.fw.left = some j)
    (hd : j.digest = m.fw.latest.digest) :
    let n := (repeatCommit i m).1
    (Config.regionKept m.freeCtr = true ∧ (repeatCommit i m).2 = j ∧ n.fw.latest.done = true ∧ n.fw.digest = j.digest
      ∧ n.fw.svn = j.svn ∧ n.fw.version = j.version) ∨
    (Config.regionKept m.freeCtr = false ∧ (repeatCommit i m).2 = i ∧ n.fw = { m.fw with left := none }) := by
  cases hk : Config.regionKept m.freeCtr with
  | true =>
    have hc : copyLeft m.fw (m.freeCtr + 1 - 1) = some j := by simp [copyLeft, hl, hd, hk]
    simp only [repeatCommit, h, hc, Bool.false_eq_true, if_false]
    exact .inl ⟨trivial, trivial, done_latest_note h, rfl, rfl, rfl⟩
  | false =>
    have hc : copyLeft m.fw (m.freeCtr + 1 - 1) = none := by simp [copyLeft, hl, hk]
    simp only [repeatCommit, h, hc, Bool.false_eq_true, if_false]
    exact .inr ⟨trivial, trivial, trivial⟩

end Repeat

/-! ### Boot, fill and recovery -/

section Boot
variable {i : FwImage} {l : List (Nat × Nat)}

theorem bootLogic_of_fault {c : Nat} (h : imageFault (repeatCommit i (logicUp m)).1 (repeatCommit i (logicUp m)).2 = some c) :
    let n := (repeatCommit i (logicUp m)).1
    bootLogic i l m = { n with boot := 4, fw := { n.fw with cause := c } } := by
  simp only [bootLogic, h]

variable (h : imageFault (repeatCommit i (logicUp m)).1 (repeatCommit i (logicUp m)).2 = none)
include h

theorem bootLogic_of_unfinished (hd : (repeatCommit i (logicUp m)).1.fw.latest.done = false) :
    let n := (repeatCommit i (logicUp m)).1
    bootLogic i l m = { n with boot := 4, fw := { n.fw with cause := 4 } } := by
  simp only [bootLogic, h, hd, Bool.not_false, if_true]

theorem bootLogic_of_sound (hd : (repeatCommit i (logicUp m)).1.fw.latest.done = true) :
    let n := (repeatCommit i (logicUp m)).1
    let j := (repeatCommit i (logicUp m)).2
    bootLogic i l m = l.foldl alignFails (loadRemaps (tellFailure { n with boot := 2, fw := { n.fw with
      svn := j.svn, version := j.version, digest := j.digest, cause := 0
      runSvn := j.svn, runVersion := j.version, runDigest := j.digest } })) := by
  simp only [bootLogic, h, hd, Bool.not_true, Bool.false_eq_true, if_false]

end Boot

theorem fillComplete_of_fill {a b : Nat} (h : m.boot = 2) :
    let n := { m with boot := 3, eccFill := pack [(2, 3), (14, 0), (8, satN 255 a), (8, satN 255 b)] 0 }
    fillComplete a b m = (List.range 16).foldl (fun m k => wakePort k m)
      ((List.range b).foldl (fun m _ => recordFail 1 m) ((List.range a).foldl (fun m _ => recordFail 0 m) n)) :=
  if_neg (not_not_intro h)

theorem recoveryStart_of_sound {i : FwImage} (hb : m.boot = 4) (hi : imageFault m i = none) :
    recoveryStart i m = bootLogic i [] (endRecord i (beginRecord i m)) := if_pos ⟨hb, hi⟩

theorem recoveryStart_of_ignored {i : FwImage} (h : m.boot ≠ 4 ∨ (imageFault m i).isSome = true) :
    recoveryStart i m = m := by
  refine if_neg ?_
  rintro ⟨hb, hi⟩
  obtain h | h := h
  · exact h hb
  · rw [hi] at h; cases h

/-- Settles O54: the boot by the image and what is left of a commit, then the fill and the recovery. -/
theorem bootCommandsResult : Obligations.BootCommandsResult := by
  refine ⟨fun s i l => ⟨repeatCommit_of_done, fun j => repeatCommit_of_left,
      fun c h => congrArg (nextMach s) (bootLogic_of_fault h),
      fun h hd => congrArg (nextMach s) (bootLogic_of_unfinished h hd),
      fun h hd => congrArg (nextMach s) (bootLogic_of_sound h hd)⟩,
    fun s a b h => congrArg (nextMach s) (fillComplete_of_fill h),
    fun s i => ⟨fun hb hi => congrArg (nextMach s) (recoveryStart_of_sound hb hi),
      fun h => congrArg (nextMach s) (recoveryStart_of_ignored h)⟩⟩

/-! ### Frames that are forwarded -/

section Chain
variable {f : Frame}

theorem recvFrame_of_bypass {act : Mach → Nat × List Byte × Mach} (h : m.wch.bypass = true) :
    recvFrame f act m = { m with out := m.out ++ [.frame f] } := if_pos h

theorem recvFrame_of_other {act : Mach → Nat × List Byte × Mach} (hb : m.wch.bypass = false) (h0 : m.wch.addr ≠ 0)
    (hd : f.dst ≠ m.wch.addr) (hall : f.dst ≠ 0xFF) : recvFrame f act m = forwardFrame f (arrive m) := by
  have ha : (arrive m).wch.addr = m.wch.addr := rfl
  simp only [recvFrame, hb, ha, if_neg h0, if_neg hd, if_pos hall, Bool.false_eq_true, if_false]

theorem wilucForward_of_bypass (h : m.wch.bypass = true) :
    wilucForward f m = { m with out := m.out ++ [.frame f] } := by
  simp only [wilucForward, h, Bool.not_true, Bool.and_false, Bool.false_eq_true, if_false, recvFrame_of_bypass]

theorem wilucForward_of_other (hb : m.wch.bypass = false) (h0 : m.wch.addr ≠ 0) (hd : f.dst ≠ m.wch.addr)
    (hall : f.dst ≠ 0xFF) : wilucForward f m = forwardFrame f (arrive m) := by
  simp only [wilucForward, beq_eq_false_iff_ne.2 hd, beq_eq_false_iff_ne.2 hall, Bool.or_self, Bool.and_false,
    Bool.false_and, Bool.false_eq_true, if_false, recvFrame_of_other hb h0 hd hall]

section Enum
variable (ht : f.typ = 1) (h0 : m.wch.addr = 0) (hb : m.wch.bypass = false)
include ht h0 hb

/-- ENUM at a module without an address is judged by its CRC, then takes a slot (R771, R772). -/
theorem enum_of_unaddressed : enum f m =
    if frameSound f = false then forwardFrame f (bump .wchCrcErr iModule (arrive m)) else takeSlotAddr f (arrive m) := by
  simp only [enum, ht, h0, hb, ne_eq, not_true_eq_false, if_false, and_self, if_true, Bool.not_eq_true']

theorem enum_of_sound (hs : frameSound f = true) : enum f m = takeSlotAddr f (arrive m) :=
  (enum_of_unaddressed ht h0 hb).trans (if_neg (by simp [hs]))

end Enum

theorem takeSlotAddr_of_none (h : enumSlot (leAt f.payload 0 1) (leAt f.payload 1 1) = none) :
    takeSlotAddr f m = forwardFrame f m := by
  simp only [takeSlotAddr, h]

theorem takeSlotAddr_of_clash {n : Nat} (h : enumSlot (leAt f.payload 0 1) (leAt f.payload 1 1) = some n)
    (hc : m.wch.slot ≠ 0 ∧ m.wch.slot ≠ n) :
    takeSlotAddr f m = raiseEvt 0x0050 1 iModule (16 * n + m.wch.slot) (forwardFrame f m) := by
  simp only [takeSlotAddr, h, if_pos hc]

theorem takeSlotAddr_of_free {n : Nat} (h : enumSlot (leAt f.payload 0 1) (leAt f.payload 1 1) = some n)
    (hf : m.wch.slot = 0 ∨ m.wch.slot = n) :
    takeSlotAddr f m = forwardFrame (frameSeal { f with payload := leBytes 1 (n + 1) ++ f.payload.drop 1 })
      { m with wch := { m.wch with addr := n, slot := n }, moduleId := moduleIdOf m.wch.pod m.wch.shelf n } := by
  have hc : ¬(m.wch.slot ≠ 0 ∧ m.wch.slot ≠ n) := fun h => hf.elim h.1 h.2
  simp only [takeSlotAddr, h, if_neg hc]

end Chain

/-- Settles O55: frames that pass, and ENUM at a module without an address by its CRC and the slot that it finds. -/
theorem chainForwardResult : Obligations.ChainForwardResult := by
  refine ⟨fun _ => rfl, fun s f h => congrArg (nextMach s) (wilucForward_of_bypass h),
    fun s f hb h0 hd hall => congrArg (nextMach s) (wilucForward_of_other hb h0 hd hall), fun s f ht h0 hb => ?_⟩
  have hrun {n : Mach} (hs : frameSound f = true) (h : takeSlotAddr f (arrive s.mach) = n) :
      exec (.enum f) s = nextMach s n :=
    congrArg (nextMach s) ((enum_of_sound ht h0 hb hs).trans h)
  exact ⟨fun hs => congrArg (nextMach s) ((enum_of_unaddressed ht h0 hb).trans (if_pos hs)),
    fun hs h => hrun hs (takeSlotAddr_of_none h), fun n hs h hc => hrun hs (takeSlotAddr_of_clash h hc),
    fun n hs h hf => hrun hs (takeSlotAddr_of_free h hf)⟩

end Sys2Proof.Machine
end

section
/-! Proofs about power, the surge tank and cooling (18): the settlement of O57 to O60. -/

namespace Sys2Proof.Machine

variable {fz : Fuses} {m : Mach}

/-! ### Power states (R790 to R794) -/

section PowerState
variable {v : Via} {t : Nat}

theorem pwrSet_of_range (h0 : t ≠ 0) (h2 : t ≠ 2) (h3 : t ≠ 3) (h4 : t ≠ 4) : pwrSet v t m = answer v .range m :=
  if_pos (by simp [h0, h2, h3, h4])

section Known
variable (ht : t = 0 ∨ t = 2 ∨ t = 3 ∨ t = 4)
include ht

theorem pwrSet_of_transit (h : m.pwr.inTransit = true) :
    pwrSet v t m = { m with pwr := { m.pwr with queue := m.pwr.queue ++ [(t, some v)] } } :=
  (if_neg (not_not_intro ht)).trans (if_pos h)

theorem pwrSet_of_rest (h : m.pwr.inTransit = false) : pwrSet v t m = takePower t (some v) m :=
  (if_neg (not_not_intro ht)).trans (if_neg (by simp [h]))

end Known

section Take
variable {o : Option Via}

theorem takePower_of_refused {st : Status} (h : powerRefused m t = some st) : takePower t o m = answerOpt o st m := by
  simp only [takePower, h]

variable (h : powerRefused m t = none)
include h

theorem takePower_of_off (h4 : m.pwr.st = 4) :
    takePower t o m = if t = 0 then bootLogic (committed m) [] m else m := by
  simp only [takePower, h, if_pos h4]

variable (h4 : m.pwr.st ≠ 4)
include h4

theorem takePower_of_there (h0 : t ≠ 0) (hs : t = m.pwr.st) : takePower t o m = answerOpt o .ok m := by
  simp only [takePower, h, if_neg h4, if_pos (And.intro h0 hs)]

theorem takePower_of_change (hs : t = 0 ∨ t ≠ m.pwr.st) :
    let n := if t = 2 then dozePorts true m else m
    takePower t o m = { n with pwr := { n.pwr with
      inTransit := true, target := t, via := o, restore := if t = 0 ∧ n.pwr.st = 0 then restorable n else [] } } := by
  have hn : ¬(t ≠ 0 ∧ t = m.pwr.st) := fun x => hs.elim x.1 (· x.2)
  simp only [takePower, h, if_neg h4, if_neg hn]

end Take

/-- A command that completes changes nothing of the power controller. -/
theorem pwr_answerOpt (o : Option Via) (st : Status) : (answerOpt o st m).pwr = m.pwr := by
  cases o with
  | none => rfl
  | some v => exact complete_pwr v st 0 .empty m

end PowerState

/-! ### The end of a transition -/

/-- The machine of a transition that has ended, its command answered (R793). -/
def transitAnswered (m : Mach) : Mach :=
  answerOpt m.pwr.via .ok { m with pwr := { m.pwr with inTransit := false, via := none } }

theorem st_transitAnswered : (transitAnswered m).pwr.st = m.pwr.st := by
  rw [transitAnswered, pwr_answerOpt]

theorem transitionDone_of_idle (h : m.pwr.inTransit = false ∨ m.pwr.failing = true) : transitionDone fz m = m := if_pos h

section Transit
variable (ht : m.pwr.inTransit = true) (hf : m.pwr.failing = false)
include ht hf

theorem transitionDone_of_transit {n : Mach} (h : reach fz m.pwr.target (transitAnswered m) = n) :
    transitionDone fz m = takeQueue n.pwr.queue n := by
  subst h
  exact if_neg (by simp [ht, hf])

end Transit

section Reach

theorem reach_run_of_doze (h : m.pwr.st = 2) :
    reach fz 0 m = { wakeDoze fz m with pwr := { (wakeDoze fz m).pwr with st := 0, restore := [] } } := by
  simp only [reach, if_pos h]

theorem reach_run_of_sleep (h : m.pwr.st = 3) :
    reach fz 0 m = { wakeSleep fz m with pwr := { (wakeSleep fz m).pwr with st := 0, restore := [] } } := by
  have h2 : m.pwr.st ≠ 2 := by omega
  simp only [reach, if_neg h2, if_pos h]

theorem reach_run_of_other (h2 : m.pwr.st ≠ 2) (h3 : m.pwr.st ≠ 3) :
    reach fz 0 m = { restoreDies fz m with pwr := { (restoreDies fz m).pwr with st := 0, restore := [] } } := by
  simp only [reach, if_neg h2, if_neg h3]

theorem reach_doze :
    reach fz 2 m = { sleepWells fz true m with pwr := { (sleepWells fz true m).pwr with st := 2 } } := rfl

theorem reach_sleep :
    let n := sleepWells fz true ((List.range 16).foldl (portOff fz 5) m)
    reach fz 3 m = { n with pwr := { n.pwr with st := 3 } } := rfl

theorem reach_off : reach fz 4 m = { losePower none m with pwr := { (losePower none m).pwr with st := 4 } } := rfl

end Reach

/-- Settles O57: PWR_SET by its target and the state in force, the end of a transition by what it reaches, and the
limit. -/
theorem powerCommandsResult : Obligations.PowerCommandsResult := by
  refine ⟨fun s v t hv => ⟨fun h0 h2 h3 h4 => run_plain hv (pwrSet_of_range h0 h2 h3 h4), fun ht => ?set⟩,
    fun s => ⟨fun ht hf => ?done, fun h => congrArg (nextMach s) (transitionDone_of_idle h)⟩,
    fun m t o r => ⟨rfl, rfl⟩, fun s v hv => run_plain (body := pwrStatus v) hv rfl,
    fun s v w hv => run_served (body := pwrLimit v w) hv rfl⟩
  case set =>
    have hrun {n : Mach} (h : s.mach.pwr.inTransit = false) (hn : takePower t (some v) s.mach = n) :
        exec (.pwrSet v t) s = nextMach s n :=
      run_plain hv ((pwrSet_of_rest ht h).trans hn)
    exact ⟨fun h => run_plain hv (pwrSet_of_transit ht h), fun st h hr => hrun h (takePower_of_refused hr),
      fun h hr h4 h0 hs => hrun h (takePower_of_there hr h4 h0 hs),
      fun h hr h4 hs => hrun h (takePower_of_change hr h4 hs), fun h hr h4 => hrun h (takePower_of_off hr h4)⟩
  case done =>
    intro m moved end_ run
    have hm : m = transitAnswered s.mach := rfl
    clear_value m
    subst hm
    have hreach {t : Nat} {n : Mach} (h : s.mach.pwr.target = t) (hn : reach s.fuses t (transitAnswered s.mach) = n) :
        exec .powerTransitionDone s = end_ n :=
      congrArg (nextMach s) (transitionDone_of_transit ht hf (h ▸ hn))
    have hst := st_transitAnswered (m := s.mach)
    exact ⟨fun h h2 => hreach h (reach_run_of_doze (hst.trans h2)),
      fun h h3 => hreach h (reach_run_of_sleep (hst.trans h3)),
      fun h h2 h3 => hreach h (reach_run_of_other (hst ▸ h2) (hst ▸ h3)),
      fun h => hreach h reach_doze, fun h => hreach h reach_sleep, fun h => hreach h reach_off⟩

/-! ### The surge tank and the input (R776 to R785) -/

section Tank

theorem tankReady_of_charging (ht : m.pwr.tank ≠ 2) (hi : m.pwr.inputOk = true) :
    tankReady m = startTest (startCommit { m with pwr := { m.pwr with tank := 1, vtank := 54000 } }) :=
  if_neg (by simp [ht, hi])

theorem startCommit_of_none (h : m.pwr.toStart = false ∨ m.pwr.commit = none) : startCommit m = m := by
  unfold startCommit
  split
  · rfl
  · next c hc => exact if_pos (by simpa [hc] using h)

/-- A commit begins: of firmware, with its record (R762). -/
def commitBegun (c : Commit) (m : Mach) : Mach :=
  let n := { m with pwr := { m.pwr with toStart := false } }
  match c, m.fw.commit with
  | .fw, some (i, _) => beginRecord i n
  | _, _ => n

/-- A commit whose test is done starts where the tank has its energy, and is refused otherwise (R780). -/
theorem startCommit_of_due {c : Commit} (hs : m.pwr.toStart = true) (hc : m.pwr.commit = some c) :
    startCommit m = if c.need ≤ m.pwr.energy then commitBegun c m else endCommit (refuseCommit c m) := by
  unfold startCommit
  rw [hc]
  simp only [hs, reserveOk, Bool.not_true, Bool.false_eq_true, if_false, decide_eq_true_eq]
  rfl

/-- A test that measures a drop gives C and E, and answers those who asked (R778, R779). -/
theorem testDone_of_drop {dv v0 : Nat} (ht : m.pwr.tank = 2) (hd : dv ≠ 0) :
    let e := (v0 * v0 - 900000000) / (2000 * dv)
    let a := bump .pwrHoldupTests iModule { m with pwr := { m.pwr with
      cap := 1000000 / dv, energy := e, testedAt := some (nowNs m), tank := 0, vtank := v0 - dv, selfTest := false
      tests := [], fault := decide (e < 3000) } }
    let n := if e < 3000 then raiseEvt 0x0060 1 iModule e a else a
    testDone dv v0 m = decideCommit (m.pwr.tests.foldl (fun m v =>
      complete v .ok 0 (.bytes (leBytes 8 (pwrHoldup m))) m) n) := by
  have hm : measureTank dv v0 m = (1000000 / dv, (v0 * v0 - 900000000) / (2000 * dv), m) := if_neg hd
  exact (if_neg (not_not_intro ht)).trans (by rw [hm])

end Tank

section Input

/-- What a commit of firmware leaves when the input fails is in its record: the power controller is as it was. -/
theorem pwr_stopCommit : (stopCommit m).pwr = m.pwr := by
  unfold stopCommit; split <;> rfl

theorem parts_stopCommit : (stopCommit m).parts = m.parts := by
  unfold stopCommit; split <;> rfl

theorem clk_stopCommit : (stopCommit m).clk = m.clk := by
  unfold stopCommit; split <;> rfl

/-- Which park commit goes on depends on the power controller and the partitions alone. -/
theorem goingPark_congr {a b : Mach} (hp : a.pwr = b.pwr) (hq : a.parts = b.parts) : goingPark a = goingPark b := by
  have hf : findSess a = findSess b := by
    funext p sid
    unfold findSess sess part
    rw [hq]
  simp only [goingPark, hp, hf]

theorem goingPark_stopCommit : goingPark (stopCommit m) = goingPark m :=
  goingPark_congr pwr_stopCommit parts_stopCommit

theorem nowNs_stopCommit : nowNs (stopCommit m) = nowNs m := by
  simp only [nowNs, clk_stopCommit]

theorem inputFail_of_none (h : goingPark m = none) :
    let n := losePower none (bump .pwrFails iModule (stopCommit m))
    inputFail m = { n with pwr := { n.pwr with
      failed := some (nowNs m, false), inputOk := false, hotSwapOpen := true, tank := 3, st := 4, target := 4
      failing := false } } := by
  simp only [inputFail, goingPark_stopCommit, h, nowNs_stopCommit]

theorem inputFail_of_park {p i : Nat} (h : goingPark m = some (p, i)) :
    let a := bump .pwrFails iModule (stopCommit m)
    let b := losePower (some p) a
    let n := onSess p i (fun _ => { sess a p i with via := none }) { b with pwr := { b.pwr with
      failed := some (nowNs m, false), inputOk := false, hotSwapOpen := true, tank := 3 } }
    inputFail m = { n with pwr := { n.pwr with
      commit := m.pwr.commit, failing := true, inTransit := true, target := 4 } } := by
  simp only [inputFail, goingPark_stopCommit, h, nowNs_stopCommit, pwr_stopCommit]

theorem inputReturn_of_off (hf : m.pwr.failed.isSome = true) (hg : m.pwr.failing = false) :
    inputReturn m = bootLogic (committed m) [] m := by
  refine if_neg ?_
  rintro (h | h)
  · rw [h] at hf; cases hf
  · rw [hg] at h; cases h

theorem inputReturn_of_idle (h : m.pwr.failed = none ∨ m.pwr.failing = true) : inputReturn m = m := if_pos h

theorem tankExhausted_of_failed (hf : m.pwr.failed.isSome = true) :
    let n := loseAlwaysOn (losePower none m)
    tankExhausted m = { n with pwr := { n.pwr with st := 4, target := 4, failing := false } } := by
  obtain ⟨y, hy⟩ := Option.isSome_iff_exists.1 hf
  simp only [tankExhausted, hy]

theorem tankExhausted_of_input (hf : m.pwr.failed = none) : tankExhausted m = m := by
  simp only [tankExhausted, hf]

end Input

/-- Settles O58: the tests and the commit that waits for them, then the failure and the return of the input. -/
theorem tankEventsResult : Obligations.TankEventsResult :=
  ⟨fun _ v hv => run_plain (body := holdupTest v) hv rfl, fun _ => rfl,
    fun s ht hi => congrArg (nextMach s) (tankReady_of_charging ht hi),
    fun _ => ⟨startCommit_of_none, fun _ hs hc => startCommit_of_due hs hc⟩,
    fun s _ _ ht hd => congrArg (nextMach s) (testDone_of_drop ht hd),
    fun s h => congrArg (nextMach s) (inputFail_of_none h), fun s _ _ h => congrArg (nextMach s) (inputFail_of_park h),
    fun _ => rfl,
    fun s hf => ⟨fun hg => congrArg (nextMach s) (inputReturn_of_off hf hg),
      fun hg => congrArg (nextMach s) (inputReturn_of_idle (.inr hg)),
      congrArg (nextMach s) (tankExhausted_of_failed hf)⟩,
    fun s hf => ⟨congrArg (nextMach s) (inputReturn_of_idle (.inl hf)),
      congrArg (nextMach s) (tankExhausted_of_input hf)⟩⟩

/-! ### Limits (R795 to R799) -/

section PowerStep
variable {a b : Nat}

theorem powerStepUpdate_of_above (h : 97 * limitWatts fz m < 10 * a) :
    powerStepUpdate a b fz m = if m.pwr.step < 3 then setPowerStep (m.pwr.step + 1) m else m := if_pos h

theorem powerStepUpdate_of_below (h : 10 * a ≤ 97 * limitWatts fz m) :
    powerStepUpdate a b fz m =
      if 10 * b < 90 * limitWatts fz m ∧ 0 < m.pwr.step then setPowerStep (m.pwr.step - 1) m else m :=
  if_neg (Nat.not_lt.2 h)

end PowerStep

section Thermal
variable {p : Nat}

/-- The machine once the dies under R799 have stretched. -/
def stretchedDies (p : Nat) (m : Mach) : Mach :=
  ((part m p).stretched.filter (fun d => atLeast m d 108)).foldl (fun m d => addStretch d 3333333333 m) m

theorem thermalUpdate_of_hot (h : (part m p).dies.any (fun d => atLeast (stretchedDies p m) d 105) = true) :
    thermalUpdate p m = updateStretch p (if (part m p).thermal < 3 then
      bump .thmThrottle iModule (setThermal p ((part m p).thermal + 1) (stretchedDies p m)) else stretchedDies p m) :=
  congrArg (updateStretch p) (if_pos h)

theorem thermalUpdate_of_cool (h : (part m p).dies.any (fun d => atLeast (stretchedDies p m) d 105) = false) :
    thermalUpdate p m = updateStretch p (
      if ((part m p).dies.all (coolLong (stretchedDies p m)) && decide (0 < (part m p).thermal)) = true then
        setThermal p ((part m p).thermal - 1) (stretchedDies p m) else stretchedDies p m) :=
  congrArg (updateStretch p) (if_neg (Bool.not_eq_true _ ▸ h))

end Thermal

/-- Settles O59: a sample, the power step by its two averages, and the thermal step by the temperatures of its dies. -/
theorem limitEventsResult : Obligations.LimitEventsResult := by
  refine ⟨fun _ _ _ _ _ => rfl, fun s a b => ⟨fun h hn => ?_, fun h hn => ?_, fun h hb hn => ?_, fun h hn => ?_⟩,
    fun s p => ⟨fun h ht => ?_, fun h ht => ?_, fun h hc ht => ?_, fun h hc => ?_⟩⟩
  · exact congrArg (nextMach s) ((powerStepUpdate_of_above h).trans (if_pos hn))
  · exact congrArg (nextMach s) ((powerStepUpdate_of_above h).trans (if_neg (Nat.not_lt.2 hn)))
  · exact congrArg (nextMach s) ((powerStepUpdate_of_below h).trans (if_pos ⟨hb, hn⟩))
  · exact congrArg (nextMach s) ((powerStepUpdate_of_below h).trans (if_neg (by omega)))
  · exact congrArg (nextMach s) ((thermalUpdate_of_hot h).trans (congrArg _ (if_pos ht)))
  · exact congrArg (nextMach s) ((thermalUpdate_of_hot h).trans (congrArg _ (if_neg (Nat.not_lt.2 ht))))
  · exact congrArg (nextMach s) ((thermalUpdate_of_cool h).trans
      (congrArg _ (if_pos (Bool.and_eq_true_iff.2 ⟨hc, decide_eq_true ht⟩))))
  · refine congrArg (nextMach s) ((thermalUpdate_of_cool h).trans (congrArg _ (if_neg fun hx => ?_)))
    obtain ⟨hall, hpos⟩ := Bool.and_eq_true_iff.1 hx
    obtain hc | hc := hc
    · exact Bool.false_ne_true (hc.symm.trans hall)
    · exact absurd (of_decide_eq_true hpos) (by omega)

/-! ### Temperatures, rails and coolant -/

section Sensors
variable {x : Sensor} {t : Int}

theorem thmWarn_of_absent (h : absent fz x = true) : thmWarn x t fz m = m := if_pos h

theorem thmTrip_of_absent (h : absent fz x = true) : thmTrip x t fz m = m := if_pos h

/-- What a reading sets: the refresh rate of a stack (R354), or the throttle of the cistern. -/
def readingSet (x : Sensor) (t : Int) (m : Mach) : Mach :=
  let m := setTemp x.kind x.index t m
  if x.kind = 1 then
    [2 * x.index, 2 * x.index + 1].foldl (fun m w => onWell w (fun h => { h with
      hotNext := if 1360 < t then true else if t < 1328 then false else h.hotNext }) m) m
  else if x.kind = 2 then { m with pwr := { m.pwr with cistern := cisternAt m.pwr.cistern t } }
  else m

/-- A reading of a sensor that the grade has is told where it crosses its threshold. -/
theorem thmWarn_of_present (h : absent fz x = false) {n : Mach} (hn : readingSet x t m = n) :
    thmWarn x t fz m = if warns (tempOf m x.kind x.index) x.kind t = true then
      raiseEvt 0x0063 1 (iSensor x.kind x.index) (twos 16 t) n else n :=
  hn ▸ if_neg (by simp [h])

/-- The machine once a trip is counted and told. -/
def tripTold (x : Sensor) (t : Int) (m : Mach) : Mach :=
  raiseEvt 0x0064 2 (iSensor x.kind x.index) (twos 16 t) (bump .thmTrips iModule (setTemp x.kind x.index t m))

section Trip
variable (h : absent fz x = false)
include h

theorem thmTrip_of_die (hk : x.kind = 0) : thmTrip x t fz m = dieTrip fz x.index x t (tripTold x t m) := by
  refine (if_neg (by simp [h])).trans ?_
  simp only [hk, tripTold]

theorem thmTrip_of_stack (hk : x.kind = 1) : thmTrip x t fz m = dieTrip fz (x.index / 2) x t (tripTold x t m) := by
  refine (if_neg (by simp [h])).trans ?_
  simp only [hk, tripTold]

theorem thmTrip_of_cistern (hk : x.kind = 2) :
    thmTrip x t fz m = { tripTold x t m with pwr := { (tripTold x t m).pwr with cistern := 3 } } := by
  refine (if_neg (by simp [h])).trans ?_
  simp only [hk, tripTold]

theorem thmTrip_of_rail (hk : x.kind = 3) : thmTrip x t fz m = logicOff (tripTold x t m) := by
  refine (if_neg (by simp [h])).trans ?_
  simp only [hk, tripTold]

theorem thmTrip_of_coolant (hk : 4 ≤ x.kind) : thmTrip x t fz m = tripTold x t m := by
  refine (if_neg (by simp [h])).trans ?_
  obtain ⟨n, hn⟩ := Nat.exists_eq_add_of_le' hk
  simp only [hn, tripTold]

end Trip

end Sensors

/-- Settles O60: the readings and trips by the kind of their sensor, the faults of the rails and the coolant. -/
theorem thermalEventsResult : Obligations.ThermalEventsResult := by
  refine ⟨fun s x t h => ⟨congrArg (nextMach s) (thmWarn_of_absent h), congrArg (nextMach s) (thmTrip_of_absent h)⟩,
    fun s x t h => ⟨fun hk => ?stack, fun hk => ?cistern, fun h1 h2 => ?other⟩,
    fun s x t h => ⟨fun hk => congrArg (nextMach s) (thmTrip_of_die h hk),
      fun hk => congrArg (nextMach s) (thmTrip_of_stack h hk),
      fun hk => congrArg (nextMach s) (thmTrip_of_cistern h hk),
      fun hk => congrArg (nextMach s) (thmTrip_of_rail h hk),
      fun hk => congrArg (nextMach s) (thmTrip_of_coolant h hk)⟩,
    fun _ _ => rfl, fun _ _ => rfl, fun _ _ => rfl, fun _ _ => rfl⟩
  case stack => exact congrArg (nextMach s) (thmWarn_of_present h (if_pos hk))
  case cistern =>
    exact congrArg (nextMach s) (thmWarn_of_present h ((if_neg (by omega)).trans (if_pos hk)))
  case other => exact congrArg (nextMach s) (thmWarn_of_present h ((if_neg h1).trans (if_neg h2)))

end Sys2Proof.Machine
end

section
/-! Proofs about the block as a whole: the step, the tick and every command; the settlement of O1 to O3. -/

namespace Sys2Proof.Machine

/-- Settles O1: a step is defined so. -/
theorem stepRunsFrontCommand : Obligations.StepRunsFrontCommand := fun _ _ _ => rfl

/-- The tick of a machine without a commit of firmware under way advances the clocks alone. -/
theorem idle_of_noCommit {m : Mach} (h : m.fw.commit = none) : idle m = passNs 10 m := by
  have ht : (tick m).fw.commit = none := h
  simp only [idle, finishFw, ht]
  exact ite_self _

/-- Settles O2: the tick, and what it is without a commit of firmware. -/
theorem stepIdlesOnEmptyQueue : Obligations.StepIdlesOnEmptyQueue :=
  fun s h => ⟨step_of_empty h, fun hc => (step_of_empty h).trans (congrArg (nextMach s) (idle_of_noCommit hc))⟩

/-- Settles O3: the meaning of each command is a change of what changes, run on the state (`run`). -/
theorem everyCommandCompletes : Obligations.EveryCommandCompletes := by
  intro c s
  cases c <;> exact ⟨_, rfl⟩

/-! ### The machine at reset -/

section Reset

theorem stn_reset (k : Nat) : stn Mach.reset k = {} := rfl

theorem well_reset (k : Nat) : well Mach.reset k = {} := rfl

theorem die_reset (k : Nat) : die Mach.reset k = {} := rfl

theorem win_reset (k : Nat) : win Mach.reset k = {} := rfl

theorem port_reset (k : Nat) : port Mach.reset k = {} := rfl

theorem mport_reset (k : Nat) : mport Mach.reset k = {} := rfl

/-- A partition at reset differs from the default in its dies alone. -/
theorem part_reset (k : Nat) : ∃ l : List Nat, part Mach.reset k = { dies := l } := by
  match k with
  | 0 => exact ⟨[0], rfl⟩
  | 1 => exact ⟨[1], rfl⟩
  | 2 => exact ⟨[2], rfl⟩
  | 3 => exact ⟨[3], rfl⟩
  | _ + 4 => exact ⟨[], rfl⟩

theorem rteOf_reset (t : Option Nat) : rteOf Mach.reset t = {} := by
  cases t with
  | none => rfl
  | some p =>
    obtain ⟨l, hl⟩ := part_reset p
    rw [rteOf, hl]

theorem planOf_reset (p : Nat) : planOf Mach.reset p = none := by
  obtain ⟨l, hl⟩ := part_reset p
  rw [planOf, hl]

theorem classIdx_reset (p n : Nat) : classIdx Mach.reset p n = 0 := by
  simp only [classIdx, varOf, planOf_reset, Option.bind_none]

theorem isHome_reset (p : Nat) : isHome Mach.reset p = false := by
  simp only [isHome, serveOf, planOf_reset, Option.bind_none]

theorem cntNow_reset (e : Nat) : cntNow {} e = 0 := rfl

theorem axNow_reset (e : Nat) : axNow {} e = 0 := rfl

theorem entry_reset (b : Bool) (e : Nat) : Rte.entry {} b e = noRoute := by cases b <;> rfl

/-! The registers whose words take more than the defaults of what they show. -/

theorem qstat_reset (c : Nat) : qstat {} c = 0 := by
  have ho : occAt {} c = 0 := rfl
  simp only [qstat, ho]
  decide

theorem seqVariant_reset (l : List Nat) : seqVariant { dies := l } = 0 := by
  simp only [seqVariant, earliest, List.find?_nil]
  decide

theorem hldState_reset (p : Nat) : hldState Mach.reset p = 0 := by
  obtain ⟨l, hl⟩ := part_reset p
  rw [hldState, hl]

theorem clkCtl_reset (l : List Nat) : clkCtl Mach.reset { dies := l } = 0 := by
  simp only [clkCtl]
  decide

theorem srvStat_reset (p : Nat) : srvStat Mach.reset p = 0 := by
  obtain ⟨l, hl⟩ := part_reset p
  simp only [srvStat, isHome_reset, Bool.false_and, rungNow, hl, List.append_nil, List.find?_nil]
  decide

theorem srvQueue_reset (p : Nat) : srvQueue Mach.reset p = 0 := by
  obtain ⟨l, hl⟩ := part_reset p
  simp only [srvQueue, hl, List.foldl_nil]
  decide

theorem thmState_reset (l : List Nat) : thmState { dies := l } = 0 := by
  simp only [thmState]
  decide

theorem thmTemp_reset (e : Nat) : thmTemp Mach.reset e = 0 := by
  have ht : tget {} Mach.reset.pwr.temps e = {} := rfl
  simp only [thmTemp, ht, Bool.false_eq_true, if_false]
  decide

/-- The Reset values that are not zero. -/
def resetValue (r : Reg) : Nat :=
  match r with
  | .cstShare => 1
  | .lrkCfg => 0x80101000
  | .lrkPool => 0x0200004004000C00
  | .lrkState => 0x0C00000000000000
  | .lrkSeq => 0xFFFFFF000000
  | .rteCtl => 0x100000000000000000000000
  | .clkMoncfg => 0x01000100
  | .mtmCfg => 0x0A00320003E80002
  | .provState => 1
  | .secRot => 0x48
  | .mbxIrq => 1
  | .pwrHoldup => 0x7FF
  | .pwrCfg => 0x7D000000
  | .evtCfg => 0x20400064
  | _ => 0

/-- The word of a register at reset, evaluated once its place no longer matters. -/
theorem regWord_reset (r : Reg) (a : RegAt) (h : r ∉ [Reg.stnRowmap, .seqProfile, .secPart, .mbxBoot]) :
    regWord Fuses.reset Mach.reset r a = resetValue r := by
  obtain ⟨l, hl⟩ := part_reset a.low
  cases r with
  | stnRowmap | seqProfile | secPart | mbxBoot => exact absurd (by decide) h
  | seqQstat => exact qstat_reset _
  | seqVariant => simp only [regWord, hl, seqVariant_reset]; rfl
  | hldState => exact hldState_reset _
  | clkCtl => simp only [regWord, hl, clkCtl_reset]; rfl
  | srvStat => exact srvStat_reset _
  | srvQueue => exact srvQueue_reset _
  | thmState => simp only [regWord, hl, thmState_reset]; rfl
  | thmTemp => exact thmTemp_reset _
  | _ =>
    simp only [regWord, stn_reset, well_reset, die_reset, win_reset, port_reset, mport_reset, rteOf_reset,
      classIdx_reset, cntNow_reset, axNow_reset, entry_reset, tget_nil, List.getElem?_nil, hl]
    decide

/-- Every counter reads as zero at reset. -/
theorem ctr_reset (r : Reg) (i e : Nat) : (ctr Mach.reset r i e).word = 0 := by
  have hc : ctr Mach.reset r i e = {} := rfl
  rw [hc]
  decide

theorem resetValue_of_counts (r : Reg) (h : (regInfo r).counts = true) : resetValue r = 0 := by
  revert h
  cases r <;> decide

theorem regValue_reset (r : Reg) (a : RegAt) (h : r ∉ [Reg.stnRowmap, .seqProfile, .secPart, .mbxBoot]) :
    regValue Fuses.reset Mach.reset r a = resetValue r := by
  cases hc : (regInfo r).counts with
  | true => rw [regValue, if_pos hc, ctr_reset, resetValue_of_counts r hc]
  | false => rw [regValue, hc, if_neg Bool.false_ne_true, regWord_reset r a h]

/-- Settles O4: the parts of the machine at reset, and every register by its table. -/
theorem machineAtReset : Obligations.MachineAtReset :=
  ⟨⟨(rfl : Mach.reset.mem.wf = true), rfl, rfl, rfl, by decide⟩, regValue_reset⟩

end Reset

end Sys2Proof.Machine
end

section
/-! Proofs about the memories (02 R54, 08, 09 R389): what a read gives after a write, and what a scratchpad write of a
station is seen as; the settlement of O6. -/

namespace Sys2Proof.Machine

/-! ### One memory -/

theorem peeks_pokes (c : List Host.Cell) (a : Nat) (l : List Byte) : peeks (pokes c a l) a l.length = l := by
  induction l generalizing c a with
  | nil => rfl
  | cons b r ih =>
    have hb : peek (pokes (poke c a b) (a + 1) r) a = b := by
      rw [peek_pokes_outside _ _ _ _ (.inl (Nat.lt_succ_self a)), peek_poke_same]
    simp only [pokes, List.length_cons, peeks, ih, hb]

/-! ### The slice of a station, its spare beats included -/

section Slice
variable {m : Mach} {k : Nat}

theorem place_lt_or_spare (s : Station) (b : Nat) :
    (s.spMap.idxOf? b = none ∧ s.place b = b) ∨ ∃ i, s.spMap.idxOf? b = some i ∧ s.place b = 32768 + i := by
  unfold Station.place
  cases h : s.spMap.idxOf? b with
  | none => exact .inl ⟨rfl, rfl⟩
  | some i => exact .inr ⟨i, rfl, rfl⟩

/-- Two beats of a slice lie in two places, remapped or not (R389). -/
theorem place_injective (s : Station) {a b : Nat} (ha : a < 32768) (hb : b < 32768) (h : s.place a = s.place b) :
    a = b := by
  obtain ⟨-, hpa⟩ | ⟨i, hi, hpa⟩ := place_lt_or_spare s a <;> obtain ⟨-, hpb⟩ | ⟨j, hj, hpb⟩ := place_lt_or_spare s b
  · omega
  · omega
  · omega
  · obtain rfl : i = j := by omega
    obtain ⟨hia, hga, -⟩ := List.idxOf?_eq_some_iff.1 hi
    obtain ⟨hib, hgb, -⟩ := List.idxOf?_eq_some_iff.1 hj
    rw [← hga, ← hgb]

/-- Bytes of one beat lie one after another. -/
theorem scratchAddr_add {o i : Nat} (h : o % 128 + i < 128) : scratchAddr m k (o + i) = scratchAddr m k o + i := by
  have hd : (o + i) / 128 = o / 128 := by omega
  have hm : (o + i) % 128 = o % 128 + i := by omega
  simp only [scratchAddr, hd, hm]
  omega

theorem scratchAddr_injective {a b : Nat} (ha : a < 2 ^ 22) (hb : b < 2 ^ 22)
    (h : scratchAddr m k a = scratchAddr m k b) : a = b := by
  have hp := place_injective (stn m k) (a := a / 128) (b := b / 128) (by omega) (by omega)
    (by simp only [scratchAddr] at h; omega)
  simp only [scratchAddr, hp] at h
  omega

/-- A byte outside a piece of one beat is as it was. -/
theorem peek_piece_outside {c : List Host.Cell} {off o : Nat} {l : List Byte} (hl : off % 128 + l.length ≤ 128)
    (he : off + l.length ≤ 2 ^ 22) (ho : o < 2 ^ 22) (hout : o < off ∨ off + l.length ≤ o) :
    peek (pokes c (scratchAddr m k off) l) (scratchAddr m k o) = peek c (scratchAddr m k o) := by
  refine peek_pokes_outside _ _ _ _ (Classical.byContradiction fun hin => ?_)
  have hi : scratchAddr m k o = scratchAddr m k (off + (scratchAddr m k o - scratchAddr m k off)) := by
    rw [scratchAddr_add (by omega)]
    omega
  have := scratchAddr_injective ho (by omega) hi
  omega

/-- A byte of a piece of one beat reads as written. -/
theorem peek_piece_inside {c : List Host.Cell} {off o : Nat} {l : List Byte} (hl : off % 128 + l.length ≤ 128)
    (hin : off ≤ o ∧ o < off + l.length) :
    peek (pokes c (scratchAddr m k off) l) (scratchAddr m k o) = l.getD (o - off) 0 := by
  have hlt : o - off < l.length := by omega
  have ho : scratchAddr m k o = scratchAddr m k off + (o - off) := by
    rw [← scratchAddr_add (by omega), Nat.add_sub_cancel' hin.1]
  rw [ho, peek_pokes_inside _ _ _ _ hlt, List.getD_eq_getElem?_getD, List.getElem?_eq_getElem hlt, Option.getD_some]

/-- A write of a slice in the pieces of its beats. -/
theorem peek_pieces {o : Nat} (ho : o < 2 ^ 22) (fuel off : Nat) (l : List Byte) (c : List Host.Cell)
    (hf : l.length ≤ fuel) (he : off + l.length ≤ 2 ^ 22) :
    peek ((beatPieces fuel off l).foldl (fun c y => pokes c (scratchAddr m k y.1) y.2) c) (scratchAddr m k o) =
      if off ≤ o ∧ o < off + l.length then l.getD (o - off) 0 else peek c (scratchAddr m k o) := by
  induction fuel generalizing off l c with
  | zero =>
    obtain rfl : l = [] := List.length_eq_zero_iff.1 (by omega)
    simp only [beatPieces, List.foldl_nil, List.length_nil]
    rw [if_neg (by omega)]
  | succ fuel ih =>
    cases l with
    | nil =>
      simp only [beatPieces, List.foldl_nil, List.length_nil]
      rw [if_neg (by omega)]
    | cons b r =>
      generalize hl : b :: r = l at hf he ⊢
      have hpos : 0 < l.length := by rw [← hl]; exact Nat.succ_pos _
      have hstep : beatPieces (fuel + 1) off l = (off, l.take (128 - off % 128))
          :: beatPieces fuel (off + (128 - off % 128)) (l.drop (128 - off % 128)) := by
        rw [← hl]; rfl
      generalize hn : 128 - off % 128 = n at hstep
      have htake : (l.take n).length = min n l.length := List.length_take
      have hdrop : (l.drop n).length = l.length - n := List.length_drop
      rw [hstep, List.foldl_cons, ih _ _ _ (by omega) (by omega)]
      dsimp only
      by_cases hlate : off + n ≤ o ∧ o < off + n + (l.drop n).length
      · rw [if_pos hlate, if_pos (by omega)]
        simp only [List.getD_eq_getElem?_getD, List.getElem?_drop]
        congr 2
        omega
      · rw [if_neg hlate]
        by_cases hin : off ≤ o ∧ o < off + (l.take n).length
        · rw [peek_piece_inside (by omega) hin, if_pos (by omega)]
          simp only [List.getD_eq_getElem?_getD]
          rw [List.getElem?_take_of_lt (by omega)]
        · rw [peek_piece_outside (by omega) (by omega) ho (by omega), if_neg (by omega)]

theorem peek_pokeScratch {off o : Nat} {l : List Byte} (he : off + l.length ≤ 2 ^ 22) (ho : o < 2 ^ 22) :
    peek (pokeScratch k off l m).mem.scratch (scratchAddr m k o) =
      if off ≤ o ∧ o < off + l.length then l.getD (o - off) 0 else peek m.mem.scratch (scratchAddr m k o) :=
  peek_pieces ho l.length off l m.mem.scratch (Nat.le_refl _) he

end Slice

/-! ### What a read of the scratchpad sees (R54) -/

theorem filter_addLate_of_not (p : LateWrite → Bool) {w : LateWrite} (h : p w = false) (l : List LateWrite) :
    (addLate w l).filter p = l.filter p := by
  induction l with
  | nil => exact List.filter_cons_of_neg (by simp [h])
  | cons x r ih =>
    unfold addLate
    split
    · exact List.filter_cons_of_neg (by simp [h])
    · simp only [List.filter_cons, ih]

/-- A write that no other follows is the last of the list. -/
theorem addLate_of_last {w : LateWrite} {l : List LateWrite} (h : ∀ x ∈ l, x.cycle ≤ w.cycle) :
    addLate w l = l ++ [w] := by
  induction l with
  | nil => rfl
  | cons x r ih =>
    have hx : ¬w.cycle < x.cycle := Nat.not_lt.2 (h x List.mem_cons_self)
    rw [addLate, if_neg hx, ih fun y hy => h y (List.mem_cons_of_mem x hy), List.cons_append]

theorem mem_addLate {w x : LateWrite} {l : List LateWrite} : x ∈ addLate w l ↔ x = w ∨ x ∈ l := by
  induction l with
  | nil => simp [addLate]
  | cons y r ih =>
    unfold addLate
    split
    · exact List.mem_cons
    · rw [List.mem_cons, ih, List.mem_cons, or_left_comm]

/-- Bytes with writes laid over them, as a read of cycle `c` sees them. -/
def laidOver (own : Option Nat) (c off : Nat) (base : List Byte) (l : List LateWrite) : List Byte :=
  (l.filter (seen own c)).foldl (fun b w => overlay b off w) base

theorem readScratch_eq (m : Mach) (key : Nat) (own : Option Nat) (c off n : Nat) :
    readScratch m key own c off n =
      laidOver own c off (peeks m.mem.scratch (scratchAddr m key off) n) (stn m key).late := rfl

section Laid
variable {own : Option Nat} {c off : Nat} {base : List Byte} {w : LateWrite} {l : List LateWrite}

theorem laidOver_addLate_of_unseen (h : seen own c w = false) :
    laidOver own c off base (addLate w l) = laidOver own c off base l := by
  rw [laidOver, filter_addLate_of_not _ h, laidOver]

theorem laidOver_addLate_of_last (h : seen own c w = true) (hl : ∀ x ∈ l, x.cycle ≤ w.cycle) :
    laidOver own c off base (addLate w l) = overlay (laidOver own c off base l) off w := by
  simp only [laidOver, addLate_of_last hl, List.filter_append, List.foldl_append, List.filter_cons_of_pos h,
    List.filter_nil, List.foldl_cons, List.foldl_nil]

/-- What a read sees does not depend on the masks of the writes. -/
theorem laidOver_map {g : LateWrite → LateWrite} (hg : ∀ x, g x = { x with flip := (g x).flip }) :
    laidOver own c off base (l.map g) = laidOver own c off base l := by
  have hs (x : LateWrite) : seen own c (g x) = seen own c x := by rw [hg x]; rfl
  have ho (b : List Byte) (x : LateWrite) : overlay b off (g x) = overlay b off x := by rw [hg x]; rfl
  simp only [laidOver, List.filter_map, List.foldl_map, Function.comp_def, hs, ho]

theorem length_overlay (b : List Byte) (off : Nat) (w : LateWrite) : (overlay b off w).length = b.length := by
  unfold overlay
  dsimp only
  generalize hlo : (if off ≤ w.off then w.off else off) = lo
  generalize hhi : (if off + b.length ≤ w.off + w.bytes.length then off + b.length else w.off + w.bytes.length) = hi
  have hl : off ≤ lo ∧ w.off ≤ lo := by rw [← hlo]; split <;> omega
  have hh : hi ≤ off + b.length ∧ hi ≤ w.off + w.bytes.length := by rw [← hhi]; split <;> omega
  split
  · rfl
  · simp only [List.length_append, List.length_take, List.length_drop]
    omega

theorem length_laidOver : (laidOver own c off base l).length = base.length := by
  unfold laidOver
  exact List.foldlRecOn (motive := fun b : List Byte => b.length = base.length) _ _ rfl
    fun b h x _ => (length_overlay b off x).trans h

/-- A write laid over as many bytes as it has, at its own offset, is what remains. -/
theorem overlay_whole {b : List Byte} (h : b.length = w.bytes.length) : overlay b w.off w = w.bytes := by
  unfold overlay
  simp only [Nat.le_refl, if_true, h]
  split
  · next hle =>
    have h0 : w.bytes.length = 0 := by omega
    rw [List.length_eq_zero_iff.1 (h.trans h0), List.length_eq_zero_iff.1 h0]
  · simp only [Nat.sub_self, List.take_zero, List.drop_zero, List.nil_append, Nat.add_sub_cancel_left]
    rw [List.take_of_length_le (Nat.le_refl _), List.drop_of_length_le (Nat.le_of_eq h), List.append_nil]

end Laid

section Station
variable {m : Mach} {key : Nat} {w : LateWrite}

/-- The mask that a struck write loses (R406). -/
def spared (s : Station) (x : LateWrite) : LateWrite :=
  match s.flip.struck with
  | some y => if x.struckAt y then { x with flip := 0 } else x
  | none => x

theorem spared_eq (s : Station) (x : LateWrite) : spared s x = { x with flip := (spared s x).flip } := by
  unfold spared
  split
  · split <;> rfl
  · rfl

theorem late_writeScratch_of_plain (h : (stn m key).strikes w = false) :
    (stn (writeScratch key w m) key).late = addLate w (stn m key).late := by
  rw [writeScratch, stn_onStn_same, h, if_neg Bool.false_ne_true]

theorem late_writeScratch_of_struck (h : (stn m key).strikes w = true) :
    (stn (writeScratch key w m) key).late =
      addLate { w with flip := (stn m key).flip.mask } ((stn m key).late.map (spared (stn m key))) := by
  rw [writeScratch, stn_onStn_same, h, if_pos rfl]
  rfl

theorem spMap_writeScratch : (stn (writeScratch key w m) key).spMap = (stn m key).spMap := by
  rw [writeScratch, stn_onStn_same]
  split <;> rfl

/-- A write that waits leaves the place of every beat and what the memory holds. -/
theorem peeks_writeScratch (off n : Nat) :
    peeks (writeScratch key w m).mem.scratch (scratchAddr (writeScratch key w m) key off) n =
      peeks m.mem.scratch (scratchAddr m key off) n := by
  have ha : scratchAddr (writeScratch key w m) key off = scratchAddr m key off := by
    unfold scratchAddr Station.place
    rw [spMap_writeScratch]
  rw [ha]
  rfl

/-- A read of the station after a write, by the write that its list then holds. -/
theorem readScratch_writeScratch (own : Option Nat) (c off n : Nat) :
    ∃ (f : BitVec 72) (g : LateWrite → LateWrite), (∀ x, g x = { x with flip := (g x).flip }) ∧
      readScratch (writeScratch key w m) key own c off n =
        laidOver own c off (peeks m.mem.scratch (scratchAddr m key off) n)
          (addLate { w with flip := f } ((stn m key).late.map g)) := by
  cases h : (stn m key).strikes w with
  | true =>
    refine ⟨(stn m key).flip.mask, spared (stn m key), spared_eq _, ?_⟩
    rw [readScratch_eq, late_writeScratch_of_struck h, peeks_writeScratch]
  | false =>
    refine ⟨w.flip, id, fun _ => rfl, ?_⟩
    rw [readScratch_eq, late_writeScratch_of_plain h, peeks_writeScratch, List.map_id]

/-- A read before the cycle from which a write is seen gives the earlier contents. -/
theorem readScratch_writeScratch_before {c off n : Nat} (h : c < w.cycle + w.delay) :
    readScratch (writeScratch key w m) key none c off n = readScratch m key none c off n := by
  obtain ⟨f, g, hg, hr⟩ := readScratch_writeScratch (m := m) (key := key) (w := w) none c off n
  have hs : seen none c { w with flip := f } = false := by simp [seen, Nat.not_le.2 h]
  rw [hr, laidOver_addLate_of_unseen hs, laidOver_map hg, readScratch_eq]

/-- A read from that cycle on gives the bytes written, if no write of a later cycle is there. -/
theorem readScratch_writeScratch_after {c : Nat} (hown : w.own = false) (h : w.cycle + w.delay ≤ c)
    (hl : ∀ x ∈ (stn m key).late, x.cycle ≤ w.cycle) :
    readScratch (writeScratch key w m) key none c w.off w.bytes.length = w.bytes := by
  obtain ⟨f, g, hg, hr⟩ := readScratch_writeScratch (m := m) (key := key) (w := w) none c w.off w.bytes.length
  have hs : seen none c { w with flip := f } = true := by simp [seen, hown, h]
  have hlate : ∀ x ∈ (stn m key).late.map g, x.cycle ≤ w.cycle := by
    intro x hx
    obtain ⟨y, hy, rfl⟩ := List.mem_map.1 hx
    rw [hg y]
    exact hl y hy
  rw [hr, laidOver_addLate_of_last hs hlate]
  exact overlay_whole (w := { w with flip := f }) (by rw [length_laidOver, peeks_length])

end Station

/-! ### Writes of a queue and insole operations -/

theorem delay_of_beatWrites {port beat : Nat} {cycles : List Nat} {l : List Byte} {w : LateWrite}
    (h : w ∈ beatWrites port beat cycles l) : w.delay = 1 ∧ w.cycle ∈ cycles := by
  obtain ⟨⟨y, j⟩, hy, rfl⟩ := List.mem_map.1 h
  exact ⟨rfl, (List.of_mem_zip (List.fst_mem_of_mem_zipIdx hy)).2⟩

section Insole
variable {m : Mach} {key c : Nat}

/-- A station whose flip mask is not armed, whose late writes are among those of `l` or the insole writes of cycle
`c`. -/
def InsoleLate (key c : Nat) (l : List LateWrite) (m : Mach) : Prop :=
  (stn m key).flip.state = 0 ∧ ∀ w ∈ (stn m key).late, w ∈ l ∨ (w.cycle = c ∧ w.delay = 3)

theorem insoleLate_writeScratch {l : List LateWrite} {w : LateWrite} (h : InsoleLate key c l m) (hc : w.cycle = c)
    (hd : w.delay = 3) : InsoleLate key c l (writeScratch key w m) := by
  obtain ⟨hf, hl⟩ := h
  have hs : (stn m key).strikes w = false := by simp [Station.strikes, hf]
  refine ⟨?_, fun x hx => ?_⟩
  · rw [writeScratch, stn_onStn_same, hs, if_neg Bool.false_ne_true]
    exact hf
  · rw [late_writeScratch_of_plain hs, mem_addLate] at hx
    obtain rfl | hx := hx
    · exact .inr ⟨hc, hd⟩
    · exact hl x hx

/-- A correction that is noted leaves the writes of its station alone. -/
theorem insoleLate_noteCorrected {l : List LateWrite} (src : Nat) (at_ : Option Nat) (beat : Nat) (ws : List Nat)
    (h : InsoleLate key c l m) : InsoleLate key c l (noteCorrected key src false at_ beat ws m) := by
  unfold noteCorrected
  split
  · exact h
  · have hr (n : Mach) (b : Nat) : stn (recordWords key b 0 false ws n) key = stn n key := by
      unfold recordWords
      exact List.foldlRecOn (motive := fun k : Mach => stn k key = stn n key) _ _ rfl fun k hk x _ => hk
    unfold InsoleLate
    rw [hr, stn_bumpBy, stn_onStn_same]
    exact h

/-- An insole write adds no write but those of its cycle, seen from the third cycle on (R54, R237). -/
theorem insoleLate_insWrite {l : List LateWrite} {wop port off : Nat} {bytes : List Byte} (hw : wop ≠ 0)
    (h : InsoleLate key c l m) : InsoleLate key c l (insWrite key wop port c false off bytes m).1 := by
  have hflags (n : Mach) (f : Station → Station) (hf : InsoleLate key c l n)
      (he : ∀ s, (f s).late = s.late ∧ (f s).flip = s.flip) : InsoleLate key c l (onStn key f n) := by
    unfold InsoleLate
    rw [stn_onStn_same, (he _).1, (he _).2]
    exact hf
  simp only [insWrite, if_neg hw, Bool.false_eq_true, if_false]
  refine hflags _ _ (List.foldlRecOn (motive := InsoleLate key c l) _ _ (insoleLate_noteCorrected _ _ _ _ h) ?_)
    fun _ => ⟨rfl, rfl⟩
  exact fun n hn y _ => insoleLate_writeScratch hn rfl rfl

end Insole

/-- Settles O6: one memory, the slice in the pieces of its beats, and the reads of a station over its writes. -/
theorem memoryWritesResult : Obligations.MemoryWritesResult :=
  ⟨fun c a l => ⟨peeks_pokes c a l, fun b h => peek_pokes_outside c a b l h⟩,
    fun _ _ _ _ _ he ho => peek_pokeScratch he ho, fun _ _ _ _ => ⟨rfl, rfl⟩, fun _ _ _ => ⟨rfl, rfl, rfl⟩,
    fun _ _ _ _ _ _ h => readScratch_writeScratch_before h,
    fun _ _ _ _ hown h hl => readScratch_writeScratch_after hown h hl,
    fun _ _ _ _ _ h => delay_of_beatWrites h,
    fun _ _ _ _ _ _ _ hw hf => (insoleLate_insWrite hw ⟨hf, fun _ h => .inl h⟩).2⟩

end Sys2Proof.Machine
end

section
/-! What the operations of a step's start and end leave of the partitions: the layer of rules under O17. `Same π` says
that a part `π` of every partition is as before. -/

namespace Sys2Proof.Machine

/-- Every partition shows the same through `π`. -/
def Same {α : Type} (π : Part → α) (m n : Mach) : Prop := ∀ j, π (part n j) = π (part m j)

section Same
variable {α : Type} {π : Part → α} {l m n : Mach}

theorem Same.refl (m : Mach) : Same π m m := fun _ => rfl

theorem Same.trans (h : Same π l m) (k : Same π m n) : Same π l n := fun j => (k j).trans (h j)

theorem Same.of_parts (h : n.parts = m.parts) : Same π m n := fun j => by rw [part, h]; rfl

theorem Same.foldl {β : Type} {f : Mach → β → Mach} (h : ∀ m x, Same π m (f m x)) (xs : List β) (m : Mach) :
    Same π m (xs.foldl f m) :=
  List.foldlRecOn (motive := Same π m) _ _ (Same.refl m) fun n hn x _ => hn.trans (h n x)

theorem Same.onPart {p : Nat} {f : Part → Part} (h : ∀ q, π (f q) = π q) : Same π m (onPart p f m) := by
  intro j
  by_cases hj : j = p
  · rw [hj, part_onPart_same, h]
  · rw [part_onPart_other _ _ hj]

theorem Same.thenPart {p : Nat} {f : Part → Part} (hf : ∀ q, π (f q) = π q) (h : Same π m n) :
    Same π m (Sys2Proof.Machine.onPart p f n) :=
  h.trans (Same.onPart hf)

theorem Same.thenParts (e : n.parts = l.parts) (h : Same π m l) : Same π m n := h.trans (Same.of_parts e)

/-- What is the same through `π` is the same through a part of it. -/
theorem Same.map {β : Type} {φ : Part → β} {g : α → β} (hg : ∀ q, φ q = g (π q)) (h : Same π m n) : Same φ m n := by
  intro j
  rw [hg, hg, h j]

end Same

/-! ### Operations that leave the partitions as they are -/

section Parts
variable {m : Mach}

theorem parts_freePool (o : OutPkt) : (o.freePool m).parts = m.parts := by
  unfold OutPkt.freePool
  split <;> rfl

theorem parts_pump (k : Nat) : (pump k m).parts = m.parts := by
  unfold pump
  dsimp only
  rw [parts_foldl fun n o => parts_freePool (m := n) o]
  rfl

theorem parts_putPort (k : Nat) (o : OutPkt) : (putPort k o m).parts = m.parts := by
  unfold putPort
  dsimp only
  rw [parts_pump]
  split
  · rfl
  · exact bump_parts _ _ _

theorem parts_leave (d : Nat) (t : Option Nat) (o : OutPkt) (y : Nat × Bool) : (leave d t o y m).parts = m.parts := by
  unfold leave noteLate
  dsimp only
  rw [parts_putPort]
  split
  · exact bump_parts _ _ _
  · rfl

theorem parts_hold (d : Nat) (t : Option Nat) (o : OutPkt) : (hold d t o m).parts = m.parts := by
  unfold hold
  split
  · exact parts_freePool (m := m) o
  · rfl

theorem parts_releaseHeld (d : Nat) (x : Held) : (releaseHeld d m x).parts = m.parts := by
  unfold releaseHeld
  split
  · exact parts_leave _ _ _ _
  · exact parts_hold _ _ _

theorem parts_fillHeld (d n : Nat) : (fillHeld d n m).parts = m.parts := by
  induction n generalizing m with
  | zero => rfl
  | succ n ih =>
    unfold fillHeld
    split
    · rfl
    · split
      · rw [ih, parts_freePool]; rfl
      · rfl

theorem parts_reholdAll : (reholdAll m).parts = m.parts := by
  refine parts_foldl (fun m d => ?_) _ _
  unfold rehold refillHeld
  dsimp only
  rw [parts_fillHeld, parts_foldl (f := releaseHeld d) fun n x => parts_releaseHeld (m := n) d x]
  rfl

theorem parts_usePorts (p : Nat) : (usePorts p m).parts = m.parts := by
  refine (parts_reholdAll (m := _)).trans (parts_foldl (fun _ _ => ?_) _ _)
  rfl

theorem parts_sendLocal (k : Nat) (slot : Option (Nat × Nat)) (l : List Byte) : (sendLocal k slot l m).parts = m.parts := by
  unfold sendLocal
  dsimp only
  split
  · exact parts_putPort _ _
  · exact parts_putPort _ _

theorem parts_floodHalt (p : Nat) (but : Option Nat) : (floodHalt p but m).parts = m.parts := by
  refine parts_foldl (fun m c => ?_) _ _
  unfold floodAbort
  split
  · rfl
  · refine parts_foldl (fun m k => ?_) _ _
    unfold sendAbort
    dsimp only
    split
    · rfl
    · exact parts_sendLocal _ _ _

theorem parts_reachNs (t : Nat) : (reachNs t m).parts = m.parts := by
  unfold reachNs
  dsimp only
  split <;> rfl

theorem parts_settleIf (key : Nat) (f : LateWrite → Bool) : (settleIf key f m).parts = m.parts := by
  unfold settleIf
  exact parts_foldl (f := settle1 key) (fun _ _ => rfl) _ _

theorem parts_settleCIf (key : Nat) (f : LateWrite → Bool) : (settleCIf key f m).parts = m.parts := by
  unfold settleCIf
  exact parts_foldl (f := settleC1 key) (fun _ _ => rfl) _ _

theorem parts_settleStn (key : Nat) : (settleStn key m).parts = m.parts :=
  (parts_settleCIf key _).trans (parts_settleIf key _)

theorem parts_fillQueues (dies : List Nat) : (fillQueues dies m).parts = m.parts := by
  unfold fillQueues
  exact parts_foldl (fun m k => parts_foldl (f := fillQueue k) (fun _ _ => rfl) _ _) _ _

theorem parts_redo (fz : Fuses) (key : Nat) (was now : List Reader) : (redo fz key was now m).parts = m.parts := rfl

theorem parts_takeAgain (fz : Fuses) (key n : Nat) (ws wc : List LateWrite) :
    (takeAgain fz key n ws wc m).parts = m.parts := by
  induction n generalizing m ws wc with
  | zero => rfl
  | succ n ih =>
    unfold takeAgain
    dsimp only
    split
    · rfl
    · split
      · rfl
      · rw [ih, parts_redo]

theorem parts_recallFor (fz : Fuses) (key : Nat) (ws wc : List LateWrite) : (recallFor fz key ws wc m).parts = m.parts := by
  unfold recallFor
  split
  · rfl
  · exact parts_takeAgain _ _ _ _ _

theorem parts_loseAccs (fz : Fuses) (key : Nat) (hit : List Acc) : (loseAccs fz key hit m).parts = m.parts := by
  unfold loseAccs
  dsimp only
  split
  · rfl
  · rw [parts_recallFor]
    split <;> rfl

theorem parts_backWrites (stop d key : Nat) : (backWrites stop d key m).parts = m.parts := by
  unfold backWrites
  exact (parts_settleCIf key _).trans (parts_settleIf key _)

theorem parts_switchDue (n d : Nat) : (switchDue n m d).parts = m.parts := rfl

end Parts

/-! ### What a step boundary leaves -/

/-- What says of a partition where its step stands. -/
def stepOf (q : Part) : Bool × Nat × Nat × Nat × Nat × Int :=
  (q.inStep, q.step, q.release, q.startNs, q.late, q.shift)

/-- Where the step stands, and the hold that may keep it from running. -/
def runOf (q : Part) : (Bool × Nat × Nat × Nat × Nat × Int) × Option Hold := (stepOf q, q.hold)

/-- Where the step stands, and what chooses its class and its successor. -/
def coreOf (q : Part) :
    ((Bool × Nat × Nat × Nat × Nat × Int) × Option Hold) × PlanState × Option PlanImage × Nat × Nat × Sec :=
  (runOf q, q.st, q.plan, q.variant, q.varBase, q.sec)

section Core
variable {fz : Fuses} {p : Nat} {m : Mach}

theorem same_onSrv (f : Srv → Srv) : Same coreOf m (onSrv p f m) := Same.onPart fun _ => rfl

theorem same_onWgt (f : Wgt → Wgt) : Same coreOf m (onWgt p f m) := Same.onPart fun _ => rfl

theorem same_onDet (f : Det → Det) : Same coreOf m (onDet p f m) := Same.onPart fun _ => rfl

theorem same_onProv (f : Prov → Prov) : Same coreOf m (onProv p f m) := Same.onPart fun _ => rfl

theorem same_closeBatch : Same coreOf m (closeBatch p m).1 := by
  unfold closeBatch
  dsimp only
  split
  · exact Same.refl m
  · split
    · exact Same.refl m
    · refine Same.thenParts (bump_parts _ _ _) (Same.trans ?_ (same_onProv _))
      split
      · exact Same.of_parts rfl
      · exact Same.of_parts (pokeHost_parts _ _ _)

theorem same_changeClock : Same coreOf m (changeClock p m) := by
  unfold changeClock
  generalize wanted m (part m p) = y
  refine Same.onPart fun q => ?_
  dsimp only
  split <;> split <;> rfl

theorem same_endRotation : Same coreOf m (endRotation fz p m) := by
  unfold endRotation
  split
  · exact Same.thenParts (bump_parts _ _ _) (Same.thenPart (fun _ => rfl) (Same.refl m))
  · exact Same.refl m

theorem parts_dropOld (w : Nat) : (dropOld w m).parts = m.parts := onWell_parts w _ m

theorem same_startReencrypt : Same coreOf m (startReencrypt fz p m) := by
  unfold startReencrypt
  dsimp only
  refine Same.trans (Same.thenParts (parts_foldl (fun _ w => parts_dropOld w) _ _) (Same.thenPart ?_ ?_)) same_endRotation
  · exact fun _ => rfl
  · exact Same.of_parts (parts_foldl (fun m w => onWell_parts w _ m) _ _)

/-- What takes effect between two steps leaves everything but the clock, the keys and the ports. -/
theorem same_boundary : Same coreOf m (boundary fz p m) := by
  unfold boundary
  dsimp only
  refine Same.thenParts (parts_usePorts p) ?_
  split
  · exact same_changeClock.trans same_startReencrypt
  · exact same_changeClock

/-! ### The records of a step -/

theorem same_telemLoses : Same coreOf m (telemLoses p m) := by
  unfold telemLoses
  dsimp only
  split
  · refine Same.trans (Same.of_parts (bump_parts .telemLost (iPart p) m)) ?_
    generalize bump .telemLost (iPart p) m = n
    split <;> split
    · exact Same.thenParts (raiseEvt_parts _ _ _ _ _) (Same.onPart fun _ => rfl)
    · exact Same.refl n
    · exact Same.thenParts (raiseEvt_parts _ _ _ _ _) (Same.onPart fun _ => rfl)
    · exact Same.refl n
  · exact Same.refl m

theorem same_telemRecord : Same coreOf m (telemRecord p m) := by
  unfold telemRecord
  dsimp only
  split
  · exact Same.refl m
  · generalize hl : telemBytes m p = l
    split
    · exact Same.thenParts (pushReport_parts _ _ _) (Same.thenPart (fun _ => rfl)
        (Same.thenParts (pokeHost_parts _ _ _) same_telemLoses))
    · exact Same.thenPart (fun _ => rfl) (Same.thenParts (pokeHost_parts _ _ _) same_telemLoses)

theorem same_createRecord (i : Nat) (l : List Byte) : Same coreOf m (createRecord p i l m) := by
  unfold createRecord
  split
  · exact Same.refl m
  · rename_i c _
    dsimp only
    split
    · exact Same.refl m
    · generalize hn : pokeHost _ _ _ = n
      have hk : Same coreOf m n := by
        rw [← hn]
        refine Same.thenParts (pokeHost_parts _ _ _) ?_
        split
        · exact Same.of_parts (bump_parts _ _ _)
        · exact Same.refl m
      have hs := Same.thenParts (bump_parts .provRecords (iPart p) _)
        (hk.trans (same_onProv (p := p) fun x => { x with batch := insertRecord i l x.batch }))
      split
      · exact hs.trans same_closeBatch
      · exact hs

theorem same_takeIndex : Same coreOf m (takeIndex p m).2 := same_onProv _

theorem same_stepsRecord (n : Nat) : Same coreOf m (stepsRecord fz p n m) := by
  unfold stepsRecord
  dsimp only
  split
  · exact Same.refl m
  · split
    · exact (same_takeIndex.trans (same_onProv _)).trans (same_createRecord _ _)
    · exact Same.refl m

end Core

end Sys2Proof.Machine
end

section
/-! The start and the end of a step (R280, R281, R287, R322; O17): what each operation of STEP_START leaves of the step
that begins, and each of STEP_END of the one that ends. -/

namespace Sys2Proof.Machine

theorem Same.run {m n : Mach} (h : Same coreOf m n) : Same runOf m n := h.map (g := Prod.fst) fun _ => rfl

section Run
variable {fz : Fuses} {p : Nat} {m : Mach}

/-! ### Journal, plans and halts -/

theorem same_writeSealed (b : Nat) (l : List Byte) : Same runOf m (writeSealed p b l m) := by
  unfold writeSealed
  dsimp only
  split
  · exact Same.refl m
  · exact Same.thenPart (fun _ => rfl)
      (Same.thenParts (pokeHost_parts _ _ _) (Same.of_parts (pokeHost_parts _ _ _)))

theorem same_storeSealed (a : Nat) (l : List Byte) : Same runOf m (storeSealed p a l m) :=
  Same.foldl (fun _ b => same_writeSealed b _) _ m

/-- The blocks that a store marks are not part of where the step stands. -/
theorem runOf_dirty (bs : List Nat) {f : Part → Nat → Part} (hf : ∀ q b, runOf (f q b) = runOf q) (q : Part) :
    runOf (bs.foldl f q) = runOf q :=
  List.foldlRecOn (motive := fun x => runOf x = runOf q) _ _ rfl fun x hx b _ => (hf x b).trans hx

theorem same_storeCist (off : Nat) (l : List Byte) : Same runOf m (storeCist p off l m) := by
  unfold storeCist
  dsimp only
  refine Same.thenPart (fun q => (runOf_dirty _ (fun q b => ?_) q : _)) (Same.of_parts (pokeCist_parts _ _ _))
  split <;> rfl

theorem same_writeEntry (d : JDest) (e : JEntry) : Same runOf m (writeEntry p d e m) := by
  unfold writeEntry
  dsimp only
  refine Same.thenParts (bump_parts _ _ _) (Same.trans ?_ (same_onDet _).run)
  split
  · exact same_storeSealed _ _
  · exact same_storeCist _ _

theorem same_stopPlan : Same runOf m (stopPlan p m) := by
  unfold stopPlan
  split
  · split
    · exact Same.onPart fun _ => rfl
    · refine Same.trans ?_ same_closeBatch.run
      exact Same.onPart fun _ => rfl
  · exact Same.refl m

theorem same_journal (e : JEntry) : Same runOf m (journal p e m) := by
  unfold journal
  dsimp only
  split
  · exact Same.refl m
  · split
    · exact Same.refl m
    · split
      · exact same_writeEntry _ _
      · split
        · exact Same.trans (Same.thenParts (raiseEvt_parts _ _ _ _ _) (same_onDet _).run) same_stopPlan
        · exact (same_onDet _).run

theorem same_haltEvent (r : FaultRec) : Same runOf m (haltEvent p r m) := Same.of_parts (raiseWith_parts _ _ _ _ _ _)

/-- What the first halt of a plan does. -/
theorem same_firstHalt (r : FaultRec) (w : Nat) : Same runOf m (onPart p (fun q => if q.sec.phase = 1 then
    { q with sec := { q.sec with phase := 2, fenceEnd := w } } else q)
      (usePorts p (onDet p (fun x => { x with trunc := 0, point := none })
        (closeBatch p (onPart p (fun q => { q with st := .halted, fault := some r }) (haltEvent p r m))).1))) := by
  refine Same.thenPart (fun q => ?_) (Same.thenParts (parts_usePorts p)
    (Same.trans (Same.trans ?_ same_closeBatch.run) (same_onDet _).run))
  · split <;> rfl
  · exact Same.thenPart (fun _ => rfl) (same_haltEvent r)

theorem same_haltPart (h : HaltAt) : Same runOf m (haltPart fz p h m) := by
  unfold haltPart
  dsimp only
  split
  · split
    · exact Same.of_parts (bump_parts _ _ _)
    · split
      · split
        · exact Same.thenParts (parts_floodHalt _ _) (same_firstHalt _ _)
        · exact Same.thenParts (parts_floodHalt _ _) (same_firstHalt _ _)
      · exact Same.refl m
  · split
    · refine Same.trans (Same.of_parts (bump_parts .seqSecondary (iPart p) m)) (Same.thenParts (l := ite _ _ _) rfl ?_)
      split
      · exact Same.onPart fun _ => rfl
      · exact Same.refl _
    · exact Same.of_parts (bump_parts _ _ _)

theorem same_haltStation (d unit pidx : Nat) (q : Queue) (cycle reason sub arg : Nat) (iaddr : Option Nat) :
    Same runOf m (haltStation fz p d unit pidx q cycle reason sub arg iaddr m) := by
  have go : Same runOf m (haltStation.go fz p d unit pidx q cycle reason sub arg iaddr m) := by
    refine Same.trans ?_ (same_haltPart _)
    exact Same.of_parts (onStn_parts _ _ _)
  unfold haltStation
  split
  · split
    · exact Same.refl m
    · exact go
  · exact go

theorem same_fence : Same runOf m (fence fz p m) := by
  unfold fence forceHalt
  dsimp only
  split
  · refine Same.trans ?_ (same_haltPart _)
    exact Same.onPart fun _ => rfl
  · exact Same.refl m

/-! ### The operations between a step's start and its first cycle -/

theorem same_dropManifests : Same runOf m (dropManifests p m) := (same_onSrv _).run

theorem same_routeSwitch : Same runOf m (routeSwitch p m) := by
  unfold routeSwitch flipTable onRte
  dsimp only
  split
  · exact Same.thenParts parts_reholdAll (Same.onPart fun _ => rfl)
  · exact Same.refl m

theorem same_beginDrain : Same runOf m (beginDrain p m) := by
  unfold beginDrain
  dsimp only
  split
  · exact Same.refl m
  · split
    · exact Same.refl m
    · refine Same.trans ?_ (same_onWgt _).run
      split
      · exact Same.refl m
      · exact same_journal _

theorem same_beginOverwrite : Same runOf m (beginOverwrite p m) := (same_onWgt _).run

theorem same_prefillAgain : Same runOf m (prefillAgain p m) := by
  unfold prefillAgain
  dsimp only
  refine Same.trans (Same.foldl (fun m i => (same_onSrv (m := m) _).run) _ _) (Same.foldl (fun m i => ?_) _ _)
  split
  · exact Same.refl m
  · split
    · exact (same_onSrv _).run
    · exact (Same.trans (same_onSrv _) (same_onSrv _)).run

theorem same_answer (v : Via) (st : Status) : Same runOf m (answer v st m) := fun j => by rw [part_answer]

theorem same_resumeSwap (n : Nat) : Same runOf m (resumeSwap p n m) := by
  unfold resumeSwap
  dsimp only
  generalize hk : bump .wgtSwaps (iPart p) (onWgt p _ m) = k
  have hm : Same runOf m k := by
    rw [← hk]
    exact Same.thenParts (bump_parts _ _ _) (same_onWgt _).run
  have hj := hm.trans (same_journal (p := p) { kind := 6, pos := posNow k p, step := stepNow k p
                                               payload := digestBytes (part k p).wgt.digest })
  split <;> split
  · exact (hj.trans same_prefillAgain).trans (same_answer _ _)
  · exact hj.trans (same_answer _ _)
  · exact hj.trans same_prefillAgain
  · exact hj

theorem same_swapPhase : Same runOf m (swapPhase p m) := by
  unfold swapPhase
  dsimp only
  split
  · exact Same.refl m
  · refine Same.trans (same_beginDrain (p := p)) ?_
    generalize beginDrain p m = n
    split
    · split
      · exact same_beginOverwrite
      · exact Same.refl n
    · split
      · exact Same.refl n
      · split
        · split
          · exact same_beginOverwrite
          · exact Same.refl n
        · split
          · exact same_resumeSwap _
          · exact Same.refl n

theorem same_timeRecord : Same runOf m (timeRecord p m) := by
  unfold timeRecord
  dsimp only
  split
  · exact Same.refl m
  · exact Same.thenParts (pokeHost_parts _ _ _) (same_journal _)

theorem same_checkProfile (v : VariantImage) : Same runOf m (checkProfile fz p v m) := by
  unfold checkProfile
  split
  · exact Same.refl m
  · refine Same.trans ?_ (same_haltPart _)
    exact Same.onPart fun _ => rfl

theorem same_takeVariant (v : Nat) : Same runOf m (takeVariant fz p v m) := by
  unfold takeVariant
  dsimp only
  split
  · exact Same.refl m
  · refine Same.trans (Same.thenParts (raiseEvt_parts _ _ _ _ _) (Same.thenParts (bump_parts _ _ _)
      (Same.thenParts (parts_fillQueues _) (Same.thenParts (parts_setTmpls _ _ _)
        (Same.thenParts (parts_setBufs _ _ _) ?_))))) (same_checkProfile _)
    exact Same.onPart fun _ => rfl

theorem same_rungSwitch : Same runOf m (rungSwitch fz p m) := by
  unfold rungSwitch
  dsimp only
  split
  · rename_i f _ _
    generalize hk : (if f.rung = _ then m else bump .srvRungChg (iPart p) m) = k
    have hm : Same runOf m k := by
      rw [← hk]
      split
      · exact Same.refl m
      · exact Same.of_parts (bump_parts _ _ _)
    split
    · split
      · exact hm
      · exact hm.trans (same_takeVariant _)
    · exact hm
  · exact Same.refl m

theorem same_armedSwitch : Same runOf m (armedSwitch fz p m) := by
  unfold armedSwitch
  dsimp only
  split
  · exact Same.refl m
  · refine Same.trans (Same.thenPart ?_ ?_) (same_takeVariant _)
    · exact fun _ => rfl
    · split
      · exact Same.refl m
      · exact same_journal _

theorem same_refreshSets : Same runOf m (refreshSets fz p m) :=
  Same.of_parts (parts_foldl (fun m w => onWell_parts w _ m) _ _)

theorem same_stepMask : Same runOf m (stepMask p m) := by
  unfold stepMask
  dsimp only
  split
  · exact Same.refl m
  · split
    · exact (same_onSrv _).run
    · exact (same_onSrv _).run

theorem same_tellLate : Same runOf m (tellLate p m) := by
  unfold tellLate
  dsimp only
  split
  · exact Same.thenParts (raiseEvt_parts _ _ _ _ _) (Same.onPart fun _ => rfl)
  · exact Same.refl m

/-! ### The holds that a step begins with -/

theorem same_checkBack (d unit stop : Nat) (q : Queue) (was : List Acc) :
    Same runOf m (checkBack fz d unit stop q was m) := by
  unfold checkBack
  dsimp only
  split
  · exact Same.refl m
  · split
    · exact Same.refl m
    · refine Same.trans ?_ (same_haltStation _ _ _ _ _ _ _ _ _)
      exact Same.thenParts (parts_loseAccs _ _ _) (Same.of_parts rfl)

theorem same_endOwn (h : Hold) (d : Nat) : Same runOf m (endOwn fz h d m) := by
  refine Same.foldl (fun m c => ?_) _ m
  split
  · refine Same.trans (Same.thenParts (parts_recallFor _ _ _ _) (Same.thenParts (parts_backWrites _ _ _) ?_))
      (same_checkBack _ _ _ _ _)
    exact Same.of_parts (onStn_parts _ _ _)
  · exact Same.refl m

/-- Every partition but `p` stands where it stood. -/
def Others (p : Nat) (m n : Mach) : Prop := ∀ j, j ≠ p → runOf (part n j) = runOf (part m j)

section Others
variable {l n : Mach}

theorem Others.trans (h : Others p l m) (k : Others p m n) : Others p l n := fun j hj => (k j hj).trans (h j hj)

theorem Same.others (h : Same runOf m n) : Others p m n := fun j _ => h j

theorem Others.onPart (f : Part → Part) : Others p m (onPart p f m) := fun j hj => by rw [part_onPart_other _ _ hj]

end Others

theorem others_countHold (h : Hold) : Others p m (countHold p h m) := by
  unfold countHold
  dsimp only
  refine Others.trans (Same.others (Same.of_parts ?_)) (Others.onPart _)
  rw [bump_parts, bumpBy_parts]
  exact parts_foldl (fun _ _ => bumpBy_parts _ _ _ _ _) _ _

theorem others_resume (h : Hold) : Others p m (resume fz p h m) := by
  unfold resume
  dsimp only
  refine Others.trans (others_countHold h) ?_
  generalize countHold p h m = n
  split
  · exact Others.trans (Same.of_parts (parts_reachNs _)).others (Others.onPart _)
  · exact Others.trans (Others.trans (same_endOwn _ _).others (Others.onPart _)) same_tellLate.others

theorem others_startHold (x : Int) (c : CauseSt) : Others p m (startHold p x c m) := Others.onPart _

theorem others_assertCause (x : Int) (c : CauseSt) : Others p m (assertCause fz p x c m) := by
  unfold assertCause
  split
  · dsimp only
    split
    · exact Others.trans (others_resume _) (others_startHold _ _)
    · exact Others.onPart _
  · exact others_startHold _ _

/-- The step of a partition before its first cycle: it stands as `v` says, and a hold of it still waits for a cause. -/
def Begun (v : Bool × Nat × Nat × Nat × Nat × Int) (q : Part) : Prop :=
  stepOf q = v ∧ ∀ h, q.hold = some h → openCauses h ≠ []

section Begun
variable {v : Bool × Nat × Nat × Nat × Nat × Int}

theorem Begun.congr {q r : Part} (e : runOf r = runOf q) (h : Begun v q) : Begun v r := by
  obtain ⟨es, eh⟩ := Prod.mk.inj e
  exact ⟨es.trans h.1, fun y hy => h.2 y (eh ▸ hy)⟩

theorem openCauses_append (h : Hold) {c : CauseSt} (hc : c.clear = none) :
    openCauses { h with causes := h.causes ++ [c] } ≠ [] := by
  simp [openCauses, List.filter_append, hc]

/-- A cause that is asserted before the step's first cycle has not cleared: the hold begins or grows, and the step
does not go on before it clears. -/
theorem Begun.assertCause {j : Nat} {x : Int} {c : CauseSt} (hc : c.clear = none) (h : Begun v (part m p)) :
    Begun v (part (assertCause fz j x c m) p) := by
  by_cases hp : p = j
  · subst hp
    obtain ⟨hv, ho⟩ := h
    unfold Machine.assertCause
    split
    · rename_i y hy
      dsimp only
      rw [if_neg fun hn => ho y hy hn.1, part_onPart_same]
      refine ⟨hv, fun z hz => ?_⟩
      rw [← Option.some.inj hz]
      exact openCauses_append y hc
    · unfold startHold beginHold
      dsimp only
      rw [part_onPart_same]
      refine ⟨hv, fun z hz => ?_⟩
      rw [← Option.some.inj hz]
      simp [openCauses, hc]
  · exact h.congr (others_assertCause x c p hp)

theorem Begun.oweRefresh (h : Begun v (part m p)) (j : Nat) : Begun v (part (oweRefresh fz j m) p) := by
  refine List.foldlRecOn (motive := fun n => Begun v (part n p)) _ _ h fun n hn w _ => ?_
  unfold refreshCause
  dsimp only
  split
  · exact Begun.assertCause rfl hn
  · exact hn

theorem Begun.awaitManifest (h : Begun v (part m p)) : Begun v (part (awaitManifest fz p m) p) := by
  unfold Machine.awaitManifest
  dsimp only
  split
  · exact h
  · split
    · exact h
    · exact Begun.assertCause rfl h

end Begun

/-! ### STEP_START -/

/-- The new step, before its first cycle. -/
theorem begun_beginStep (hh : (part m p).hold = none) : Begun
    (true, (part m p).step, (part m p).release, nowNs m, nowNs m - (part m p).release, 0) (part (beginStep p m) p) := by
  unfold beginStep
  dsimp only
  rw [part_onPart_same]
  exact ⟨rfl, fun y hy => absurd (hh.symm.trans hy) nofun⟩

theorem same_beforeFence (n : Nat) (dies : List Nat) : Same runOf m (tellLate p (stepMask p (refreshSets fz p
    (armedSwitch fz p (rungSwitch fz p (timeRecord p (swapPhase p
      (dies.foldl (switchDue n) (routeSwitch p m))))))))) := by
  have hr : Same runOf m (dies.foldl (switchDue n) (routeSwitch p m)) :=
    Same.thenParts (parts_foldl (fun _ d => parts_switchDue n d) _ _) same_routeSwitch
  have hs := (hr.trans (same_swapPhase (p := p))).trans (same_timeRecord (p := p))
  have hv := (hs.trans (same_rungSwitch (fz := fz) (p := p))).trans (same_armedSwitch (fz := fz) (p := p))
  exact ((hv.trans same_refreshSets).trans same_stepMask).trans same_tellLate

theorem hold_of_mayStart (h : mayStart m p = true) : (part m p).hold = none := by
  simp only [mayStart, Bool.and_eq_true, Option.isNone_iff_eq_none] at h
  exact h.1.1.2

/-- Where the step of a partition stands once STEP_START has begun it. -/
theorem stepOf_stepStart (h : mayStart m p = true) :
    stepOf (part (stepStart p fz m) p) =
      (true, (part m p).step, (part m p).release, nowNs (boundary fz p (reachNs (part m p).release m)),
        nowNs (boundary fz p (reachNs (part m p).release m)) - (part m p).release, 0) := by
  unfold stepStart
  rw [if_neg (by simp [h])]
  dsimp only
  have hb : Same runOf m (boundary fz p (reachNs (part m p).release m)) :=
    (Same.trans (Same.of_parts (parts_reachNs _)) same_boundary).run
  generalize boundary fz p (reachNs (part m p).release m) = b at hb ⊢
  have hd := (hb.trans (same_dropManifests (p := p))) p
  have hn : nowNs (dropManifests p b) = nowNs b := rfl
  obtain ⟨hs, hh⟩ := Prod.mk.inj hd
  have hg := begun_beginStep (hh.trans (hold_of_mayStart h))
  have hstep : (part (dropManifests p b) p).step = (part m p).step := congrArg (fun v => v.2.1) hs
  have hrelease : (part (dropManifests p b) p).release = (part m p).release := congrArg (fun v => v.2.2.1) hs
  rw [hn, hstep, hrelease] at hg
  generalize beginStep p (dropManifests p b) = c at hg ⊢
  have hf := hg.congr (same_beforeFence (fz := fz) (p := p) (part m p).step (part c p).dies p)
  exact (congrArg Prod.fst (same_fence p)).trans ((hf.oweRefresh p).awaitManifest).1

/-! ### STEP_END -/

theorem parts_restAll : (restAll p m).parts = m.parts := by
  unfold restAll
  dsimp only
  rw [parts_foldl (fun m d => onDie_parts d _ m)]
  exact parts_foldl (fun _ k => parts_settleStn k) _ _

/-- The class of a step depends on the plan of the partition and its variant alone. -/
theorem classOf_congr {n : Mach} (hplan : (part n p).plan = (part m p).plan)
    (hvar : (part n p).variant = (part m p).variant) (hbase : (part n p).varBase = (part m p).varBase) (k : Nat) :
    classOf n p k = classOf m p k := by
  unfold classOf classIdx varOf planOf
  rw [hplan, hvar, hbase]

/-- Where a step stands, and what chooses its class. -/
def classPart (q : Part) : Bool × Nat × Nat × Option PlanImage × Nat × Nat :=
  (q.inStep, q.step, q.release, q.plan, q.variant, q.varBase)

theorem classPart_of_coreOf {q r : Part} (h : coreOf q = coreOf r) : classPart q = classPart r :=
  congrArg (fun y => (y.1.1.1, y.1.1.2.1, y.1.1.2.2.1, y.2.2.1, y.2.2.2.1, y.2.2.2.2.1)) h

theorem planState_of_coreOf {q r : Part} (h : coreOf q = coreOf r) : q.st = r.st ∧ q.sec = r.sec :=
  ⟨congrArg (fun y => y.2.1) h, congrArg (fun y => y.2.2.2.2.2) h⟩

theorem same_endPlan (last : Bool) : Same classPart m (endPlan p last m) := by
  unfold endPlan
  dsimp only
  split
  · split
    · exact Same.onPart fun _ => rfl
    · refine Same.trans ?_ fun j => classPart_of_coreOf (same_closeBatch (p := p) j)
      exact Same.onPart fun _ => rfl
  · exact Same.refl m

/-- A plan that was to stop is STOPPED at the end of its step, but one that a fence stops. -/
theorem endPlan_stops (last : Bool) (hst : (part m p).st = .stopping) (hf : (part m p).sec.phase ≠ 1) :
    (part (endPlan p last m) p).st = .stopped := by
  have hs : ∀ n : Mach, (part (closeBatch p (onPart p (fun q => { q with st := .stopped }) n)).1 p).st = .stopped := by
    intro n
    refine (planState_of_coreOf (same_closeBatch (p := p) p)).1.trans ?_
    rw [part_onPart_same]
  unfold endPlan
  dsimp only
  rw [hst, if_pos (by simp), if_neg hf]
  exact hs m

/-- What the records of a step that has ended leave: the step is no longer in progress. -/
theorem core_stepRecords (n t : Nat) :
    coreOf (part (stepsRecord fz p n (telemRecord p (nextStep p (restAll p (reachNs t m))))) p) =
      coreOf { part m p with inStep := false } := by
  have hr : part (restAll p (reachNs t m)) p = part m p :=
    Same.of_parts (π := id) (parts_restAll.trans (parts_reachNs t)) p
  refine ((same_telemRecord.trans (same_stepsRecord n)) p).trans ?_
  unfold nextStep
  dsimp only
  rw [part_onPart_same, hr]
  rfl

theorem same_endReplay (b : Bool) : Same coreOf m (if b then endReplay p m else m) := by
  split
  · exact same_onDet _
  · exact Same.refl m

/-- STEP_END ends the plan in the state that the records leave, moves the partition to the next step, and lets take
effect what waits for the end of a step. -/
theorem stepEnd_eq (h : mayEnd m p = true) : ∃ (b : Mach) (last : Bool),
    coreOf (part b p) = coreOf { part m p with inStep := false } ∧
      let c := endPlan p last b
      stepEnd p fz m = boundary fz p (onPart p (fun q => { q with
        step := (part m p).step + 1, release := q.release + (classOf c p (part m p).step).t, stepHolds := {} }) c) := by
  have hc := core_stepRecords (fz := fz) (m := m) (p := p) (part m p).step (stepEndNs m p)
  unfold stepEnd
  rw [if_neg (by simp [h])]
  dsimp only
  exact ⟨_, _, (same_endReplay (p := p) (replayEnds _ p) p).trans hc, rfl⟩

theorem stepEnd_moves (h : mayEnd m p = true) :
    let q := part (stepEnd p fz m) p
    q.inStep = false ∧ q.step = (part m p).step + 1 ∧
      q.release = (part m p).release + (classOf m p (part m p).step).t := by
  obtain ⟨b, last, hb, he⟩ := stepEnd_eq (fz := fz) h
  have hk := (same_endPlan (p := p) last p).trans (classPart_of_coreOf hb)
  rw [he]
  generalize endPlan p last b = c at hk ⊢
  obtain ⟨hin, -, hrel, hplan, hvar, hbase⟩ := by simpa only [classPart, Prod.mk.injEq] using hk
  have hn := classPart_of_coreOf (same_boundary (fz := fz) (p := p) (m := onPart p (fun q => { q with
    step := (part m p).step + 1, release := q.release + (classOf c p (part m p).step).t, stepHolds := {} }) c) p)
  simp only [classPart, part_onPart_same, Prod.mk.injEq] at hn
  obtain ⟨bin, bstep, brel, -⟩ := hn
  refine ⟨bin.trans hin, bstep, brel.trans ?_⟩
  rw [hrel, classOf_congr hplan hvar hbase]

theorem stepEnd_stops (h : mayEnd m p = true) (hst : (part m p).st = .stopping) (hf : (part m p).sec.phase ≠ 1) :
    (part (stepEnd p fz m) p).st = .stopped := by
  obtain ⟨b, last, hb, he⟩ := stepEnd_eq (fz := fz) h
  obtain ⟨hs, hx⟩ := planState_of_coreOf hb
  have hk := endPlan_stops (m := b) (p := p) last (hs.trans hst) fun hp => hf ((congrArg Sec.phase hx).symm.trans hp)
  rw [he]
  generalize endPlan p last b = c at hk ⊢
  refine (planState_of_coreOf (same_boundary (fz := fz) (p := p) p)).1.trans ?_
  rw [part_onPart_same]
  exact hk

end Run

/-- Settles O17: STEP_START keeps where the new step stands through all that it does, STEP_END moves it on once, and where
neither may happen nothing changes. -/
theorem stepBoundaryResult : Obligations.StepBoundaryResult := by
  refine ⟨fun s p h => ?start, fun s p h => ?stop, fun s p => ⟨fun h => ?noStart, fun h => ?noStop⟩⟩
  case start =>
    refine ⟨{ s with mach := stepStart p.val s.fuses s.mach }, rfl, rfl, ?_⟩
    have hs := stepOf_stepStart (fz := s.fuses) h
    obtain ⟨hin, hstep, hrel, hns, hlate, hshift⟩ := by simpa only [stepOf, Prod.mk.injEq] using hs
    exact ⟨hin, hstep, hrel, hns, by rw [hlate, hns], hshift⟩
  case stop =>
    obtain ⟨hin, hstep, hrel⟩ := stepEnd_moves (fz := s.fuses) h
    exact ⟨{ s with mach := stepEnd p.val s.fuses s.mach }, rfl, rfl, hin, hstep, hrel, stepEnd_stops h⟩
  case noStart => exact congrArg (nextMach s) (if_pos h)
  case noStop => exact congrArg (nextMach s) (if_pos h)

end Sys2Proof.Machine
end
